-- ==== Sys2Proof/Word.lean ====
section
/-! DEFINITION. The word types of the Tusum 4M: the bit patterns that registers, lines and tags hold (R10, R37, R65, R72, R165). -/

namespace Sys2Proof

/-- A byte of storage. -/
abbrev Byte := BitVec 8
/-- A 32-bit word: one scalar register, or one lane of a vector register. -/
abbrev Word := BitVec 32
/-- A 64-bit value: a register pair, an address or a PC (R65, R221). -/
abbrev DWord := BitVec 64
/-- A vector register: 96 lanes of 32 bits, lane `l` at bits `[32l+31:32l]` (R72, R165). -/
abbrev VReg := BitVec 3072
/-- A scale register: 24 bytes, byte `n` at bits `[8n+7:8n]` (R72). -/
abbrev KReg := BitVec 192
/-- A predicate register or a lane mask: bit `l` for lane `l` (R165). -/
abbrev LaneMask := BitVec 96
/-- The data of one 128-byte line, byte `n` at bits `[8n+7:8n]` (R37). -/
abbrev LineData := BitVec 1024
/-- The scale tag of a line, byte `t` at bits `[8t+7:8t]` (R37). -/
abbrev TagWord := BitVec 64

end Sys2Proof
end

