-- ==== Sys2Proof/Syntax.lean ====
section
/-! DEFINITION. The steps of the Tusum 4M as one inductive type: every instruction of the opcode table with the fields of its
operand-area format (R224, R227), and every event of the table with what the event carries. -/

namespace Sys2Proof

/-- The header fields an instruction may vary (R224); OPC and FMT are the constructor's. -/
structure Hdr where
  la  : BitVec 4 := 0
  gai : BitVec 4 := 0
  gan : BitVec 1 := 0
  gbi : BitVec 4 := 0
  gbn : BitVec 1 := 0
  rnd : BitVec 3 := 0
  ch  : BitVec 2 := 0
deriving DecidableEq, Repr

/-- Operand-area format A (R227). -/
structure FormA where
  hdr : Hdr := {}
  d   : BitVec 10 := 0
  s1  : BitVec 10 := 0
  s2  : BitVec 10 := 0
  s3  : BitVec 10 := 0
  s4  : BitVec 10 := 0
  ty  : BitVec 5 := 0
  sat : BitVec 1 := 0
  aux : BitVec 3 := 0
  sub : BitVec 5 := 0
deriving DecidableEq, Repr

/-- Operand-area format I (R227); `z` is the bit marked zero. -/
structure FormI where
  hdr : Hdr := {}
  d   : BitVec 10 := 0
  s1  : BitVec 10 := 0
  imm : BitVec 32 := 0
  ty  : BitVec 5 := 0
  sat : BitVec 1 := 0
  z   : BitVec 1 := 0
  sub : BitVec 5 := 0
deriving DecidableEq, Repr

/-- Operand-area format M (R227); `z` is the bit marked zero. -/
structure FormM where
  hdr   : Hdr := {}
  d     : BitVec 10 := 0
  a     : BitVec 10 := 0
  s     : BitVec 10 := 0
  off   : BitVec 20 := 0
  ty    : BitVec 5 := 0
  scope : BitVec 3 := 0
  ord   : BitVec 2 := 0
  space : BitVec 2 := 0
  promo : BitVec 1 := 0
  z     : BitVec 1 := 0
deriving DecidableEq, Repr

/-- Operand-area format B (R227); `z` is the field marked zero. -/
structure FormB where
  hdr   : Hdr := {}
  c     : BitVec 10 := 0
  off   : BitVec 32 := 0
  bmode : BitVec 2 := 0
  z     : BitVec 20 := 0
deriving DecidableEq, Repr

/-- Operand-area format X (R227). -/
structure FormX where
  hdr : Hdr := {}
  d   : BitVec 10 := 0
  s1  : BitVec 10 := 0
  s2  : BitVec 10 := 0
  s3  : BitVec 10 := 0
  s4  : BitVec 10 := 0
  xf  : BitVec 14 := 0
deriving DecidableEq, Repr

/-- Names one hood: the device-wide core (144 × die + core on the die), the warp slot and the hood's key (R175, R187). -/
structure HoodRef where
  core : Nat
  slot : Nat
  hood : Nat
deriving DecidableEq, Repr

/-- Who makes a register write (R453, R454): a master (1 host, 2 BMC, 3 fabric manager), or a store by a warp of a context. -/
inductive Writer
  | master (m : Nat)
  | warpOf (ctx : Nat)
deriving DecidableEq, Repr

/-- What the register scrub finds (R58): the word's place and whether the error is correctable. -/
inductive RegisterError
  | corrected
  | uncorrectable (slot : Nat)
  | unallocated
deriving DecidableEq, Repr

/-- A Coesk request as its header names it (R146): requester agent, transaction, line (PA / 128), context and VA[56:16]; the
cluster of the requester die that it is for, to which a Redirect goes back (R111); and the depth that its write gives to triggers (R214). -/
structure CoeskReq where
  src  : Nat
  txn  : Nat
  line : Nat
  ctx  : Nat := 0
  vpn  : Nat := 0
  cluster : Nat := 0
  depth : Nat := 1
deriving DecidableEq, Repr

/-- A forward or invalidation: the caching die it goes to, the requester and its transaction, and the line (R147). -/
structure CoeskSnoop where
  die  : Nat
  req  : Nat
  txn  : Nat
  line : Nat
deriving DecidableEq, Repr

/-- GRANT of an Ack or Data (R147). -/
inductive Grant
  | none | s | e | wt
deriving DecidableEq, Repr

/-- Ack or Data: the die it goes to, the transaction, the line, the grant, the KEEP flag (Ack) and POISON (Data) (R147). -/
structure CoeskResp where
  die    : Nat
  src    : Nat
  txn    : Nat
  line   : Nat
  grant  : Grant := .none
  keep   : Bool := false
  poison : Bool := false
deriving DecidableEq, Repr

/-- The atomic that an AtomHome or a UALink atomic carries: operation (R330), width in bytes, byte within the line, operands. -/
structure AtomicReq where
  op     : Nat
  width  : Nat
  signed : Bool := false
  offset : Nat
  v1     : DWord
  v2     : DWord := 0
deriving DecidableEq, Repr

/-- What a relayed request asks of the new home (R111). -/
inductive RelayKind
  | read
  | write (data : LineData) (mask : BitVec 128)
  | atomic (op : AtomicReq)
deriving DecidableEq, Repr

/-- A Redirect (R111): the cluster and page it is for, the frames and the generation. -/
structure RedirectMsg where
  cluster  : Nat
  ctx      : Nat
  vpn      : Nat
  oldFrame : Nat
  newFrame : Nat
  gen      : Nat
deriving DecidableEq, Repr

/-- A Cfg message (R145, R161, R163). -/
inductive CfgMsg
  | credits (link vc count : Nat)
  | topology (die : Nat)
  | acknowledge (die : Nat)
  | config (die : Nat)
deriving DecidableEq, Repr

/-- A DISCOVER record (R161). -/
structure DiscoverRec where
  cls      : Nat
  ports    : Nat
  caps     : BitVec 32
  ident    : DWord
  capacity : Nat := 0
deriving DecidableEq, Repr

/-- The registers of the device MMIO set that have no event of their own, by the name and place of R452. -/
inductive MmioReg
  | bootstat | owner | claim | tbcfg | podcfg | discovery | generation
  | l2cfg (die : Nat) | trainmod (die : Nat) | station (st : Nat) | topology (die word : Nat) | stub (die idx word : Nat)
  | ctxDesc (slot word : Nat) | preempt (slot : Nat) | faultResponse (slot : Nat) | eventSet (slot word : Nat)
  | eventClear (slot word : Nat) | queueTable (slot idx : Nat) | trchdr (slot : Nat) | trccfg (slot : Nat) | deadPeer (word : Nat)
deriving DecidableEq, Repr

/-- A request arriving over UALink (R430): the pod offset, at most 128 bytes within one line. -/
inductive UalinkReq
  | read (src off len : Nat)
  | write (src off : Nat) (data : LineData) (be : BitVec 128)
  | atomic (src off : Nat) (op : AtomicReq)
deriving DecidableEq, Repr

/-- The answer to a pod read or atomic (R30, R427, R430). -/
inductive PodResp
  | data (d : LineData)
  | poisoned
  | error
deriving DecidableEq, Repr

/-- What a trimmed header concerns (R431): a request to this device, its own write, or a read response due to it. -/
inductive TrimKind
  | asTarget (src : Nat)
  | ownWrite (txn : Nat)
  | readResponse (txn : Nat)
deriving DecidableEq, Repr

/-- A firmware image (R458): the stage index, image length and security version of its header, which of the four fused digests its public key
hashes to, if any, whether its Falcon-1024 signature over image and header verifies, and its SHAKE256 digest. -/
structure FirmwareImage where
  stage       : Nat
  length      : Nat := 0
  version     : Nat := 0
  key         : Option Nat := some 0
  signatureOk : Bool := true
  digest      : BitVec 256 := 0
deriving DecidableEq, Repr

/-- What the outside world supplies to bring-up (R460): the firmware images of the stages, trained modules of each die's bundles
(hub, lower and higher neighbour), the DISCOVER record of each hub port, stations trained, the claims of the election, and the base of the HDM
decoder that the host configures, in units of 256 MiB (R449, log entry 70). -/
structure BringUp where
  stages      : List FirmwareImage := [{ stage := 1 }, { stage := 2 }, { stage := 3 }, { stage := 4 }]
  trained     : List (Nat × Nat × Nat) := [(4, 12, 12), (4, 12, 12), (4, 12, 12), (4, 12, 12)]
  discover    : List (Option DiscoverRec) := []
  cxlTrained  : Bool := true
  stations    : List Nat := List.range 20
  hbmOk       : Bool := true
  election    : List (Nat × Nat) := []
  decoder     : Nat := 0
deriving DecidableEq, Repr

/-- A signed command raising revocation or minimum versions (R458). -/
structure RevocationCmd where
  master      : Nat
  signatureOk : Bool
  revoke      : BitVec 4
  minVersion  : List Nat
deriving DecidableEq, Repr

/-- Every row of the table of operations and events, one constructor each. -/
inductive Instr
  /-- NOP (R261). Does nothing; ignores every field except OPC and FMT. -/
  | nop (f : FormA)
  /-- EXIT (R185). Ends each dormant or active slice of the hood; the last slice ends the warp, and the last warp ends the block. -/
  | exit (f : FormA)
  /-- BRA (R262). Conditional branch by BMODE over a q register, splitting the hood into taken and not-taken hoods. -/
  | bra (f : FormB)
  /-- BRX (R263). Indirect branch to a target in an sd or vd pair, taken by every slice with an active lane. -/
  | brx (f : FormB)
  /-- CALL (R262). Conditional branch that also writes the return PC into sd122 when any slice takes it. -/
  | call (f : FormB)
  /-- RET (R263). Branches to the PC held in sd122, as BRX sd122. -/
  | ret (f : FormA)
  /-- FELT (R181). The slice waits with a tag; when every live slice waits with that tag, they rejoin as one hood. -/
  | felt (f : FormI)
  /-- YIELD (R266). Makes the hood ineligible until every other eligible hood of the pipe has issued once. -/
  | yield (f : FormA)
  /-- PHASE (R272). Gang-collective end of a phase that writes the carry set as a phase record to a target stage queue. -/
  | phase (f : FormX)
  /-- SLEEP (R267). Makes the hood ineligible for IMM32 plus S1 cycles. -/
  | sleep (f : FormI)
  /-- SLEEP_EXPIRY (R267). The sleep count runs out, and the hood becomes eligible again. -/
  | sleepExpiry (h : HoodRef)
  /-- BAR (R268). Block barrier: the warp arrives, and all participants depart when the last one arrives. -/
  | bar (f : FormI)
  /-- BARH (R268). Gang barrier across every warp of every block of the gang. -/
  | barh (f : FormI)
  /-- TRAP (R394). Raises TRAP_USER with the code as subcode and enters handler mode. -/
  | trap (f : FormI)
  /-- BKPT (R394). Raises BREAKPOINT and enters handler mode, resuming at the BKPT itself. -/
  | bkpt (f : FormI)
  /-- TRET (R395). Leaves handler mode: waits for earlier accesses, reloads the warp frame and clears %handler. -/
  | tret (f : FormA)
  /-- SRGET (R391). Reads a special register into a scalar or vector destination. -/
  | srget (f : FormI)
  /-- SRSET (R392). Writes a writable special register, including the clearing of dead-peer bits in the system context. -/
  | srset (f : FormI)
  /-- MIGR (R401). Privileged request to migrate one page to a destination frame, returning a status. -/
  | migr (f : FormA)
  /-- MIGR_SWAP (R115). Privileged request to exchange the contents of two pages of the same size. -/
  | migrSwap (f : FormA)
  /-- TRACE (R399). Emits a USER trace record with a payload taken from a register. -/
  | trace (f : FormA)
  /-- TRACE_IMM (R399). Emits a USER trace record with an immediate payload. -/
  | traceImm (f : FormI)
  /-- TRCTL_SET (R400). Writes the context's trace type mask and returns the old mask. -/
  | trctlSet (f : FormA)
  /-- TRCTL_FLUSH (R400). Completes when every record the warp has emitted has reached the buffer or been dropped. -/
  | trctlFlush (f : FormA)
  /-- EVSET (R397). Sets or clears an event bit named by a register, as an atomic at the hub, optionally returning the old value. -/
  | evset (f : FormA)
  /-- EVSET_IMM (R397). Sets or clears an event bit named by an immediate. -/
  | evsetImm (f : FormI)
  /-- EVWAIT (R398). Waits until an event bit named by a register holds the awaited value. -/
  | evwait (f : FormA)
  /-- EVWAIT_IMM (R398). Waits until an event bit named by an immediate holds the awaited value. -/
  | evwaitImm (f : FormI)
  /-- EVWAIT_RETURN (R398). The awaited value stands at the hub, and the EVWAIT returns with an acquire at .dev. -/
  | evwaitReturn (h : HoodRef)
  /-- SMOV (R250). Copies a scalar register or pair. -/
  | smov (f : FormA)
  /-- SMOVI (R250). Writes an immediate, or with .pc a branch-target PC, into a scalar register or pair. -/
  | smovi (f : FormI)
  /-- SMOVIH (R250). Writes IMM32 into the high register of a pair. -/
  | smovih (f : FormI)
  /-- SADD (R251). Scalar add of two registers, wrapping or saturating. -/
  | sadd (f : FormA)
  /-- SADD_IMM (R251). Scalar add with an immediate. -/
  | saddImm (f : FormI)
  /-- SSUB (R251). Scalar subtract of two registers. -/
  | ssub (f : FormA)
  /-- SSUB_IMM (R251). Scalar subtract of an immediate. -/
  | ssubImm (f : FormI)
  /-- SMUL (R251). Scalar multiply of two registers, low half. -/
  | smul (f : FormA)
  /-- SMUL_IMM (R251). Scalar multiply by an immediate. -/
  | smulImm (f : FormI)
  /-- SMULH (R251). Scalar multiply of two registers, high half. -/
  | smulh (f : FormA)
  /-- SMULH_IMM (R251). Scalar multiply-high by an immediate. -/
  | smulhImm (f : FormI)
  /-- SMAD (R251). Scalar multiply-add with one wrap or clamp at the end. -/
  | smad (f : FormA)
  /-- SDIV (R252). Scalar divide of two registers, truncating, with defined results for zero and overflow. -/
  | sdiv (f : FormA)
  /-- SDIV_IMM (R252). Scalar divide by an immediate. -/
  | sdivImm (f : FormI)
  /-- SREM (R252). Scalar remainder of two registers, with the sign of the dividend. -/
  | srem (f : FormA)
  /-- SREM_IMM (R252). Scalar remainder by an immediate. -/
  | sremImm (f : FormI)
  /-- SAND (R253). Scalar bitwise AND of two registers. -/
  | sand (f : FormA)
  /-- SAND_IMM (R253). Scalar bitwise AND with an immediate. -/
  | sandImm (f : FormI)
  /-- SOR (R253). Scalar bitwise OR of two registers. -/
  | sor (f : FormA)
  /-- SOR_IMM (R253). Scalar bitwise OR with an immediate. -/
  | sorImm (f : FormI)
  /-- SXOR (R253). Scalar bitwise XOR of two registers. -/
  | sxor (f : FormA)
  /-- SXOR_IMM (R253). Scalar bitwise XOR with an immediate. -/
  | sxorImm (f : FormI)
  /-- SSHL (R253). Scalar shift left by a register amount. -/
  | sshl (f : FormA)
  /-- SSHL_IMM (R253). Scalar shift left by an immediate amount. -/
  | sshlImm (f : FormI)
  /-- SSHR (R253). Scalar logical shift right by a register amount. -/
  | sshr (f : FormA)
  /-- SSHR_IMM (R253). Scalar logical shift right by an immediate amount. -/
  | sshrImm (f : FormI)
  /-- SSRA (R253). Scalar arithmetic shift right by a register amount. -/
  | ssra (f : FormA)
  /-- SSRA_IMM (R253). Scalar arithmetic shift right by an immediate amount. -/
  | ssraImm (f : FormI)
  /-- SMIN (R251). Scalar minimum of two registers. -/
  | smin (f : FormA)
  /-- SMIN_IMM (R251). Scalar minimum with an immediate. -/
  | sminImm (f : FormI)
  /-- SMAX (R251). Scalar maximum of two registers. -/
  | smax (f : FormA)
  /-- SMAX_IMM (R251). Scalar maximum with an immediate. -/
  | smaxImm (f : FormI)
  /-- SCMP (R254). Scalar compare of two registers into a scalar or q destination. -/
  | scmp (f : FormA)
  /-- SCMP_IMM (R254). Scalar compare with an immediate. -/
  | scmpImm (f : FormI)
  /-- SSEL (R255). Selects S1 or S2 by a 32-bit condition. -/
  | ssel (f : FormA)
  /-- SCLZ (R255). Counts leading zero bits. -/
  | sclz (f : FormA)
  /-- SPOPC (R255). Counts one bits. -/
  | spopc (f : FormA)
  /-- SBFE (R256). Extracts a bit field at a register position and width. -/
  | sbfe (f : FormA)
  /-- SBFE_IMM (R256). Extracts a bit field with position and width from IMM32. -/
  | sbfeImm (f : FormI)
  /-- SBFI (R256). Inserts a bit field. -/
  | sbfi (f : FormA)
  /-- SLEA (R257). Adds a shifted, extended index to a 64-bit base. -/
  | slea (f : FormA)
  /-- SCVT (R258). Scalar conversion between integer and float types. -/
  | scvt (f : FormA)
  /-- VMOV (R280). Copies a value into each active lane. -/
  | vmov (f : FormA)
  /-- VMOVI (R280). Writes an immediate into each active lane. -/
  | vmovi (f : FormI)
  /-- VBCST (R280). Broadcasts lane c of a v register to the active lanes. -/
  | vbcst (f : FormA)
  /-- VIDX (R280). Writes S1 + lane × S2 into each active lane. -/
  | vidx (f : FormA)
  /-- VADD (R279). Vector add. -/
  | vadd (f : FormA)
  /-- VADD_IMM (R279). Vector add with an immediate. -/
  | vaddImm (f : FormI)
  /-- VSUB (R279). Vector subtract. -/
  | vsub (f : FormA)
  /-- VSUB_IMM (R279). Vector subtract of an immediate. -/
  | vsubImm (f : FormI)
  /-- VMUL (R279). Vector multiply, low half. -/
  | vmul (f : FormA)
  /-- VMUL_IMM (R279). Vector multiply by an immediate. -/
  | vmulImm (f : FormI)
  /-- VMULH (R279). Vector multiply, high half. -/
  | vmulh (f : FormA)
  /-- VMULH_IMM (R279). Vector multiply-high by an immediate. -/
  | vmulhImm (f : FormI)
  /-- VMAD (R279). Vector multiply-add. -/
  | vmad (f : FormA)
  /-- VAND (R279). Vector bitwise AND. -/
  | vand (f : FormA)
  /-- VAND_IMM (R279). Vector bitwise AND with an immediate. -/
  | vandImm (f : FormI)
  /-- VOR (R279). Vector bitwise OR. -/
  | vor (f : FormA)
  /-- VOR_IMM (R279). Vector bitwise OR with an immediate. -/
  | vorImm (f : FormI)
  /-- VXOR (R279). Vector bitwise XOR. -/
  | vxor (f : FormA)
  /-- VXOR_IMM (R279). Vector bitwise XOR with an immediate. -/
  | vxorImm (f : FormI)
  /-- VSHL (R279). Vector shift left by a per-element amount. -/
  | vshl (f : FormA)
  /-- VSHL_IMM (R279). Vector shift left by an immediate amount. -/
  | vshlImm (f : FormI)
  /-- VSHR (R279). Vector logical shift right. -/
  | vshr (f : FormA)
  /-- VSHR_IMM (R279). Vector logical shift right by an immediate amount. -/
  | vshrImm (f : FormI)
  /-- VSRA (R279). Vector arithmetic shift right. -/
  | vsra (f : FormA)
  /-- VSRA_IMM (R279). Vector arithmetic shift right by an immediate amount. -/
  | vsraImm (f : FormI)
  /-- VMIN (R279). Vector minimum. -/
  | vmin (f : FormA)
  /-- VMIN_IMM (R279). Vector minimum with an immediate. -/
  | vminImm (f : FormI)
  /-- VMAX (R279). Vector maximum. -/
  | vmax (f : FormA)
  /-- VMAX_IMM (R279). Vector maximum with an immediate. -/
  | vmaxImm (f : FormI)
  /-- VABS (R279). Vector absolute value, optionally saturating. -/
  | vabs (f : FormA)
  /-- VCMP (R281). Vector integer compare into the q bits of the active lanes. -/
  | vcmp (f : FormA)
  /-- VCMP_IMM (R281). Vector integer compare with an immediate. -/
  | vcmpImm (f : FormI)
  /-- VSEL (R281). Selects S1 or S2 per lane by a q register. -/
  | vsel (f : FormA)
  /-- VCLZ (R279). Vector count of leading zeros. -/
  | vclz (f : FormA)
  /-- VPOPC (R279). Vector population count. -/
  | vpopc (f : FormA)
  /-- VBFE (R279). Vector bit-field extract at register positions and widths. -/
  | vbfe (f : FormA)
  /-- VBFE_IMM (R279). Vector bit-field extract with an immediate position and width. -/
  | vbfeImm (f : FormI)
  /-- VBFI (R279). Vector bit-field insert. -/
  | vbfi (f : FormA)
  /-- VDOT4 (R282). Byte dot product accumulated into 32 bits. -/
  | vdot4 (f : FormA)
  /-- PHILOX (R283). Computes Philox4x32-10 in each active lane. -/
  | philox (f : FormA)
  /-- FADD (R285). Float add, rounded once. -/
  | fadd (f : FormA)
  /-- FSUB (R285). Float subtract. -/
  | fsub (f : FormA)
  /-- FMUL (R285). Float multiply. -/
  | fmul (f : FormA)
  /-- FFMA (R285). Fused multiply-add with a single rounding. -/
  | ffma (f : FormA)
  /-- FMIN (R286). Float minimum, with NaN passed over. -/
  | fmin (f : FormA)
  /-- FMAX (R286). Float maximum, with NaN passed over. -/
  | fmax (f : FormA)
  /-- FCMP (R286). Float compare into the q bits of the active lanes. -/
  | fcmp (f : FormA)
  /-- FCLASS (R286). Writes a class mask for each element. -/
  | fclass (f : FormA)
  /-- FRCP (R287). Reciprocal, as a fixed SFU result. -/
  | frcp (f : FormA)
  /-- FRSQ (R287). Reciprocal square root, as a fixed SFU result. -/
  | frsq (f : FormA)
  /-- FSQRT (R287). Square root, as a fixed SFU result. -/
  | fsqrt (f : FormA)
  /-- FDIV (R285). Float divide, correctly rounded. -/
  | fdiv (f : FormA)
  /-- FEXP2 (R287). Base-2 exponential, as a fixed SFU result. -/
  | fexp2 (f : FormA)
  /-- FLOG2 (R287). Base-2 logarithm, as a fixed SFU result. -/
  | flog2 (f : FormA)
  /-- FSIN (R287). Sine, as a fixed SFU result. -/
  | fsin (f : FormA)
  /-- FCOS (R287). Cosine, as a fixed SFU result. -/
  | fcos (f : FormA)
  /-- FTANH (R287). Hyperbolic tangent, as a fixed SFU result. -/
  | ftanh (f : FormA)
  /-- FCVT (R288). Converts between the supported pairs of float, integer and E8M0 types. -/
  | fcvt (f : FormA)
  /-- FRINT (R289). Rounds each element to an integral value. -/
  | frint (f : FormA)
  /-- FSCALE (R289). Multiplies by 2^e exactly, rounding only outside the normal range. -/
  | fscale (f : FormA)
  /-- FSMXU (R290). Updates an online-softmax pair (m, s) with a new value. -/
  | fsmxu (f : FormA)
  /-- FSMXF (R290). Forms a softmax output from x and an (m, s) pair. -/
  | fsmxf (f : FormA)
  /-- VSHFL (R292). Shuffles values across the active lanes by IDX, UP, DOWN or XOR. -/
  | vshfl (f : FormA)
  /-- VRED (R293). Reduces the active set into a scalar or vector destination. -/
  | vred (f : FormA)
  /-- VSCAN (R294). Writes an inclusive or exclusive prefix over the active lanes. -/
  | vscan (f : FormA)
  /-- VVOTE (R295). Votes over the q bits of the active set. -/
  | vvote (f : FormA)
  /-- VCMPR (R296). Compresses the selected lanes into the lowest active lanes. -/
  | vcmpr (f : FormA)
  /-- KMOV (R302). Copies the bytes of a k register. -/
  | kmov (f : FormA)
  /-- KGET (R303). Reads a byte, tag or vector of a k register, with the index in a register. -/
  | kget (f : FormA)
  /-- KGET_IMM (R303). Reads a byte or tag of a k register, with an immediate index. -/
  | kgetImm (f : FormI)
  /-- KSET (R304). Writes a byte, tag or vector into a k register, with the index in a register. -/
  | kset (f : FormA)
  /-- KSET_IMM (R304). Writes a byte or tag of a k register, with an immediate index. -/
  | ksetImm (f : FormI)
  /-- KFILL (R305). Sets every scale byte of the format to a register value. -/
  | kfill (f : FormA)
  /-- KFILL_IMM (R305). Sets every scale byte of the format to an immediate. -/
  | kfillImm (f : FormI)
  /-- KADD (R306). Shifts scales by a register value, clamping with MXSAT. -/
  | kadd (f : FormA)
  /-- KADD_IMM (R306). Shifts scales by an immediate. -/
  | kaddImm (f : FormI)
  /-- VQNT_LANE (R313). Quantises FP32 lanes into MX elements and scales in natural packing. -/
  | vqntLane (f : FormX)
  /-- VQNT_ROW (R314). Warp-collective quantisation of register rows into MMA A-operand blocks. -/
  | vqntRow (f : FormX)
  /-- VDQNT (R318). Dequantises MX elements with their scales into FP32 or 16-bit values. -/
  | vdqnt (f : FormA)
  /-- VAMAX (R310). Computes the amax over registers and lanes and pushes it into a ring. -/
  | vamax (f : FormA)
  /-- AMXPUSH (R309). Pushes an absolute value into an amax ring. -/
  | amxpush (f : FormA)
  /-- AMXGET (R309). Reads a ring's high value, one entry, or its counts. -/
  | amxget (f : FormA)
  /-- AMXCLR (R309). Empties the rings named by a register mask. -/
  | amxclr (f : FormA)
  /-- AMXCLR_IMM (R309). Empties the rings named by an immediate mask. -/
  | amxclrImm (f : FormI)
  /-- SLD (R325). Scalar load for the lowest active lane. -/
  | sld (f : FormM)
  /-- SST (R325). Scalar store for the lowest active lane. -/
  | sst (f : FormM)
  /-- VLD (R325). Per-lane vector load. -/
  | vld (f : FormM)
  /-- VST (R325). Per-lane vector store. -/
  | vst (f : FormM)
  /-- VLDL (R327). Warp-collective load of three tagged lines into a v and a k register. -/
  | vldl (f : FormM)
  /-- VSTL (R327). Warp-collective store of three lines with their tags. -/
  | vstl (f : FormM)
  /-- PREF (R328). Prefetches the line of each active lane's address. -/
  | pref (f : FormM)
  /-- CCTL (R329). Applies demote, inv, wb or evict to the line of each active lane. -/
  | cctl (f : FormM)
  /-- FENCE (R333). An .ar or .sc fence at a scope. -/
  | fence (f : FormA)
  /-- TFENCE (R334). Shoots down translations of a context or range at a scope. -/
  | tfence (f : FormM)
  /-- WAITV (R335). Repeatedly reads a location until it differs from a comparand. -/
  | waitv (f : FormM)
  /-- WAITV_RETURN (R335). A read returns a value different from the comparand, and the WAITV completes. -/
  | waitvReturn (h : HoodRef)
  /-- WATCH (R337). Installs watch-table entries on every home die of a range from a descriptor. -/
  | watch (f : FormM)
  /-- UNWATCH (R338). Frees the entries of a watch id. -/
  | unwatch (f : FormM)
  /-- ATOM_ADD (R332). Per-lane atomic add. -/
  | atomAdd (f : FormM)
  /-- ATOM_AND (R332). Per-lane atomic AND. -/
  | atomAnd (f : FormM)
  /-- ATOM_OR (R332). Per-lane atomic OR. -/
  | atomOr (f : FormM)
  /-- ATOM_XOR (R332). Per-lane atomic XOR. -/
  | atomXor (f : FormM)
  /-- ATOM_MIN (R332). Per-lane atomic minimum. -/
  | atomMin (f : FormM)
  /-- ATOM_MAX (R332). Per-lane atomic maximum. -/
  | atomMax (f : FormM)
  /-- ATOM_EXCH (R332). Per-lane atomic exchange. -/
  | atomExch (f : FormM)
  /-- ATOM_CAS (R331). Per-lane atomic compare-and-swap. -/
  | atomCas (f : FormM)
  /-- ATOM_INCW (R330). Per-lane wrapping atomic increment. -/
  | atomIncw (f : FormM)
  /-- ATOM_DECW (R330). Per-lane wrapping atomic decrement. -/
  | atomDecw (f : FormM)
  /-- ATOM_FADD_F32 (R89). Per-lane FP32 atomic add, rounded RNE. -/
  | atomFaddF32 (f : FormM)
  /-- ATOM_FADD_BF16X2 (R89). Per-lane packed BF16 atomic add. -/
  | atomFaddBf16x2 (f : FormM)
  /-- ATOM_FMIN_F32 (R89). Per-lane FP32 atomic minimum. -/
  | atomFminF32 (f : FormM)
  /-- ATOM_FMAX_F32 (R89). Per-lane FP32 atomic maximum. -/
  | atomFmaxF32 (f : FormM)
  /-- SATOM_ADD (R332). Scalar atomic add. -/
  | satomAdd (f : FormM)
  /-- SATOM_AND (R332). Scalar atomic AND. -/
  | satomAnd (f : FormM)
  /-- SATOM_OR (R332). Scalar atomic OR. -/
  | satomOr (f : FormM)
  /-- SATOM_XOR (R332). Scalar atomic XOR. -/
  | satomXor (f : FormM)
  /-- SATOM_MIN (R332). Scalar atomic minimum. -/
  | satomMin (f : FormM)
  /-- SATOM_MAX (R332). Scalar atomic maximum. -/
  | satomMax (f : FormM)
  /-- SATOM_EXCH (R332). Scalar atomic exchange. -/
  | satomExch (f : FormM)
  /-- SATOM_CAS (R331). Scalar atomic compare-and-swap. -/
  | satomCas (f : FormM)
  /-- SATOM_INCW (R330). Scalar wrapping atomic increment. -/
  | satomIncw (f : FormM)
  /-- SATOM_DECW (R330). Scalar wrapping atomic decrement. -/
  | satomDecw (f : FormM)
  /-- SATOM_FADD_F32 (R89). Scalar FP32 atomic add. -/
  | satomFaddF32 (f : FormM)
  /-- SATOM_FADD_BF16X2 (R89). Scalar packed BF16 atomic add. -/
  | satomFaddBf16x2 (f : FormM)
  /-- SATOM_FMIN_F32 (R89). Scalar FP32 atomic minimum. -/
  | satomFminF32 (f : FormM)
  /-- SATOM_FMAX_F32 (R89). Scalar FP32 atomic maximum. -/
  | satomFmaxF32 (f : FormM)
  /-- BANDI (R356). Initialises a band object with the magic and zero counts. -/
  | bandi (f : FormM)
  /-- BANDX (R356). Arms a band with EXPECT and a chunk base, then settles it. -/
  | bandx (f : FormM)
  /-- BANDA (R356). Adds a count to ARRIVED as a release, then settles the band. -/
  | banda (f : FormM)
  /-- BANDW (R357). Waits until a ticketed phase of a band completes, then returns ERR. -/
  | bandw (f : FormM)
  /-- BANDW_RETURN (R357). The awaited phase completes, and BANDW returns with an acquire at the band's scope. -/
  | bandwReturn (h : HoodRef)
  /-- BANDT (R358). Reads CHUNKS bits of a band into q bits. -/
  | bandt (f : FormM)
  /-- XLAY_NEW (R343). Installs a layout record at the lowest free handle. -/
  | xlayNew (f : FormA)
  /-- XLAY_SET (R343). Installs a layout record at a named handle. -/
  | xlaySet (f : FormA)
  /-- XLAY_FREE (R343). Frees a layout handle. -/
  | xlayFree (f : FormA)
  /-- XCOPY (R346). Checks and issues an asynchronous box copy with an optional transform and multicast. -/
  | xcopy (f : FormX)
  /-- XCOPY_ACCEPT (R346). Every receiver has a free scoreboard entry and the engine has room, so the copy is accepted and the hood moves on. -/
  | xcopyAccept (h : HoodRef)
  /-- QINIT_INIT (R367). Checks a ring header and makes it live in the context's ring table. -/
  | qinitInit (f : FormM)
  /-- QINIT_FINI (R367). Retires a live ring and frees its table entry. -/
  | qinitFini (f : FormM)
  /-- QPUT_RESV (R368). Reserves the next ring slot, reporting failure or waiting. -/
  | qputResv (f : FormM)
  /-- QPUT_RESV_RETRY (R368). A waiting reservation finds room after a free and takes its slot. -/
  | qputResvRetry (h : HoodRef)
  /-- QPUT_COMMIT (R368). Commits a reserved slot in reservation order as a release. -/
  | qputCommit (f : FormM)
  /-- QPUT_COMMIT_PUBLISH (R368). TAIL reaches the waiting commit's slot, and the commit advances TAIL. -/
  | qputCommitPublish (h : HoodRef)
  /-- QGET_ACQ (R369). Takes the next committed slot as the acquire paired with its commit. -/
  | qgetAcq (f : FormM)
  /-- QGET_ACQ_RETRY (R369). A waiting acquire finds a committed slot and takes it. -/
  | qgetAcqRetry (h : HoodRef)
  /-- QGET_FREE (R369). Frees an acquired slot in order. -/
  | qgetFree (f : FormM)
  /-- QGET_FREE_RELEASE (R369). HEAD reaches the waiting free's slot, and the free advances HEAD. -/
  | qgetFreeRelease (h : HoodRef)
  /-- SPAWN (R371). Queues a header-only spawned phase record to an SQ of the die. -/
  | spawn (f : FormA)
  /-- MSHAPE (R375). Writes the warp's matrix shape register. -/
  | mshape (f : FormA)
  /-- MMA (R380). Checks and queues an asynchronous MX or 16-bit matrix product. -/
  | mma (f : FormX)
  /-- DMMA (R381). Checks and queues an asynchronous FP32 or FP64 product from scratchpad. -/
  | dmma (f : FormX)
  /-- MMA_START (R382). The matrix unit starts the next queued product once its interval and dependences allow. -/
  | mmaStart (core : Nat)
  /-- MMA_COMPLETE (R382). A product completes, writes its D rows and writes MMA_DONE. -/
  | mmaComplete (core : Nat)
  /-- MMAW (R383). Waits until at most n products of the warp remain uncompleted, then ORs in their flags. -/
  | mmaw (f : FormA)
  /-- MMAW_RETURN (R383). Enough products have completed, so MMAW returns and reports flags or POISON. -/
  | mmawReturn (core slot : Nat)
  /-- MZERO (R385). Waits for overlapping products, then writes +0.0 to a register group. -/
  | mzero (f : FormA)
  /-- MFENCE (R384). Waits until the hood's register writes and scratchpad stores are done before later products read operands. -/
  | mfence (f : FormA)
  /-- ICACHE_FILL (R219). A fetch line arrives in the instruction cache and is parity-checked, refetched once or marked. -/
  | icacheFill (core ctx lineVa : Nat) (flip1 flip2 : BitVec 512)
  /-- REGISTER_SCRUB (R58). The register scrub visits warp-state words, correcting single-bit errors or losing the context. -/
  | registerScrub (core : Nat) (err : Option RegisterError)
  /-- PAGE_WALK (R96). A walk completes: it installs a translation and sets A or D, or parks the access with fault records. -/
  | pageWalk (cluster : Nat)
  /-- TFENCE_ACKNOWLEDGE (R99). A cluster invalidates, drains its accepted accesses and acknowledges; the last acknowledgement completes the TFENCE. -/
  | tfenceAcknowledge (id cluster : Nat)
  /-- FAULT_RESPONSE_RETRY (R102). A write with RETRY to the fault-response register retries a parked batch. -/
  | faultResponseRetry (w : Writer) (ctx batch : Nat)
  /-- FAULT_RESPONSE_FAIL (R102). A write with FAIL discards a parked batch and sends its warp into handler mode. -/
  | faultResponseFail (w : Writer) (ctx batch : Nat)
  /-- MIGRATION_REQUEST_HOST (R108). The host requests a page migration through the hub, and the engine returns a status or enters TRACK. -/
  | migrationRequestHost (ctx va dest : Nat)
  /-- MIGRATION_COPY_PASS_DONE (R109). A copy pass ends, and the engine recopies dirty lines or proceeds to CUT. -/
  | migrationCopyPassDone (id : Nat)
  /-- MIGRATION_STUBBED (R109). The cut-over TFENCE completes, the page enters STUBBED and the requester receives OK. -/
  | migrationStubbed (id : Nat)
  /-- STUB_RECLAIM_ATTEMPT (R113). The 4,096-tick timer expires and reclamation is attempted, freeing the stub or rescheduling. -/
  | stubReclaimAttempt (die oldFrame : Nat)
  /-- RDS (R150). Coesk read request for a shared grant, handled by the home directory. -/
  | rds (m : CoeskReq)
  /-- RDX (R150). Coesk read-for-ownership request. -/
  | rdx (m : CoeskReq)
  /-- RDNC (R150). Coesk read without allocation, performed at home. -/
  | rdnc (m : CoeskReq)
  /-- UPGR (R150). Coesk request for ownership of a line held S. -/
  | upgr (m : CoeskReq)
  /-- WRLINE (R150). Coesk write-back of an owned line, with or without data. -/
  | wrline (m : CoeskReq) (clean : Bool)
  /-- WRPART (R150). Coesk byte-masked write performed at home. -/
  | wrpart (m : CoeskReq) (data : LineData) (mask : BitVec 128)
  /-- ATOMHOME (R150). Coesk atomic performed at the home slice. -/
  | atomhome (m : CoeskReq) (op : AtomicReq)
  /-- INV (R151). Coesk invalidation of a shared copy at a caching die. -/
  | inv (m : CoeskSnoop)
  /-- FWDS (R151). Forward to the owner to supply the line and keep S. -/
  | fwds (m : CoeskSnoop)
  /-- FWDX (R151). Forward to the owner to supply the line and invalidate. -/
  | fwdx (m : CoeskSnoop)
  /-- ACK (R147). Coesk completion with a grant, or a KEEP that restarts the requester's timer. -/
  | ack (m : CoeskResp)
  /-- DATA (R147). Coesk line data with its tag, grant and poison flag. -/
  | data (m : CoeskResp)
  /-- RELAY (R111). A request sent on by an old home through a stub, performed at the new home. -/
  | relay (m : CoeskReq) (kind : RelayKind)
  /-- REDIRECT (R111). Redirect answer that may update the requester's TLB entry and opens a drain record. -/
  | redirect (r : RedirectMsg)
  /-- TRIGNOTE (R212). A watch trigger note reaches the target die, which queues the triggered phase record. -/
  | trignote (die : Nat)
  /-- TIMESYNC (R158). A TimeSync message aligns a die's tick and nanosecond counters. -/
  | timesync (die tick ns : Nat)
  /-- TIMESYNC_SEND (R158). Every 1,024 ticks the hub sends TimeSync to each die. -/
  | timesyncSend
  /-- COESK_TRACE (R145). A trace record travels on EVT to the trace buffer. -/
  | coeskTrace (die : Nat)
  /-- CFG (R161). A Cfg message carries credits, the topology table or configuration and is acknowledged; the last acknowledgement sets READY. -/
  | cfg (c : CfgMsg)
  /-- COESK_RESERVED_OP (R147). A message with a reserved OP is discarded and counted in the link's protocol-error counter. -/
  | coeskReservedOp (link op txn : Nat)
  /-- KEEP_TIMER (R159). Every 2,048 ticks a home sends Ack with KEEP for a request it holds. -/
  | keepTimer (die txn : Nat)
  /-- CROSS_DIE_TIMEOUT (R159). A cross-die request gets no final response in 5,000 ticks and fails with TIMEOUT. -/
  | crossDieTimeout (die txn : Nat)
  /-- HOME_EXECUTE_EXPIRY (R156). A line's 32,768-cycle home-execute mode ends, and its transfer count restarts. -/
  | homeExecuteExpiry (line : Nat)
  /-- REFERENCE_TICK (R157). A distributed reference tick advances each die's tick counter. -/
  | referenceTick
  /-- TIMEBASE_WATCHDOG (R160). No reference edge for 5 µs raises TIMEBASE_LOST and stops every die. -/
  | timebaseWatchdog
  /-- DISCOVER_RECORD (R161). The front die receives a DISCOVER record from a die during discovery. -/
  | discoverRecord (port : Nat) (r : DiscoverRec)
  /-- DISCOVERY_TIMEOUT (R161). After 100 ms without DISCOVER a compute die is left out and the package reports itself degraded. -/
  | discoveryTimeout
  /-- COMMAND_PROCESSOR_FIRE (R196). A TAIL change fires the command processor, which reads, copies and checks the entries. -/
  | commandProcessorFire (ctx queue : Nat)
  /-- LAUNCH_ADMIT (R192). The head launch's WAIT bits are all set, so it is admitted, given an id and cut into sub-grids. -/
  | launchAdmit (ctx queue : Nat)
  /-- LAUNCH_RETIRE (R193). Every block has ended, so the hub ORs in SET, increments RETIRED and writes LAUNCH_END. -/
  | launchRetire (id : Nat)
  /-- EVENT_SET_REGISTER (R191). A write-one-to-set MMIO write sets event bits. -/
  | eventSetRegister (w : Writer) (ctx : Nat) (mask : BitVec 256)
  /-- EVENT_CLEAR_REGISTER (R191). A write-one-to-clear MMIO write clears event bits. -/
  | eventClearRegister (w : Writer) (ctx : Nat) (mask : BitVec 256)
  /-- QUEUE_REGISTER (R195). A queue-table write registers a command queue and installs a watch on its TAIL line, or refuses with WATCH_FULL. -/
  | queueRegister (w : Writer) (ctx idx hdr : Nat)
  /-- PLACEMENT_ROUND (R201). Room is freed, and the distributor places waiting gangs and phase records in placement order. -/
  | placementRound (die : Nat)
  /-- PLACEMENT_RESERVE_TIMEOUT (R201). A passed-over gang waits 65,536 cycles, and the distributor reserves a cluster for it. -/
  | placementReserveTimeout (die : Nat)
  /-- TRIGGER_POOL_RELEASE (R212). Pool space frees at the target, and a waiting trigger record is sent. -/
  | triggerPoolRelease (die : Nat)
  /-- TRIGGER_WINDOW_ROLLOVER (R214). A 1,000,000 ns budget window ends, and trigger counts restart. -/
  | triggerWindowRollover
  /-- PREEMPT_GO (R415). A PREEMPT write with GO pre-empts every resident gang of the context at the kind in KIND. -/
  | preemptGo (w : Writer) (ctx : Nat) (kind hold : Bool)
  /-- PREEMPT_KILL (R419). A PREEMPT write with KILL ends the context and frees its resources. -/
  | preemptKill (w : Writer) (ctx : Nat)
  /-- PREEMPT_SAVE_COMPLETE (R416). A stopping gang's instructions, products and copies drain, then its frames are written and its cores released. -/
  | preemptSaveComplete (gang : Nat)
  /-- CHUNK_PROCESS (R347). The copy engine reads, transforms and writes the next chunk of a box, spilling or stopping on a fault. -/
  | chunkProcess (copy : Nat)
  /-- CHUNK_LAND (R352). A chunk lands at a receiver and is counted at its band, settling the band and retiring the copy when it is the last. -/
  | chunkLand (copy chunk pos : Nat)
  /-- SPILL_SPACE_FREED (R361). Spill-buffer space frees, and a copy stopped on a full buffer goes on. -/
  | spillSpaceFreed (die : Nat)
  /-- L2CFG_WRITE (R48). A write of CARVE starts a carve-out change or is refused with CFGERR. -/
  | l2cfgWrite (w : Writer) (die : Nat) (val : Word)
  /-- CARVE_CHANGE_DONE (R48). The write-back and zeroing of the carve-out change finish, and BUSY clears. -/
  | carveChangeDone (die : Nat)
  /-- MMIO_WRITE (R453). A write to a device register without behaviour of its own, filtered by the writer's rights. -/
  | mmioWrite (w : Writer) (reg : MmioReg) (val : DWord)
  /-- STATION_LINK_DOWN (R421). A UALink station goes down: UP clears, TIMEOUT 0x80+s is recorded and later routes fail. -/
  | stationLinkDown (st : Nat)
  /-- STATION_RETRAIN (R421). The management owner writes RETRAIN to start retraining a station. -/
  | stationRetrain (w : Writer) (st : Nat)
  /-- STATION_TRAINED (R422). A station trains at four lanes and comes up. -/
  | stationTrained (st : Nat)
  /-- PODCFG_WRITE (R424). A write of pod identity and time-out is accepted or refused with CFGERR. -/
  | podcfgWrite (w : Writer) (val : DWord)
  /-- UALINK_REQUEST_ARRIVAL (R430). A request arriving at a station is performed at the home slice or answered with an error. -/
  | ualinkRequestArrival (st : Nat) (r : UalinkReq)
  /-- POD_RESPONSE (R427). A pod read or atomic response arrives, ending remote wait or raising POISON or MEMATTR_RESERVED. -/
  | podResponse (txn : Nat) (r : PodResp)
  /-- POD_WRITE_ACK (R428). A target acknowledges a posted write, freeing its entry and releasing waiting accesses. -/
  | podWriteAck (txn : Nat)
  /-- TRIMMED_HEADER (R431). A trimmed header arrives and causes a resend request or a resend, restarting the timer. -/
  | trimmedHeader (st : Nat) (k : TrimKind)
  /-- POD_PORT_DOWN (R432). A node reports the target's port down, and the request fails at once. -/
  | podPortDown (txn : Nat)
  /-- POD_TIMEOUT (R432). A pod request's TOUT expires, failing it and marking the peer dead or taking the station down. -/
  | podTimeout (txn : Nat)
  /-- DEAD_PEER_CLEAR_MMIO (R433). The management owner clears dead-peer bits through the MMIO set. -/
  | deadPeerClearMmio (w : Writer) (mask : BitVec 192)
  /-- TRACE_DRAIN_WRITE (R441). The drain writes a record to a context buffer and stores TAIL, or drops it and counts it. -/
  | traceDrainWrite (die : Nat)
  /-- LOSSLESS_FALLBACK (R447). A hold reaches LLWAIT ms, or the drain meets a fault, so lossless mode falls back to lossy. -/
  | losslessFallback (ctx : Nat)
  /-- TRCHDR_WRITE (R442). A write of the trace buffer header address, refused while EN is set. -/
  | trchdrWrite (w : Writer) (ctx : Nat) (val : DWord)
  /-- TRCCFG_WRITE (R442). A write of the trace configuration, rereading the header when EN is set. -/
  | trccfgWrite (w : Writer) (ctx : Nat) (val : Word)
  /-- TIMEBASE_SOURCE_UPDATE (R438). The disciplining source reports an offset, and the hub slews, steps or holds the counter. -/
  | timebaseSourceUpdate (offset : Int)
  /-- CXL_MEM_READ (R450). A host CXL.mem read of device memory, returning no tag. -/
  | cxlMemRead (pa : Nat)
  /-- CXL_MEM_WRITE (R141). A host CXL.mem write performed at its home slice in arrival order and compared by watches. -/
  | cxlMemWrite (pa : Nat) (data : BitVec 512) (be : BitVec 64)
  /-- H2D_SNOOP (R449). A host snoop of a HOST-COH line held in a die's L2. -/
  | h2dSnoop (pa : Nat) (inv : Bool)
  /-- BACK_INVALIDATE_RESPONSE (R450). The host answers a back-invalidate snoop, and the held device request proceeds. -/
  | backInvalidateResponse (line : Nat)
  /-- CLAIM (R455). A master claims ownership, opening or entering an election window or being refused. -/
  | claim (master prio : Nat)
  /-- CLAIM_BEAT (R455). A heartbeat from the holder restarts the lease. -/
  | claimBeat (master : Nat)
  /-- CLAIM_RELEASE (R455). The holder releases ownership, optionally to a named successor. -/
  | claimRelease (master nextHolder : Nat)
  /-- ELECTION_CLOSE (R455). The 10 ms election window closes, and the highest-priority claimant becomes holder. -/
  | electionClose
  /-- LEASE_LAPSE (R455). The holder's lease runs out and HOLDER becomes 0. -/
  | leaseLapse
  /-- CONTEXT_CREATE (R457). A create command checks the descriptor and creates the context, zeroing its die scratch. -/
  | contextCreate (w : Writer) (slot : Nat)
  /-- CONTEXT_DESTROY (R457). A destroy command kills the context and frees the slot once BUSY clears. -/
  | contextDestroy (w : Writer) (slot : Nat)
  /-- RESET (R460). Reset runs bring-up through boot verification, training, discovery and HBM4E zeroing to the system context. -/
  | reset (b : BringUp)
  /-- RECOVERY_IMAGE (R458). The recovery mailbox accepts a new image for a failed firmware stage. -/
  | recoveryImage (img : FirmwareImage)
  /-- FIRMWARE_REVOCATION_COMMAND (R458). A signed owner command raises revocation or minimum security versions. -/
  | firmwareRevocationCommand (c : RevocationCmd)
  /-- GET_VERSION (R459). SPDM command answered with the supported versions. -/
  | getVersion (master : Nat)
  /-- GET_CAPABILITIES (R459). SPDM command answered with the device's capabilities. -/
  | getCapabilities (master : Nat)
  /-- NEGOTIATE_ALGORITHMS (R459). SPDM command announcing Falcon-1024 with SHAKE256. -/
  | negotiateAlgorithms (master : Nat)
  /-- GET_DIGESTS (R459). SPDM command answered with certificate digests. -/
  | getDigests (master : Nat)
  /-- GET_CERTIFICATE (R459). SPDM command answered with a certificate chain. -/
  | getCertificate (master slot : Nat)
  /-- CHALLENGE (R459). SPDM challenge signed with the identity key. -/
  | challenge (master : Nat) (nonce : BitVec 256)
  /-- GET_MEASUREMENTS (R459). SPDM command answered with measurement indices 1 to 7. -/
  | getMeasurements (master index : Nat)
  /-- POWER_LIMIT_STEP (R461). The hub lowers or restores a die's core clock by 100 MHz to hold the power limit. -/
  | powerLimitStep (die : Nat) (lower : Bool)
  /-- THERMAL_TRIP (R462). A junction reaches the critical limit, and the hub stops every clock and asserts the thermal-trip output. -/
  | thermalTrip
  /-- FILL_RETURN (R52). An on-die L1 or L2 fill, or a memory-side HBM4E response, returns and is installed or delivered to the waiting access. -/
  | fillReturn (idx : Nat)
  /-- H2D_RESPONSE (R152). The host's coherence agent answers a D2H read for ownership or shared, granting a HOST-COH line to the requester's L2. -/
  | h2dResponse (die hline : Nat) (owned : Bool) (data : LineData)
  /-- CXL_IO_COMPLETION (R141). A completion from the host for a HOST-UC access over CXL.io returns to the issuing warp. -/
  | cxlIoCompletion (txn : Nat) (data : DWord)
  /-- ENGINE_RESET (R364). The management owner resets a copy engine, abandoning its copies between writes and discarding spilled chunks. -/
  | engineReset (w : Writer) (core : Nat)
  /-- PREEMPT_HOLD_WRITE (R415). A PREEMPT write without GO or KILL sets or clears HOLD; clearing it lets the context's held gangs and launches compete for placement again. -/
  | preemptHoldWrite (w : Writer) (ctx : Nat) (hold kind : Bool)
  /-- LINK_DECLARED_DOWN (R143). A Coesk bundle whose adapter retry cannot deliver a flit is declared down. -/
  | linkDeclaredDown (a b : Nat)
deriving DecidableEq, Repr

end Sys2Proof
end

