-- ==== Sys2Proof/Config.lean ====
section
/-! DEFINITION. What the manual leaves to the implementation: free values with no body (nothing in Lean can evaluate them),
and the structural figures of the Tusum 4M (R4). -/

namespace Sys2Proof.Config

/-- Free choice among the members of a set that the manual calls unpredictable (R12): the `n`th use, told apart by `salt`.
Log entry 1. -/
opaque pick : Nat → Nat → Nat
/-- Whether the migration engine's queue is full when it holds `n` requests: the manual gives no size (R108). Log entry 32. -/
opaque migQueueFull : Nat → Bool
/-- Which register stands at an offset of the MMIO set's global block, of a compute die's block and of a context slot's: the manual gives the
blocks (R452), not the offsets inside them. Log entry 2. -/
opaque globalLayout : Nat → Option MmioReg
@[inherit_doc globalLayout] opaque dieLayout : Nat → Option MmioReg
@[inherit_doc globalLayout] opaque slotLayout : Nat → Option MmioReg
/-- The set of the TLB in which a translation lies, by context, virtual page number and page size: how a set is selected is not
architectural (R91). Log entry 3. -/
opaque tlbSet : Nat → Nat → Nat → Nat
/-- Which entry of a full TLB set a new translation replaces (R91). Log entry 3. -/
opaque tlbVictim : Nat → Nat → Nat
/-- Which line of a full instruction cache a new line replaces (R4, R218). Log entry 3. -/
opaque icacheVictim : Nat → Nat → Nat
/-- The seven check bytes of an HBM4E line over its data, TAG and DIR: the rule gives the code's symbols, not its generator (R56,
R57). Log entry 41. -/
opaque eccCheck : BitVec 1024 → BitVec 64 → BitVec 8 → BitVec 56
/-- The contents of an SPDM answer that the manual does not give (R459): capabilities, digests, certificates and signatures are those of the
part. Log entry 4. -/
opaque spdmContent : Nat → Nat → BitVec 256 → BitVec 256
/-- The digest of the boot ROM (R459). Log entry 4. -/
opaque romDigest : BitVec 256
/-- The fused identity of compute die `d`, used when no DISCOVER record has been supplied (R161). Log entry 4. -/
opaque fusedIdent : Nat → BitVec 64
/-- The target of a transfer whose count of instructions would fall below 0, for which R222 states no value. Log entry 16. -/
opaque targetBelowZero : BitVec 64 → BitVec 32 → BitVec 64
/-- The contents of host memory and of pod memory are outside the device; a byte that a command processor reads there is
free. Log entry 1. -/
opaque outsideByte : Nat → BitVec 8

/-- Compute dies of a Tusum 4M (R1). -/
def dies : Nat := 4
/-- Cores of one compute die (R4). -/
def coresPerDie : Nat := 144
/-- Clusters of one compute die (R4). -/
def clustersPerDie : Nat := 36
/-- Warp slots of one core (R4). -/
def slotsPerCore : Nat := 32
/-- Bytes of one core's scratchpad (R41). -/
def scratchBytes : Nat := 0x80000
/-- Entries of one core's range scoreboard (R360). -/
def scoreboardEntries : Nat := 16
/-- Copies one core's engine holds (R346). -/
def engineCopies : Nat := 32
/-- Sets of one cluster's TLB (R91). -/
def tlbSets : Nat := 512
/-- Ways of a set of the TLB (R91). -/
def tlbWays : Nat := 8
/-- Walks that one cluster's walker performs at once (R4, R90). -/
def concurrentWalks : Nat := 64
/-- Lines of one core's instruction cache: 128 KiB of 64-byte lines (R4, R218). -/
def icacheLines : Nat := 128 * 1024 / 64
/-- HBM4E stacks of one compute die (R4). -/
def hbmStacks : Nat := 4
/-- Bytes of one HBM4E stack (R4). -/
def hbmStackBytes : Nat := 64 * 2 ^ 30
/-- Entries of one cluster's miss queue (R90). -/
def missQueueEntries : Nat := 256
/-- Watch-table entries of one die (R4). -/
def watchEntries : Nat := 1024
/-- Forwarding stubs of one die (R110). -/
def stubEntries : Nat := 4096
/-- Home-execute entries of one slice (R156). -/
def homeExecEntries : Nat := 256
/-- Staging records of one die's trace collector (R445). -/
def traceStaging : Nat := 64
/-- Bytes of one die's spill buffer (R361). -/
def spillBytes : Nat := 64 * 1024 * 1024

end Sys2Proof.Config
end

