-- ==== Sys2Proof/Decode.lean ====
section
/-! DEFINITION. Instruction words: the five operand-area formats (R224 to R227), the opcode map (R239, R240), the checks made
before an instruction is performed (R225 to R241), the decoder, and the encoder. -/

namespace Sys2Proof

/-- A fault code and its subcode (R405). -/
abbrev Cause := Nat × Nat

/-- The operand area of an instruction in its format, with the header's variable fields. -/
inductive Form
  | a (f : FormA) | i (f : FormI) | m (f : FormM) | b (f : FormB) | x (f : FormX)
deriving DecidableEq, Repr

/-- Why a word is no instruction of the table: the first three checks of R238, or a selecting field outside its values, where
the later checks of R238 decide the fault. -/
inductive Reject
  | badFormat
  | unassigned
  | formatNotAllowed
  | selector (opc : Nat) (f : Form)
deriving DecidableEq, Repr

/-- The header fields of a form. -/
def Form.hdr : Form → Hdr
  | .a f => f.hdr | .i f => f.hdr | .m f => f.hdr | .b f => f.hdr | .x f => f.hdr

/-! ## Fields of a word -/

/-- Bits `[lo+len-1:lo]` of an instruction word. -/
def bitsOf (w : BitVec 96) (lo len : Nat) : BitVec len := w.extractLsb' lo len

/-- The header fields other than OPC and FMT (R224). -/
def decodeHdr (w : BitVec 96) : Hdr :=
  { la := bitsOf w 82 4, gai := bitsOf w 78 4, gan := bitsOf w 77 1, gbi := bitsOf w 73 4, gbn := bitsOf w 72 1,
    rnd := bitsOf w 69 3, ch := bitsOf w 67 2 }

/-- OPC (R224). -/
def decodeOpc (w : BitVec 96) : Nat := (bitsOf w 86 10).toNat

/-- Format A (R227). -/
def decodeA (w : BitVec 96) : FormA :=
  { hdr := decodeHdr w, d := bitsOf w 54 10, s1 := bitsOf w 44 10, s2 := bitsOf w 34 10, s3 := bitsOf w 24 10,
    s4 := bitsOf w 14 10, ty := bitsOf w 9 5, sat := bitsOf w 8 1, aux := bitsOf w 5 3, sub := bitsOf w 0 5 }

/-- Format I (R227). -/
def decodeI (w : BitVec 96) : FormI :=
  { hdr := decodeHdr w, d := bitsOf w 54 10, s1 := bitsOf w 44 10, imm := bitsOf w 12 32, ty := bitsOf w 7 5,
    sat := bitsOf w 6 1, z := bitsOf w 5 1, sub := bitsOf w 0 5 }

/-- Format M (R227). -/
def decodeM (w : BitVec 96) : FormM :=
  { hdr := decodeHdr w, d := bitsOf w 54 10, a := bitsOf w 44 10, s := bitsOf w 34 10, off := bitsOf w 14 20,
    ty := bitsOf w 9 5, scope := bitsOf w 6 3, ord := bitsOf w 4 2, space := bitsOf w 2 2, promo := bitsOf w 1 1,
    z := bitsOf w 0 1 }

/-- Format B (R227). -/
def decodeB (w : BitVec 96) : FormB :=
  { hdr := decodeHdr w, c := bitsOf w 54 10, off := bitsOf w 22 32, bmode := bitsOf w 20 2, z := bitsOf w 0 20 }

/-- Format X (R227). -/
def decodeX (w : BitVec 96) : FormX :=
  { hdr := decodeHdr w, d := bitsOf w 54 10, s1 := bitsOf w 44 10, s2 := bitsOf w 34 10, s3 := bitsOf w 24 10,
    s4 := bitsOf w 14 10, xf := bitsOf w 0 14 }

/-- The form a word has by its FMT field (R226). -/
def decodeForm (w : BitVec 96) : Option Form :=
  match (bitsOf w 64 3).toNat with
  | 0 => some (.a (decodeA w))
  | 1 => some (.i (decodeI w))
  | 2 => some (.m (decodeM w))
  | 3 => some (.b (decodeB w))
  | 4 => some (.x (decodeX w))
  | _ => none

/-! ## The opcode map -/

/-- Opcodes of format A whose fields select no further form (R239), part 1. -/
def tableA1 : List (Nat × (FormA → Instr)) :=
  [(0x000, .nop), (0x001, .exit), (0x005, .ret), (0x007, .yield), (0x00D, .tret), (0x012, .trace),
   (0x014, .evset), (0x015, .evwait), (0x020, .smov), (0x023, .sadd), (0x024, .ssub), (0x025, .smul),
   (0x026, .smulh), (0x027, .smad), (0x028, .sdiv), (0x029, .srem), (0x02A, .sand), (0x02B, .sor),
   (0x02C, .sxor), (0x02D, .sshl), (0x02E, .sshr), (0x02F, .ssra), (0x030, .smin), (0x031, .smax)]

/-- Opcodes of format A whose fields select no further form (R239), part 2. -/
def tableA2 : List (Nat × (FormA → Instr)) :=
  [(0x032, .scmp), (0x033, .ssel), (0x034, .sclz), (0x035, .spopc), (0x036, .sbfe), (0x037, .sbfi),
   (0x038, .slea), (0x039, .scvt), (0x040, .vmov), (0x042, .vbcst), (0x043, .vidx), (0x044, .vadd),
   (0x045, .vsub), (0x046, .vmul), (0x047, .vmulh), (0x048, .vmad), (0x049, .vand), (0x04A, .vor),
   (0x04B, .vxor), (0x04C, .vshl), (0x04D, .vshr), (0x04E, .vsra), (0x04F, .vmin), (0x050, .vmax)]

/-- Opcodes of format A whose fields select no further form (R239), part 3. -/
def tableA3 : List (Nat × (FormA → Instr)) :=
  [(0x051, .vabs), (0x052, .vcmp), (0x053, .vsel), (0x054, .vclz), (0x055, .vpopc), (0x056, .vbfe),
   (0x057, .vbfi), (0x058, .vdot4), (0x059, .philox), (0x060, .fadd), (0x061, .fsub), (0x062, .fmul),
   (0x063, .ffma), (0x064, .fmin), (0x065, .fmax), (0x066, .fcmp), (0x067, .fclass), (0x068, .frcp),
   (0x069, .frsq), (0x06A, .fsqrt), (0x06B, .fdiv), (0x06C, .fexp2), (0x06D, .flog2), (0x06E, .fsin)]

/-- Opcodes of format A whose fields select no further form (R239), part 4. -/
def tableA4 : List (Nat × (FormA → Instr)) :=
  [(0x06F, .fcos), (0x070, .ftanh), (0x071, .fcvt), (0x072, .frint), (0x073, .fscale), (0x074, .fsmxu),
   (0x075, .fsmxf), (0x080, .vshfl), (0x081, .vred), (0x082, .vscan), (0x083, .vvote), (0x084, .vcmpr),
   (0x090, .kmov), (0x091, .kget), (0x092, .kset), (0x093, .kfill), (0x094, .kadd), (0x096, .vdqnt),
   (0x097, .vamax), (0x098, .amxpush), (0x099, .amxget), (0x09A, .amxclr), (0x0C8, .fence), (0x10D, .spawn)]

/-- Opcodes of format A whose fields select no further form (R239), part 5. -/
def tableA5 : List (Nat × (FormA → Instr)) :=
  [(0x140, .mshape), (0x142, .mmaw), (0x143, .mzero), (0x145, .mfence)]

/-- Opcodes of format A whose fields select no further form (R239). -/
def tableA : List (Nat × (FormA → Instr)) :=
  tableA1 ++ tableA2 ++ tableA3 ++ tableA4 ++ tableA5

/-- Opcodes of format I whose fields select no further form (R239), part 1. -/
def tableI1 : List (Nat × (FormI → Instr)) :=
  [(0x006, .felt), (0x009, .sleep), (0x00A, .bar), (0x00B, .barh), (0x00C, .trap), (0x00E, .bkpt),
   (0x00F, .srget), (0x010, .srset), (0x012, .traceImm), (0x014, .evsetImm), (0x015, .evwaitImm), (0x021, .smovi),
   (0x022, .smovih), (0x023, .saddImm), (0x024, .ssubImm), (0x025, .smulImm), (0x026, .smulhImm), (0x028, .sdivImm),
   (0x029, .sremImm), (0x02A, .sandImm), (0x02B, .sorImm), (0x02C, .sxorImm), (0x02D, .sshlImm), (0x02E, .sshrImm)]

/-- Opcodes of format I whose fields select no further form (R239), part 2. -/
def tableI2 : List (Nat × (FormI → Instr)) :=
  [(0x02F, .ssraImm), (0x030, .sminImm), (0x031, .smaxImm), (0x032, .scmpImm), (0x036, .sbfeImm), (0x041, .vmovi),
   (0x044, .vaddImm), (0x045, .vsubImm), (0x046, .vmulImm), (0x047, .vmulhImm), (0x049, .vandImm), (0x04A, .vorImm),
   (0x04B, .vxorImm), (0x04C, .vshlImm), (0x04D, .vshrImm), (0x04E, .vsraImm), (0x04F, .vminImm), (0x050, .vmaxImm),
   (0x052, .vcmpImm), (0x056, .vbfeImm), (0x091, .kgetImm), (0x092, .ksetImm), (0x093, .kfillImm), (0x094, .kaddImm)]

/-- Opcodes of format I whose fields select no further form (R239), part 3. -/
def tableI3 : List (Nat × (FormI → Instr)) :=
  [(0x09A, .amxclrImm)]

/-- Opcodes of format I whose fields select no further form (R239). -/
def tableI : List (Nat × (FormI → Instr)) :=
  tableI1 ++ tableI2 ++ tableI3

/-- Opcodes of format M whose fields select no further form (R239), part 1. -/
def tableM1 : List (Nat × (FormM → Instr)) :=
  [(0x0C0, .sld), (0x0C1, .sst), (0x0C2, .vld), (0x0C3, .vst), (0x0C4, .vldl), (0x0C5, .vstl),
   (0x0C6, .pref), (0x0C7, .cctl), (0x0C9, .tfence), (0x0CA, .waitv), (0x0CB, .watch), (0x0CC, .unwatch),
   (0x0E0, .atomAdd), (0x0E1, .atomAnd), (0x0E2, .atomOr), (0x0E3, .atomXor), (0x0E4, .atomMin), (0x0E5, .atomMax),
   (0x0E6, .atomExch), (0x0E7, .atomCas), (0x0E8, .atomIncw), (0x0E9, .atomDecw), (0x0EA, .atomFaddF32), (0x0EB, .atomFaddBf16x2)]

/-- Opcodes of format M whose fields select no further form (R239), part 2. -/
def tableM2 : List (Nat × (FormM → Instr)) :=
  [(0x0EC, .atomFminF32), (0x0ED, .atomFmaxF32), (0x0F0, .satomAdd), (0x0F1, .satomAnd), (0x0F2, .satomOr), (0x0F3, .satomXor),
   (0x0F4, .satomMin), (0x0F5, .satomMax), (0x0F6, .satomExch), (0x0F7, .satomCas), (0x0F8, .satomIncw), (0x0F9, .satomDecw),
   (0x0FA, .satomFaddF32), (0x0FB, .satomFaddBf16x2), (0x0FC, .satomFminF32), (0x0FD, .satomFmaxF32), (0x100, .bandi), (0x101, .bandx),
   (0x102, .banda), (0x103, .bandw), (0x104, .bandt)]

/-- Opcodes of format M whose fields select no further form (R239). -/
def tableM : List (Nat × (FormM → Instr)) :=
  tableM1 ++ tableM2

/-- Opcodes of format B whose fields select no further form (R239). -/
def tableB : List (Nat × (FormB → Instr)) :=
  [(0x002, .bra), (0x003, .brx), (0x004, .call)]

/-- Opcodes of format X whose fields select no further form (R239). -/
def tableX : List (Nat × (FormX → Instr)) :=
  [(0x008, .phase), (0x109, .xcopy), (0x141, .mma), (0x144, .dmma)]

/-- Opcodes whose fields select among several rows of the table, with the format each takes: MIGR, TRCTL and XLAY by SUB
(R388, R342), VQNT by SHAPE (R311), QINIT by S, QPUT and QGET by ORD (R366). -/
def selectorOpcodes : List (Nat × Nat) :=
  [(0x011, 0), (0x013, 0), (0x108, 0), (0x095, 4), (0x10A, 2), (0x10B, 2), (0x10C, 2)]

/-- The row a selecting opcode names in format A. -/
def selectA (opc : Nat) (f : FormA) : Option Instr :=
  match opc, f.sub.toNat with
  | 0x011, 0 => some (.migr f)
  | 0x011, 1 => some (.migrSwap f)
  | 0x013, 0 => some (.trctlSet f)
  | 0x013, 1 => some (.trctlFlush f)
  | 0x108, 0 => some (.xlayNew f)
  | 0x108, 1 => some (.xlaySet f)
  | 0x108, 2 => some (.xlayFree f)
  | _, _ => none

/-- The row a selecting opcode names in format M. -/
def selectM (opc : Nat) (f : FormM) : Option Instr :=
  match opc with
  | 0x10A => if f.s = 0x180 then some (.qinitInit f) else if f.s = 0x181 then some (.qinitFini f) else none
  | 0x10B => if f.ord = 0 then some (.qputResv f) else if f.ord = 2 then some (.qputCommit f) else none
  | 0x10C => if f.ord = 1 then some (.qgetAcq f) else if f.ord = 0 then some (.qgetFree f) else none
  | _ => none

/-- The row a selecting opcode names in format X. -/
def selectX (opc : Nat) (f : FormX) : Option Instr :=
  if opc = 0x095 then (if f.xf.getLsbD 6 then some (.vqntRow f) else some (.vqntLane f)) else none

/-- The row of the table that an opcode and its form name. -/
def instrOf (opc : Nat) : Form → Option Instr
  | .a f => match tableA.lookup opc with | some c => some (c f) | none => selectA opc f
  | .i f => (tableI.lookup opc).map fun c => c f
  | .m f => match tableM.lookup opc with | some c => some (c f) | none => selectM opc f
  | .b f => (tableB.lookup opc).map fun c => c f
  | .x f => match tableX.lookup opc with | some c => some (c f) | none => selectX opc f

/-- Whether an opcode allows a format (R239): the format code. -/
def formatAllowed (opc fmt : Nat) : Bool :=
  selectorOpcodes.contains (opc, fmt) ||
  match fmt with
  | 0 => (tableA.lookup opc).isSome
  | 1 => (tableI.lookup opc).isSome
  | 2 => (tableM.lookup opc).isSome
  | 3 => (tableB.lookup opc).isSome
  | 4 => (tableX.lookup opc).isSome
  | _ => false

/-- Whether an opcode is assigned (R239, R240). -/
def assigned (opc : Nat) : Bool := (List.range 5).any (formatAllowed opc)

/-- The format code of a form (R226). -/
def Form.fmt : Form → Nat
  | .a _ => 0 | .i _ => 1 | .m _ => 2 | .b _ => 3 | .x _ => 4

/-- The decoder: checks 1 to 3 of R238, then the row of the table. -/
def decode (w : BitVec 96) : Except Reject Instr :=
  match decodeForm w with
  | none => .error .badFormat
  | some f =>
    let opc := decodeOpc w
    if !assigned opc then .error .unassigned
    else if !formatAllowed opc f.fmt then .error .formatNotAllowed
    else match instrOf opc f with
      | some i => .ok i
      | none => .error (.selector opc f)

/-- What the decoder reads from the number `w`, bit 0 the least significant bit of the slot (R218). -/
def decodeTableWord (_nbits w : Nat) : Option Instr :=
  match decode (BitVec.ofNat 96 w) with
  | .ok i => some i
  | .error _ => none

/-! ## Operand codes (R228) -/

/-- An operand field as R228 reads it; `flt n` is the `n`th float constant. -/
inductive Operand
  | v (n : Nat) | s (n : Nat) | k (n : Nat) | q (n : Nat)
  | int (c : Int) | flt (n : Nat) | none | reserved
deriving DecidableEq, Repr

/-- R228. -/
def operand (f : BitVec 10) : Operand :=
  let n := f.toNat % 256
  match f.toNat / 256 with
  | 0 => .v n
  | 1 =>
    if n < 128 then .s n
    else if n < 192 then .int (n - 128 : Int)
    else if n < 208 then .int ((n : Int) - 208)
    else if n < 217 then .flt (n - 208)
    else if n = 255 then .none
    else .reserved
  | 2 => .k n
  | _ => if n < 16 then .q n else .reserved

/-- Classes of operand a position may accept. -/
inductive Cls
  | v | s | k | q | const
deriving DecidableEq, Repr

/-- What an instruction's description says of one operand position. `num` is the type code that reads a constant there. -/
structure Pos where
  cls   : List Cls
  dst   : Bool := false
  opt   : Bool := false
  wide  : Bool := false      -- a v or s register stands for a pair
  group : Nat := 1           -- consecutive registers that must be owned
  num   : Nat := 0
deriving DecidableEq, Repr

/-- How an operand field is used: zero (R225), a register or constant, the width code (R322), or one of listed codes. -/
inductive Use
  | zero
  | reg (p : Pos)
  | width
  | codes (l : List Nat)
deriving DecidableEq, Repr

/-- How RND is used (R73, R277): zero, because the instruction rounds nothing or its rounding is fixed; any but RS; or any with a random
operand in the given field. -/
inductive RndUse
  | fixed | float | random (field : BitVec 10)
deriving DecidableEq, Repr

/-- What an instruction's description says of its fields. Formats M and B use `d`, `s1`, `s2` for D, A, S and C. -/
structure OpSpec where
  ch     : Bool := false
  guards : Bool := true
  la     : Bool := false
  sat    : Bool := false
  tys    : Option (List Nat) := none
  subs   : Option (List Nat) := none
  aux    : Nat := 0           -- AUX bits used
  auxMax : Nat := 7
  rnd    : RndUse := .fixed
  xf     : Nat := 0           -- XF bits used
  off    : Bool := false
  bmode  : Bool := false      -- BMODE and OFF32 used
  scope  : Option (List Nat) := none
  ords   : Option (List Nat) := none
  space  : Bool := false
  promo  : Bool := false
  d      : Use := .zero
  s1     : Use := .zero
  s2     : Use := .zero
  s3     : Use := .zero
  s4     : Use := .zero
deriving DecidableEq, Repr

/-- Type codes of R232. -/
def tyI32 : Nat := 0x00
def tyN32 : Nat := 0x01
def tyI64 : Nat := 0x02
def tyN64 : Nat := 0x03
def tyF32 : Nat := 0x08
def tyF64 : Nat := 0x09
def tyF16x2 : Nat := 0x0A
def tyBf16x2 : Nat := 0x0B
def tyE2M1 : Nat := 0x10
def tyE8M0 : Nat := 0x11
def tyB32 : Nat := 0x12
def tyB64 : Nat := 0x13

/-- 64-bit types: i64, n64, f64 and b64 (R232). -/
def wideTy (t : Nat) : Bool := t = 2 || t = 3 || t = 9 || t = 0x13

/-- Types with a float-constant encoding (R229). -/
def floatTy (t : Nat) : Bool := t = 8 || t = 9 || t = 10 || t = 11

/-- Accepted-type lists used by several rows. -/
def tysInt : List Nat := [0, 1, 2, 3]
def tysBit : List Nat := [0x12, 0x13]
def tysIntBit : List Nat := [0, 1, 2, 3, 0x12, 0x13]
def tysVec : List Nat := [0, 1, 2, 3, 4, 5, 6, 7]
def tysVecBit : List Nat := [0, 1, 2, 3, 4, 5, 6, 7, 0x12, 0x13]
def tysMov : List Nat := [0, 1, 0x12, 8, 2, 3, 0x13, 9]
def tysFloat : List Nat := [8, 9, 10, 11]
def tysF : List Nat := [8, 9]
def tysMx : List Nat := [0x0C, 0x0D, 0x0E, 0x0F, 0x10]
def tysAll : List Nat := List.range 0x14

/-- Scalar destination of width by type. -/
def dS (w : Bool) : Use := .reg { cls := [.s], dst := true, opt := true, wide := w }
/-- Scalar destination that must be present. -/
def dS1 (w : Bool) : Use := .reg { cls := [.s], dst := true, wide := w }
/-- Vector destination. -/
def dV (w : Bool) (g : Nat := 1) : Use := .reg { cls := [.v], dst := true, wide := w, group := g }
/-- Scalar source or constant. -/
def sS (w : Bool) (t : Nat) : Use := .reg { cls := [.s, .const], wide := w, num := t }
/-- Vector source position: v, s or constant. -/
def sV (w : Bool) (t : Nat) : Use := .reg { cls := [.v, .s, .const], wide := w, num := t }
/-- Optional random operand: v, s or integer constant (R277). -/
def sRand (w : Bool) : Use := .reg { cls := [.v, .s, .const], opt := true, wide := w }
/-- A v register only. -/
def sVonly (w : Bool) (g : Nat := 1) : Use := .reg { cls := [.v], wide := w, group := g }
/-- A scalar pair only. -/
def sPair : Use := .reg { cls := [.s], wide := true }
/-- A k register source or destination. -/
def kReg (dst : Bool) : Use := .reg { cls := [.k], dst := dst }
/-- A q register source or destination. -/
def qReg (dst : Bool) (opt : Bool := false) : Use := .reg { cls := [.q], dst := dst, opt := opt }

/-- Address operand of a scalar or vector memory instruction (R321). -/
def addrPos (vec : Bool) (space : Nat) : Use :=
  .reg { cls := if vec then [.v, .s] else [.s], wide := space = 0 }

/-- The integer value of a constant operand. -/
def constOf (f : BitVec 10) : Option Int :=
  match operand f with | .int c => some c | _ => none

/-- Destination types FCVT pairs with each source type (R288). -/
def cvtTo (src : Nat) : List Nat :=
  match src with
  | 8 => [8, 9, 0, 1, 2, 3, 10, 11, 0x11]
  | 9 => [8, 9, 0, 1, 2, 3]
  | 0 | 1 | 2 | 3 => [8, 9]
  | 10 => [11, 8]
  | 11 => [10, 8]
  | 0x11 => [8]
  | _ => []

/-- Every destination type of FCVT. -/
def cvtAny : List Nat := [8, 9, 0, 1, 2, 3, 10, 11, 0x11]

/-- Types of each atomic operation (R330). -/
def atomTys (op : Nat) : List Nat :=
  match op with
  | 0 | 4 | 5 => tysInt
  | 1 | 2 | 3 => tysIntBit
  | 6 | 7 => tysBit
  | 8 | 9 => [1]
  | 11 => [11]
  | _ => [8]

/-- Special registers of 64 bits (R390). -/
def wideSr (n : Nat) : Bool := n = 0x0C || n = 0x0D || n = 0x10 || n = 0x1D

/-- The fields of the opcode range that holds an opcode; an opcode of no range uses none. -/
def pickSpec (opc : Nat) : List (Nat × Nat × OpSpec) → OpSpec
  | [] => {}
  | (lo, hi, o) :: l => if lo ≤ opc && opc ≤ hi then o else pickSpec opc l

/-- Fields of the format-A instructions (Ctl). -/
def specACtl (_opc : Nat) (f : FormA) : List (Nat × Nat × OpSpec) :=
  let sub := f.sub.toNat
  [(0x007, 0x007, { guards := false }),
   (0x00D, 0x00D, { guards := false }),
   (0x011, 0x011, { subs := some [0, 1], d := dS1 false, s1 := sPair, s2 := sPair, s3 := .reg { cls := [.s] }, s4 := if sub = 1 then .reg { cls := [.s] } else .zero }),
   (0x012, 0x012, { s1 := .reg { cls := [.s] } }),
   (0x013, 0x013, { subs := some [0, 1], d := if sub = 1 then .zero else dS false, s1 := if sub = 1 then .zero else sS false 0 }),
   (0x014, 0x014, { subs := some [0, 1], d := dS false, s1 := .reg { cls := [.s] } }),
   (0x015, 0x015, { subs := some [0, 1], s1 := .reg { cls := [.s] } })]

/-- Fields of the format-A instructions (Scalar). -/
def specAScalar (_opc : Nat) (f : FormA) : List (Nat × Nat × OpSpec) :=
  let t := f.ty.toNat
  let w := wideTy t
  let sub := f.sub.toNat
  [(0x020, 0x020, { subs := some [0], tys := some tysBit, d := dS w, s1 := sS w t }),
   (0x023, 0x025, { subs := some [0], tys := some tysInt, sat := true, d := dS w, s1 := sS w t, s2 := sS w t }),
   (0x026, 0x026, { subs := some [0], tys := some tysInt, d := dS w, s1 := sS w t, s2 := sS w t }),
   (0x028, 0x028, { subs := some [0], tys := some tysInt, d := dS w, s1 := sS w t, s2 := sS w t }),
   (0x029, 0x029, { subs := some [0], tys := some tysInt, d := dS w, s1 := sS w t, s2 := sS w t }),
   (0x030, 0x030, { subs := some [0], tys := some tysInt, d := dS w, s1 := sS w t, s2 := sS w t }),
   (0x031, 0x031, { subs := some [0], tys := some tysInt, d := dS w, s1 := sS w t, s2 := sS w t }),
   (0x027, 0x027, { subs := some [0], tys := some tysInt, sat := true, d := dS w, s1 := sS w t, s2 := sS w t, s3 := sS w t }),
   (0x02A, 0x02C, { subs := some [0], tys := some tysIntBit, d := dS w, s1 := sS w t, s2 := sS w t }),
   (0x02D, 0x02F, { subs := some [0], tys := some tysIntBit, d := dS w, s1 := sS w t, s2 := sS false 0 }),
   (0x032, 0x032, { tys := some tysInt, subs := some (List.range 6), d := .reg { cls := [.s, .q], dst := true, opt := true, wide := w }, s1 := sS w t, s2 := sS w t }),
   (0x033, 0x033, { subs := some [0], tys := some tysBit, d := dS w, s1 := sS w t, s2 := sS w t, s3 := sS false 0 }),
   (0x034, 0x034, { subs := some [0], tys := some tysBit, d := dS false, s1 := sS w t }),
   (0x035, 0x035, { subs := some [0], tys := some tysBit, d := dS false, s1 := sS w t }),
   (0x036, 0x036, { subs := some [0], tys := some tysInt, d := dS w, s1 := sS w t, s2 := sS false 0, s3 := sS false 0 }),
   (0x037, 0x037, { subs := some [0], tys := some tysBit, d := dS w, s1 := sS w t, s2 := sS w t, s3 := sS false 0, s4 := sS false 0 }),
   (0x038, 0x038, { tys := some [0, 1], subs := some (List.range 8), d := dS true, s1 := sS true 2, s2 := sS false t }),
   (0x039, 0x039, { tys := some [0, 1, 2, 3, 8, 9], sat := true, rnd := .float, subs := some [0, 1, 2, 3, 8, 9], d := dS w, s1 := sS (wideTy sub) sub })]

/-- Fields of the format-A instructions (VecInt). -/
def specAVecInt (_opc : Nat) (f : FormA) : List (Nat × Nat × OpSpec) :=
  let t := f.ty.toNat
  let w := wideTy t
  [(0x040, 0x040, { tys := some tysBit, d := dV w, s1 := sV w t }),
   (0x042, 0x042, { tys := some tysBit, d := dV w, s1 := sVonly w, s2 := sS false 0 }),
   (0x043, 0x043, { tys := some tysInt, d := dV w, s1 := sS w t, s2 := sS w t }),
   (0x044, 0x046, { tys := some tysVec, sat := true, d := dV w, s1 := sV w t, s2 := sV w t }),
   (0x047, 0x047, { tys := some tysVec, d := dV w, s1 := sV w t, s2 := sV w t }),
   (0x04F, 0x04F, { tys := some tysVec, d := dV w, s1 := sV w t, s2 := sV w t }),
   (0x050, 0x050, { tys := some tysVec, d := dV w, s1 := sV w t, s2 := sV w t }),
   (0x048, 0x048, { tys := some tysVec, sat := true, d := dV w, s1 := sV w t, s2 := sV w t, s3 := sV w t }),
   (0x049, 0x04B, { tys := some tysVecBit, d := dV w, s1 := sV w t, s2 := sV w t }),
   (0x04C, 0x04E, { tys := some tysVecBit, d := dV w, s1 := sV w t, s2 := sV false t }),
   (0x051, 0x051, { tys := some [0, 2, 4, 6], sat := true, d := dV w, s1 := sV w t }),
   (0x052, 0x052, { tys := some tysInt, subs := some (List.range 6), d := qReg true, s1 := sV w t, s2 := sV w t }),
   (0x053, 0x053, { tys := some tysBit, d := dV w, s1 := sV w t, s2 := sV w t, s3 := qReg false }),
   (0x054, 0x054, { tys := some tysBit, d := dV false, s1 := sV w t }),
   (0x055, 0x055, { tys := some tysBit, d := dV false, s1 := sV w t }),
   (0x056, 0x056, { tys := some tysInt, d := dV w, s1 := sV w t, s2 := sV false 0, s3 := sV false 0 }),
   (0x057, 0x057, { tys := some tysBit, d := dV w, s1 := sV w t, s2 := sV w t, s3 := sV false 0, s4 := sV false 0 }),
   (0x058, 0x058, { tys := some [6, 7], sat := true, d := dV false, s1 := sV false t, s2 := sV false t, s3 := sV false (if t = 6 then 0 else 1) }),
   (0x059, 0x059, { tys := some [0x12], d := dV false 4, s1 := sVonly false 4, s2 := sPair })]

/-- Fields of the format-A instructions (Float). -/
def specAFloat (_opc : Nat) (f : FormA) : List (Nat × Nat × OpSpec) :=
  let t := f.ty.toNat
  let w := wideTy t
  let sub := f.sub.toNat
  [(0x060, 0x062, { tys := some tysFloat, rnd := .random f.s3, d := dV w, s1 := sV w t, s2 := sV w t, s3 := sRand w }),
   (0x063, 0x063, { tys := some tysFloat, rnd := .random f.s4, d := dV w, s1 := sV w t, s2 := sV w t, s3 := sV w t, s4 := sRand w }),
   (0x064, 0x064, { tys := some tysFloat, d := dV w, s1 := sV w t, s2 := sV w t }),
   (0x065, 0x065, { tys := some tysFloat, d := dV w, s1 := sV w t, s2 := sV w t }),
   (0x066, 0x066, { tys := some tysF, subs := some (List.range 8), d := qReg true, s1 := sV w t, s2 := sV w t }),
   (0x067, 0x067, { tys := some tysFloat, d := dV false, s1 := sV w t }),
   (0x068, 0x06A, { tys := some tysF, la := true, d := dV w, s1 := sV w t }),
   (0x06B, 0x06B, { tys := some tysF, rnd := .random f.s3, d := dV w, s1 := sV w t, s2 := sV w t, s3 := sRand w }),
   (0x06C, 0x070, { tys := some [8], la := true, d := dV false, s1 := sV false 8 }),
   (0x071, 0x071, (let pack := sub = 8 && (t = 10 || t = 11); { tys := some (if (cvtTo sub).isEmpty then cvtAny else cvtTo sub), subs := some [8, 9, 0, 1, 2, 3, 10, 11, 0x11], rnd := .random f.s3, aux := if (sub = 10 || sub = 11) && t = 8 then 1 else 0, d := dV w, s1 := sV (wideTy sub) sub, s2 := if pack then sV false sub else .zero, s3 := sRand w })),
   (0x072, 0x072, { tys := some tysFloat, rnd := .random f.s2, d := dV w, s1 := sV w t, s2 := sRand w }),
   (0x073, 0x073, { tys := some tysFloat, rnd := .random f.s3, d := dV w, s1 := sV w t, s2 := sV false 0, s3 := sRand w }),
   (0x074, 0x074, { tys := some [8], d := dV true, s1 := sV false 8 }),
   (0x075, 0x075, { tys := some [8], d := dV false, s1 := sV false 8, s2 := sVonly true })]

/-- Fields of the format-A instructions (Lane). -/
def specALane (_opc : Nat) (f : FormA) : List (Nat × Nat × OpSpec) :=
  let t := f.ty.toNat
  let w := wideTy t
  let sub := f.sub.toNat
  [(0x080, 0x080, { tys := some tysBit, subs := some (List.range 4), la := true, d := dV w, s1 := sVonly w, s2 := sV false 0, s3 := qReg true true }),
   (0x081, 0x081, { tys := some (if sub = 0 || sub = 1 || sub = 2 then tysInt ++ tysF else if sub ≤ 5 then tysIntBit else tysIntBit ++ tysF), subs := some (List.range 6), la := true, sat := sub = 0 && t < 4, rnd := if sub = 0 && (t = 8 || t = 9) then .float else .fixed, d := .reg { cls := [.v, .s], dst := true, wide := w }, s1 := sVonly w, s2 := qReg true true }),
   (0x082, 0x082, { tys := some (if sub % 8 ≤ 2 then tysInt ++ tysF else if sub % 8 ≤ 5 then tysIntBit else tysIntBit ++ tysF), subs := some [0, 1, 2, 3, 4, 5, 8, 9, 10, 11, 12, 13], la := true, sat := sub % 8 = 0 && t < 4, rnd := if sub % 8 = 0 && (t = 8 || t = 9) then .float else .fixed, d := dV w, s1 := sVonly w }),
   (0x083, 0x083, { tys := some [0x12], subs := some (List.range 5), la := true, d := .reg { cls := if sub ≤ 2 then [.s, .q] else [.s], dst := true, group := if sub = 3 then 3 else 1 }, s1 := qReg false }),
   (0x084, 0x084, { tys := some tysBit, la := true, d := dV w, s1 := sVonly w, s2 := qReg false, s3 := dS false })]

/-- Fields of the format-A instructions (Scale). -/
def specAScale (_opc : Nat) (f : FormA) : List (Nat × Nat × OpSpec) :=
  let t := f.ty.toNat
  let sub := f.sub.toNat
  [(0x090, 0x090, { subs := some [0], d := kReg true, s1 := kReg false }),
   (0x091, 0x091, { subs := some [0, 1, 2], d := if sub = 1 then dS1 true else if sub = 2 then dV false else dS1 false, s1 := kReg false, s2 := if sub = 2 then .zero else sS false 0 }),
   (0x092, 0x092, { subs := some [0, 1, 2], d := kReg true, s1 := if sub = 1 then sPair else if sub = 2 then sVonly false else .reg { cls := [.s] }, s2 := if sub = 2 then .zero else sS false 0 }),
   (0x093, 0x093, { tys := some (tysMx ++ [0x11]), subs := some [0], d := kReg true, s1 := sS false t }),
   (0x094, 0x094, { tys := some (tysMx ++ [0x11]), subs := some [0], d := kReg true, s1 := kReg false, s2 := sS false 0 }),
   (0x096, 0x096, { tys := some tysMx, subs := some [0, 1, 2], rnd := if sub = 1 || sub = 2 then .random f.s2 else .fixed, d := dV false ((if sub = 0 then 4 else 2) * (if t = 0x10 then 2 else 1)), s1 := sVonly false, s2 := sRand false }),
   (0x097, 0x097, (let n := match constOf f.s2 with | some c => if 1 ≤ c && c ≤ 32 then c.toNat else 1 | none => 1; { tys := some [8], subs := some [0], d := dS false, s1 := sVonly false n, s2 := sS false 0, s3 := sS false 0 })),
   (0x098, 0x098, { tys := some [8], subs := some [0], s1 := sS false 8, s2 := sS false 0 }),
   (0x099, 0x099, { subs := some [0, 1, 2], d := dS1 false, s1 := sS false 0, s2 := if sub = 1 then sS false 0 else .zero }),
   (0x09A, 0x09A, { subs := some [0], s1 := sS false 0 })]

/-- Fields of the format-A instructions (Sys). -/
def specASys (_opc : Nat) (f : FormA) : List (Nat × Nat × OpSpec) :=
  let t := f.ty.toNat
  let w := wideTy t
  let sub := f.sub.toNat
  [(0x0C8, 0x0C8, { guards := false, subs := some [0, 1], aux := 7, auxMax := 5 }),
   (0x108, 0x108, { subs := some [0, 1, 2], d := dS1 false, s1 := if sub = 2 then .reg { cls := [], opt := true } else sPair, s2 := if sub = 1 || sub = 2 then sS false 0 else .zero }),
   (0x10D, 0x10D, { d := dS false, s1 := sPair, s2 := .reg { cls := [.s], wide := true, opt := true }, s3 := sS false 0 }),
   (0x140, 0x140, { guards := false, s1 := sS true 2 }),
   (0x142, 0x142, { guards := false, s1 := sS false 0 }),
   (0x143, 0x143, { tys := some tysF, d := dV w, s1 := sS false 0 }),
   (0x145, 0x145, { guards := false })]

/-- Fields of the format-A instructions. -/
def specA (opc : Nat) (f : FormA) : OpSpec :=
  pickSpec opc (specACtl opc f ++ specAScalar opc f ++ specAVecInt opc f ++ specAFloat opc f ++ specALane opc f ++ specAScale opc f ++ specASys opc f)

/-- Fields of the format-I instructions (Ctl). -/
def specICtl (_opc : Nat) (f : FormI) : List (Nat × Nat × OpSpec) :=
  [(0x006, 0x006, { guards := false }),
   (0x00A, 0x00A, { guards := false }),
   (0x00B, 0x00B, { guards := false }),
   (0x009, 0x009, { guards := false, s1 := .reg { cls := [.s], opt := true } }),
   (0x00F, 0x00F, { d := .reg { cls := if f.imm.toNat < 2 then [.v] else [.s, .v], dst := true, wide := wideSr f.imm.toNat } }),
   (0x010, 0x010, { s1 := sS (wideSr f.imm.toNat) (if wideSr f.imm.toNat then 2 else 0) }),
   (0x014, 0x014, { subs := some [0, 1], d := dS false }),
   (0x015, 0x015, { subs := some [0, 1] })]

/-- Fields of the format-I instructions (Scalar). -/
def specIScalar (_opc : Nat) (f : FormI) : List (Nat × Nat × OpSpec) :=
  let t := f.ty.toNat
  let w := wideTy t
  let sub := f.sub.toNat
  [(0x021, 0x021, { tys := some (if sub = 1 then [0x13] else tysMov), subs := some [0, 1], d := dS w }),
   (0x022, 0x022, { subs := some [0], d := dS true }),
   (0x023, 0x025, { subs := some [0], tys := some tysInt, sat := true, d := dS w, s1 := sS w t }),
   (0x026, 0x026, { subs := some [0], tys := some tysInt, d := dS w, s1 := sS w t }),
   (0x028, 0x028, { subs := some [0], tys := some tysInt, d := dS w, s1 := sS w t }),
   (0x029, 0x029, { subs := some [0], tys := some tysInt, d := dS w, s1 := sS w t }),
   (0x030, 0x030, { subs := some [0], tys := some tysInt, d := dS w, s1 := sS w t }),
   (0x031, 0x031, { subs := some [0], tys := some tysInt, d := dS w, s1 := sS w t }),
   (0x036, 0x036, { subs := some [0], tys := some tysInt, d := dS w, s1 := sS w t }),
   (0x02A, 0x02F, { subs := some [0], tys := some tysIntBit, d := dS w, s1 := sS w t }),
   (0x032, 0x032, { tys := some tysInt, subs := some (List.range 6), d := .reg { cls := [.s, .q], dst := true, opt := true, wide := w }, s1 := sS w t })]

/-- Fields of the format-I instructions (Vec). -/
def specIVec (_opc : Nat) (f : FormI) : List (Nat × Nat × OpSpec) :=
  let t := f.ty.toNat
  let w := wideTy t
  let sub := f.sub.toNat
  [(0x041, 0x041, { tys := some tysMov, d := dV w }),
   (0x044, 0x046, { tys := some tysVec, sat := true, d := dV w, s1 := sV w t }),
   (0x047, 0x047, { tys := some tysVec, d := dV w, s1 := sV w t }),
   (0x04F, 0x04F, { tys := some tysVec, d := dV w, s1 := sV w t }),
   (0x050, 0x050, { tys := some tysVec, d := dV w, s1 := sV w t }),
   (0x049, 0x04E, { tys := some tysVecBit, d := dV w, s1 := sV w t }),
   (0x052, 0x052, { tys := some tysInt, subs := some (List.range 6), d := qReg true, s1 := sV w t }),
   (0x056, 0x056, { tys := some tysInt, d := dV w, s1 := sV w t }),
   (0x091, 0x091, { subs := some [0, 1], d := dS1 (sub = 1), s1 := kReg false }),
   (0x092, 0x092, { subs := some [0, 1], d := kReg true, s1 := if sub = 1 then sPair else .reg { cls := [.s] } }),
   (0x093, 0x093, { tys := some (tysMx ++ [0x11]), subs := some [0], d := kReg true }),
   (0x094, 0x094, { tys := some (tysMx ++ [0x11]), subs := some [0], d := kReg true, s1 := kReg false }),
   (0x09A, 0x09A, { subs := some [0] })]

/-- Fields of the format-I instructions. -/
def specI (opc : Nat) (f : FormI) : OpSpec :=
  pickSpec opc (specICtl opc f ++ specIScalar opc f ++ specIVec opc f)

/-- SCOPE codes that are legal (R233). -/
def scopesAll : List Nat := [0, 1, 2, 3, 4, 5]

/-- A memory instruction's common fields (R320, R324). -/
def memSpec (ords : List Nat) : OpSpec :=
  { ch := true, off := true, scope := some scopesAll, ords := some ords, space := true, promo := true }

/-- Fields of the format-M instructions (Mem). -/
def specMMem (_opc : Nat) (f : FormM) : List (Nat × Nat × OpSpec) :=
  let t := f.ty.toNat
  let w := wideTy t
  let sp := f.space.toNat
  [(0x0C0, 0x0C0, { memSpec [0, 1] with la := true, tys := some tysAll, d := dS1 w, s1 := addrPos false sp, s2 := .width }),
   (0x0C1, 0x0C1, { memSpec [0, 2] with tys := some tysAll, d := .width, s1 := addrPos false sp, s2 := sS w t }),
   (0x0C2, 0x0C2, { memSpec [0, 1] with la := true, tys := some tysAll, d := dV w, s1 := addrPos true sp, s2 := .width }),
   (0x0C3, 0x0C3, { memSpec [0, 2] with tys := some tysAll, d := .width, s1 := addrPos true sp, s2 := sV w t }),
   (0x0C4, 0x0C4, { memSpec [0, 1] with la := true, tys := some [0x12], d := dV false, s1 := addrPos false sp }),
   (0x0C5, 0x0C5, { memSpec [0, 2] with tys := some [0x12], s1 := addrPos false sp, s2 := sVonly false }),
   (0x0C6, 0x0C6, { memSpec [0] with scope := none, s1 := addrPos true sp }),
   (0x0C7, 0x0C7, { memSpec [0] with ch := false, scope := none, space := false, s1 := addrPos true sp, s2 := .codes [0x180, 0x181, 0x182, 0x183] }),
   (0x0C9, 0x0C9, { guards := false, scope := some [1, 2, 3, 4], ords := some [0], promo := true, d := .reg { cls := [.s], opt := true }, s1 := .reg { cls := [.s], opt := true, wide := true }, s2 := .reg { cls := [.s, .const], opt := true } }),
   (0x0CA, 0x0CA, { memSpec [0, 1] with la := true, tys := some tysIntBit, d := dS w, s1 := addrPos false sp, s2 := sS w t }),
   (0x0CB, 0x0CB, { memSpec [0] with ch := false, scope := none, guards := false, d := dS1 false, s1 := addrPos false sp }),
   (0x0CC, 0x0CC, { guards := false, ords := some [0], promo := true, d := dS1 false, s2 := sS false 0 })]

/-- Fields of the format-M instructions (Engine). -/
def specMEngine (opc : Nat) (f : FormM) : List (Nat × Nat × OpSpec) :=
  let t := f.ty.toNat
  let w := wideTy t
  let sp := f.space.toNat
  let band : OpSpec := { off := true, space := true, s1 := addrPos false sp }
  [(0x0E0, 0x0ED, { memSpec [0, 1, 2, 3] with la := true, tys := some (atomTys (opc - 0x0E0)), d := .reg { cls := [.v], dst := true, opt := true, wide := w }, s1 := addrPos true sp, s2 := if opc = 0x0E7 then .reg { cls := [.v, .s], wide := w, group := if w then 4 else 2 } else sV w t }),
   (0x0F0, 0x0FD, { memSpec [0, 1, 2, 3] with la := true, tys := some (atomTys (opc - 0x0F0)), d := dS w, s1 := addrPos false sp, s2 := if opc = 0x0F7 then .reg { cls := [.s], wide := w, group := if w then 4 else 2 } else sS w t }),
   (0x100, 0x100, band),
   (0x101, 0x101, { band with d := .reg { cls := [.s, .const], opt := true }, s2 := sS false 0 }),
   (0x102, 0x102, { band with s2 := sS false 0 }),
   (0x103, 0x103, { band with d := dS false, s2 := sS false 0 }),
   (0x104, 0x104, { band with d := qReg true, s2 := sV false 0 }),
   (0x10A, 0x10A, { band with ords := some [0], d := dS1 false, s2 := .codes [0x180, 0x181] }),
   (0x10B, 0x10B, (if f.ord = 2 then { band with ords := some [0, 2], s2 := sPair } else { band with ords := some [0, 2], d := dS1 true, s2 := qReg true true })),
   (0x10C, 0x10C, (if f.ord = 0 then { band with ords := some [0, 1], s2 := sPair } else { band with ords := some [0, 1], d := dS1 true, s2 := qReg true true }))]

/-- Fields of the format-M instructions. -/
def specM (opc : Nat) (f : FormM) : OpSpec :=
  pickSpec opc (specMMem opc f ++ specMEngine opc f)

/-- Fields of a format-B instruction (R260). -/
def specB (opc : Nat) : OpSpec :=
  if opc = 0x003 then { d := .reg { cls := [.s, .v], wide := true } }
  else { bmode := true, d := qReg false }

/-- Fields of a format-X instruction. -/
def specX (opc : Nat) (f : FormX) : OpSpec :=
  let xf := f.xf.toNat
  if opc = 0x008 then                                                                      -- PHASE (R272)
    { guards := false, xf := 0x3F00, s1 := sPair, s2 := sS false 0, s3 := sS false 0, s4 := sS false 0 }
  else if opc = 0x095 then                                                                 -- VQNT (R311, R312)
    let row := f.xf.getLsbD 6
    { xf := 0x3FFE, rnd := .random f.s3, d := dV false,
      s1 := sVonly false (if row then 32 else if xf / 512 = 0x10 then 8 else 4),
      s2 := if row then sS false 0 else .zero, s3 := sRand false }
  else if opc = 0x109 then                                                                 -- XCOPY (R345, R350)
    { ch := true, xf := 0x3FE0, rnd := if xf / 512 = 7 || xf / 512 = 8 then .float else .fixed, d := dS false,
      s1 := sS false 0, s2 := .reg { cls := [.s], group := 5 }, s3 := .reg { cls := [.s], group := 5 }, s4 := sS false 0 }
  else if opc = 0x141 then                                                                 -- MMA (R374)
    { xf := 0x2000, d := dV false, s1 := sVonly false, s2 := sS false 0, s3 := .reg { cls := [.s], opt := true } }
  else if opc = 0x144 then                                                                 -- DMMA (R374)
    { xf := 0x2000, d := dV false, s1 := sS false 0, s2 := sS false 0, s3 := .reg { cls := [.s], opt := true },
      s4 := .reg { cls := [.s], opt := true } }
  else {}

/-! ## The checks of R238 -/

/-- What decoding knows of the issuing warp: its allocation (R168), its context and its mode (R241). -/
structure DecodeEnv where
  vrc     : Nat := 256
  src     : Nat := 128
  system  : Bool := true
  handler : Bool := true
deriving DecidableEq, Repr

/-- A register is owned (R168, R228). -/
def DecodeEnv.owns (e : DecodeEnv) (c : Cls) (n : Nat) : Bool :=
  match c with
  | .v | .k => n < e.vrc
  | .s => n < e.src && n < 122 || (122 ≤ n && n < 128)
  | .q => n < 16
  | .const => true

/-- The first cause of a list of checks. -/
def firstCause (l : List (Option Cause)) : Option Cause :=
  l.foldr (fun c r => match c with | some x => some x | none => r) none

/-- `some c` when `b` holds. -/
def failIf (b : Bool) (c : Cause) : Option Cause := if b then some c else none

/-- A register of the given class at a position (R228, R231). -/
def checkReg (e : DecodeEnv) (p : Pos) (c : Cls) (n : Nat) : Option Cause :=
  let pair := p.wide && (c = .v || c = .s)
  let count := Nat.max p.group (if pair then 2 else 1)
  firstCause
    [failIf (!p.cls.contains c) (0x03, 0x06),
     failIf (!e.owns c n) (0x03, 0x01),
     failIf (pair && n % 2 = 1) (0x03, 0x02),
     failIf (!(List.range count).all fun i => e.owns c (n + i)) (0x03, 0x01)]

/-- One operand field (R228, R231). Log entry 9 gives the order within one field, log entry 59 the subcode of `none` where a source may not be
absent. -/
def checkUse (e : DecodeEnv) (f : BitVec 10) : Use → Option Cause
  | .zero => none
  | .width => failIf (!(f = 0x1FF || f = 0x181 || f = 0x182)) (0x03, 0x10)
  | .codes l => failIf (!l.contains f.toNat) (0x03, 0x10)
  | .reg p =>
    match operand f with
    | .v n => checkReg e p .v n
    | .s n => checkReg e p .s n
    | .k n => checkReg e p .k n
    | .q n => checkReg e p .q n
    | .int _ => if p.dst then some (0x03, 0x03) else failIf (!p.cls.contains .const) (0x03, 0x06)
    | .flt _ =>
      if p.dst then some (0x03, 0x03)
      else firstCause [failIf (!p.cls.contains .const) (0x03, 0x06), failIf (!floatTy p.num) (0x03, 0x04)]
    | .none => if p.opt then none else some (0x03, 0x06)
    | .reserved => if p.dst then some (0x03, 0x03) else some (0x03, 0x05)

/-- A field that its use says is zero. -/
def nonzeroUnused (f : BitVec 10) (u : Use) : Bool := u = .zero && f ≠ 0

/-- Whether a description leaves RND unused (R225): control and system instructions (R260, R388); FMIN, FMAX, FCMP and FCLASS (R284); memory
instructions but atomics (R320, R324); band, layout, ring and spawn instructions. The others that round nothing are among those of which R73
forbids every code but 000 (log entry 9). -/
def ignoresRnd (opc : Nat) : Bool :=
  opc < 0x016 || (0x064 ≤ opc && opc ≤ 0x067) || (0x0C0 ≤ opc && opc ≤ 0x0CC) || (0x100 ≤ opc && opc ≤ 0x10D && opc ≠ 0x109)

/-- Header checks that belong to step 4 (R225, R260, R320). -/
def hdrUnused (opc : Nat) (h : Hdr) (o : OpSpec) : Bool :=
  (!o.ch && h.ch ≠ 0) || (!o.guards && (h.gai ≠ 0 || h.gan ≠ 0 || h.gbi ≠ 0 || h.gbn ≠ 0)) || (ignoresRnd opc && h.rnd ≠ 0)

/-- Step 5 (R73, R277). -/
def checkRnd (h : Hdr) (r : RndUse) : Option Cause :=
  let bad : Bool := match r with
    | .fixed => h.rnd ≠ 0
    | .float => h.rnd = 6
    | .random f => h.rnd = 6 && f = 0x1FF
  failIf (h.rnd = 7 || bad) (0x01, 0x04)

/-- Step 6 (R236). -/
def checkLa (h : Hdr) (o : OpSpec) : Option Cause := failIf (!o.la && h.la ≠ 0) (0x01, 0x05)

/-- Step 8 for a TY field (R232). -/
def checkTy (t : Nat) (o : OpSpec) : Option Cause :=
  match o.tys with
  | none => none
  | some l => if 0x14 ≤ t then some (0x02, 0x01) else failIf (!l.contains t) (0x02, 0x02)

/-- A used code field must hold one of its values; an unused one is checked in step 4. -/
def checkCode (c : Nat) (l : Option (List Nat)) : Option Cause :=
  match l with | none => none | some l => failIf (!l.contains c) (0x01, 0x07)

/-- Constants and immediates whose limits are checked at decode (R268, R389, R394, R399, R256, R305, R374, R355). -/
def immLimit (opc : Nat) (f : FormI) : Option Cause :=
  let n := f.imm.toNat
  if opc = 0x00C || opc = 0x00E || opc = 0x014 || opc = 0x015 || opc = 0x093 then failIf (255 < n) (0x03, 0x10)
  else if opc = 0x00A || opc = 0x00B then failIf (15 < n) (0x03, 0x10)
  else if opc = 0x012 then failIf (0xFFFFFF < n) (0x03, 0x10)
  else if opc = 0x036 || opc = 0x056 then failIf (0xFFFF < n) (0x03, 0x10)
  else if opc = 0x00F then failIf (0x1E ≤ n) (0x03, 0x10)
  else if opc = 0x010 then
    if 0x1E ≤ n then some (0x03, 0x10)
    else failIf (!(n = 0x0E || n = 0x0F || n = 0x10 || (0x16 ≤ n && n ≤ 0x1B))) (0x03, 0x11)
  else none

/-- As `immLimit`, for constants of format A. -/
def constLimitA (opc : Nat) (f : FormA) : Option Cause :=
  match constOf f.s1 with
  | none => none
  | some c =>
    if opc = 0x142 then failIf (c < 0 || 7 < c) (0x03, 0x10)
    else if opc = 0x143 then failIf (c < 0 || (if f.ty = 9 then 32 else 64) < c) (0x03, 0x10)
    else if opc = 0x013 && f.sub = 0 then failIf (c < 0 || c % 2 = 1) (0x03, 0x10)
    else none

/-- As `immLimit`, for the constants in S of format M. -/
def constLimitM (opc : Nat) (f : FormM) : Option Cause :=
  firstCause
    [failIf (opc = 0x102 && constOf f.s = some 0) (0x03, 0x10),
     failIf (opc = 0x103 && (constOf f.s).any (· < 0)) (0x03, 0x10)]

/-- SRSET of a dead-peer register (R392). -/
def Form.isDeadPeer : Form → Bool
  | .i g => 0x16 ≤ g.imm.toNat && g.imm.toNat ≤ 0x1B
  | _ => false

/-- Step 10 (R241, R392). -/
def checkPrivilege (e : DecodeEnv) (opc : Nat) (f : Form) : Option Cause :=
  firstCause
    [failIf (opc = 0x00D && !e.handler) (0x08, 0x01),
     failIf (opc = 0x011 && !e.system) (0x08, 0x02),
     failIf (opc = 0x010 && !e.system && f.isDeadPeer) (0x08, 0x03)]

/-- Checks 4 to 9 of R238 on a format-A instruction. -/
def checkA (e : DecodeEnv) (opc : Nat) (f : FormA) : Option Cause :=
  let o := specA opc f
  firstCause
    [failIf (hdrUnused opc f.hdr o || nonzeroUnused f.d o.d || nonzeroUnused f.s1 o.s1 || nonzeroUnused f.s2 o.s2 ||
       nonzeroUnused f.s3 o.s3 || nonzeroUnused f.s4 o.s4 || (o.tys.isNone && f.ty ≠ 0) || (!o.sat && f.sat ≠ 0) ||
       (f.aux.toNat &&& (7 ^^^ o.aux)) ≠ 0 || (o.subs.isNone && f.sub ≠ 0)) (0x01, 0x06),
     checkRnd f.hdr o.rnd,
     checkLa f.hdr o,
     checkCode f.sub.toNat o.subs,
     failIf (o.auxMax < f.aux.toNat) (0x01, 0x07),
     checkTy f.ty.toNat o,
     checkUse e f.d o.d, checkUse e f.s1 o.s1, constLimitA opc f, checkUse e f.s2 o.s2, checkUse e f.s3 o.s3, checkUse e f.s4 o.s4]

/-- Checks 4 to 9 of R238 on a format-I instruction. -/
def checkI (e : DecodeEnv) (opc : Nat) (f : FormI) : Option Cause :=
  let o := specI opc f
  firstCause
    [failIf (hdrUnused opc f.hdr o || nonzeroUnused f.d o.d || nonzeroUnused f.s1 o.s1 || (o.tys.isNone && f.ty ≠ 0) ||
       (!o.sat && f.sat ≠ 0) || f.z ≠ 0 || (o.subs.isNone && f.sub ≠ 0)) (0x01, 0x06),
     checkRnd f.hdr o.rnd,
     checkLa f.hdr o,
     checkCode f.sub.toNat o.subs,
     checkTy f.ty.toNat o,
     checkUse e f.d o.d, checkUse e f.s1 o.s1,
     immLimit opc f]

/-- Step 8's rule for the width field: `.w8` and `.w16` need i32, n32 or b32 (R322). -/
def widthTyFault (f : BitVec 10) (u : Use) (t : Nat) : Bool :=
  u = .width && (f = 0x181 || f = 0x182) && !(t = 0 || t = 1 || t = 0x12)

/-- PROMO's conditions (R134). -/
def promoFault (opc : Nat) (f : FormM) : Bool :=
  let atom := 0x0E0 ≤ opc && opc ≤ 0x0FD
  let acquires := (opc = 0x0C0 || opc = 0x0C2 || opc = 0x0C4 || opc = 0x0CA) && f.ord = 1 || atom && (f.ord = 1 || f.ord = 3)
  f.promo = 1 && (!acquires || f.scope.toNat < 2)

/-- Checks 4 to 9 of R238 on a format-M instruction. -/
def checkM (e : DecodeEnv) (opc : Nat) (f : FormM) : Option Cause :=
  let o := specM opc f
  firstCause
    [failIf (hdrUnused opc f.hdr o || nonzeroUnused f.d o.d || nonzeroUnused f.a o.s1 || nonzeroUnused f.s o.s2 ||
       (!o.off && f.off ≠ 0) || (o.tys.isNone && f.ty ≠ 0) || (o.scope.isNone && f.scope ≠ 0) ||
       (o.ords.isNone && f.ord ≠ 0) || (!o.space && f.space ≠ 0) || (!o.promo && f.promo ≠ 0) || f.z ≠ 0) (0x01, 0x06),
     checkRnd f.hdr o.rnd,
     checkLa f.hdr o,
     checkCode f.scope.toNat o.scope,
     checkCode f.ord.toNat o.ords,
     failIf (opc = 0x0CB && f.space ≠ 0) (0x01, 0x07),
     failIf (o.promo && promoFault opc f) (0x01, 0x07),
     checkTy f.ty.toNat o,
     failIf (widthTyFault f.d o.d f.ty.toNat || widthTyFault f.s o.s2 f.ty.toNat) (0x02, 0x02),
     checkUse e f.d o.d, failIf (opc = 0x101 && (constOf f.d).any (· ≠ 0)) (0x03, 0x10),
     checkUse e f.a o.s1, checkUse e f.s o.s2,
     failIf (opc = 0x0C9 && (decide (f.a = 0x1FF) != decide (f.s = 0x1FF))) (0x03, 0x06),
     constLimitM opc f]

/-- Checks 4 to 9 of R238 on a format-B instruction. -/
def checkB (e : DecodeEnv) (opc : Nat) (f : FormB) : Option Cause :=
  let o := specB opc
  firstCause
    [failIf (hdrUnused opc f.hdr o || (!o.bmode && (f.off ≠ 0 || f.bmode ≠ 0)) || f.z ≠ 0) (0x01, 0x06),
     checkRnd f.hdr o.rnd,
     checkLa f.hdr o,
     failIf (f.bmode = 3) (0x01, 0x07),
     checkUse e f.c o.d]

/-- Step 7's rules for XF (R311, R345). -/
def xfFault (opc : Nat) (f : FormX) : Bool :=
  let xf := f.xf.toNat
  if opc = 0x109 then 8 < xf / 512
  else if opc = 0x095 then xf / 128 % 4 = 3 || (xf / 2 % 32 ≠ 0 && xf / 128 % 4 ≠ 1)
  else false

/-- Checks 4 to 9 of R238 on a format-X instruction. -/
def checkX (e : DecodeEnv) (opc : Nat) (f : FormX) : Option Cause :=
  let o := specX opc f
  firstCause
    [failIf (hdrUnused opc f.hdr o || nonzeroUnused f.d o.d || nonzeroUnused f.s1 o.s1 || nonzeroUnused f.s2 o.s2 ||
       nonzeroUnused f.s3 o.s3 || nonzeroUnused f.s4 o.s4 || (f.xf.toNat &&& (0x3FFF ^^^ o.xf)) ≠ 0) (0x01, 0x06),
     checkRnd f.hdr o.rnd,
     checkLa f.hdr o,
     failIf (xfFault opc f) (0x01, 0x07),
     if opc = 0x095 then checkTy (f.xf.toNat / 512) { tys := some tysMx } else none,
     checkUse e f.d o.d, checkUse e f.s1 o.s1, checkUse e f.s2 o.s2, checkUse e f.s3 o.s3, checkUse e f.s4 o.s4]

/-- Checks 4 to 9 of R238; NOP is checked for nothing (R225). -/
def checkForm (e : DecodeEnv) (opc : Nat) (f : Form) : Option Cause :=
  if opc = 0x000 then none
  else match f with
    | .a g => checkA e opc g
    | .i g => checkI e opc g
    | .m g => checkM e opc g
    | .b g => checkB e opc g
    | .x g => checkX e opc g

/-- Checks 4 to 10 of R238. -/
def checkAll (e : DecodeEnv) (opc : Nat) (f : Form) : Option Cause :=
  firstCause [checkForm e opc f, checkPrivilege e opc f]

/-- The fault of a word that is no row of the table (R238). -/
def Reject.cause (e : DecodeEnv) : Reject → Cause
  | .badFormat => (0x01, 0x02)
  | .unassigned => (0x01, 0x01)
  | .formatNotAllowed => (0x01, 0x03)
  | .selector opc f => (checkAll e opc f).getD (0x01, 0x07)

/-! ## The encoder -/

/-- Opcode and form of a row that is an instruction; an event has none. -/
def Instr.code? : Instr → Option (Nat × Form)
  | .nop f => some (0x000, .a f)
  | .exit f => some (0x001, .a f)
  | .bra f => some (0x002, .b f)
  | .brx f => some (0x003, .b f)
  | .call f => some (0x004, .b f)
  | .ret f => some (0x005, .a f)
  | .felt f => some (0x006, .i f)
  | .yield f => some (0x007, .a f)
  | .phase f => some (0x008, .x f)
  | .sleep f => some (0x009, .i f)
  | .bar f => some (0x00A, .i f)
  | .barh f => some (0x00B, .i f)
  | .trap f => some (0x00C, .i f)
  | .bkpt f => some (0x00E, .i f)
  | .tret f => some (0x00D, .a f)
  | .srget f => some (0x00F, .i f)
  | .srset f => some (0x010, .i f)
  | .migr f => some (0x011, .a f)
  | .migrSwap f => some (0x011, .a f)
  | .trace f => some (0x012, .a f)
  | .traceImm f => some (0x012, .i f)
  | .trctlSet f => some (0x013, .a f)
  | .trctlFlush f => some (0x013, .a f)
  | .evset f => some (0x014, .a f)
  | .evsetImm f => some (0x014, .i f)
  | .evwait f => some (0x015, .a f)
  | .evwaitImm f => some (0x015, .i f)
  | .smov f => some (0x020, .a f)
  | .smovi f => some (0x021, .i f)
  | .smovih f => some (0x022, .i f)
  | .sadd f => some (0x023, .a f)
  | .saddImm f => some (0x023, .i f)
  | .ssub f => some (0x024, .a f)
  | .ssubImm f => some (0x024, .i f)
  | .smul f => some (0x025, .a f)
  | .smulImm f => some (0x025, .i f)
  | .smulh f => some (0x026, .a f)
  | .smulhImm f => some (0x026, .i f)
  | .smad f => some (0x027, .a f)
  | .sdiv f => some (0x028, .a f)
  | .sdivImm f => some (0x028, .i f)
  | .srem f => some (0x029, .a f)
  | .sremImm f => some (0x029, .i f)
  | .sand f => some (0x02A, .a f)
  | .sandImm f => some (0x02A, .i f)
  | .sor f => some (0x02B, .a f)
  | .sorImm f => some (0x02B, .i f)
  | .sxor f => some (0x02C, .a f)
  | .sxorImm f => some (0x02C, .i f)
  | .sshl f => some (0x02D, .a f)
  | .sshlImm f => some (0x02D, .i f)
  | .sshr f => some (0x02E, .a f)
  | .sshrImm f => some (0x02E, .i f)
  | .ssra f => some (0x02F, .a f)
  | .ssraImm f => some (0x02F, .i f)
  | .smin f => some (0x030, .a f)
  | .sminImm f => some (0x030, .i f)
  | .smax f => some (0x031, .a f)
  | .smaxImm f => some (0x031, .i f)
  | .scmp f => some (0x032, .a f)
  | .scmpImm f => some (0x032, .i f)
  | .ssel f => some (0x033, .a f)
  | .sclz f => some (0x034, .a f)
  | .spopc f => some (0x035, .a f)
  | .sbfe f => some (0x036, .a f)
  | .sbfeImm f => some (0x036, .i f)
  | .sbfi f => some (0x037, .a f)
  | .slea f => some (0x038, .a f)
  | .scvt f => some (0x039, .a f)
  | .vmov f => some (0x040, .a f)
  | .vmovi f => some (0x041, .i f)
  | .vbcst f => some (0x042, .a f)
  | .vidx f => some (0x043, .a f)
  | .vadd f => some (0x044, .a f)
  | .vaddImm f => some (0x044, .i f)
  | .vsub f => some (0x045, .a f)
  | .vsubImm f => some (0x045, .i f)
  | .vmul f => some (0x046, .a f)
  | .vmulImm f => some (0x046, .i f)
  | .vmulh f => some (0x047, .a f)
  | .vmulhImm f => some (0x047, .i f)
  | .vmad f => some (0x048, .a f)
  | .vand f => some (0x049, .a f)
  | .vandImm f => some (0x049, .i f)
  | .vor f => some (0x04A, .a f)
  | .vorImm f => some (0x04A, .i f)
  | .vxor f => some (0x04B, .a f)
  | .vxorImm f => some (0x04B, .i f)
  | .vshl f => some (0x04C, .a f)
  | .vshlImm f => some (0x04C, .i f)
  | .vshr f => some (0x04D, .a f)
  | .vshrImm f => some (0x04D, .i f)
  | .vsra f => some (0x04E, .a f)
  | .vsraImm f => some (0x04E, .i f)
  | .vmin f => some (0x04F, .a f)
  | .vminImm f => some (0x04F, .i f)
  | .vmax f => some (0x050, .a f)
  | .vmaxImm f => some (0x050, .i f)
  | .vabs f => some (0x051, .a f)
  | .vcmp f => some (0x052, .a f)
  | .vcmpImm f => some (0x052, .i f)
  | .vsel f => some (0x053, .a f)
  | .vclz f => some (0x054, .a f)
  | .vpopc f => some (0x055, .a f)
  | .vbfe f => some (0x056, .a f)
  | .vbfeImm f => some (0x056, .i f)
  | .vbfi f => some (0x057, .a f)
  | .vdot4 f => some (0x058, .a f)
  | .philox f => some (0x059, .a f)
  | .fadd f => some (0x060, .a f)
  | .fsub f => some (0x061, .a f)
  | .fmul f => some (0x062, .a f)
  | .ffma f => some (0x063, .a f)
  | .fmin f => some (0x064, .a f)
  | .fmax f => some (0x065, .a f)
  | .fcmp f => some (0x066, .a f)
  | .fclass f => some (0x067, .a f)
  | .frcp f => some (0x068, .a f)
  | .frsq f => some (0x069, .a f)
  | .fsqrt f => some (0x06A, .a f)
  | .fdiv f => some (0x06B, .a f)
  | .fexp2 f => some (0x06C, .a f)
  | .flog2 f => some (0x06D, .a f)
  | .fsin f => some (0x06E, .a f)
  | .fcos f => some (0x06F, .a f)
  | .ftanh f => some (0x070, .a f)
  | .fcvt f => some (0x071, .a f)
  | .frint f => some (0x072, .a f)
  | .fscale f => some (0x073, .a f)
  | .fsmxu f => some (0x074, .a f)
  | .fsmxf f => some (0x075, .a f)
  | .vshfl f => some (0x080, .a f)
  | .vred f => some (0x081, .a f)
  | .vscan f => some (0x082, .a f)
  | .vvote f => some (0x083, .a f)
  | .vcmpr f => some (0x084, .a f)
  | .kmov f => some (0x090, .a f)
  | .kget f => some (0x091, .a f)
  | .kgetImm f => some (0x091, .i f)
  | .kset f => some (0x092, .a f)
  | .ksetImm f => some (0x092, .i f)
  | .kfill f => some (0x093, .a f)
  | .kfillImm f => some (0x093, .i f)
  | .kadd f => some (0x094, .a f)
  | .kaddImm f => some (0x094, .i f)
  | .vqntLane f => some (0x095, .x f)
  | .vqntRow f => some (0x095, .x f)
  | .vdqnt f => some (0x096, .a f)
  | .vamax f => some (0x097, .a f)
  | .amxpush f => some (0x098, .a f)
  | .amxget f => some (0x099, .a f)
  | .amxclr f => some (0x09A, .a f)
  | .amxclrImm f => some (0x09A, .i f)
  | .sld f => some (0x0C0, .m f)
  | .sst f => some (0x0C1, .m f)
  | .vld f => some (0x0C2, .m f)
  | .vst f => some (0x0C3, .m f)
  | .vldl f => some (0x0C4, .m f)
  | .vstl f => some (0x0C5, .m f)
  | .pref f => some (0x0C6, .m f)
  | .cctl f => some (0x0C7, .m f)
  | .fence f => some (0x0C8, .a f)
  | .tfence f => some (0x0C9, .m f)
  | .waitv f => some (0x0CA, .m f)
  | .watch f => some (0x0CB, .m f)
  | .unwatch f => some (0x0CC, .m f)
  | .atomAdd f => some (0x0E0, .m f)
  | .atomAnd f => some (0x0E1, .m f)
  | .atomOr f => some (0x0E2, .m f)
  | .atomXor f => some (0x0E3, .m f)
  | .atomMin f => some (0x0E4, .m f)
  | .atomMax f => some (0x0E5, .m f)
  | .atomExch f => some (0x0E6, .m f)
  | .atomCas f => some (0x0E7, .m f)
  | .atomIncw f => some (0x0E8, .m f)
  | .atomDecw f => some (0x0E9, .m f)
  | .atomFaddF32 f => some (0x0EA, .m f)
  | .atomFaddBf16x2 f => some (0x0EB, .m f)
  | .atomFminF32 f => some (0x0EC, .m f)
  | .atomFmaxF32 f => some (0x0ED, .m f)
  | .satomAdd f => some (0x0F0, .m f)
  | .satomAnd f => some (0x0F1, .m f)
  | .satomOr f => some (0x0F2, .m f)
  | .satomXor f => some (0x0F3, .m f)
  | .satomMin f => some (0x0F4, .m f)
  | .satomMax f => some (0x0F5, .m f)
  | .satomExch f => some (0x0F6, .m f)
  | .satomCas f => some (0x0F7, .m f)
  | .satomIncw f => some (0x0F8, .m f)
  | .satomDecw f => some (0x0F9, .m f)
  | .satomFaddF32 f => some (0x0FA, .m f)
  | .satomFaddBf16x2 f => some (0x0FB, .m f)
  | .satomFminF32 f => some (0x0FC, .m f)
  | .satomFmaxF32 f => some (0x0FD, .m f)
  | .bandi f => some (0x100, .m f)
  | .bandx f => some (0x101, .m f)
  | .banda f => some (0x102, .m f)
  | .bandw f => some (0x103, .m f)
  | .bandt f => some (0x104, .m f)
  | .xlayNew f => some (0x108, .a f)
  | .xlaySet f => some (0x108, .a f)
  | .xlayFree f => some (0x108, .a f)
  | .xcopy f => some (0x109, .x f)
  | .qinitInit f => some (0x10A, .m f)
  | .qinitFini f => some (0x10A, .m f)
  | .qputResv f => some (0x10B, .m f)
  | .qputCommit f => some (0x10B, .m f)
  | .qgetAcq f => some (0x10C, .m f)
  | .qgetFree f => some (0x10C, .m f)
  | .spawn f => some (0x10D, .a f)
  | .mshape f => some (0x140, .a f)
  | .mma f => some (0x141, .x f)
  | .dmma f => some (0x144, .x f)
  | .mmaw f => some (0x142, .a f)
  | .mzero f => some (0x143, .a f)
  | .mfence f => some (0x145, .a f)
  | _ => none

/-- The header of an instruction (R224). -/
def encodeHdr (opc : Nat) (fmt : Nat) (h : Hdr) : BitVec 32 :=
  BitVec.ofNat 10 opc ++ h.la ++ h.gai ++ h.gan ++ h.gbi ++ h.gbn ++ h.rnd ++ h.ch ++ BitVec.ofNat 3 fmt

/-- The operand area of a form (R227). -/
def encodeArea : Form → BitVec 64
  | .a f => f.d ++ f.s1 ++ f.s2 ++ f.s3 ++ f.s4 ++ f.ty ++ f.sat ++ f.aux ++ f.sub
  | .i f => f.d ++ f.s1 ++ f.imm ++ f.ty ++ f.sat ++ f.z ++ f.sub
  | .m f => f.d ++ f.a ++ f.s ++ f.off ++ f.ty ++ f.scope ++ f.ord ++ f.space ++ f.promo ++ f.z
  | .b f => f.c ++ f.off ++ f.bmode ++ f.z
  | .x f => f.d ++ f.s1 ++ f.s2 ++ f.s3 ++ f.s4 ++ f.xf

/-- The 96 bits of an instruction (R218, R224, R227). -/
def encodeForm (opc : Nat) (f : Form) : BitVec 96 := encodeHdr opc f.fmt f.hdr ++ encodeArea f

/-- The word of an instruction; an event has no word and gives zero. -/
def encode (i : Instr) : BitVec 96 :=
  match i.code? with
  | some (opc, f) => encodeForm opc f
  | none => 0

end Sys2Proof
end

