-- ==== Sys2Proof/Machine/State.lean ====
section
/-! DEFINITION. The state of one Tusum 4M package as plain data: everything the manual gives the machine (INVENTORY.md, '## State'). -/

namespace Sys2Proof.Machine

open Sys2Proof

/-- An L1 line (R50, R60). The list order within a core and set is the order of use, newest first. -/
structure L1Line where
  core : Nat
  ctx  : Nat
  va   : Nat                -- VA / 128
  pa   : Nat                -- PA / 128
  data : LineData
  tag  : TagWord
  prio : Nat := 0
  poison : List (Nat × Nat) := []  -- words of the line that came poisoned, with what they raise (R59)
deriving DecidableEq, Repr

/-- A piece of one lane's access: either storage that needs no translation (`key`), or a virtual address. `shift` is where its
bytes stand in the lane's value; an access is one piece but in the lane-private window (R22). -/
structure Piece where
  lane  : Nat
  va    : Nat
  key   : Option Nat := none
  n     : Nat
  shift : Nat := 0
  attr  : Nat := 1
  hit   : Option L1Line := none
  virt  : Bool := false   -- its address is virtual: global, or lane-private backing (R23)
  from_ : Option (Nat × Nat) := none -- a stub has relayed it: its PA in the old frame, and the die of the stub (R111, R434)
deriving DecidableEq, Repr

/-- Where a store goes: the device's own storage or a coherent line of the host, the pod, uncached host memory, a device register. -/
inductive StoreTo
  | store | pod | uc | device (off : Nat)
deriving DecidableEq, Repr

/-- One store or atomic of a waiting instruction, by single-copy-atomic unit (R132, R419): the bytes it covers (storage key, count, place
in the value), its value, its tag, for an atomic what it asks, where it goes, and the address of its lane. -/
structure StoreUnit where
  parts : List (Nat × Nat × Nat)
  val   : Nat
  tag   : Option TagWord := none
  op    : Option AtomicReq := none
  dest  : StoreTo := .store
  va    : Nat := 0
deriving DecidableEq, Repr

/-- An issued instruction that waits (R427, R141, R335, R357, R368): its PC and word, the lanes it acts for, the values its source
registers held when it issued (R101's DATA), the pieces of its access once they are resolved, and what it has still to store. -/
structure InFlight where
  pc     : DWord
  insn   : BitVec 96
  act    : LaneMask
  data   : Nat
  pieces : List Piece := []
  units  : List StoreUnit := []
  pair   : Bool := false    -- its PAIR bit is set: it opens its window when it has completed (R237)
deriving DecidableEq, Repr

/-- An instruction with lookahead that has issued and waits for answers, or for its value, while its window lets its hood go on (R236, R335,
R427): the hood's key and lanes at its issue, whether it is a WAITV that has still to read another value, and what instructions inside
its window have written to its destinations since, with their lanes. -/
structure Flight where
  hood  : Nat
  lanes : LaneMask
  x     : InFlight
  value : Bool := false
  later : List (Cls × Nat × LaneMask) := []
  posted : Bool := false    -- a pod atomic without a destination, past which its hood goes on (R427)
deriving DecidableEq, Repr

/-- Why a slice is not issuing (R186). Each waiting kind keeps what its completing event needs. -/
inductive Wait
  | run                                   -- not waiting
  | felt (tag : Word)                     -- at FELT (R181)
  | collective                            -- at a warp-collective instruction (R182)
  | barrier (gangWide : Bool) (id : Nat)  -- the warp has arrived at BAR or BARH (R268)
  | phase (f : FormX)                     -- the warp has arrived at PHASE (R272)
  | sleep (until_ : Nat)                  -- SLEEP, by the core's cycle count (R267)
  | event (bit : Nat) (val : Bool)        -- EVWAIT (R398)
  | value (x : InFlight)                     -- WAITV (R335)
  | band (x : InFlight)                      -- BANDW (R357)
  | ringResv (x : InFlight)                  -- QPUT.resv.wait (R368)
  | ringCommit (x : InFlight)                -- QPUT.commit (R368)
  | ringAcq (x : InFlight)                   -- QGET.acq.wait (R369)
  | ringFree (x : InFlight)                  -- QGET.free (R369)
  | copy (id : Nat)                       -- XCOPY waiting for its copy to be taken (R346)
  | products (n : Nat)                    -- MMAW (R383)
  | remote (x : InFlight)                 -- remote wait (R427) or a host access outstanding (R141)
  | tfence (id : Nat)                     -- TFENCE (R334)
  | migration (id : Nat)                  -- MIGR (R401)
  | fetch (batch line : Nat)              -- the fetch of a code line (VA / 64) faulted (R105, R223)
  | yield (others : List HoodRef)         -- YIELD, with the hoods that have still to issue (R266)
  | traceHold                             -- held by lossless trace (R446)
deriving DecidableEq, Repr

/-- One slice of four lanes (R164, R187): its PC, whether it has not ended, its hood's key, and what it waits for. -/
structure Slice where
  pc   : DWord
  live : Bool := true
  hood : Nat := 0
  wait : Wait := .run
  last : Nat := 0           -- when it last issued, by its pipe's cycles (R217, key 4)
  tgt  : Bool := false      -- the PC was entered by a non-sequential transfer not yet checked (R221 to R223)
  held : Bool := false      -- its last try to issue was held back: its hood is not eligible (R186)
  ready : Option Nat := none -- since when its hood has been eligible without issuing, by its pipe's cycles (R217, key 1)
  fence : Nat := 0          -- the counter of free values at its last MFENCE (R384)
deriving DecidableEq, Repr

/-- One operand-log entry (R101). `again` marks an entry whose lanes all translate by now and whose access waits for something else
(R150, R360, R427, R428). -/
structure LogEntry where
  pc     : DWord := 0
  insn   : BitVec 96 := 0
  ctl    : Word := 0
  lanes  : LaneMask := 0
  batch  : Word := 0
  data   : BitVec 9216 := 0
  again  : Bool := false
  due    : Bool := false    -- its replay is the next thing to happen (R102, R412)
  hood   : LaneMask := 0    -- lanes of the hood that issued it (R173), the model's own: a frame does not hold it
  later  : List (Cls × Nat × LaneMask) := []  -- what instructions inside its window have written to its destinations since (R236)
deriving DecidableEq, Repr

/-- An open lookahead or pairing window (R184, R236, R237): the hood it counts for, how many instructions remain, the lanes its
instruction was active in, the registers it writes with the values they held before (number, old value), the k bytes it writes, and
whether it has been performed. -/
structure Window where
  hood  : Nat
  count : Nat
  pc    : DWord := 0
  pair  : Bool := false     -- opened by a PAIR bit
  act   : LaneMask := 0
  oldV  : List (Nat × VReg) := []
  oldK  : List (Nat × KReg) := []
  oldS  : List (Nat × Word) := []
  oldQ  : List (Nat × LaneMask) := []
  kb    : List (Nat × Nat) := []
  done  : Bool := true
deriving DecidableEq, Repr

/-- What hoods of one warp share (R177, R300): a scalar register, a byte of a k register, MODE. -/
inductive SharedLoc
  | s (n : Nat)
  | k (n byte : Nat)
  | mode
deriving DecidableEq, Repr

/-- A write of it by one hood of a divergent warp with no FELT or collective since (R177, R300): the hood's lanes, what stood there before
and what was written; the lanes of the hoods that have written there since and so no longer read what stood before; and whether the
hood itself has written there again. -/
structure SharedWrite where
  lanes : LaneMask
  loc   : SharedLoc
  old   : Word
  val   : Word
  blind : LaneMask := 0
  stale : Bool := false
deriving DecidableEq, Repr

/-- What a vector register and its k register held before a write that may still matter to a matrix product (R136, R386): when (the
counter of free values), in which lanes the write was made, the contents before it, and whether the matrix unit made it. -/
structure RegPast where
  n     : Nat
  at_   : Nat
  lanes : LaneMask
  v     : Option VReg       -- none: the write left it alone
  k     : Option KReg
  unit  : Bool := false
deriving DecidableEq, Repr

/-- A fault record before it is written (R403): what the raising agent supplies. -/
structure FaultRec where
  code  : Nat
  sub   : Nat
  lanes : LaneMask := 0
  pc    : DWord := 0
  va    : DWord := 0
  resum : Bool := false
deriving DecidableEq, Repr

/-- A handler entry that waits until the warp's issued instructions have completed or parked (R393): its records, its REASON
(R411) and the PC for FAULT_PC. -/
structure Entry where
  recs   : List FaultRec
  reason : Nat
  pc     : DWord
  written : Bool := false   -- its records and frame are written, and wait for the host to give their lines up (R450)
deriving DecidableEq, Repr

/-- One resident warp (R58, R167, R168, R170). -/
structure Warp where
  core      : Nat                -- device-wide core, 144 × die + core on the die
  slot      : Nat                -- warp slot of the core, 0 to 31 (R202)
  gang      : Nat                -- its gang's number in `State.gangs`
  pos       : Nat                -- gang position of its block
  idx       : Nat                -- warp index within the block (`%warp`)
  ctx       : Nat                -- context id
  vrc       : Nat := 16
  src       : Nat := 4
  v         : List VReg := []
  k         : List KReg := []
  s         : List Word := []    -- s0 to s127
  q         : List LaneMask := []  -- q0 to q15
  mode      : Word := 1
  flags     : Word := 0
  mshape    : DWord := 0
  tvec      : DWord := 0
  slices    : List Slice := []
  handler   : Bool := false
  halted    : Bool := false
  log       : List LogEntry := []
  windows   : List Window := []
  shared    : List SharedWrite := []
  flights   : List Flight := []    -- oldest first
  past      : List RegPast := []   -- newest first
  entry     : Option Entry := none
  frameSlot : Nat := 0
  lpSlot    : Nat := 0
  stopping  : Bool := false      -- an instruction-boundary pre-emption has reached the warp (R216)
  frameDone : Bool := false      -- its frame is the saved state already: TRET under a pre-emption (R396)
  returning : Option Nat := none -- the hood whose TRET waits (R395)
  failed    : List Nat := []     -- batches failed in handler mode: they take effect at TRET (log entry 30)
deriving DecidableEq, Repr

/-- One amax ring (R307). -/
structure AmaxRing where
  e   : List Word := List.replicate 16 0
  wp  : Nat := 0
  cnt : Nat := 0
deriving DecidableEq, Repr

/-- What kind of object holds a device-written field: a band (R354), a ring header (R365), a command queue's header (R194). -/
inductive DevKind
  | band | ring | queue
deriving DecidableEq, Repr

/-- A device-written field in storage that software can store to: its object and context, its bytes, and the value that the device last
wrote there, between which and the stored one a plain store's result is free. -/
structure DevField where
  obj  : Nat
  kind : DevKind
  ctx  : Nat
  key  : Nat
  n    : Nat
  val  : Nat
deriving DecidableEq, Repr

/-- One block of a gang (R164, R200, R413). -/
structure Block where
  pos     : Nat
  lin     : Nat                 -- linear block index (R189)
  core    : Nat := 0            -- device-wide core
  base    : Nat := 0            -- base of its scratchpad allocation
  scratch : Nat := 0
  rings   : List AmaxRing := []
  bslot   : Nat := 0
  saved   : List (Nat × Nat × Nat) := []  -- while pre-empted: index, save slot and mask of live slices of each warp (R416); bit 24 for a halted one
  lpSlots : List Nat := []      -- lane-private slots, kept while pre-empted (R23)
  fields  : List DevField := []  -- while pre-empted: the device-written fields of its scratchpad, by offset in it (R354, R365)
deriving DecidableEq, Repr

/-- How a gang's resources stand. -/
inductive GangStatus
  | waiting      -- queued for placement
  | resident
  | stopping     -- an instruction-boundary pre-emption is in progress (R416)
  | saved        -- pre-empted at an instruction boundary
deriving DecidableEq, Repr

/-- One gang (R164, R198, R204, R215). -/
structure Gang where
  id        : Nat
  ctx       : Nat
  launch    : Option Nat        -- launch id; none for a triggered phase
  first     : Nat               -- linear index of its first block
  die       : Nat
  cluster   : Nat := 0          -- on the die
  core0     : Nat := 0          -- core of its first block
  blocks    : List Block := []
  grid      : Nat × Nat × Nat := (1, 1, 1)
  shape     : Word := 0
  scratch   : Nat := 0
  pc        : DWord := 0
  param     : DWord := 0
  phased    : Bool := false
  triggered : Bool := false
  spawned   : Bool := false
  phase     : Nat := 0
  sq        : Nat := 0
  chain     : Nat := 0
  prio      : Nat := 0
  trig      : List Word := [0, 0, 0, 0]
  age       : Nat := 0          -- admission order of its launch
  order     : Nat := 0          -- when it entered the placement order (R201)
  passedAt  : Option Nat := none  -- the die's cycle at which it was first passed over (R201)
  pool      : Nat := 0          -- phase-pool bytes reserved (R206)
  poolAt    : List (Nat × Nat) := []  -- and where: offset and size of each range
  status    : GangStatus := .waiting
  phaseStop : Bool := false     -- a phase-boundary pre-emption is pending (R216)
  failed    : List Nat := []    -- batches failed while the gang was saved (R417)
  lossless  : Bool := false
deriving DecidableEq, Repr

/-- What one warp carries into its next phase (R204, R205). -/
structure Carry where
  pos : Nat
  idx : Nat
  v   : List VReg
  k   : List KReg
  s   : List Word
  q   : List LaneMask
deriving DecidableEq, Repr

/-- What one block carries of its scratchpad (R204): by line, the data, the tag, and the poison of its words by their number. -/
structure BlockImage where
  pos    : Nat
  lines  : List (LineData × TagWord)
  poison : List (Nat × Nat)
  fields : List DevField := []    -- the device-written fields among its bytes, by offset (R354, R365)
deriving DecidableEq, Repr

/-- A queued phase record (R205), its body held by part. -/
structure PhaseRec where
  ctx       : Nat
  die       : Nat
  sq        : Nat
  pc        : DWord
  param     : DWord
  launch    : Option Nat
  first     : Nat
  shape     : Word
  scratch   : Nat
  nv        : Nat := 0
  ns        : Nat := 0
  nb        : Nat := 0
  triggered : Bool := false
  spawned   : Bool := false
  phase     : Nat := 0
  chain     : Nat := 0
  prio      : Nat := 0
  trig      : List Word := [0, 0, 0, 0]
  carries   : List Carry := []
  images    : List BlockImage := []
  positions : List Nat := []      -- core positions held before (R207); none for a new gang
  grid      : Nat × Nat × Nat := (1, 1, 1)
  age       : Nat := 0
  order     : Nat := 0            -- when it was queued (R201, R490); no two records share it
  passedAt  : Option Nat := none  -- the die's cycle at which it was first passed over (R201)
  preempted : Bool := false       -- written under a phase-boundary pre-emption (R216)
  sentBack  : Nat := 0            -- nonzero: sent back by a milliner decision (R209), larger is later
  pool      : Nat := 0
  poolAt    : List (Nat × Nat) := []  -- where its space in the pool lies: offset and size of each range
  watch     : Option (Nat × Nat) := none  -- watch entry whose trigger it is: id and home die
  lossless  : Bool := false
deriving DecidableEq, Repr

/-- A launch that has been admitted and has not retired (R192, R193). -/
structure Launch where
  id       : Nat
  ctx      : Nat
  queue    : Nat
  set      : BitVec 256
  record   : Nat            -- VA of its launch record
  lossless : Bool := false
  age      : Nat := 0
deriving DecidableEq, Repr

/-- A launch record as copied by a command processor and held until admission (R196). -/
structure HeldLaunch where
  va   : Nat
  data : BitVec 2048
deriving DecidableEq, Repr

/-- A registered command queue (R194, R195). -/
structure CmdQueue where
  idx     : Nat
  hdr     : Nat             -- VA of its header
  tailPa  : Nat             -- physical line of TAIL that is watched
  stopped : Bool := false
  fired   : Bool := false
  head    : Nat := 0        -- the hub's own counts, which it writes to the header
  retired : Nat := 0
  rejected : Nat := 0
  held    : Option HeldLaunch := none
deriving DecidableEq, Repr

/-- An agent of a die that lossless trace holds: what it would emit, and the nanosecond count since which it waits (R446, R447). -/
structure TraceHold where
  die   : Nat
  code  : Nat
  n     : Nat
  since : Nat
deriving DecidableEq, Repr

/-- A context (R8, R24, R191, R404, R415, R442, R456). -/
structure Context where
  slot     : Nat
  id       : Nat
  system   : Bool
  irqen    : Bool := false
  ptroot   : Nat := 0
  lpBase   : Nat := 0
  lpSize   : Nat := 0
  lpSlots  : Nat := 0
  dsOff    : List Nat := [0, 0, 0, 0]
  dsSize   : List Nat := [0, 0, 0, 0]
  saveBase : Nat := 0
  wslots   : Nat := 0
  bslots   : Nat := 0
  fqhdr    : Nat := 0
  poolOff  : List Nat := [0, 0, 0, 0]
  poolSize : List Nat := [0, 0, 0, 0]
  events   : BitVec 256 := 0
  layouts  : List (Nat × BitVec 1024) := []
  rings    : List (Nat × Nat × Nat) := []    -- ring table: die, ring index, storage key of the header (R210)
  batch    : Nat := 1                        -- next batch number (R404)
  queues   : List CmdQueue := []
  lost     : Bool := false                   -- PREEMPT.LOST
  killed   : Bool := false                   -- ended by KILL or loss (R419)
  busy     : Bool := false                   -- PREEMPT.BUSY
  hold     : Bool := false                   -- PREEMPT.HOLD
  kind     : Bool := false                   -- PREEMPT.KIND
  trchdr   : Nat := 0
  trcBase  : Nat := 0                        -- BASE, SIZE and TAIL as the header gave them when EN was set (R442)
  trcSize  : Nat := 0
  trcTail  : Nat := 0
  llwait   : Nat := 0
  cfgerr   : Bool := false
  fallback : Bool := false
  allctx   : Bool := false
  ll       : Bool := false
  en       : Bool := false
  typeMask : Word := 0x00FFFFFE
  dropPend : Nat := 0                        -- drops not yet added to DROPPED of the header (log entry 13)
  overflow : Nat := 0                        -- records lost since the last OVERFLOW (R445)
  fellBack : Bool := false                   -- the next OVERFLOW carries bit 23 (R447)
  holds    : List TraceHold := []            -- the holds that its lossless records put on agents (R446, R447)
deriving DecidableEq, Repr

/-- One context slot of the MMIO set: its descriptor as written (R456), 32 words. -/
structure CtxSlot where
  slot   : Nat
  desc   : List Word := List.replicate 32 0
  valid  : Bool := false
  status : Nat := 0
deriving DecidableEq, Repr

/-- A cluster TLB entry (R91). -/
structure TlbEntry where
  cluster : Nat             -- device-wide, 36 × die + cluster
  ctx     : Nat
  vpn     : Nat             -- VA / page size
  size    : Nat             -- page size in bytes
  frame   : Nat             -- PA of the frame
  attr    : Nat
  w       : Bool
  x       : Bool
  sys     : Bool
  d       : Bool
  gen     : Nat := 0
deriving DecidableEq, Repr

/-- A walk-cache entry (R92): the non-leaf entry found at `level` for a VA prefix. -/
structure WalkEntry where
  cluster : Nat
  ctx     : Nat
  level   : Nat
  prefix_ : Nat
  entry   : DWord
  pa      : Nat := 0        -- where the entry stands
deriving DecidableEq, Repr

/-- What a present page-table entry held before a store changed it (R98): until a TFENCE orders the store, a walk may read it so.
`done` are the clusters for whose walkers a TFENCE has ordered it. -/
structure PtePast where
  pa    : Nat
  entry : DWord
  done  : List Nat := []
deriving DecidableEq, Repr

/-- An instruction-cache line with its parity marks (R219). -/
structure ICacheLine where
  core : Nat
  ctx  : Nat
  va   : Nat                -- VA / 64
  data : BitVec 512
  lineBad  : Bool := false
  slotBad  : BitVec 5 := 0
  age      : Nat := 0       -- the admission order that a launch was to take when it was filled (R140)
deriving DecidableEq, Repr

/-- A fill or memory response under way (R51, R52): a prefetch into L1 or L2. -/
structure Fill where
  core      : Nat
  ctx       : Nat
  va        : Nat           -- VA / 128
  pa        : Nat           -- PA / 128
  prio      : Nat
  toL1      : Bool
  toL2      : Bool
  cancelled : Bool := false
deriving DecidableEq, Repr

/-- A prefetch that waits for a walk: its core, virtual line and hint. -/
structure MissWait where
  core    : Nat
  line    : Nat             -- VA / 128
  prio    : Nat
deriving DecidableEq, Repr

/-- A walk waiting in a cluster's miss queue (R90), one for each 64 KiB of a context's addresses, and what waits for it. -/
structure MissEntry where
  cluster : Nat
  ctx     : Nat
  page    : Nat             -- VA / 2^16
  waits   : List MissWait
deriving DecidableEq, Repr

/-- A drain record of a redirected page (R112). -/
structure DrainRec where
  cluster  : Nat
  ctx      : Nat
  vpn      : Nat             -- VA[56:16] of the page
  oldFrame : Nat
  size     : Nat := 2 ^ 16
deriving DecidableEq, Repr

/-- DIR byte of a line that is not UNCACHED (R148). -/
structure DirEntry where
  line  : Nat
  owned : Bool
  dies  : List Nat
deriving DecidableEq, Repr

/-- State of a remote-homed or HOST-COH line in a caching die's L2 (R151), and of a home line that its L2 holds. -/
inductive CacheState
  | s | e | m
deriving DecidableEq, Repr

/-- A line held in a die's L2 (R53, R60, R61, R151). Newest use first within the list. -/
structure L2Line where
  die   : Nat
  line  : Nat               -- PA / 128
  st    : CacheState
  wt    : Bool := false     -- held under a WT grant (R149)
  dirty : Bool := false
  prio  : Nat := 0
deriving DecidableEq, Repr

/-- A home slice's ownership-transfer count or home-execute mode (R156). `until_` is nonzero in home-execute mode. -/
structure HomeExec where
  line   : Nat
  times  : List Nat := []   -- core-clock cycles of the transfers in the window
  until_ : Nat := 0
  prev   : Option Nat := none  -- the die last granted OWNED
deriving DecidableEq, Repr

/-- A Coesk message under way (R145, R147). -/
inductive CoeskMsg
  | inv (m : CoeskSnoop)
  | fwds (m : CoeskSnoop)
  | fwdx (m : CoeskSnoop)
  | ack (m : CoeskResp)
  | data (m : CoeskResp)
  | redirect (r : RedirectMsg)
deriving DecidableEq, Repr

/-- What a request asks of its home (R147, R150). -/
inductive CoeskOp
  | rds | rdx | upgr | rdnc
  | write (kind : RelayKind) (data : Bool)   -- WrPart or AtomHome; whether the answer is Data
deriving DecidableEq, Repr

/-- A forwarding stub (R110). -/
structure Stub where
  die     : Nat
  oldFrame : Nat
  newFrame : Nat
  gen     : Nat
  size    : Nat
  swap    : Bool := false
  chain   : Nat := 1
  ctx     : Nat
  vpn     : Nat             -- VA[56:16]
  due     : Nat := 0        -- tick of the next reclamation attempt
  relays  : Nat := 0        -- relays in flight
  pod     : Bool := false   -- its move is one over the pod
  asked   : Option (List Nat) := none -- a reclamation message has gone to these peers, which have not acknowledged (R113, R434)
deriving DecidableEq, Repr

/-- A cross-die request that has not had its final response (R150, R159): the transaction, what the home does when the Acks it owes
are in, the grant it then gives, and the requester's timer. The list order is that of arrival. -/
structure CoeskOut where
  die     : Nat
  txn     : Nat
  line    : Nat
  target  : Nat
  cluster : Nat := 0
  ctx     : Nat := 0
  vpn     : Nat := 0
  since   : Nat := 0         -- tick of the die's counter at which it was sent or last restarted
  kept    : Nat := 0         -- tick of the home's counter since which it has been held without a KEEP
  grant   : Grant := .none
  kind    : RelayKind := .read
  data    : Bool := true     -- the final response is Data, else Ack
  pending : Nat := 0         -- Acks still owed to the home for this line
  direct  : Bool := false    -- the owner has sent the data
  keep    : Bool := false    -- the requester keeps its WT copy
  retake  : Bool := false    -- ownership is recalled for it
  lost    : Bool := false    -- it went into a link that is down, or a message of it was discarded
  queued  : Option CoeskOp := none -- it waits at its home (R145, R150)
  depth   : Nat := 1         -- the depth that its write gives to triggers (R214)
  asked   : CoeskOp := .rdnc -- what it asked of its home
  relayed : Option Stub := none -- the stub that has relayed it, until its answer leaves the new home (R111, R113)
  podTxn  : Option Nat := none  -- the pod request as which a stub has sent it on (R434)
deriving DecidableEq, Repr

/-- What a copy writes in one chunk (R349, R352): bits with their mask, and tag bytes of its four lines with theirs. -/
structure ChunkData where
  data  : BitVec 4096 := 0
  mask  : BitVec 4096 := 0
  tags  : BitVec 256 := 0
  tmask : BitVec 32 := 0
  flags : Nat := 0          -- flags that QUANT or DEQUANT raised in it (R78)
deriving DecidableEq, Repr

/-- A chunk in the spill buffer, with the batch that records it (R361). -/
structure Spill where
  chunk : Nat
  batch : Nat
  va    : Nat               -- the faulting address
  ready : Bool := false     -- to be replayed (R361)
  data  : ChunkData
deriving DecidableEq, Repr

/-- An asynchronous copy (R345 to R353, R414). A chunk is named by its destination address divided by 512. -/
structure Copy where
  id      : Nat
  core    : Nat             -- issuing core
  slot    : Nat
  widx    : Nat             -- index of the issuing warp in its block
  gang    : Nat
  pos     : Nat             -- gang position of the issuing block
  ctx     : Nat
  srec    : BitVec 1024
  drec    : BitVec 1024
  sc      : List Nat
  dc      : List Nat
  xop     : Nat
  mcast   : Nat
  rnd     : Nat
  ch      : Nat
  band    : Nat
  pc      : DWord
  mode    : Word            -- MODE at issue (R350)
  number  : Nat             -- copy number of its core (R437)
  taken   : Bool := true    -- the engine and the receivers' scoreboards have taken it (R346)
  traced  : Bool := false   -- its COPY_ISSUE has been emitted
  handles : Nat := 0        -- S1 at issue, for COPY_ISSUE
  lossless : Bool := false
  receivers : List Nat      -- core positions that receive
  scratch : Bool            -- the destination is scratchpad
  lo      : Nat := 0        -- bounding destination range (R353): window offsets for scratchpad
  hi      : Nat := 0
  arr     : List (Nat × Nat) := []  -- the chunks in walk order, with the bytes each counts
  written : List Nat := []  -- chunks written and on their way
  landed  : List (Nat × Nat) := []  -- (core position, chunk) landed and counted
  spilled : List Spill := []
  lostChunks : List Nat := []
  flags   : List (Nat × Nat) := []  -- flags raised in chunks that have not been counted (R78)
  batch   : Nat := 0        -- batch of its newest engine record
  heldSrc : Bool := false
  heldVa  : Nat := 0        -- the address of the source fault
  quiet   : Option Nat := none  -- the chunk at whose source fault it has been retried: that chunk's next one writes no new record (R102)
  heldFull : Bool := false
  heldSave : Bool := false  -- saved with its gang
deriving DecidableEq, Repr

/-- Flags of a copy counted at a band, waiting for the issuer's BANDW (R78, R350): the issuer, the band, and whether the band has
completed the phase that counted them. -/
structure BandFlags where
  gang  : Nat
  pos   : Nat               -- gang position of the issuing block
  widx  : Nat
  bpos  : Nat               -- gang position of the block that holds the band
  band  : Nat               -- its offset there
  flags : Nat
  ready : Bool := false
deriving DecidableEq, Repr

/-- A line of operands as the matrix unit found it: its number within the block's scratchpad, its data and tag, and its poisoned
words (R377, R380, R381). -/
structure OperandLine where
  line   : Nat
  data   : LineData
  tag    : TagWord
  poison : Word := 0
deriving DecidableEq, Repr

/-- A matrix product accepted by a core's unit (R382). MSHAPE, the registers and offsets are those of its acceptance; `regs` holds the
D span as the unit found it when it started. -/
structure Product where
  core    : Nat
  slot    : Nat
  gang    : Nat
  number  : Nat
  double  : Bool            -- DMMA
  acc     : Bool
  mshape  : DWord
  d       : Nat
  a       : Nat             -- A register (MMA) or A offset (DMMA)
  b       : Nat             -- B offset
  sa      : Nat             -- A row stride (DMMA)
  sb      : Nat             -- B column stride
  rows    : LaneMask        -- rows computed: the active set at acceptance below M (R378)
  fences  : List Nat := []  -- each slice's last MFENCE before it (R384), by the counter of free values
  fence   : Nat := 0        -- the earliest of those of the slices that were live
  at_     : Nat := 0        -- its acceptance, by the same counter
  started : Bool := false
  done    : Bool := false
  regs    : List (Nat × VReg × KReg) := []
  lines   : List OperandLine := []
  flags   : Nat := 0
  poison  : LaneMask := 0
  lossless : Bool := false
deriving DecidableEq, Repr

/-- A running migration or swap (R109, R115). -/
structure Migration where
  id      : Nat
  ctxP    : Nat
  vaP     : Nat
  ptePa   : Nat             -- PA of the leaf entry of P
  oldFrame : Nat
  newFrame : Nat
  size    : Nat
  swap    : Option (Nat × Nat × Nat) := none   -- context, VA and leaf-entry PA of Q
  passes  : Nat := 0
  dirty   : List Nat := []  -- dirty lines, by line number
  gen     : Nat := 0
  cut     : Bool := false
  tf      : Nat := 0        -- the cut-over TFENCE
  requester : Option (Nat × Nat) := none       -- core and slot of the MIGR; none for the host
  d       : BitVec 10 := 0x1FF                 -- D of the MIGR
deriving DecidableEq, Repr

/-- State of a watch entry (R212). -/
inductive WatchState
  | armed | pending | disabled
deriving DecidableEq, Repr

/-- One home die's watch-table entry, with its template (R212, R336, R337): a watch whose lines lie on several dies holds one on each, under
one id. -/
structure WatchEntry where
  ctx     : Nat
  id      : Nat
  lines   : List (Nat × Nat)   -- (VA / 128, PA / 128) of each watched line of that die
  home    : Nat                -- the home die
  state   : WatchState := .armed
  queue   : Option Nat := none -- a command queue's watch (R195)
  tdie    : Nat := 0
  tsq     : Nat := 0
  depth   : Nat := 1
  prio    : Nat := 0
  budget  : Nat := 1
  shape   : Word := 0
  scratch : Nat := 0
  pc      : DWord := 0
  param   : DWord := 0
  count   : Nat := 0           -- coalesced count
  word    : Nat := 0           -- address of the first changed word
  val     : Word := 0
  window  : Nat := 0           -- triggers queued in this window
  sent    : Bool := false      -- the record stands in its SQ
deriving DecidableEq, Repr

/-- A TFENCE under way (R99): the clusters that have not acknowledged. -/
structure TFenceOp where
  id      : Nat
  ctx     : Nat
  all     : Bool
  lo      : Nat                -- first VA
  hi      : Nat                -- one past the last VA
  clusters : List Nat
  scope   : List Nat := []     -- all its clusters
  hood    : Option HoodRef
  ptes    : List PtePast := []  -- the changes of page-table entries that it orders (R98)
  peer    : Option (Nat × Nat) := none -- the pod device that issued it, and its number there (R434)
deriving DecidableEq, Repr

/-- What an outstanding access waits for. -/
inductive PendKind
  | pod | hostUc | hostCoh | coesk
deriving DecidableEq, Repr

/-- An access outstanding to the pod or to the host (R141, R427, R428): which warp and instruction it belongs to, the line,
the lanes it serves, its answer, and its timer. -/
structure Outstanding where
  txn    : Nat
  die    : Nat
  core   : Nat
  slot   : Nat
  hood   : Nat
  ctx    : Nat
  pc     : DWord
  station : Nat := 0
  target : Nat := 0
  line   : Nat               -- storage line number (PA / 128)
  va     : Nat := 0
  lanes  : LaneMask := 0
  write  : Bool := false     -- a posted write
  data   : LineData := 0
  mask   : BitVec 128 := 0
  answered : Bool := false
  fail : Option (Nat × Nat) := none   -- the fault with which it failed (R30, R59, R159, R432)
  kind   : PendKind := .pod
  op     : Option AtomicReq := none   -- a pod atomic
  copy   : Nat := 0          -- the copy it serves; 0 for a warp's access
  chunk  : Nat := 0          -- that copy's chunk
  data64 : DWord := 0        -- the answer of a HOST-UC read or of an atomic
  since  : Nat := 0
  gang   : Nat := 0          -- the issuing warp, wherever it resides: its gang, position and index
  pos    : Nat := 0
  idx    : Nat := 0
  launch : Option Nat := none  -- its launch, whose retirement waits for its posted writes (R126, R141)
  ch     : Nat := 0          -- the hint under which a host line was asked for (R60, R62)
  origin : Option InFlight := none  -- of a posted write: its instruction, for the lanes that the write serves (R107)
  old    : Option Nat := none  -- a stub has relayed it: its line in the old frame (R113, R485)
  reply  : Option (Nat × Nat) := none -- a pod request that a stub has sent on: the station and device to answer (R430, R434)
deriving DecidableEq, Repr

/-- A release made at a narrower scope while its core had pod writes unacknowledged, which a promoted acquire that reads from it waits
for (R134): the bytes it wrote, and those writes. -/
structure ReleaseRec where
  key  : Nat
  n    : Nat
  txns : List Nat
deriving DecidableEq, Repr

/-- A UALink station (R421, R422). -/
structure Station where
  up     : Bool := false
  downev : Bool := false
  lanes  : Nat := 0
  trims  : Nat := 0
  retraining : Bool := false
deriving DecidableEq, Repr

/-- A trace record on its way (R435, R444). -/
structure TraceRec where
  die     : Nat
  time    : Nat
  source  : Nat
  ctx     : Nat
  code    : Nat
  payload : Nat
  body    : Option (BitVec 128) := none
  lossless : Bool := false
  takers  : List Nat := []  -- the contexts whose buffers took it when it was emitted and have not had it yet (R400, R443)
  warp    : Option (Nat × Nat × Nat) := none -- the warp that emitted it, by gang, position and index (R400)
  gang    : Option Nat := none -- of BLOCK_START and PHASE_START: the gang that they start (R446)
  sent    : Bool := false   -- it has reached the drain over EVT (R145)
deriving DecidableEq, Repr

/-- One compute die's own registers and counters (R47, R143, R157, R158, R461, R437). -/
structure DieRegs where
  present : Bool := false
  carve   : Nat := 0
  cfgerr  : Bool := false
  busy    : Bool := false
  carveTo : Nat := 0
  tmHub   : Nat := 0
  tmLow   : Nat := 0
  tmHigh  : Nat := 0
  tick    : Nat := 0
  ns      : Nat := 0
  clock   : Nat := 0          -- core-clock cycles run
  freq    : Nat := 1200       -- MHz
  topo    : Bool := false     -- the topology table has reached it (R161)
  topoAck : Bool := false     -- it has acknowledged the table
  soft    : Nat := 0          -- soft errors counted (R57, R58, R219)
  reserved : Option (Nat × Nat) := none -- cluster reserved for a passed-over gang, and the gang's order (R201)
  dropped : List Nat := []      -- agents to which no new request is sent (R159)
deriving DecidableEq, Repr

/-- Per-core counters (R437) that are not zero. -/
structure CoreCount where
  core  : Nat
  copies : Nat := 0
  products : Nat := 0
deriving DecidableEq, Repr

/-- A write of `n` bytes by an agent of the device that waits until the host has given its lines up (R450), or behind such a one: a value, or,
of an A, D or MIG bit, the bits to be set. -/
structure LateWrite where
  key   : Nat
  n     : Nat
  val   : Nat
  depth : Nat
  sets  : Bool := false
  after : List Nat := []  -- the hub's pod writes that it waits for as a release (R126, R441)
deriving DecidableEq, Repr

/-- The hub's management state (R161, R438, R451, R454, R455, R458 to R462). -/
structure Hub where
  boot      : Nat := 1         -- BOOTSTAT[7:0]
  bootFail  : Bool := false
  degraded  : Bool := false
  recovery  : Option Nat := none -- stage awaiting a recovery image
  discovered : List (Nat × DiscoverRec) := []
  ready     : Bool := false
  holder    : Nat := 0
  succ      : Nat := 0
  elect     : Bool := false
  hprio     : Nat := 0
  denied    : BitVec 4 := 0
  lease     : Nat := 0         -- µs
  claims    : List (Nat × Nat) := []  -- master, priority
  electAt   : Nat := 0         -- when the election window opened, by the hub's own oscillator
  osc       : Nat := 0         -- the hub's own oscillator, in units of 10 ns (R160, R455)
  tbsource  : Nat := 0         -- TBCFG: disciplining source
  tick      : Nat := 0
  ns        : Nat := 0
  slew      : Int := 0         -- nanoseconds still to be slewed
  held      : Nat := 0         -- nanoseconds by which a held counter is ahead of the disciplined time (R438)
  gen       : Nat := 0         -- migration generation counter (R110)
  nextLaunch : Nat := 1        -- R196
  timebaseLost : Bool := false
  tripped   : Bool := false
  revoked   : BitVec 4 := 0
  minVersion : List Nat := [0, 0, 0, 0]
  measured  : List (Nat × BitVec 256) := []  -- stage and digest of each firmware image that runs (R458, R459)
  bring     : BringUp := {}            -- what the outside world supplies to bring-up (R460)
  closed    : Bool := false            -- discovery has its dies; the topology table is on its way (R161)
  podIdv    : Bool := false
  podDevid  : Nat := 0
  podErr    : Bool := false
  podTout   : Nat := 200
  protoErr  : List (Nat × Nat) := []   -- protocol-error counters by link (R147)
  snoop     : List Nat := []           -- host-held lines, newest first (R450)
  hostWait  : List Nat := []           -- lines whose back-invalidate awaits the host
  late      : List LateWrite := []     -- writes by agents of the device that wait for the host (R450), oldest first
  dropped   : List Nat := []           -- agents to which the hub sends no new request (R159)
  deadPeers : BitVec 192 := 0
  linksDown : List (Nat × Nat) := []
  credits   : List (Nat × Nat × Nat) := []
  syncs     : List (Nat × Nat × Nat) := []  -- TimeSync messages on their way: die, tick, nanoseconds
  syncAt    : Nat := 0                 -- tick of the last TimeSync sent (R158)
  rrCtx     : Nat := 0xFFFF            -- last context served by the command processors (R197)
deriving DecidableEq, Repr

/-- A record without a warp (outcome Q of R405) that a home slice has raised and that is not yet in its queue. -/
structure PendRec where
  ctx  : Nat
  die  : Nat
  unit : Nat
  rec_ : FaultRec
deriving DecidableEq, Repr

/-- What an SPDM answer says (R459): the version, the asymmetric algorithm with its hash, a measurement, or what is the part's own. -/
inductive SpdmAnswer
  | version (major minor : Nat)
  | falcon1024Shake256 (rest : BitVec 256)
  | measurement (index : Nat) (value : BitVec 256) (rest : BitVec 256)
  | content (data : BitVec 256)
deriving DecidableEq, Repr

/-- What the device has said to the outside world. -/
inductive Out
  | msi (vector : Nat)
  | cxlData (pa : Nat) (data : BitVec 512) (poison : Bool)
  | snoopResp (pa : Nat) (dirty : Bool) (data : LineData)
  | backInvalidate (line : Nat)
  | d2hOwn (die line : Nat) (shared : Bool)
  | d2hWriteBack (die line : Nat) (data : LineData)
  | cxlIoWrite (pa : Nat) (data : Nat) (len : Nat)
  | cxlIoRead (txn pa len : Nat)
  | podRequest (station txn target line : Nat) (write : Bool) (data : LineData) (mask : BitVec 128)
  | podAtomic (station txn target line : Nat) (op : AtomicReq)
  | podAnswer (station src : Nat) (r : PodResp)
  | podWriteDone (station src : Nat)
  | podResend (station src : Nat)
  | spdm (master cmd : Nat) (answer : SpdmAnswer)
  | migStatus (status : Nat)
  | thermalTrip
  | timeSync (die tick ns : Nat)
  | podShoot (target id ctx lo hi : Nat)
  | podReclaim (target id ctx frame size : Nat)
  | podAck (target kind id : Nat) (ok : Bool)
deriving DecidableEq, Repr

/-- A 4-byte word, or an 8-byte beat tag, of the state a core keeps for a warp (R58). -/
inductive WarpWord
  | v (n lane : Nat)
  | k (n beat : Nat)
  | s (n : Nat)
  | q (n word : Nat)
  | log (n : Nat)
  | mode | flags | mshape | tvec
  | slicePc (i : Nat)
  | grouping
deriving DecidableEq, Repr

/-- An error that has struck a storage array and that no code has met yet (R57, R58): erroneous symbols of an HBM4E line with their
error bytes, the wrong bits of a word (or, for none, the tag) of an L2 or scratchpad line or of a word of a warp's state, one that will be met as the
frame of a warp is written (R420), and a DIR byte that reads `raw` (R148). -/
inductive Upset
  | hbm (line : Nat) (symbols : List (Nat × Byte))
  | l2 (die line : Nat) (word : Option Nat) (bits : List Nat)
  | scratch (line : Nat) (word : Option Nat) (bits : List Nat)
  | warp (core slot : Nat) (word : WarpWord) (bits : List Nat)
  | frame (core slot : Nat)
  | dir (line : Nat) (raw : Byte)
deriving DecidableEq, Repr

end Sys2Proof.Machine

namespace Sys2Proof.Config

/-- The errors that strike the storage arrays as the hub's tick counter comes to a value: when and where one strikes is no part of the
manual (R57, R58). Log entry 45. -/
opaque struck : Nat → List Sys2Proof.Machine.Upset

end Sys2Proof.Config

namespace Sys2Proof.Machine

open Sys2Proof

/-- Which agent moves next: a hood issues, an event of the table comes about, or a store that reached a device register takes its
effect there. -/
inductive Move
  | issue (h : HoodRef)
  | event (i : Instr)
  | register (w : Writer) (r : MmioReg) (v : Nat)
  | half (w : Writer) (r : MmioReg) (high : Bool) (v : Nat)  -- a 4-byte half of an 8-byte register
  | second (h : HoodRef)                                     -- the second slot of a pair, one choice with the first (R237)
deriving DecidableEq, Repr

/-- A write that a scratchpad line has received since its present owner took it: the values R45 lets a later gang of that context
read there. -/
structure PastWrite where
  line : Nat
  mask : BitVec 128
  data : LineData
  tag  : Option TagWord := none
  at_  : Nat := 0           -- the counter of free values when it was made
  oldData   : LineData := 0 -- what the line held before it (R136)
  oldTag    : TagWord := 0
  oldPoison : Word := 0
  newPoison : Word := 0     -- the poison of its words after it
  by_  : Option (Nat × Nat × LaneMask) := none  -- the warp whose store it was, and the lanes of its hood (R384)
deriving DecidableEq, Repr

/-- A write through the lane-private window to one backing word (R22, R23): the slot that named it, and whether its holder has
released the slot since. -/
structure LpWrite where
  ctx  : Nat
  slot : Nat
  va   : Nat                -- address of the backing word
  mask : BitVec 4           -- bytes written
  val  : Word
  old  : Bool := false
deriving DecidableEq, Repr

/-- Storage: bytes by storage key (a PA, or a scratchpad key), tags and poison by line, the context that last owned each
scratchpad line, and the writes from which R23 and R45 let a read choose (R37, R45, R56, R59). -/
structure Store where
  mem    : List Host.Cell := []
  tags   : List (Nat × TagWord) := []
  poison : List (Nat × Nat) := []
  owner  : List (Nat × Nat) := []
  past   : List PastWrite := []
  lp     : List LpWrite := []
deriving DecidableEq, Repr

/-- A QPUT.commit or QGET.free that another gang may not have seen yet (R210): the header counter that it moved, what that held before, the gang
that issued it, and the cores that have performed an acquire, or moved the counter themselves, since. -/
structure RingOp where
  key  : Nat
  old  : Nat
  gang : Nat
  seen : List Nat := []
deriving DecidableEq, Repr

/-- Translation and on-core caches (R50, R90 to R93, R112, R218). -/
structure Caches where
  tlb    : List TlbEntry := []
  walks  : List WalkEntry := []
  misses : List MissEntry := []
  l1     : List L1Line := []
  icache : List ICacheLine := []
  fills  : List Fill := []
  drains : List DrainRec := []
  ptes   : List PtePast := []
  ringOps : List RingOp := []
deriving DecidableEq, Repr

/-- Coherence between dies (R145 to R156). -/
structure Coherence where
  dir   : List DirEntry := []
  l2    : List L2Line := []
  home  : List HomeExec := []
  msgs  : List CoeskMsg := []
  outs  : List CoeskOut := []
deriving DecidableEq, Repr

/-- Scheduling (R192 to R214). -/
structure Sched where
  launches : List Launch := []
  gangs    : List Gang := []
  queued   : List PhaseRec := []    -- the stage queues, in order of entry
  watches  : List WatchEntry := []
  triggers : List PhaseRec := []    -- trigger records on their way or waiting for pool space
  nextGang : Nat := 1
  nextOrder : Nat := 1
  nextAge  : Nat := 1
  sendBack : Nat := 1
  windowStart : Nat := 0
deriving DecidableEq, Repr

/-- Engines (R99, R108, R345, R382, R427). -/
structure Engines where
  copies   : List Copy := []
  nextCopy : Nat := 1
  bandFlags : List BandFlags := []
  products : List Product := []
  counts   : List CoreCount := []
  migs     : List Migration := []
  nextMig  : Nat := 1
  stubs    : List Stub := []
  tfences  : List TFenceOp := []
  nextTf   : Nat := 1
  pend     : List Outstanding := []
  nextPend : Nat := 1
  spillUsed : List (Nat × Nat) := []   -- (die, bytes)
  releases : List ReleaseRec := []
  fields   : List DevField := []
deriving DecidableEq, Repr

/-- The whole device. -/
structure State where
  store    : Store := {}
  caches   : Caches := {}
  coh      : Coherence := {}
  warps    : List Warp := []
  contexts : List Context := []
  slots    : List CtxSlot := []
  sched    : Sched := {}
  eng      : Engines := {}
  dies     : List DieRegs := []
  stations : List Station := []
  hub      : Hub := {}
  staged   : List TraceRec := []
  recs     : List PendRec := []
  out      : List Out := []         -- newest first
  cur      : HoodRef := ⟨0, 0, 0⟩   -- the hood that issues
  agenda   : List Move := []        -- which agents move next (the model's own)
  upsets   : List Upset := []       -- errors that have struck storage and are not yet met (R57, R58; an input)
  free     : Nat := 0               -- the model's own counter for free values
  cycles   : List (Nat × Nat) := [] -- issue cycles run by each pipe, 4 × core + pipe (R217)
  turn     : Nat := 0               -- the pipe whose turn it is to issue (the model's own)
deriving DecidableEq, Repr

/-- Reasons a step stops with a fault: there is none. The faults of the device are next states, and a package whose clocks have stopped (R160,
R462) goes on with what its hub still does. -/
inductive Fault
deriving DecidableEq, Repr

/-- Reasons the model has no next state. -/
inductive Refusal
  /-- Raised by exec's arm of an instruction that has no meaning yet. Safe. -/
  | notModelled (mnemonic : String)
  /-- Raised by an instruction's meaning when `State.cur` names no resident warp with a live hood: no warp issues it, so the
  manual gives no effect. Safe. -/
  | noIssuingHood
deriving DecidableEq, Repr

/-- The package right after reset: reset released, oscillator and core clocks started, watchdog armed (R460 step 1); nothing
trained, discovered, owned or created; every register at its reset value. -/
def State.reset : State :=
  { dies := List.replicate 4 {}
    stations := List.replicate 20 {}
    slots := (List.range 64).map fun n => { slot := n } }

end Sys2Proof.Machine
end

