-- ==== Sys2Proof/Machine/Ops.lean ====
section
/-! DEFINITION. The named operations over a warp's registers, its slices and hoods, and the lists of State (R164 to R187). -/

namespace Sys2Proof.Machine

open Sys2Proof

/-- The host's own address of host memory, over CXL.cache and CXL.io, and the number of its 128-byte line (R449). -/
def hostPa (pa : Nat) : Nat := pa - 0x1000000000000
@[inherit_doc hostPa] def hostLine (l : Nat) : Nat := l - 0x1000000000000 / 128

/-- The base of the one HDM decoder (R449, log entry 70). -/
def Hub.decoder (h : Hub) : Nat := h.bring.decoder * 2 ^ 28

/-- Who a warp is, wherever it resides: its gang, its position in it and its index (R107, R400). -/
def Warp.identity (w : Warp) : Nat × Nat × Nat := (w.gang, w.pos, w.idx)

/-- One of a list of values, free (R12); of one value, that one. -/
def pickOf {α : Type} (free salt : Nat) (d : α) : List α → α
  | [x] => x
  | l => l.getD (Config.pick free salt % max 1 l.length) d

/-! ## Lanes and registers -/

/-- Lane `l` of a vector register (R72, R165). -/
def VReg.lane (v : VReg) (l : Nat) : Word := v.extractLsb' (32 * l) 32

/-- A vector register with lane `l` replaced. -/
def VReg.setLane (v : VReg) (l : Nat) (x : Word) : VReg :=
  (v &&& ~~~((0xFFFFFFFF : VReg) <<< (32 * l))) ||| (x.setWidth 3072 <<< (32 * l))

/-- A vector register with the lanes of `m` written by `g` (R172). -/
def VReg.write (v : VReg) (m : LaneMask) (g : Nat → Word) : VReg :=
  (List.range 96).foldl (fun a l => if m.getLsbD l then VReg.setLane a l (g l) else a) v

/-- Byte `n` of a scale register (R72). -/
def KReg.byte (k : KReg) (n : Nat) : Byte := k.extractLsb' (8 * n) 8

/-- A scale register with byte `n` replaced. -/
def KReg.setByte (k : KReg) (n : Nat) (b : Byte) : KReg :=
  (k &&& ~~~((0xFF : KReg) <<< (8 * n))) ||| (b.setWidth 192 <<< (8 * n))

/-- The lanes of slice `i` (R165). -/
def sliceLanes (i : Nat) : LaneMask := (0xF : LaneMask) <<< (4 * i)

/-- The bits of `new` in `m` over those of `old` elsewhere. -/
def LaneMask.merge (old m new : LaneMask) : LaneMask := (old &&& ~~~m) ||| (new &&& m)

/-- The numbers of the lanes of a mask, ascending. -/
def LaneMask.lanes (m : LaneMask) : List Nat := (List.range 96).filter fun l => m.getLsbD l

/-- The lowest lane of a mask. -/
def LaneMask.lowest (m : LaneMask) : Option Nat := (List.range 96).find? fun l => m.getLsbD l

/-- The mask of a list of lanes. -/
def LaneMask.ofLanes (l : List Nat) : LaneMask := l.foldl (fun m n => m ||| ((1 : LaneMask) <<< n)) 0

/-- The mask of the lanes for which `p` holds. -/
def LaneMask.ofFn (p : Nat → Bool) : LaneMask := LaneMask.ofLanes ((List.range 96).filter p)

/-! ## A warp's registers -/

/-- Register v`n`. -/
def Warp.getV (w : Warp) (n : Nat) : VReg := w.v.getD n 0
/-- Register k`n`. -/
def Warp.getK (w : Warp) (n : Nat) : KReg := w.k.getD n 0
/-- Register s`n`; s124 reads zero (R169). -/
def Warp.getS (w : Warp) (n : Nat) : Word := if n = 124 then 0 else w.s.getD n 0
/-- Register q`n`; q0 reads all ones (R169). -/
def Warp.getQ (w : Warp) (n : Nat) : LaneMask := if n = 0 then BitVec.allOnes 96 else w.q.getD n 0

/-- Writes v`n` whole. -/
def Warp.putV (w : Warp) (n : Nat) (x : VReg) : Warp := { w with v := w.v.set n x }
/-- Writes v`n` in the lanes of `m` (R172). -/
def Warp.setV (w : Warp) (n : Nat) (m : LaneMask) (g : Nat → Word) : Warp := w.putV n (VReg.write (w.getV n) m g)
/-- Writes k`n` whole. -/
def Warp.putK (w : Warp) (n : Nat) (x : KReg) : Warp := { w with k := w.k.set n x }
/-- Writes the bits of q`n` in `m`; q0 discards the write (R169, R172). -/
def Warp.setQ (w : Warp) (n : Nat) (m x : LaneMask) : Warp :=
  if n = 0 then w else { w with q := w.q.set n (LaneMask.merge (w.getQ n) m x) }

/-- Writes s`n` for a hood whose slices hold the lanes `hood`: s124 discards (R169), am0 to am2 change only in the hood's
lanes (R173). -/
def Warp.setS (w : Warp) (hood : LaneMask) (n : Nat) (x : Word) : Warp :=
  if n = 124 then w
  else if 125 ≤ n then
    let m := hood.extractLsb' (32 * (n - 125)) 32
    { w with s := w.s.set n ((w.s.getD n 0 &&& ~~~m) ||| (x &&& m)) }
  else { w with s := w.s.set n x }

/-- A pair read from v`n`, v(`n`+1) in one lane (R65). -/
def Warp.getV64 (w : Warp) (n l : Nat) : DWord := VReg.lane (w.getV (n + 1)) l ++ VReg.lane (w.getV n) l
/-- A pair read from s`n`, s(`n`+1) (R65). -/
def Warp.getS64 (w : Warp) (n : Nat) : DWord := w.getS (n + 1) ++ w.getS n
/-- Writes a scalar pair. -/
def Warp.setS64 (w : Warp) (hood : LaneMask) (n : Nat) (x : DWord) : Warp :=
  (w.setS hood n (x.extractLsb' 0 32)).setS hood (n + 1) (x.extractLsb' 32 32)
/-- Writes a vector pair in the lanes of `m`. -/
def Warp.setV64 (w : Warp) (n : Nat) (m : LaneMask) (g : Nat → DWord) : Warp :=
  (w.setV n m fun l => (g l).extractLsb' 0 32).setV (n + 1) m fun l => (g l).extractLsb' 32 32

/-- The activity mask: bit l of the 96 bits is lane l (R165). -/
def Warp.mask (w : Warp) : LaneMask := w.s.getD 127 0 ++ w.s.getD 126 0 ++ w.s.getD 125 0

/-- ORs flags into FLAGS (R77). -/
def Warp.orFlags (w : Warp) (fl : Nat) : Warp := { w with flags := w.flags ||| (BitVec.ofNat 32 fl &&& 0xFF) }

/-! ## Slices and hoods -/

/-- Slice `i`. -/
def Warp.slice (w : Warp) (i : Nat) : Slice := w.slices.getD i { pc := 0, live := false }

/-- Rewrites every slice. -/
def Warp.mapSlices (w : Warp) (g : Nat → Slice → Slice) : Warp :=
  { w with slices := (List.range 24).map fun i => g i (w.slice i) }

/-- Whether slice `i` is live. -/
def Warp.isLive (w : Warp) (i : Nat) : Bool := (w.slice i).live

/-- The live slices. -/
def Warp.liveSlices (w : Warp) : List Nat := (List.range 24).filter w.isLive

/-- The live slices of the hood with key `h` (R175, R187). -/
def Warp.hoodSlices (w : Warp) (h : Nat) : List Nat :=
  (List.range 24).filter fun i => (w.slice i).live && (w.slice i).hood = h

/-- The lanes of a list of slices. -/
def lanesOfSlices (l : List Nat) : LaneMask := l.foldl (fun m i => m ||| sliceLanes i) 0

/-- The lanes of a hood's live slices. -/
def Warp.hoodLanes (w : Warp) (h : Nat) : LaneMask := lanesOfSlices (w.hoodSlices h)

/-- The lanes of the live slices. -/
def Warp.liveLanes (w : Warp) : LaneMask := lanesOfSlices w.liveSlices

/-- The keys of the hoods of a warp, ascending. -/
def Warp.hoods (w : Warp) : List Nat := (w.liveSlices.map fun i => (w.slice i).hood).dedup

/-- The lanes a guard passes (R171). -/
def Warp.guard (w : Warp) (i : BitVec 4) (neg : BitVec 1) : LaneMask :=
  let q := w.getQ i.toNat
  if neg = 1 then ~~~q else q

/-- The active set among `lanes` (R171). -/
def Warp.activeIn (w : Warp) (lanes : LaneMask) (h : Hdr) : LaneMask :=
  lanes &&& w.mask &&& w.guard h.gai h.gan &&& w.guard h.gbi h.gbn

/-- A dormant slice (R174). -/
def Warp.dormant (w : Warp) (i : Nat) : Bool := (w.mask &&& sliceLanes i) = 0

/-- The PC of the next instruction (R222): slot 4 is followed by slot 0 of the next line. -/
def nextPc (pc : DWord) : DWord := if pc &&& 7 = 4 then (pc &&& ~~~7) + 64 else pc + 1

/-- branch_target of R222, which holds for t ≥ 0 (log entry 16). -/
def branchTarget (pc : DWord) (off : BitVec 32) : DWord :=
  let idx : Int := ((pc.toNat / 64 * 5 + pc.toNat % 8 : Nat) : Int)
  let t := idx + off.toInt
  if t < 0 then Config.targetBelowZero pc off else BitVec.ofNat 64 (t.toNat / 5 * 64 + t.toNat % 5)

/-- The lowest-numbered slice of a list, the key of the hood they form. -/
def keyOf (l : List Nat) : Nat := l.headD 0

/-- Puts the slices of `l` into one hood, running, at `pc`. -/
def Warp.formHood (w : Warp) (l : List Nat) (pc : DWord) : Warp :=
  w.mapSlices fun i s => if l.contains i then { s with pc := pc, hood := keyOf l, wait := .run, held := false } else s

/-- Moves a hood to `pc`, running. -/
def Warp.moveHood (w : Warp) (h : Nat) (pc : DWord) : Warp :=
  w.mapSlices fun _ s => if s.live && s.hood = h then { s with pc := pc, wait := .run, held := false } else s

/-- Makes a hood wait where it stands. -/
def Warp.waitHood (w : Warp) (h : Nat) (x : Wait) : Warp :=
  w.mapSlices fun _ s => if s.live && s.hood = h then { s with wait := x, held := false } else s

/-- Groups the slices of a hood by a key: each group becomes a hood of its own, in ascending order of its lowest slice. -/
def groupBy (l : List Nat) (key : Nat → DWord) : List (List Nat) :=
  l.foldl (fun gs i =>
    if gs.any (fun g => g.any fun j => key j = key i) then gs.map fun g => if g.any fun j => key j = key i then g ++ [i] else g
    else gs ++ [[i]]) []

/-- Splits a hood: each of its slices goes to the PC that `target` gives it, slices of one PC forming one hood (R179). -/
def Warp.splitHood (w : Warp) (h : Nat) (target : Nat → DWord) : Warp :=
  (groupBy (w.hoodSlices h) target).foldl (fun w g => w.formHood g (target (keyOf g))) w

/-! ## Windows opened by lookahead and pairing (R184, R236, R237) -/

/-- FELT and collectives close every window of the warp (R184), and order what its hoods have written (R177). -/
def Warp.closeWindows (w : Warp) : Warp := { w with windows := [], shared := [] }

/-- Windows of hoods that no longer exist go to the hoods that hold their slices, each counting for itself (R184). -/
def Warp.inheritWindows (old new : Warp) : Warp :=
  { new with windows := new.windows.flatMap (fun x =>
      (((old.hoodSlices x.hood).filterMap fun i => if new.isLive i then some (new.slice i).hood else none).dedup.map
        fun h => { x with hood := h })) }

/-! ## Lists of State -/

/-- The warp in a core's slot. -/
def State.warp? (s : State) (core slot : Nat) : Option Warp := s.warps.find? fun w => w.core = core && w.slot = slot

/-- Puts a warp back in its place. -/
def State.setWarp (s : State) (w : Warp) : State :=
  { s with warps := s.warps.map fun x => if x.core = w.core && x.slot = w.slot then w else x }

/-- Removes the warp in a core's slot. -/
def State.dropWarp (s : State) (core slot : Nat) : State :=
  { s with warps := s.warps.filter fun x => !(x.core = core && x.slot = slot) }

/-- Changes the warp in a core's slot, if there is one. -/
def State.modWarp (s : State) (core slot : Nat) (g : Warp → Warp) : State :=
  { s with warps := s.warps.map fun x => if x.core = core && x.slot = slot then g x else x }

/-- A context by its id. -/
def State.ctx? (s : State) (id : Nat) : Option Context := s.contexts.find? fun c => c.id = id

/-- Changes a context. -/
def State.modCtx (s : State) (id : Nat) (g : Context → Context) : State :=
  { s with contexts := s.contexts.map fun c => if c.id = id then g c else c }

/-- The system context. -/
def State.sysCtx? (s : State) : Option Context := s.contexts.find? fun c => c.system

/-- A gang by its number. -/
def State.gang? (s : State) (id : Nat) : Option Gang := s.sched.gangs.find? fun g => g.id = id

/-- Changes a gang. -/
def State.modGang (s : State) (id : Nat) (f : Gang → Gang) : State :=
  { s with sched := { s.sched with gangs := s.sched.gangs.map fun g => if g.id = id then f g else g } }

/-- The block at a gang position. -/
def Gang.block? (g : Gang) (pos : Nat) : Option Block := g.blocks.find? fun b => b.pos = pos

/-- Changes the block at a gang position. -/
def Gang.modBlock (g : Gang) (pos : Nat) (f : Block → Block) : Gang :=
  { g with blocks := g.blocks.map fun b => if b.pos = pos then f b else b }

/-- The block of a warp. -/
def State.blockOf? (s : State) (w : Warp) : Option Block := (s.gang? w.gang).bind fun g => g.block? w.pos

/-- Changes the block of a warp. -/
def State.modBlockOf (s : State) (w : Warp) (f : Block → Block) : State := s.modGang w.gang fun g => g.modBlock w.pos f

/-- A die's registers. -/
def State.die (s : State) (d : Nat) : DieRegs := s.dies.getD d {}

/-- Changes a die's registers. -/
def State.modDie (s : State) (d : Nat) (f : DieRegs → DieRegs) : State := { s with dies := s.dies.modify d f }

/-- The die of a device-wide core. -/
def dieOfCore (core : Nat) : Nat := core / Config.coresPerDie

/-- The device-wide cluster of a device-wide core: four cores each (R4). -/
def clusterOfCore (core : Nat) : Nat := core / 4

/-- Takes the next free number (log entry 1). -/
def State.bump (s : State) : State := { s with free := s.free + 1 }

/-- Says something to the outside world. -/
def State.say (s : State) (o : Out) : State := { s with out := o :: s.out }

end Sys2Proof.Machine
end

