-- ==== Sys2Proof/Machine/Store.lean ====
section
/-! DEFINITION. Storage: sparse data by key in one canonical form, bytes, lines with their tags and poison, and the storage keys
of the address spaces (R27, R29, R37, R41, R49, R59). -/

namespace Sys2Proof.Machine

open Sys2Proof

/-! ## Sparse data in canonical form -/

/-- What key `k` holds; an unlisted key holds `d`. -/
def Memory.get {β : Type} (d : β) (m : List (Nat × β)) (k : Nat) : β := (m.lookup k).getD d

/-- Writes key `k`, keeping the keys rising and listing no entry equal to `d`. -/
def Memory.put {β : Type} [DecidableEq β] (d : β) : List (Nat × β) → Nat → β → List (Nat × β)
  | [], k, b => if b = d then [] else [(k, b)]
  | c :: m, k, b =>
    if k < c.1 then (if b = d then c :: m else (k, b) :: c :: m)
    else if k = c.1 then (if b = d then m else (k, b) :: m)
    else c :: Memory.put d m k b

/-- The canonical form: keys strictly rising, no entry equal to what an unlisted key holds. -/
abbrev Memory.wf {β : Type} [DecidableEq β] (d : β) (m : List (Nat × β)) : Prop :=
  (m.map Prod.fst).Pairwise (· < ·) ∧ ∀ c ∈ m, c.2 ≠ d

/-! ## Bytes -/

/-- The byte at a storage key; storage that nothing has written reads zero (R56). -/
def Store.byte (s : Store) (k : Nat) : Byte := Memory.get 0 s.mem k

/-- Writes one byte. -/
def Store.setByte (s : Store) (k : Nat) (b : Byte) : Store := { s with mem := Memory.put 0 s.mem k b }

/-- `n` bytes from `k` as a little-endian number. -/
def Store.read (s : Store) (k : Nat) : Nat → Nat
  | 0 => 0
  | n + 1 => (s.byte k).toNat + 256 * Store.read s (k + 1) n

/-- Writes the low `n` bytes of a little-endian number at `k`. -/
def Store.write (s : Store) (k : Nat) : Nat → Nat → Store
  | 0, _ => s
  | n + 1, v => Store.write (s.setByte k (BitVec.ofNat 8 v)) (k + 1) n (v / 256)

/-- Sets `n` bytes from `k` to zero. -/
def Store.zero (s : Store) (k n : Nat) : Store :=
  { s with mem := s.mem.filter fun c => !(k ≤ c.1 && c.1 < k + n) }

/-- The 128 bytes of line `l`. -/
def Store.line (s : Store) (l : Nat) : LineData := BitVec.ofNat 1024 (s.read (128 * l) 128)

/-- Byte `i` of a line's data. -/
def LineData.byte (d : LineData) (i : Nat) : Byte := d.extractLsb' (8 * i) 8

/-- Writes the bytes of a line selected by `mask` (bit i for byte i). -/
def Store.putLine (s : Store) (l : Nat) (mask : BitVec 128) (d : LineData) : Store :=
  (List.range 128).foldl (fun s i => if mask.getLsbD i then s.setByte (128 * l + i) (LineData.byte d i) else s) s

/-- The tag of a line (R37). -/
def Store.tag (s : Store) (l : Nat) : TagWord := Memory.get 0 s.tags l

/-- Writes the tag of a line. -/
def Store.setTag (s : Store) (l : Nat) (t : TagWord) : Store := { s with tags := Memory.put 0 s.tags l t }

/-! ## Poison (R57, R59)

Poison is kept by 4-byte word, under the word's number: the subcode it raises, plus 8 when it came from the line's tag. -/

/-- The poison of the word numbered `w`; zero when there is none. -/
def Store.wordPoison (s : Store) (w : Nat) : Nat := Memory.get 0 s.poison w

/-- Sets the poison of a word. -/
def Store.setWordPoison (s : Store) (w p : Nat) : Store := { s with poison := Memory.put 0 s.poison w p }

/-- The subcode that consuming `n` bytes at `k` raises, if one of their words is poisoned. -/
def Store.poisonAt (s : Store) (k n : Nat) : Option Nat :=
  (s.poison.find? fun c => k / 4 ≤ c.1 && c.1 ≤ (k + n - 1) / 4).map fun c => c.2 % 8

/-- Whether the line's poison came from its tag. -/
def Store.tagPoisoned (s : Store) (l : Nat) : Bool := s.poison.any fun c => c.1 / 32 = l && 8 ≤ c.2

/-- The poison of a line by the word's place in it. -/
def Store.linePoison (s : Store) (l : Nat) : List (Nat × Nat) :=
  (s.poison.filter fun c => c.1 / 32 = l).map fun c => (c.1 % 32, c.2)

/-- Clears the poison of a line. -/
def Store.clearPoison (s : Store) (l : Nat) : Store := { s with poison := s.poison.filter fun c => c.1 / 32 ≠ l }

/-- Poisons every word of a line. -/
def Store.poisonLine (s : Store) (l p : Nat) : Store :=
  (List.range 32).foldl (fun s i => s.setWordPoison (32 * l + i) p) s

/-- A masked write of a line by anything but a tagged whole-line write: the tag stays; a write of all 128 bytes clears the
poison unless it came from the tag (R38, R59). -/
def Store.writeLine (s : Store) (l : Nat) (mask : BitVec 128) (d : LineData) : Store :=
  let s' := s.putLine l mask d
  if mask = BitVec.allOnes 128 && !s.tagPoisoned l then s'.clearPoison l else s'

/-- A tagged whole-line write: data, tag and poison in one step (R40, R59). -/
def Store.writeTagged (s : Store) (l : Nat) (d : LineData) (t : TagWord) : Store :=
  ((s.putLine l (BitVec.allOnes 128) d).setTag l t).clearPoison l

/-- Moves a line with its tag and poison (R59, R109). -/
def Store.copyLine (s : Store) (src dst : Nat) : Store :=
  let s' := s.writeTagged dst (s.line src) (s.tag src)
  (List.range 32).foldl (fun a i => a.setWordPoison (32 * dst + i) (s.wordPoison (32 * src + i))) s'

/-- Zeroes `n` bytes from `k` and the tags and poison of the lines they make up. -/
def Store.wipe (s : Store) (k n : Nat) : Store :=
  let inside := fun (l : Nat) => k ≤ 128 * l && 128 * l < k + n
  { (s.zero k n) with
    tags := s.tags.filter fun c => !inside c.1
    poison := s.poison.filter fun c => !inside (c.1 / 32)
    past := s.past.filter fun c => !inside c.line }

/-- The poisoned words of a line as a mask. -/
def Store.poisonMask (s : Store) (l : Nat) : Word :=
  (List.range 32).foldl (fun m i => if s.wordPoison (32 * l + i) = 0 then m else m ||| ((1 : Word) <<< i)) 0

/-- Remembers a write to a scratchpad line and what the line held before it (R45, R136). -/
def Store.remember (s before : Store) (free l : Nat) (mask : BitVec 128) (d : LineData) (t : Option TagWord) : Store :=
  { s with past := s.past ++ [{ line := l, mask := mask, data := d, tag := t, at_ := free, oldData := before.line l,
                                oldTag := before.tag l, oldPoison := before.poisonMask l, newPoison := s.poisonMask l }] }

/-- Signs the writes remembered after the first `n` with the warp and the lanes of the hood that stored them. -/
def Store.signPast (s : Store) (n : Nat) (who : Nat × Nat × LaneMask) : Store :=
  { s with past := s.past.zipIdx.map fun x => if n ≤ x.2 && x.1.by_.isNone then { x.1 with by_ := some who } else x.1 }

/-- The bytes of a line with those of `mask` taken from `new`. -/
def LineData.merge (old new : LineData) (mask : BitVec 128) : LineData :=
  (List.range 128).foldl (fun d i =>
    if mask.getLsbD i then let m : LineData := (0xFF : LineData) <<< (8 * i); (d &&& ~~~m) ||| (new &&& m) else d) old

/-! ## Lane-private words (R22, R23) -/

/-- What a warp reads in `n` bytes at `va` of its lane-private slot where storage holds `v` (R23): the bytes it has written stand, and
each other word is free between zero and what an earlier holder of the slot wrote to it (log entry 1). -/
def Store.lpRead (m : Store) (free ctx slot va n v : Nat) : Nat :=
  let word := fun (a : Nat) =>
    let mine := m.lp.filter fun x => x.ctx = ctx && x.slot = slot && x.va = a
    let held : BitVec 4 := (mine.filter fun x => !x.old).foldl (fun b x => b ||| x.mask) 0
    let vals := (0, (0 : BitVec 4)) :: (mine.filter LpWrite.old).map fun x => (x.val.toNat, x.mask)
    let c := pickOf free (2 ^ 20 + a) (0, 0) vals
    (held, if c.2 = 0 then 0 else c.1)
  (List.range n).foldl (fun acc i =>
    let o := (va + i) % 4
    let w := word (va + i - o)
    acc + (if w.1.getLsbD o then v / 256 ^ i % 256 else w.2 / 256 ^ o % 256) * 256 ^ i) 0

/-- Notes what a warp writes in `n` bytes at `va` of its lane-private slot. -/
def Store.lpNote (m : Store) (ctx slot va n v : Nat) : Store :=
  { m with lp := m.lp ++ ((List.range (n / 4 + 2)).filterMap fun i =>
      let a := va / 4 * 4 + 4 * i
      let lo := max va a
      let hi := min (va + n) (a + 4)
      if lo < hi then
        some { ctx := ctx, slot := slot, va := a, mask := BitVec.ofNat 4 ((2 ^ (hi - lo) - 1) * 2 ^ (lo - a)),
               val := BitVec.ofNat 32 (v / 256 ^ (lo - va) % 256 ^ (hi - lo) * 256 ^ (lo - a)) }
      else none) }

/-- A slot goes to a new holder (R23): what it has held so far is what earlier holders wrote. -/
def Store.lpTake (m : Store) (ctx slot : Nat) : Store :=
  { m with lp := m.lp.map fun x => if x.ctx = ctx && x.slot = slot then { x with old := true } else x }

/-! ## Storage keys -/

/-- First storage key of the scratchpads, above the 52-bit physical map. -/
def scratchKeys : Nat := 2 ^ 52

/-- The storage key of a scratchpad byte: device-wide core and offset within the core. -/
def scratchKey (core off : Nat) : Nat := scratchKeys + core * Config.scratchBytes + off

/-- Start of die `d`'s die-scratch aperture (R27). -/
def apertureBase (d : Nat) : Nat := 0x20000000000 + d * 0x10000000

/-- What a physical address names (R27, R28, R29). -/
inductive Region
  | hbm (home : Nat)
  | aperture (die off : Nat)
  | host
  | mmio (off : Nat)
  | pod (target off : Nat)
  | hole
deriving DecidableEq, Repr

/-- Whether compute die `d` is in the topology table (R161, R163). -/
def State.present (s : State) (d : Nat) : Bool := (s.die d).present

/-- The physical map (R27 to R30). -/
def State.region (s : State) (pa : Nat) : Region :=
  if pa < 0x10000000000 then
    (let d := pa / (Config.hbmStacks * Config.hbmStackBytes)
     if s.present d then .hbm d else .hole)
  else if 0x20000000000 ≤ pa && pa < 0x20040000000 then
    let d := (pa - 0x20000000000) / 0x10000000
    let off := (pa - 0x20000000000) % 0x10000000
    if off < (s.die d).carve * 0x4000000 then .aperture d off else .hole
  else if 0x1000000000000 ≤ pa && pa < 0x2000000000000 then .host
  else if 0x2000000000000 ≤ pa && pa < 0x2000100000000 then .mmio (pa - 0x2000000000000)
  else if 0x8000000000000 ≤ pa && pa < 0x10000000000000 then
    let t := (pa - 0x8000000000000) / 2 ^ 43
    if t < 212 then .pod t (pa % 2 ^ 43) else .hole
  else .hole

/-- Whether a compute die has a capability, by its bit of the CAPS it sent at discovery (R161, R162); the dies of a Tusum 4M have all. -/
def State.hasCap (s : State) (die bit : Nat) : Bool := (s.hub.discovered.lookup die).all fun r => r.caps.getLsbD bit

/-- Whether a line carries a tag (R37, R162), by its storage line number. -/
def State.tagged (s : State) (l : Nat) : Bool :=
  scratchKeys ≤ 128 * l || match s.region (128 * l) with | .hbm d => s.hasCap d 1 | .aperture d _ => s.hasCap d 1 | _ => false

/-- The home die of an HBM4E or aperture line (R28, R29). -/
def State.homeOf (s : State) (l : Nat) : Option Nat :=
  match s.region (128 * l) with | .hbm d => some d | .aperture d _ => some d | _ => none

/-- The L2 slice of a line (R53); die-scratch lines by their offset (R49). -/
def sliceOf (l : Nat) : Nat :=
  let pa := 128 * l
  if 0x20000000000 ≤ pa && pa < 0x20040000000 then pa / 128 % 64
  else (pa / 2 ^ 7 % 64) ^^^ (pa / 2 ^ 13 % 64) ^^^ (pa / 2 ^ 19 % 64) ^^^ (pa / 2 ^ 25 % 64)

end Sys2Proof.Machine
end

