-- ==== Sys2Proof/Machine/Emit.lean ====
section
/-! DEFINITION. Emission of trace records to a die's collector (R435 to R437, R443 to R446). -/

namespace Sys2Proof.Machine

open Sys2Proof

/-- The hub's die code in SOURCE (R435). -/
def hubDie : Nat := 4

/-- The nanosecond counter of a die, or of the hub (R157, R438). -/
def State.nsOf (s : State) (die : Nat) : Nat := if die = hubDie then s.hub.ns else (s.die die).ns

/-- SOURCE (R435). -/
def sourceOf (die unit sub : Nat) : Nat := die * 8192 + unit % 512 * 16 + sub % 16

/-- Types that are always delivered lossy (R444). -/
def alwaysLossy : List Nat := [0x0D, 0x0E, 0x0F, 0x10, 0x12, 0x15, 0x16, 0x17]

/-- Types that no mask drops (R443). -/
def alwaysDelivered : List Nat := [0x15, 0x16]

/-- Whether a context's buffer takes a record (R443). -/
def Context.accepts (c : Context) (ctx code : Nat) : Bool :=
  c.en && (ctx = c.id || ctx = 0xFFFF || c.allctx) && (c.typeMask.getLsbD code || alwaysDelivered.contains code)

/-- Whether a buffer is in lossless mode (R444, R447). -/
def Context.losslessNow (c : Context) : Bool := c.en && c.ll && !c.fallback && !c.allctx

/-- Whether a context's buffer takes a record losslessly (R444, R447). -/
def Context.takesLossless (c : Context) (ctx code : Nat) (lossless : Bool) : Bool :=
  c.accepts ctx code && lossless && c.losslessNow && !alwaysLossy.contains code

/-- Records staged at a die's collector: its first 64; what lies behind them is held at its agents (R445, R446). -/
def State.stagedOf (s : State) (die : Nat) : Nat := s.staged.countP fun r => r.die = die

/-- Whether a die's collector has room for another record (R445). -/
def State.stageRoom (s : State) (die : Nat) : Bool := s.stagedOf die < Config.traceStaging

/-- Notes that an agent is held at its point, from now unless it is so already (R447). -/
def State.noteHold (s : State) (die ctx code n : Nat) : State :=
  { s with contexts := s.contexts.map fun c =>
      if c.takesLossless ctx code true && !c.holds.any fun h => h.die = die && h.code = code && h.n = n
      then { c with holds := c.holds ++ [{ die := die, code := code, n := n, since := s.hub.ns }] } else c }

/-- Counts a lossy record dropped by a buffer (R445). -/
def Context.countDrop (c : Context) : Context := { c with overflow := c.overflow + 1, dropPend := c.dropPend + 1 }

/-- Emits a record to its die's collector for the buffers that take it as it is emitted (R400, R443). With the staging full the buffers that
take it lossy drop and count it, and where one takes it losslessly the record stays with its agent, behind the 64 (R445, R446). -/
def State.emit (s : State) (die unit sub ctx code payload : Nat) (body : Option (BitVec 128) := none)
    (lossless : Bool := false) (warp : Option (Nat × Nat × Nat) := none) (gang : Option Nat := none) : State :=
  let all := s.contexts.filter fun c => c.accepts ctx code
  let room := s.stageRoom die
  let kept := all.filter fun c => room || c.takesLossless ctx code lossless
  let s := if kept.length = all.length then s else
    { s with contexts := s.contexts.map fun c => if all.contains c && !kept.contains c then c.countDrop else c }
  if kept.isEmpty then s
  else
    let r : TraceRec :=
      { die := die, time := s.nsOf die, source := sourceOf die unit sub, ctx := ctx, code := code, payload := payload % 2 ^ 24, body := body
        lossless := lossless && !alwaysLossy.contains code, takers := kept.map Context.id, warp := warp, gang := gang }
    let s := { s with staged := s.staged ++ [r] }
    if room then s else s.noteHold die ctx code 1

/-- The body of an extended record from its two 8-byte halves. -/
def traceBody (lo hi : Nat) : Option (BitVec 128) := some (BitVec.ofNat 128 (lo % 2 ^ 64 + 2 ^ 64 * hi))

end Sys2Proof.Machine
end

