-- ==== Sys2Proof/Machine/Coh.lean ====
section
/-! DEFINITION. Directory and L2 state of lines (R53, R54, R60 to R62, R148 to R156): what a completed access leaves in them. The
bytes themselves are the latest of the coherence order and stand in `Store`. -/

namespace Sys2Proof.Machine

open Sys2Proof

/-! ## Cached lines and priorities -/

/-- Priority codes of R60. -/
def prioNormal : Nat := 0
def prioEf : Nat := 1
def prioEl : Nat := 2

/-- The priority a hint gives on a fill (R60). -/
def fillPrio (ch : Nat) : Nat := if ch = 1 then prioEf else if ch = 2 then prioEl else prioNormal

/-- The priority a hint leaves on a hit (R60): evict-last is never lowered by an access. -/
def hitPrio (old ch : Nat) : Nat :=
  if old = prioEl || ch = 3 then old else fillPrio ch

/-- R61's order of victims: lower goes first. -/
def evictRank (p : Nat) : Nat := if p = prioEf then 0 else if p = prioNormal then 1 else 2

/-- The place, in a list newest first, of the victim among the candidates (R61). -/
def victimOf {α : Type} (l : List α) (cand : α → Bool) (prio : α → Nat) : Option Nat :=
  let best := (l.filter cand).foldl (fun b x => min b (evictRank (prio x))) 3
  ((List.range l.length).reverse).find? fun i =>
    match l[i]? with | some x => cand x && evictRank (prio x) = best | none => false

/-- The set of a line within its slice (R53). -/
def l2Set (l : Nat) : Nat := 128 * l / 2 ^ 13 % 2 ^ 13

/-- The line as a die's L2 holds it. -/
def State.l2? (s : State) (die l : Nat) : Option L2Line := s.coh.l2.find? fun x => x.die = die && x.line = l

/-- Changes the coherence state. -/
def State.modCoh (s : State) (g : Coherence → Coherence) : State := { s with coh := g s.coh }

/-- Drops a line from a die's L2. -/
def State.l2Drop (s : State) (die l : Nat) : State :=
  s.modCoh fun c => { c with l2 := c.l2.filter fun x => !(x.die = die && x.line = l) }

/-- Removes a die from a line's directory entry. -/
def dirRemove (d : List DirEntry) (l die : Nat) : List DirEntry :=
  d.filterMap fun e =>
    if e.line = l then
      let r := e.dies.filter (· ≠ die)
      if r.isEmpty then none else some { e with dies := r }
    else some e

/-- Sets a line's directory entry; no die means UNCACHED. -/
def dirSet (d : List DirEntry) (l : Nat) (owned : Bool) (dies : List Nat) : List DirEntry :=
  let rest := d.filter fun e => e.line ≠ l
  if dies.isEmpty then rest else { line := l, owned := owned, dies := dies } :: rest

/-- What eviction does (R54, R151): a HOST-COH line held M is written back to the host; an owned line leaves the directory. -/
def State.l2Evict (s : State) (x : L2Line) : State :=
  let s := s.l2Drop x.die x.line
  match s.region (128 * x.line) with
  | .host => if x.st = .m then s.say (.d2hWriteBack x.die (hostLine x.line) (s.store.line x.line)) else s
  | _ => if x.st = .s then s else s.modCoh fun c => { c with dir := dirRemove c.dir x.line x.die }

/-- Ways that cache lines on a die (R47). -/
def State.cacheWays (s : State) (die : Nat) : Nat := 15 - (s.die die).carve

/-- Whether a home has a transaction under way on a line, behind which an access waits (R150): a message of it is on its way, or Acks
are still owed. -/
def State.lineBusy (s : State) (l : Nat) : Bool :=
  (s.coh.msgs.any fun m => match m with
    | .inv m | .fwds m | .fwdx m => m.line = l
    | .ack m | .data m => m.line = l
    | .redirect _ => false) ||
  s.coh.outs.any fun o => o.line = l && 0 < o.pending

/-- Whether a request waits at a line's home, for which later ones wait in turn (R150). -/
def State.lineQueued (s : State) (l : Nat) : Bool := s.coh.outs.any fun o => o.queued.isSome && o.line = l

/-- Whether a line in L2 may be evicted (R61): not while a directory transaction holds it OWNED, nor with a fill under way. -/
def State.evictable (s : State) (y : L2Line) : Bool :=
  !(y.st ≠ .s && s.lineBusy y.line) && !s.caches.fills.any fun f => f.pa = y.line && f.core / Config.coresPerDie = y.die && f.toL2

/-- Puts a line into a die's L2, evicting by R61; with no candidate in a full set the line is not installed. -/
def State.l2Install (s : State) (x : L2Line) : State :=
  let s := s.l2Drop x.die x.line
  let same := fun (y : L2Line) => y.die = x.die && sliceOf y.line = sliceOf x.line && l2Set y.line = l2Set x.line
  if s.cacheWays x.die ≤ s.coh.l2.countP same then
    match (victimOf s.coh.l2 (fun y => same y && s.evictable y) L2Line.prio).bind fun i => s.coh.l2[i]? with
    | some v => (s.l2Evict v).modCoh fun c => { c with l2 := x :: c.l2 }
    | none => s.l2Evict x
  else s.modCoh fun c => { c with l2 := x :: c.l2 }

/-- A hit on, or a fill of, a line in a die's L2 under a hint. -/
def State.l2Use (s : State) (die l ch : Nat) (st : CacheState) (wt dirty : Bool) : State :=
  match s.l2? die l with
  | some x => s.l2Install { x with st := st, wt := wt, dirty := x.dirty || dirty, prio := hitPrio x.prio ch }
  | none => if ch = 3 then s else
      s.l2Install { die := die, line := l, st := st, wt := wt, dirty := dirty, prio := fillPrio ch }

/-! ## The directory -/

/-- The directory entry of a line; none is UNCACHED (R148). -/
def State.dir? (s : State) (l : Nat) : Option DirEntry := s.coh.dir.find? fun e => e.line = l

/-- The home-execute entry of a line (R156). -/
def State.homeExec? (s : State) (l : Nat) : Option HomeExec := s.coh.home.find? fun e => e.line = l

/-- Whether a line is in home-execute mode (R156). -/
def State.inHomeExec (s : State) (l : Nat) : Bool := (s.homeExec? l).any fun e => e.until_ ≠ 0

/-- Whether a line lies in a watched range of a live watch (R149, R212). -/
def State.watched (s : State) (l : Nat) : Bool := s.sched.watches.any fun w => w.lines.any fun p => p.2 = l

/-- Whether a line belongs to a page in TRACK or COPY (R109, R149). -/
def State.migrating (s : State) (l : Nat) : Bool :=
  s.eng.migs.any fun m => !m.cut &&
    ((m.oldFrame ≤ 128 * l && 128 * l < m.oldFrame + m.size) ||
     m.swap.isSome && m.newFrame ≤ 128 * l && 128 * l < m.newFrame + m.size)

/-- Whether the home grants no exclusive copy of a line (R149). -/
def State.wtOnly (s : State) (l : Nat) : Bool := s.watched l || s.migrating l || s.inHomeExec l

/-- Whether every home-execute entry of the line's slice is in that mode and the line has none (R156). -/
def State.homeExecFull (s : State) (home l : Nat) : Bool :=
  let mine := s.coh.home.filter fun e => s.homeOf e.line = some home && sliceOf e.line = sliceOf l
  Config.homeExecEntries ≤ mine.length && mine.all (fun e => e.until_ ≠ 0) && (s.homeExec? l).isNone

/-- Counts one ownership transfer at the home (R156): a grant of OWNED to the die `new`, unless that die was the previous owner, or,
for none, a recall. The fourth within 4,096 cycles recalls the line and starts home-execute mode. -/
def State.countTransfer (s : State) (home l : Nat) (new : Option Nat) : State :=
  let now := (s.die home).clock
  let prev := (s.homeExec? l).bind HomeExec.prev
  let times := now :: (((s.homeExec? l).map HomeExec.times).getD []).filter fun t => now < t + 4096
  let rest := s.coh.home.filter fun e => e.line ≠ l
  let mine := fun (e : HomeExec) => s.homeOf e.line = some home && sliceOf e.line = sliceOf l
  let rest :=
    if Config.homeExecEntries ≤ rest.countP mine then
      match ((List.range rest.length).reverse).find? fun i =>
          match rest[i]? with | some e => mine e && e.until_ = 0 | none => false with
      | some i => rest.eraseIdx i
      | none => rest
    else rest
  if s.homeExecFull home l || (new.isSome && new = prev) then s
  else if 4 ≤ times.length then
    let owners := ((s.dir? l).map DirEntry.dies).getD []
    let s := owners.foldl (fun s d => s.l2Drop d l) s
    s.modCoh fun c => { c with dir := dirSet c.dir l false [], home := { line := l, until_ := now + 32768 } :: rest }
  else s.modCoh fun c => { c with home := { line := l, times := times, prev := new.orElse fun _ => prev } :: rest }

/-- Makes every remote copy of a line invalid. -/
def State.recallAll (s : State) (l : Nat) : State :=
  let holders := ((s.dir? l).map DirEntry.dies).getD []
  (holders.foldl (fun s d => s.l2Drop d l) s).modCoh fun c => { c with dir := dirSet c.dir l false [] }

/-- Sets the state in which a die's L2 holds a line, if it holds it. -/
def State.l2SetState (s : State) (die l : Nat) (st : CacheState) : State :=
  s.modCoh fun c => { c with l2 := c.l2.map fun x => if x.die = die && x.line = l then { x with st := st } else x }

/-- A read performed at the home: an owner keeps S (R150: RdNC, local read). -/
def State.homeRead (s : State) (l : Nat) : State :=
  match s.dir? l with
  | some e => if e.owned then
      (e.dies.foldl (fun s d => s.l2SetState d l .s) s).modCoh fun c => { c with dir := dirSet c.dir l false e.dies }
    else s
  | none => s

/-- A write or atomic performed at the home (R150: WrPart, AtomHome, local write or atomic); `keep` is a requester that keeps its
WT copy. -/
def State.homeWrite (s : State) (home l : Nat) (keep : Option Nat) : State :=
  match s.dir? l with
  | none => s
  | some e =>
    let kept := e.dies.filter fun d => !e.owned && keep = some d && (s.l2? d l).isSome
    let s' := (e.dies.filter fun d => !kept.contains d).foldl (fun s d => s.l2Drop d l) s
    let s' := s'.modCoh fun c => { c with dir := dirSet c.dir l false kept }
    if e.owned then s'.countTransfer home l none else s'

/-- A read by die `d` of a line homed on another die (R150, R151). -/
def State.remoteRead (s : State) (d home l ch : Nat) : State :=
  match s.l2? d l with
  | some x => s.l2Use d l ch x.st x.wt false
  | none =>
    if ch = 3 then s.homeRead l
    else match s.dir? l with
      | none =>
        if s.wtOnly l then (s.modCoh fun c => { c with dir := dirSet c.dir l false [d] }).l2Use d l ch .s true false
        else ((s.modCoh fun c => { c with dir := dirSet c.dir l true [d] }).l2Use d l ch .e false false).countTransfer home l (some d)
      | some e =>
        let s := if e.owned then e.dies.foldl (fun s o => s.l2SetState o l .s) s else s
        (s.modCoh fun c => { c with dir := dirSet c.dir l false (d :: e.dies.filter (· ≠ d)) }).l2Use d l ch .s (s.wtOnly l) false

/-- A write or atomic by die `d` on a line homed on `home` (R150, R151, R153): at once on an owned copy; at the home for a WT copy
(R149) and for an `.na` access that misses (R62); else after ownership has come. -/
def State.remoteWrite (s : State) (d home l ch : Nat) (atomic : Bool) : State :=
  let atHome := fun (_ : Unit) =>
    let s' := s.homeWrite home l (some d)
    match s'.l2? d l with | some x => s'.l2Use d l ch x.st x.wt false | none => s'
  let own := fun (_ : Unit) =>
    if s.wtOnly l || (atomic && s.homeExecFull home l) then atHome ()
    else
      let s' := ((s.dir? l).map DirEntry.dies).getD [] |>.foldl (fun s o => if o = d then s else s.l2Drop o l) s
      let s' := (s'.modCoh fun c => { c with dir := dirSet c.dir l true [d] }).l2Use d l ch .m false true
      s'.countTransfer home l (some d)
  match s.l2? d l with
  | some x => if x.st ≠ .s then s.l2Use d l ch .m false true else if x.wt then atHome () else own ()
  | none => if ch = 3 then atHome () else own ()

/-- How an access uses a line. -/
inductive Use_
  | read | write | atomic
deriving DecidableEq, Repr

/-- What a completed access by die `d` leaves in the directory and the L2s. Apertures and die scratch are served at their slice
and never cached elsewhere (R29, R49). -/
def State.touch (s : State) (d l ch : Nat) (u : Use_) : State :=
  match s.region (128 * l) with
  | .hbm home =>
    if home = d then
      match u with
      | .read => (s.homeRead l).l2Use d l ch .e false false
      | _ => (s.homeWrite home l none).l2Use d l ch .m false true
    else match u with
      | .read => s.remoteRead d home l ch
      | .write => s.remoteWrite d home l ch false
      | .atomic => s.remoteWrite d home l ch true
  | .host =>
    match u with
    | .read => s.l2Use d l ch (((s.l2? d l).map L2Line.st).getD .s) false false
    | _ => s.l2Use d l ch .m false true  -- `.na` that misses keeps nothing (R62)
  | _ => s

/-- Whether an access to a line homed on another die is served by the die's own L2 (R151). -/
def State.servedHere (s : State) (die l : Nat) (u : Use_) : Bool := (s.l2? die l).any fun x => u = .read || x.st ≠ .s

/-- Whether an access must first have the host give the line up (R450): it writes it, or would be granted it OWNED. -/
def State.hostBlocks (s : State) (d l : Nat) (u : Use_) : Bool :=
  s.hub.snoop.contains l && (u ≠ .read || (s.homeOf l ≠ some d && (s.dir? l).isNone && !s.wtOnly l))

end Sys2Proof.Machine
end

