-- ==== Sys2Proof/Machine/Tables.lean ====
section
/-! DEFINITION. Page-table entries (R94, R95), the tables that contexts use, and what a walk may still read of an entry that a store has
changed (R98). -/

namespace Sys2Proof.Machine

open Sys2Proof

/-- Lowest VA bit of a level's index (R94). -/
def levelShift : Nat → Nat
  | 4 => 48 | 3 => 39 | 2 => 30 | 1 => 21 | _ => 16

/-- Entries of a table of a level (R94). -/
def levelEntries (level : Nat) : Nat := if level = 0 then 32 else 512

/-- A page-table entry's fields (R95). -/
def pteV (e : DWord) : Bool := e.getLsbD 0
def pteLeaf (e : DWord) : Bool := e.getLsbD 1
def pteAttr (e : DWord) : Nat := (e.extractLsb' 2 3).toNat
def pteW (e : DWord) : Bool := e.getLsbD 5
def pteX (e : DWord) : Bool := e.getLsbD 6
def pteSys (e : DWord) : Bool := e.getLsbD 7
def ptePin (e : DWord) : Bool := e.getLsbD 8
def pteA (e : DWord) : Bool := e.getLsbD 9
def pteD (e : DWord) : Bool := e.getLsbD 10
def pteMig (e : DWord) : Bool := e.getLsbD 11
def pteFrame (e : DWord) : Nat := (e.extractLsb' 16 36).toNat * 2 ^ 16
def pteNext (e : DWord) : Nat := (e.extractLsb' 8 44).toNat * 2 ^ 8

/-- Where a request to a frame with a live stub goes on to (R111), for a request that names no page of its own. -/
def State.relayPa (s : State) (pa : Nat) : Nat :=
  match s.eng.stubs.find? fun t => !t.swap && t.oldFrame ≤ pa && pa < t.oldFrame + t.size with
  | some t => t.newFrame + (pa - t.oldFrame)
  | none => pa

/-- What stands in a page-table entry. -/
def State.pteNow (s : State) (pa : Nat) : DWord := BitVec.ofNat 64 (s.store.read pa 8)

/-- What a cluster's walker, or for none an agent's of the hub, may still read in an entry: a present value that a store has changed and no
TFENCE has ordered since. An entry that was not present is read as it stands, since making it present needs no TFENCE (R91). -/
def State.pteOlder (s : State) (cl : Option Nat) (pa : Nat) : List DWord :=
  (s.caches.ptes.filter fun p => p.pa = pa && cl.all fun k => !p.done.contains k).map PtePast.entry

/-- A table in use: its level, the bits of the VA above those it indexes, and where it stands. -/
structure TableAt where
  level : Nat
  pre   : Nat
  base  : Nat
deriving DecidableEq, Repr

/-- Whether an address lies in a table. -/
def TableAt.holds (t : TableAt) (pa : Nat) : Bool := t.base ≤ pa && pa < t.base + 8 * levelEntries t.level

/-- The VA[56:0] at which the span of a table's entry begins, sign-extended (R15). -/
def TableAt.spanOf (t : TableAt) (pa : Nat) : Nat :=
  let va := (t.pre * levelEntries t.level + (pa - t.base) / 8) * 2 ^ levelShift t.level
  if 2 ^ 56 ≤ va then va + (2 ^ 64 - 2 ^ 57) else va

/-- The tables that walks from one of a level may reach, through what its entries hold and what may still be read in them (R92, R98). -/
def State.tablesFrom (s : State) : Nat → Nat → Nat → List TableAt
  | level, pre, base =>
    { level := level, pre := pre, base := base } :: match level with
      | 0 => []
      | l + 1 =>
        let at_ := ((s.store.mem.map Prod.fst ++ s.caches.ptes.map PtePast.pa).filter fun k => base ≤ k && k < base + 4096).map fun k => (k - base) / 8
        at_.dedup.flatMap fun i => ((s.pteNow (base + 8 * i)) :: s.pteOlder none (base + 8 * i)).dedup.flatMap fun e =>
          if pteV e && !pteLeaf e then s.tablesFrom l (pre * 512 + i) (s.relayPa (pteNext e)) else []

/-- The tables in use by a context. -/
def State.tablesOf (s : State) (c : Context) : List TableAt := if c.killed then [] else s.tablesFrom 4 0 (s.relayPa c.ptroot)

/-- Notes what the present entries of a line in a page table held before a store that has changed them: `s` is the state before, `t` after. -/
def State.notePtes (s t : State) (l : Nat) : State :=
  let old := ((List.range 16).map fun i => 128 * l + 8 * i).filter fun pa => pteV (s.pteNow pa) && s.pteNow pa ≠ t.pteNow pa
  if old.isEmpty || !(s.contexts.any fun c => (s.tablesOf c).any fun x => x.holds (128 * l) || x.holds (128 * l + 64)) then t
  else
    let new := old.map fun pa => ({ pa := pa, entry := s.pteNow pa } : PtePast)
    { t with caches := { t.caches with ptes := (t.caches.ptes.filter fun p => !new.any fun q => q.pa = p.pa && q.entry = p.entry) ++ new } }

end Sys2Proof.Machine
end

