-- ==== Sys2Proof/Machine/Watch.lean ====
section
/-! DEFINITION. Writes at their home slice: the bytes, the lines dirtied during a migration (R109), and the comparison with the
watches (R137, R195, R212 to R214). -/

namespace Sys2Proof.Machine

open Sys2Proof

/-- Changes the scheduler's part of State. -/
def State.modSched (s : State) (g : Sched → Sched) : State := { s with sched := g s.sched }
/-- Changes the engines' part of State. -/
def State.modEng (s : State) (g : Engines → Engines) : State := { s with eng := g s.eng }
/-- Changes the storage. -/
def State.modStore (s : State) (g : Store → Store) : State := { s with store := g s.store }
/-- Changes the caches. -/
def State.modCaches (s : State) (g : Caches → Caches) : State := { s with caches := g s.caches }
/-- Changes the hub. -/
def State.modHub (s : State) (g : Hub → Hub) : State := { s with hub := g s.hub }

/-- Queues a record of a home slice, without a warp, for a context's fault queue. -/
def State.pendRec (s : State) (ctx die slice : Nat) (r : FaultRec) : State :=
  { s with recs := s.recs ++ [{ ctx := ctx, die := die, unit := 144 + slice, rec_ := r }] }

/-- Whether a watch entry is the one named by context, id and home die. -/
def WatchEntry.is (w : WatchEntry) (ctx id home : Nat) : Bool := w.ctx = ctx && w.id = id && w.home = home

/-- Changes a watch entry, named by its context, id and home die. -/
def State.modWatch (s : State) (ctx id home : Nat) (g : WatchEntry → WatchEntry) : State :=
  s.modSched fun c => { c with watches := c.watches.map fun w => if w.is ctx id home then g w else w }

/-- Makes a command queue fired (R195, R196). -/
def State.fireQueue (s : State) (ctx idx : Nat) : State :=
  s.modCtx ctx fun c => { c with queues := c.queues.map fun q => if q.idx = idx then { q with fired := true } else q }

/-- The record a trigger builds from the watch's template (R205, R215). -/
def WatchEntry.record (w : WatchEntry) (depth order : Nat) : PhaseRec :=
  { ctx := w.ctx, die := w.tdie, sq := w.tsq, pc := w.pc, param := w.param, launch := none, first := 0, shape := w.shape,
    scratch := w.scratch, triggered := true, chain := depth, prio := w.prio, order := order, watch := some (w.id, w.home), lossless := true }

/-- TRIGGER's payload (R437). -/
def WatchEntry.payload (w : WatchEntry) : Nat := w.id % 2 ^ 16 + w.tsq % 64 * 2 ^ 16 + w.tdie % 4 * 2 ^ 22

/-- A counted write at a watch (R212 to R214): the address and new value of the first changed word, and the trigger depth. A
trigger beyond both limits reports the budget (log entry 67). -/
def State.watchCount (s : State) (w : WatchEntry) (addr : Nat) (val : Word) (depth slice : Nat) : State :=
  match w.queue with
  | some q => s.fireQueue w.ctx q
  | none =>
    match w.state with
    | .disabled => s
    | .pending =>
      let c := min (w.count + 1) 0xFFFF
      (s.modWatch w.ctx w.id w.home fun w => { w with count := c }).emit w.home (144 + slice) 0 w.ctx 0x08
        (w.id % 2 ^ 16 + min c 0xFF * 2 ^ 16) none true
    | .armed =>
      if w.budget ≤ w.window then
        (s.modWatch w.ctx w.id w.home fun w => { w with state := .disabled }).pendRec w.ctx w.home slice
          { code := 0x30, sub := 0x01, va := BitVec.ofNat 64 addr }
      else if w.depth < depth then
        (s.modWatch w.ctx w.id w.home fun w => { w with state := .disabled }).pendRec w.ctx w.home slice
          { code := 0x30, sub := 0x02, va := BitVec.ofNat 64 addr }
      else
        let s := s.modWatch w.ctx w.id w.home fun w =>
          { w with state := .pending, count := 1, word := addr, val := val, window := w.window + 1, sent := false }
        let s := s.modSched fun c =>
          { c with triggers := c.triggers ++ [w.record depth c.nextOrder], nextOrder := c.nextOrder + 1 }
        s.emit w.home (144 + slice) 0 w.ctx 0x07 w.payload (traceBody addr val.toNat) true

/-- The first 4-byte word of a line in which two versions differ. -/
def firstChanged (a b : LineData) : Option Nat :=
  (List.range 32).find? fun i => a.extractLsb' (32 * i) 32 ≠ b.extractLsb' (32 * i) 32

/-- Compares a changed line with every watch that has it (R213). -/
def State.compareLine (s : State) (l : Nat) (old new : LineData) (depth : Nat) : State :=
  match firstChanged old new with
  | none => s
  | some i =>
    s.sched.watches.foldl (fun s w =>
      match w.lines.find? fun p => p.2 = l with
      | some p => s.watchCount w (128 * p.1 + 4 * i) (new.extractLsb' (32 * i) 32) depth (sliceOf l)
      | none => s) s

/-- Marks a line dirty in the migrations that track its page (R109). -/
def State.markDirty (s : State) (l : Nat) : State :=
  if s.migrating l then
    s.modEng fun e => { e with migs := e.migs.map fun m =>
      if !m.cut && !m.dirty.contains l &&
         ((m.oldFrame ≤ 128 * l && 128 * l < m.oldFrame + m.size) ||
          m.swap.isSome && m.newFrame ≤ 128 * l && 128 * l < m.newFrame + m.size)
      then { m with dirty := l :: m.dirty } else m }
  else s

/-- Whether a line is scratchpad storage. -/
def isScratch (l : Nat) : Bool := scratchKeys ≤ 128 * l

/-! ## Device-written fields (R194, R354, R365) -/

/-- Whether a field's object is there no longer: a band without its magic, a ring header that is not LIVE. -/
def DevField.ended (f : DevField) (m : Store) : Bool :=
  match f.kind with
  | .band => m.read (f.obj + 9) 3 ≠ 0xFE17ED
  | .ring => !(m.byte (f.obj + 0x1A)).getLsbD 0
  | .queue => false

/-- After a write of a line: each device-written field that it has touched holds what was written or what the device last wrote
(log entry 1). -/
def State.settleFields (s : State) (l : Nat) (mask : BitVec 128) : State :=
  if s.eng.fields.isEmpty then s
  else
    let hit := s.eng.fields.filter fun f => f.key / 128 = l && mask.extractLsb' (f.key % 128) f.n ≠ 0
    let s := s.modStore fun m => hit.foldl (fun m f => if Config.pick s.free (2 ^ 40 + f.key) % 2 = 1 then m.write f.key f.n f.val else m) m
    s.modEng fun e => { e with fields := e.fields.filter fun f => !(f.obj / 128 = l && f.ended s.store) }

/-- A masked write of a line at its home (R38, R59), with what follows from it. `depth` is the trigger depth it gives (R214). -/
def State.writeLine (s : State) (l : Nat) (mask : BitVec 128) (d : LineData) (depth : Nat) : State :=
  let s' := (s.modStore fun m => m.writeLine l mask d).settleFields l mask
  if isScratch l then s'.modStore fun m => m.remember s.store s.free l mask d none else ((s.notePtes s' l).markDirty l).compareLine l (s.store.line l) (s'.store.line l) depth

/-- A tagged whole-line write (R40); untagged memory drops the tag (R39). -/
def State.writeTagged (s : State) (l : Nat) (d : LineData) (t : TagWord) (depth : Nat) : State :=
  if s.tagged l then
    let s' := (s.modStore fun m => m.writeTagged l d t).settleFields l (BitVec.allOnes 128)
    if isScratch l then s'.modStore fun m => m.remember s.store s.free l (BitVec.allOnes 128) d (some t) else ((s.notePtes s' l).markDirty l).compareLine l (s.store.line l) (s'.store.line l) depth
  else s.writeLine l (BitVec.allOnes 128) d depth

/-- The mask of `n` bytes from byte `o` of a line. -/
def byteMask (o n : Nat) : BitVec 128 := (BitVec.ofNat 128 (2 ^ n - 1)) <<< o

/-- A write of `n` bytes that lie in one line. -/
def State.writeIn (s : State) (k n v depth : Nat) : State :=
  s.writeLine (k / 128) (byteMask (k % 128) n) (BitVec.ofNat 1024 ((v % 256 ^ n) <<< (8 * (k % 128)))) depth

/-- A write of `n` bytes at a storage key, split at line boundaries. -/
def State.writeKey (s : State) (k n v depth : Nat) : State :=
  (List.range (n / 128 + 2)).foldl (fun s i =>
    let lo := max k (128 * (k / 128 + i))
    let hi := min (k + n) (128 * (k / 128 + i + 1))
    if lo < hi then s.writeIn lo (hi - lo) (v / 256 ^ (lo - k)) depth else s) s

/-! ## Lines that the host holds (R450) -/

/-- Asks the host to give a line up, once, by the host's own address of it (R449, R450). -/
def State.askBack (s : State) (l : Nat) : State :=
  if s.hub.hostWait.contains l then s else (s.modHub fun h => { h with hostWait := l :: h.hostWait }).say (.backInvalidate (s.hub.decoder / 128 + l))

/-- The lines of `n` bytes at a storage key that the host holds. -/
def State.hostLines (s : State) (k n : Nat) : List Nat := s.hub.snoop.filter fun l => k < 128 * l + 128 && 128 * l < k + n

/-- Asks the host to give up what it holds of `n` bytes. -/
def State.askSpan (s : State) (k n : Nat) : State := (s.hostLines k n).foldl State.askBack s

/-- What a late write puts into its bytes, where storage holds `m`. -/
def LateWrite.value (w : LateWrite) (m : Store) : Nat := if w.sets then m.read w.key w.n ||| w.val else w.val

/-- Whether a write by an agent of the device may be performed: the host holds none of its lines (R450), and the hub's pod writes that it
releases have been acknowledged (R126). -/
def State.lateReady (s : State) (w : LateWrite) : Bool :=
  (s.hostLines w.key w.n).isEmpty && !s.eng.pend.any fun o => o.write && w.after.contains o.txn

/-- A write by an agent of the device: while the host holds a line of it, or an earlier one waits, it waits. -/
def State.hubWrite (s : State) (w : LateWrite) : State :=
  if s.hub.late.isEmpty && s.lateReady w then s.writeKey w.key w.n (w.value s.store) w.depth
  else (s.askSpan w.key w.n).modHub fun h => { h with late := h.late ++ [w] }

/-- Performs the waiting writes `l` in order, as far as they may be. -/
def State.flushLate : List LateWrite → State → State
  | [], s => s.modHub fun h => { h with late := [] }
  | w :: rest, s =>
    if s.lateReady w then State.flushLate rest (s.writeKey w.key w.n (w.value s.store) w.depth)
    else s.modHub fun h => { h with late := w :: rest }

/-- Storage as the device's agents see it, their waiting writes made. -/
def State.lateStore (s : State) : Store := s.hub.late.foldl (fun m w => m.write w.key w.n (w.value m)) s.store

/-- The device's own write of such a field, or of several that follow one another: `f` is their bytes as one. -/
def State.putField (s : State) (f : DevField) (depth : Nat) : State :=
  let s := s.modEng fun e => { e with fields := e.fields.filter fun x => !(f.key ≤ x.key && x.key < f.key + f.n) }
  s.writeKey f.key f.n f.val depth

/-- Fields noted with what the device has written in them. -/
def State.noteFields (s : State) (l : List DevField) : State :=
  s.modEng fun e => { e with fields := (e.fields.filter fun x => !l.any fun f => x.key = f.key) ++ l.filter fun f => !f.ended s.store }

/-- Fields forgotten whose objects lie in `n` bytes at a key that has become other storage. -/
def State.dropFields (s : State) (k n : Nat) : State :=
  if s.eng.fields.isEmpty then s else s.modEng fun e => { e with fields := e.fields.filter fun f => !(k ≤ f.obj && f.obj < k + n) }

end Sys2Proof.Machine
end

