-- ==== Sys2Proof/Machine/Translate.lean ====
section
/-! DEFINITION. Translation: page tables, walks, the TLB and the L1 data cache (R15, R31, R32, R50 to R52, R90 to R99). -/

namespace Sys2Proof.Machine

open Sys2Proof

/-- Canonical addresses (R15). -/
def canonical (a : DWord) : Bool :=
  let t := a.extractLsb' 56 8
  t = 0 || t = 0xFF

/-- How an access uses a page (R107). -/
inductive AccType
  | read | write | rmw | exec
deriving DecidableEq, Repr

/-- The access code of R107. -/
def AccType.code : AccType → Nat
  | .read => 0 | .write => 1 | .rmw => 2 | .exec => 3

/-- Whether an access needs W (R96). -/
def AccType.writes : AccType → Bool
  | .write => true | .rmw => true | _ => false

/-- A translation fault: code, subcode, and the base and size of the region its record stands for (R106). -/
structure XFault where
  code : Nat
  sub  : Nat
  base : Nat
  size : Nat
deriving DecidableEq, Repr

/-- ATTR codes (R31). -/
def attrWB : Nat := 0
def attrNC : Nat := 1
def attrHostCoh : Nat := 2
def attrHostUC : Nat := 3
def attrDevice : Nat := 4
def attrPod : Nat := 5

/-- Whether an attribute fits a range (R32). -/
def attrFits (attr : Nat) : Region → Bool
  | .hbm _ => attr = attrWB || attr = attrNC
  | .aperture _ _ => attr = attrNC
  | .host => attr = attrHostCoh || attr = attrHostUC
  | .mmio _ => attr = attrDevice
  | .pod _ _ => attr = attrPod
  | .hole => false

/-- Where a walk ended: level, physical address of the leaf entry and the entry. -/
structure Leaf where
  level : Nat
  pa    : Nat
  entry : DWord
deriving DecidableEq, Repr

/-- A fault at the entry of a level (R96, R107). -/
def walkFault (code cause level va : Nat) (acc : AccType) : XFault :=
  let sz := 2 ^ levelShift level
  { code := code, sub := cause * 32 + level * 4 + acc.code, base := va / sz * sz, size := sz }

/-- R96's checks of one entry, up to the leaf's attribute. -/
def State.entryFault (s : State) (level va : Nat) (acc : AccType) (e : DWord) : Option XFault :=
  if !pteV e then some (walkFault 0x10 0 level va acc)
  else if e.extractLsb' 52 12 ≠ 0 || (pteLeaf e && e.extractLsb' 12 4 ≠ 0) || (!pteLeaf e && e.extractLsb' 2 6 ≠ 0) then
    some (walkFault 0x19 1 level va acc)
  else if (pteLeaf e && level ≤ 2 && pteFrame e % 2 ^ levelShift level ≠ 0) ||
      (!pteLeaf e && level ≠ 1 && pteNext e % 0x1000 ≠ 0) then some (walkFault 0x19 2 level va acc)
  else if (pteLeaf e && 3 ≤ level) || (!pteLeaf e && level = 0) then some (walkFault 0x19 3 level va acc)
  else if !pteLeaf e && (match s.region (pteNext e) with | .hbm _ => false | _ => true) then
    some (walkFault 0x19 4 level va acc)
  else none

/-- The attribute faults of a leaf for the physical address an access uses (R31, R32, R96). -/
def State.attrFault (s : State) (attr pa base size : Nat) : Option XFault :=
  if 6 ≤ attr then some { code := 0x18, sub := 0, base := base, size := size }
  else if s.region pa = .hole then some { code := 0x18, sub := 2, base := base, size := size }
  else if !attrFits attr (s.region pa) then some { code := 0x18, sub := 1, base := base, size := size }
  else none

/-- Index of `va` in a table of a level (R94). -/
def levelIndex (level va : Nat) : Nat := va / 2 ^ levelShift level % levelEntries level

/-- The value a walk reads at an entry (R98): what stands there, or what it held before a store that no TFENCE has ordered, which of them
is free (log entry 1). -/
def State.readPte (s : State) (cl : Option Nat) (pa : Nat) : DWord :=
  pickOf s.free (2 ^ 21 + 8 * pa) 0 (s.pteNow pa :: s.pteOlder cl pa)

/-- The bits that a use of a page sets in its leaf entry: A, and D for a write (R97). -/
def useBits (d : Bool) : DWord := 0x200 ||| (if d then 0x400 else 0)

/-- The A and D bits set in the entry at `pa` at its home, which are no store of another agent (R97, R98). -/
def State.setAD (s : State) (pa : Nat) (d : Bool) : State :=
  if s.pteNow pa ||| useBits d = s.pteNow pa then s
  else if s.hub.snoop.contains (pa / 128) then s.hubWrite { key := pa, n := 8, val := (useBits d).toNat, depth := 1, sets := true }
  else
    let t := s.writeKey pa 8 (s.pteNow pa ||| useBits d).toNat 1
    { t with caches := { t.caches with ptes := s.caches.ptes } }

/-- A walk from a table of the given level, with the non-leaf entries it passed (R92, R96). -/
def State.walkFrom (s : State) (cl : Option Nat) (ctx va : Nat) (acc : AccType) :
    Nat → Nat → List WalkEntry → Except XFault Leaf × List WalkEntry
  | level, table, seen =>
    let pa := table + 8 * levelIndex level va
    let cached := cl.bind fun k => s.caches.walks.find? fun w =>
      w.cluster = k && w.ctx = ctx && w.level = level && w.prefix_ = va / 2 ^ levelShift level
    let e : DWord := match cached with | some w => w.entry | none => s.readPte cl (s.relayPa pa)
    match s.entryFault level va acc e with
    | some f => (.error f, seen)
    | none =>
      if pteLeaf e then (.ok { level := level, pa := pa, entry := e }, seen)
      else
        let seen := { cluster := cl.getD 0, ctx := ctx, level := level, prefix_ := va / 2 ^ levelShift level, entry := e, pa := s.relayPa pa } :: seen
        match level with
        | 0 => (.error (walkFault 0x19 3 0 va acc), seen)
        | l + 1 => s.walkFrom cl ctx va acc l (pteNext e) seen

/-- A walk for a context; `cl` is the cluster whose walk cache it uses, none for the hub's agents. -/
def State.walk (s : State) (cl : Option Nat) (ctx va : Nat) (acc : AccType) : Except XFault Leaf × List WalkEntry :=
  match s.ctx? ctx with
  | some c => s.walkFrom cl ctx va acc 4 c.ptroot []
  | none => (.error (walkFault 0x10 0 4 va acc), [])

/-- A translation: physical address, attribute, frame, page size, and the entry's place and value. -/
structure Xlat where
  pa    : Nat
  attr  : Nat
  frame : Nat
  size  : Nat
deriving DecidableEq, Repr

/-- R96's permission checks; `level` is the leaf's. -/
def permFault (sysCtx : Bool) (w x sys : Bool) (attr level va : Nat) (acc : AccType) : Option XFault :=
  if acc.writes && !w then some (walkFault 0x11 1 level va acc)
  else if acc = .exec && !x then some (walkFault 0x11 2 level va acc)
  else if sys && !sysCtx then some (walkFault 0x11 3 level va acc)
  else if acc = .exec && attr ≠ attrWB && attr ≠ attrNC then some (walkFault 0x11 4 level va acc)
  else none

/-- Whether a physical address lies in the device MMIO range, whose leaves are treated as SYS (R453). -/
def isMmio (pa : Nat) : Bool := 0x2000000000000 ≤ pa && pa < 0x2000100000000

/-- The level of a page size. -/
def levelOfSize (size : Nat) : Nat := if size = 2 ^ 16 then 0 else if size = 2 ^ 21 then 1 else 2

/-- All that R96 checks of a leaf for one access. -/
def State.leafFault (s : State) (ctx va : Nat) (acc : AccType) (lf : Leaf) : Option XFault :=
  let size := 2 ^ levelShift lf.level
  let pa := pteFrame lf.entry + va % size
  match s.attrFault (pteAttr lf.entry) pa (va / size * size) size with
  | some f => some f
  | none => permFault ((s.ctx? ctx).any Context.system) (pteW lf.entry) (pteX lf.entry)
      (pteSys lf.entry || isMmio pa) (pteAttr lf.entry) lf.level va acc

/-- Translates without a TLB: the hub's agents and the device's own writes (fault queues, frames). -/
def State.translateBare (s : State) (ctx va : Nat) (acc : AccType) : Except XFault (Xlat × Leaf) :=
  match (s.walk none ctx va acc).1 with
  | .error f => .error f
  | .ok lf =>
    match s.leafFault ctx va acc lf with
    | some f => .error f
    | none =>
      let size := 2 ^ levelShift lf.level
      .ok ({ pa := pteFrame lf.entry + va % size, attr := pteAttr lf.entry, frame := pteFrame lf.entry, size := size }, lf)

/-! ## L1 (R50 to R52, R93) -/

/-- The L1 line of a core for a context's virtual line. -/
def State.l1? (s : State) (core ctx vl : Nat) : Option L1Line :=
  s.caches.l1.find? fun x => x.core = core && x.ctx = ctx && x.va = vl

/-- What the poison of a line in L1 raises for `n` bytes from byte `o` of it (R59). -/
def L1Line.poisonAt (x : L1Line) (o n : Nat) : Option Nat :=
  (x.poison.find? fun c => o / 4 ≤ c.1 && c.1 ≤ (o + n - 1) / 4).map fun c => c.2 % 8

/-- Keeps the L1 lines for which `p` holds. -/
def State.l1Keep (s : State) (p : L1Line → Bool) : State := s.modCaches fun c => { c with l1 := c.l1.filter p }

/-- Invalidates a core's L1 (R52), at an acquire; what other gangs have done to rings is seen from then on (R210). -/
def State.l1Flush (s : State) (core : Nat) : State :=
  (s.l1Keep fun x => x.core ≠ core).modCaches fun c =>
    { c with fills := c.fills.map fun f => if f.core = core then { f with cancelled := true } else f
             ringOps := c.ringOps.map fun x => { x with seen := core :: x.seen } }

/-- Invalidates one virtual line in a core's L1. -/
def State.l1Inval (s : State) (core ctx vl : Nat) : State :=
  s.l1Keep fun x => !(x.core = core && x.ctx = ctx && x.va = vl)

/-- Installs a line in L1 under a hint, evicting by R61; `.na` does not install (R62). A line that is there already takes the hint as a
hit does (R60). -/
def State.l1Fill (s : State) (x : L1Line) (ch : Nat) : State :=
  if ch = 3 then s
  else
    let prio := match s.l1? x.core x.ctx x.va with | some y => hitPrio y.prio ch | none => fillPrio ch
    let s := s.l1Inval x.core x.ctx x.va
    let same := fun (y : L1Line) => y.core = x.core && y.va % 128 = x.va % 128
    let s :=
      if 16 ≤ s.caches.l1.countP same then
        match victimOf s.caches.l1 same L1Line.prio with
        | some i => s.modCaches fun c => { c with l1 := c.l1.eraseIdx i }
        | none => s
      else s
    s.modCaches fun c => { c with l1 := { x with prio := prio } :: c.l1 }

/-- A hit: the line becomes the newest and takes the hint's priority (R60). -/
def State.l1Touch (s : State) (x : L1Line) (ch : Nat) : State :=
  (s.l1Inval x.core x.ctx x.va).modCaches fun c => { c with l1 := { x with prio := hitPrio x.prio ch } :: c.l1 }

/-- A store that hits updates the line (R51). -/
def State.l1Store (s : State) (core ctx vl : Nat) (mask : BitVec 128) (d : LineData) (tag : Option TagWord) (ch : Nat) : State :=
  match s.l1? core ctx vl with
  | none => s
  | some x =>
    let keep : LineData := (List.range 128).foldl (fun m i => if mask.getLsbD i then m ||| ((0xFF : LineData) <<< (8 * i)) else m) 0
    let clean := tag.isSome || (mask = BitVec.allOnes 128 && !x.poison.any fun c => 8 ≤ c.2)
    s.l1Touch { x with data := (x.data &&& ~~~keep) ||| (d &&& keep), tag := tag.getD x.tag,
                       poison := if clean then [] else x.poison } ch

/-- Whether a line of a core under way or resident belongs to another alias of a frame than the one at `vbase` (R93). -/
def otherAlias (cl ctx vbase frame size core lctx va pa : Nat) : Bool :=
  clusterOfCore core = cl && frame ≤ 128 * pa && 128 * pa < frame + size && !(lctx = ctx && 128 * va + frame = vbase + 128 * pa)

/-- The one-alias rule (R93): before the cluster uses a translation, L1 lines of another alias of its frame leave the cluster, and fills
of that alias under way are not installed. -/
def State.dropAliases (s : State) (cl ctx vbase frame size : Nat) : State :=
  s.modCaches fun c =>
    { c with
      l1 := c.l1.filter fun x => !otherAlias cl ctx vbase frame size x.core x.ctx x.va x.pa
      fills := c.fills.map fun f =>
        if otherAlias cl ctx vbase frame size f.core f.ctx f.va f.pa then { f with cancelled := true } else f }

/-- A cluster uses a translation for a NORMAL-WB page (R93). -/
def State.useAlias (s : State) (cl ctx va : Nat) (x : Xlat) : State :=
  if x.attr = attrWB then s.dropAliases cl ctx (va / x.size * x.size) x.frame x.size else s

/-! ## The TLB (R91, R97) -/

/-- The TLB entry of a cluster that covers an address. -/
def State.tlb? (s : State) (cl ctx va : Nat) : Option TlbEntry :=
  s.caches.tlb.find? fun e => e.cluster = cl && e.ctx = ctx && e.vpn = va / e.size

/-- The set of an entry. -/
def TlbEntry.set (e : TlbEntry) : Nat := Config.tlbSet e.ctx e.vpn e.size % Config.tlbSets

/-- Installs an entry in its set of eight ways; a full set loses the entry `Config.tlbVictim` names. -/
def State.tlbInstall (s : State) (e : TlbEntry) : State :=
  let rest := s.caches.tlb.filter fun x => !(x.cluster = e.cluster && x.ctx = e.ctx && x.vpn = e.vpn && x.size = e.size)
  let rest :=
    if rest.countP (fun x => x.cluster = e.cluster) < Config.tlbWays then rest
    else
      let mine := rest.filter fun x => x.cluster = e.cluster && x.set = e.set
      if mine.length < Config.tlbWays then rest
      else match mine[Config.tlbVictim e.cluster s.free % mine.length]? with | some x => rest.filter (· ≠ x) | none => rest
  { s with caches := { s.caches with tlb := e :: rest }, free := s.free + 1 }

/-- Ends a walk that found a good leaf: sets A, and D for a write, at the entry's home, then installs the translation (R97). -/
def State.installLeaf (s : State) (cl ctx va : Nat) (acc : AccType) (lf : Leaf) (seen : List WalkEntry) : State :=
  let size := 2 ^ levelShift lf.level
  let s := s.setAD (s.relayPa lf.pa) acc.writes
  let vbase := va / size * size
  let s := s.modCaches fun c => { c with walks := seen ++ c.walks.filter fun w => !seen.any fun x =>
    x.cluster = w.cluster && x.ctx = w.ctx && x.level = w.level && x.prefix_ = w.prefix_ }
  (s.dropAliases cl ctx vbase (pteFrame lf.entry) size).tlbInstall
    { cluster := cl, ctx := ctx, vpn := va / size, size := size, frame := pteFrame lf.entry, attr := pteAttr lf.entry,
      w := pteW lf.entry, x := pteX lf.entry, sys := pteSys lf.entry || isMmio (pteFrame lf.entry),
      d := pteD lf.entry || acc.writes }

/-- Translates one address through a cluster's TLB (R90 to R97). -/
def State.translate (s : State) (cl ctx va : Nat) (acc : AccType) : State × Except XFault Xlat :=
  let walkIt := fun (_ : Unit) =>
    match s.walk (some cl) ctx va acc with
    | (.error f, _) => (s, Except.error f)
    | (.ok lf, seen) =>
      match s.leafFault ctx va acc lf with
      | some f => (s, Except.error f)
      | none =>
        let size := 2 ^ levelShift lf.level
        (s.installLeaf cl ctx va acc lf seen,
          Except.ok { pa := pteFrame lf.entry + va % size, attr := pteAttr lf.entry, frame := pteFrame lf.entry, size := size })
  match s.tlb? cl ctx va with
  | some e =>
    let pa := e.frame + va % e.size
    match s.attrFault e.attr pa (va / e.size * e.size) e.size with
    | some f => (s, .error f)
    | none =>
      match permFault ((s.ctx? ctx).any Context.system) e.w e.x (e.sys || isMmio pa) e.attr (levelOfSize e.size) va acc with
      | some f => (s, .error f)
      | none =>
        if acc.writes && !e.d then walkIt ()
        else (s, .ok { pa := pa, attr := e.attr, frame := e.frame, size := e.size })
  | none => walkIt ()

/-- The line of a leaf entry in which a translation would set A or D while the host holds it: the host must first give it up (R97, R450). -/
def State.leafHeld (s : State) (cl ctx va : Nat) (acc : AccType) (fresh : Bool := false) : Option Nat :=
  let walks := fresh || (s.tlb? cl ctx va).all fun e => acc.writes && !e.d
  if s.hub.snoop.isEmpty || !walks then none
  else match (s.walk (some cl) ctx va acc).1 with
    | .error _ => none
    | .ok lf =>
      let pa := s.relayPa lf.pa
      if (s.leafFault ctx va acc lf).isNone && s.pteNow pa ||| useBits acc.writes ≠ s.pteNow pa && s.hub.snoop.contains (pa / 128) then
        some (pa / 128)
      else none

/-- Translates by a walk of its own, whatever the TLB holds of the address: a retry walks again (R102). -/
def State.translateFresh (s : State) (cl ctx va : Nat) (acc : AccType) : State × Except XFault Xlat :=
  (s.modCaches fun c => { c with tlb := c.tlb.filter fun e => !(e.cluster = cl && e.ctx = ctx && e.vpn = va / e.size) }).translate cl ctx va acc

/-- The A and D bits of the pages that an agent without a TLB has used from `va` for `n` bytes (R97). -/
def State.markPages (s : State) (ctx va n : Nat) (writes : Bool) : State :=
  (List.range (n / 2 ^ 16 + 2)).foldl (fun t i =>
    let lo := max va (2 ^ 16 * (va / 2 ^ 16 + i))
    if lo < va + n then
      match t.translateBare ctx lo (if writes then .write else .read) with
      | .ok (_, lf) => t.setAD (t.relayPa lf.pa) writes
      | .error _ => t
    else t) s

/-- Every cluster of the device. -/
def State.allClusters (s : State) : List Nat :=
  ((List.range 4).filter s.present).flatMap fun d => (List.range Config.clustersPerDie).map fun i => Config.clustersPerDie * d + i

/-- A completed TFENCE orders the changes of entries of its range made before it, for the walkers of its clusters (R98, R99); one that
names every cluster of the device, for all. -/
def State.orderPtes (s : State) (f : TFenceOp) : State :=
  let tabs := ((s.ctx? f.ctx).map s.tablesOf).getD []
  let covered := fun (p : PtePast) => f.ptes.any (fun q => q.pa = p.pa && q.entry = p.entry) && tabs.any fun t =>
    t.holds p.pa && f.lo < t.spanOf p.pa + 2 ^ levelShift t.level && t.spanOf p.pa < f.hi
  let after := fun (p : PtePast) =>
    if !covered p then some p
    else if s.allClusters.all f.scope.contains then none else some { p with done := (p.done ++ f.scope).dedup }
  s.modCaches fun c => { c with ptes := c.ptes.filterMap after }

/-- Invalidates what a TFENCE covers in one cluster: TLB and walk-cache entries and L1 lines of the context that overlap the
range (R99). -/
def State.shootCluster (s : State) (cl ctx lo hi : Nat) : State :=
  (s.l1Keep fun x => !(clusterOfCore x.core = cl && x.ctx = ctx && 128 * x.va + 128 > lo && 128 * x.va < hi)).modCaches fun c =>
    { c with
      tlb := c.tlb.filter fun e => !(e.cluster = cl && e.ctx = ctx && (e.vpn + 1) * e.size > lo && e.vpn * e.size < hi)
      walks := c.walks.filter fun w =>
        !(w.cluster = cl && w.ctx = ctx && (w.prefix_ + 1) * 2 ^ levelShift w.level > lo && w.prefix_ * 2 ^ levelShift w.level < hi)
      fills := c.fills.map fun f =>
        if clusterOfCore f.core = cl && f.ctx = ctx && 128 * f.va + 128 > lo && 128 * f.va < hi then { f with cancelled := true } else f }

end Sys2Proof.Machine
end

