-- ==== Sys2Proof/Machine/Device.lean ====
section
/-! DEFINITION. The device's own agents: the routes between dies that they and the clusters use (R2, R159), the pod's stations (R425), their
accesses to storage, the host and the pod (R97, R407, R441), and the hold that lossless trace puts on an agent (R446). -/

namespace Sys2Proof.Machine

open Sys2Proof

/-! ## Routes -/

/-- The UALink station of a pod access (R425), device-wide. -/
def stationOf (die target off : Nat) : Nat := if 192 ≤ target then target - 192 else 5 * die + off / 128 % 5

/-- The first compute die of the device. -/
def State.firstDie (s : State) : Nat := ((List.range 4).find? s.present).getD 0

/-- The faults of a POD access once its lanes have translated (R30, R421, R424, R433). -/
def State.podFault (s : State) (die target off : Nat) : Option Cause :=
  let st := stationOf die target off
  if !s.hub.podIdv then some (0x16, 0x02)
  else if target = s.hub.podDevid then some (0x18, 0x03)
  else if target < 192 && s.hub.deadPeers.getLsbD target then some (0x16, 0x01)
  else if !((s.stations.getD st {}).up) then some (0x41, 0x80 + st)
  else none

/-- Whether two neighbouring dies have a bundle with a trained module (R143). -/
def State.bundleUp (s : State) (i j : Nat) : Bool :=
  let mods := fun (a b : Nat) =>
    let d := s.die a
    if !d.present then 0 else if a = 3 then (if b = 1 then d.tmLow else d.tmHigh) else if b < a then d.tmLow
    else if a = 0 ∧ b = 1 then d.tmLow else d.tmHigh
  0 < mods i j && 0 < mods j i

/-- Neighbours: dies that differ in one bit of their number. -/
def neighbours (i j : Nat) : Bool := i ^^^ j = 1 || i ^^^ j = 2

/-- First hop and whether there are two hops, from die `i` to die `j`. -/
def State.routeOf (s : State) (i j : Nat) : Nat × Bool :=
  let via := fun (a b : Nat) =>
    if s.bundleUp i a && s.bundleUp a j then (a, true)
    else if s.bundleUp i b && s.bundleUp b j then (b, true) else (hubDie, true)
  if i = j then (i, false)
  else if neighbours i j then (if s.bundleUp i j then (j, false) else (hubDie, true))
  else if i % 3 = 0 then via 1 2 else via 0 3

/-- Whether the link between two agents has been declared down (R143). -/
def State.linkDown (s : State) (a b : Nat) : Bool := s.hub.linksDown.any fun l => l = (a, b) || l = (b, a)

/-- Whether the route from one die to another goes over a link that is down. -/
def State.pathDown (s : State) (i j : Nat) : Bool :=
  let r := s.routeOf i j
  if i = hubDie || j = hubDie then s.linkDown i j
  else i ≠ j && (s.linkDown i r.1 || (r.2 && s.linkDown r.1 j))

/-- The agents to which a die, or the hub, sends no more requests (R159). -/
def State.droppedBy (s : State) (die : Nat) : List Nat := if die = hubDie then s.hub.dropped else (s.die die).dropped

/-- The hop or home to which a die, or the hub, sends no more requests (R159): every access whose route needs it fails. -/
def State.routeFault (s : State) (die pa : Nat) : Option Cause :=
  match s.homeOf (pa / 128) with
  | none => none
  | some home =>
    if home = die then none
    else ((home :: if die = hubDie then [] else [(s.routeOf die home).1]).find? (s.droppedBy die).contains).map fun t => (0x41, 8 * t)

/-! ## Accesses of the device's own agents -/

/-- Reads `n` bytes at a context's virtual address, page by page, for an agent without a warp; none on a fault, on poison, or
outside the device's own storage. -/
def State.deviceRead (s : State) (ctx va n : Nat) : Option Nat :=
  let ends := (List.range (n / 2 ^ 16 + 2)).filterMap fun i =>
    let lo := max va (2 ^ 16 * (va / 2 ^ 16 + i))
    let hi := min (va + n) (2 ^ 16 * (va / 2 ^ 16 + i + 1))
    if lo < hi then some (lo, hi) else none
  ends.foldl (fun r e => r.bind fun acc =>
    match s.translateBare ctx e.1 .read with
    | .error _ => none
    | .ok (x, _) =>
      let pa := s.relayPa x.pa
      match s.region pa with
      | .hbm _ | .aperture _ _ =>
        if (s.store.poisonAt pa (e.2 - e.1)).isSome || (s.routeFault hubDie pa).isSome then none
        else some (acc + s.lateStore.read pa (e.2 - e.1) * 256 ^ (e.1 - va))
      | _ => none) (some 0)

/-- Where each part of `n` bytes at a context's virtual address lies, for a write by an agent without a warp; none on a fault or, but for a
write that may go `anywhere`, outside the device's own storage. `pin` asks for PIN as well. -/
def State.deviceSpan (s : State) (ctx va n : Nat) (pin : Bool) (anywhere : Bool := false) : Option (List (Nat × Nat × Nat)) :=
  let ends := (List.range (n / 2 ^ 16 + 2)).filterMap fun i =>
    let lo := max va (2 ^ 16 * (va / 2 ^ 16 + i))
    let hi := min (va + n) (2 ^ 16 * (va / 2 ^ 16 + i + 1))
    if lo < hi then some (lo, hi) else none
  ends.foldl (fun r e => r.bind fun acc =>
    match s.translateBare ctx e.1 .write with
    | .error _ => none
    | .ok (x, lf) =>
      if pin && !ptePin lf.entry then none
      else
        let pa := s.relayPa x.pa
        match s.region pa with
        | .hbm _ | .aperture _ _ => if (s.routeFault hubDie pa).isSome then none else some (acc ++ [(e.1, pa, e.2 - e.1)])
        | .host => if anywhere then some (acc ++ [(e.1, pa, e.2 - e.1)]) else none
        | .pod t off => if anywhere && (s.podFault s.firstDie t off).isNone then some (acc ++ [(e.1, pa, e.2 - e.1)]) else none
        | _ => none) (some [])

/-- Writes `n` bytes at a context's virtual address, all or nothing (trigger depth 1, R214); its pages take A and D (R97). A write to lines
that the host holds waits for it, and so do those after it (R450). -/
def State.deviceWrite (s : State) (ctx va n v : Nat) (pin : Bool := false) : Option State :=
  (s.deviceSpan ctx va n pin).map fun parts =>
    parts.foldl (fun s p => s.hubWrite { key := p.2.1, n := p.2.2, val := v / 256 ^ (p.1 - va), depth := 1 }) (s.markPages ctx va n true)

/-! ## Rings outside the device's own storage (R407, R441) -/

/-- Adds a request. -/
def State.addRequest (s : State) (o : Outstanding) : State :=
  s.modEng fun e => { e with pend := e.pend ++ [{ o with txn := e.nextPend }], nextPend := e.nextPend + 1 }

/-- The core under which the outstanding requests of the hub's own agents stand: of no die. -/
def hubCore : Nat := Config.coresPerDie * hubDie

/-- The hub's pod writes that have not been acknowledged. -/
def State.hubWrites (s : State) : List Nat := (s.eng.pend.filter fun o => o.core = hubCore && o.write).map Outstanding.txn

/-- The line of a die's L2 that holds a host line as its own. -/
def State.hostOwned (s : State) (l : Nat) : Bool := (List.range 4).any fun d => (s.l2? d l).any fun x => x.st ≠ .s

/-- Whether the bytes of a part are poisoned where the device holds them. -/
def State.partPoisoned (s : State) (p : Nat × Nat × Nat) : Bool :=
  (match s.region p.2.1 with | .pod _ _ => false | .host => s.hostOwned (p.2.1 / 128) | _ => true) && (s.store.poisonAt p.2.1 p.2.2).isSome

/-- A write by an agent of the hub of bytes of one line of host memory, over CXL.io unless a die's L2 holds the line as its own, or of the
pod, posted from the first die's stations (log entry 68). -/
def State.putAway (s : State) (ctx va pa n v : Nat) : State :=
  match s.region pa with
  | .host => if s.hostOwned (pa / 128) then s.writeIn pa n v 1 else s.say (.cxlIoWrite (hostPa pa) (v % 256 ^ n) n)
  | .pod t off =>
    let st := stationOf s.firstDie t off
    let m := byteMask (pa % 128) n
    let d : LineData := BitVec.ofNat 1024 ((v % 256 ^ n) <<< (8 * (pa % 128)))
    (s.addRequest
      { txn := 0, die := s.firstDie, core := hubCore, slot := 0, hood := 0, ctx := ctx, pc := 0, line := pa / 128, va := va, station := st
        target := t, write := true, data := d, mask := m, since := (s.die s.firstDie).tick }).say
      (.podRequest st s.eng.nextPend t (pa / 128) true d m)
  | _ => s

/-- Writes `n` bytes of a ring at a context's virtual address, wherever its pages lie, all or nothing; none on a page fault, a protection
fault or poison (R407, R441). -/
def State.ringWrite (s : State) (ctx va n v : Nat) (pin : Bool) : Option State :=
  (s.deviceSpan ctx va n pin true).bind fun parts =>
    if parts.any s.partPoisoned then none
    else some (parts.foldl (fun s p =>
      match s.region p.2.1 with
      | .host | .pod _ _ => (List.range (p.2.2 / 128 + 2)).foldl (fun s i =>
          let lo := max p.2.1 (128 * (p.2.1 / 128 + i))
          let hi := min (p.2.1 + p.2.2) (128 * (p.2.1 / 128 + i + 1))
          if lo < hi then s.putAway ctx (p.1 + lo - p.2.1) lo (hi - lo) (v / 256 ^ (p.1 + lo - p.2.1 - va)) else s) s
      | _ => s.hubWrite { key := p.2.1, n := p.2.2, val := v / 256 ^ (p.1 - va), depth := 1 }) (s.markPages ctx va n true))

/-- Stores 4 bytes of a header as a release at `.sys`: after the hub's own pod writes have been acknowledged (R126, R407, R441). -/
def State.tailWrite (s : State) (ctx va v : Nat) : Option State :=
  (s.deviceSpan ctx va 4 false).bind fun parts =>
    if parts.any s.partPoisoned then none
    else some (parts.foldl (fun s p =>
      s.hubWrite { key := p.2.1, n := p.2.2, val := v / 256 ^ (p.1 - va), depth := 1, after := s.hubWrites }) (s.markPages ctx va 4 true))

/-! ## The hold of lossless trace (R446) -/

/-- Types whose records are 16 bytes (R435, R437). -/
def shortRecords : List Nat := [0x02, 0x08, 0x0A, 0x0B, 0x0C, 0x13, 0x14, 0x15, 0x16, 0x17]

/-- Bytes of a record of a type (R435, R437). -/
def traceSize (code : Nat) : Nat := if shortRecords.contains code then 16 else 32

/-- Whether a buffer owes an OVERFLOW before its next record. -/
def Context.owesOverflow (c : Context) : Bool := 0 < c.overflow || c.fellBack

/-- Whether a buffer has no place for `n` bytes of records behind what it owes and what is on its way to it (R441); a HEAD that cannot be read
holds nothing back (R445). -/
def State.ringFull (s : State) (c : Context) (n : Nat) : Bool :=
  let way := ((s.staged.filter fun r => r.takers.contains c.id).map fun r => traceSize r.code).sum
  (s.deviceRead c.id (c.trchdr + 0x10) 4).any fun head =>
    c.trcSize < (c.trcTail + (if c.owesOverflow then 16 else 0) + way + n + 2 ^ 32 - head % 2 ^ 32) % 2 ^ 32

/-- Whether an agent is held that would emit `n` records of a type: a buffer takes them losslessly, and its ring or the die's collector has
no place for them (R446, log entry 31). -/
def State.traceHeld (s : State) (die ctx code : Nat) (lossless : Bool) (n : Nat := 1) : Bool :=
  s.contexts.any fun c => c.takesLossless ctx code lossless && (Config.traceStaging < s.stagedOf die + n || s.ringFull c (n * traceSize code))

/-- Ends the holds of a context whose records can be taken again (R446). -/
def State.endHolds (s : State) : State :=
  { s with contexts := s.contexts.map fun c => { c with holds := c.holds.filter fun h => s.traceHeld h.die c.id h.code true h.n } }

/-- Notes that an agent is held, if it is (R447). -/
def State.noteHeldAt (s : State) (die ctx code : Nat) (lossless : Bool) (n : Nat := 1) : State :=
  if s.traceHeld die ctx code lossless n then s.noteHold die ctx code n else s

/-- Whether a warp's gang has a BLOCK_START or PHASE_START that no collector has taken, so that its warps do not issue (R446). -/
def State.startUntaken (s : State) (gang : Nat) : Bool :=
  s.staged.zipIdx.any fun x => x.1.gang = some gang && Config.traceStaging ≤ (s.staged.take x.2).countP fun r => r.die = x.1.die

end Sys2Proof.Machine
end

