-- ==== Sys2Proof/Machine/Access.lean ====
section
/-! DEFINITION. Accesses of a warp's lanes: classification and window checks (R16 to R26), the grouping of faults (R35, R106),
translation of every lane (R100), the checks made once all lanes have translated (R33, R154, R433), relays (R111), and reads and
writes of storage. -/

namespace Sys2Proof.Machine

open Sys2Proof

/-- Windows a user of addresses accepts (R26). -/
structure Accept where
  sp : Bool := true
  ds : Bool := true
  lp : Bool := true
deriving DecidableEq, Repr

/-- The scratchpad piece of a block (R18, R19). -/
def scratchPiece (b : Option Block) (lane off n va : Nat) : Except Cause (List Piece) :=
  match b with
  | none => .error (0x15, 0x03)
  | some b =>
    if b.scratch < off + n then .error (0x15, 0x02)
    else .ok [{ lane := lane, va := va, key := some (scratchKey b.core (b.base + off)), n := n }]

/-- The block of the warp's gang that the core at position `c` of its cluster holds (R19). -/
def State.blockAt (s : State) (w : Warp) (c : Nat) : Option Block :=
  (s.gang? w.gang).bind fun g => g.blocks.find? fun b => b.core = clusterOfCore w.core * 4 + c

/-- The die-scratch piece (R21). -/
def dieScratchPiece (c : Context) (die lane off n va : Nat) : Except Cause (List Piece) :=
  if c.dsSize.getD die 0 * 0x10000 < off + n then .error (0x15, 0x02)
  else .ok [{ lane := lane, va := va, key := some (apertureBase die + c.dsOff.getD die 0 * 0x10000 + off), n := n }]

/-- The backing address of a lane-private offset (R22). -/
def lpBacking (c : Context) (o lane slot : Nat) : Nat :=
  (c.lpBase + slot * (96 * c.lpSize) + o / 4 * 384 + lane * 4 + o % 4) % 2 ^ 64

/-- The lane-private slot in whose backing region an address lies (R22). -/
def Context.lpSlotOf (c : Context) (va : Nat) : Option Nat :=
  if c.lpSize ≠ 0 && c.lpBase ≤ va && va < c.lpBase + c.lpSlots * (96 * c.lpSize) then some ((va - c.lpBase) / (96 * c.lpSize)) else none

/-- Whether a piece's address is virtual and lies in a warp's own lane-private slot. -/
def State.ownSlot (s : State) (w : Warp) (p : Piece) : Bool := p.virt && (s.ctx? w.ctx).any fun c => c.lpSlotOf p.va = some w.lpSlot

/-- What a warp reads in a piece where storage holds `v` (R23). -/
def State.lpView (s : State) (w : Warp) (p : Piece) (v : Nat) : Nat :=
  if s.ownSlot w p then s.store.lpRead s.free w.ctx w.lpSlot p.va p.n v else v

/-- Notes a warp's write of a piece for R23. -/
def State.lpWrote (s : State) (w : Warp) (p : Piece) (v : Nat) : State :=
  if s.ownSlot w p then s.modStore fun m => m.lpNote w.ctx w.lpSlot p.va p.n v else s

/-- The lane-private pieces: an access of more than 4 bytes is split (R22). -/
def lanePieces (c : Context) (slot lane off n : Nat) : Except Cause (List Piece) :=
  if c.lpSize < off + n then .error (0x15, 0x02)
  else .ok ((List.range ((n + 3) / 4)).map fun i =>
    { lane := lane, va := lpBacking c (off + 4 * i) lane slot, n := min 4 (n - 4 * i), shift := 32 * i, virt := true })

/-- Classification, window checks and acceptance of one lane's final address (R16 to R26, R34). -/
def State.classify (s : State) (w : Warp) (acc : Accept) (space : Nat) (a : DWord) (n lane : Nat) : Except Cause (List Piece) :=
  let die := dieOfCore w.core
  let v := a.toNat
  let ctx := (s.ctx? w.ctx).getD { slot := 0, id := w.ctx, system := false }
  let allow := fun (ok : Bool) (r : Except Cause (List Piece)) =>
    match r with
    | .error e => Except.error e
    | .ok p => if ok then .ok p else .error (0x15, 0x04)
  match space with
  | 0 =>
    if canonical a then .ok [{ lane := lane, va := v, n := n, virt := true }]
    else match v / 2 ^ 52 with
      | 0xFE0 =>
        if v % 2 ^ 52 / 2 ^ 19 ≠ 0 then .error (0x15, 0x01)
        else allow acc.sp (scratchPiece (s.blockOf? w) lane (v % 2 ^ 19) n v)
      | 0xFE1 =>
        if v % 2 ^ 52 / 2 ^ 22 ≠ 0 || v / 2 ^ 19 % 2 ≠ 0 then .error (0x15, 0x01)
        else allow acc.sp (scratchPiece (s.blockAt w (v / 2 ^ 20 % 4)) lane (v % 2 ^ 19) n v)
      | 0xFE2 =>
        if v % 2 ^ 52 / 2 ^ 28 ≠ 0 then .error (0x15, 0x01)
        else allow acc.ds (dieScratchPiece ctx die lane (v % 2 ^ 28) n v)
      | 0xFE3 =>
        if v % 2 ^ 52 / 2 ^ 24 ≠ 0 then .error (0x15, 0x01)
        else allow acc.lp (lanePieces ctx w.lpSlot lane (v % 2 ^ 24) n)
      | _ => .error (0x12, 0x00)
  | 1 =>
    if v / 2 ^ 19 ≠ 0 then .error (0x15, 0x01) else allow acc.sp (scratchPiece (s.blockOf? w) lane v n v)
  | 2 =>
    if v / 2 ^ 22 ≠ 0 || v / 2 ^ 19 % 2 ≠ 0 then .error (0x15, 0x01)
    else allow acc.sp (scratchPiece (s.blockAt w (v / 2 ^ 20 % 4)) lane (v % 2 ^ 19) n v)
  | _ =>
    if v / 2 ^ 28 ≠ 0 then .error (0x15, 0x01) else allow acc.ds (dieScratchPiece ctx die lane v n v)

/-- A check that one lane failed: the fault, the lane and the address for the record. -/
structure LaneFault where
  lane  : Nat
  cause : Cause
  va    : Nat
  page  : Nat × Nat := (0, 0)
deriving DecidableEq, Repr

/-- The VA of a record (R403): the address its rule states; POISON and TIMEOUT state none (R59, R159, R421). -/
def recordVa (c : Cause) (va : Nat) : DWord := if c.1 = 0x17 || c.1 = 0x41 then 0 else BitVec.ofNat 64 va

/-- R35 and R106: one record for each distinct fault (and page, for translation faults), ordered by the lowest lane, with that
lane's address. -/
def groupFaults (l : List LaneFault) (pc : DWord) (resum : Bool) : List FaultRec :=
  let keys := (l.map fun f => (f.cause, f.page)).eraseDups
  keys.filterMap fun k =>
    let mine := l.filter fun f => f.cause = k.1 && f.page = k.2
    match mine with
    | [] => none
    | f :: _ => some { code := k.1.1, sub := k.1.2, lanes := LaneMask.ofLanes (mine.map LaneFault.lane), pc := pc,
                       va := recordVa k.1 f.va, resum := resum }

/-- What a memory instruction's checks came to. -/
inductive Prep
  | fault (s : State) (recs : List FaultRec)  -- not resumable: handler mode
  | park (s : State) (recs : List FaultRec)   -- translation faults: the instruction parks (R100)
  | ok (s : State) (ps : List Piece)
  | wait                                      -- the cluster's miss queue has no room for its walks (R90)
  | again (s : State)                         -- the host holds the line of an entry whose A or D it would set (R450)
deriving Repr

/-- The kinds of instruction that the attribute checks tell apart (R33, R154). -/
inductive MemUser
  | plain (word : Bool)  -- SLD, SST, VLD, VST; whether DEVICE memory takes its type (R33)
  | atomic (op : Nat)
  | control     -- CCTL, which does nothing to uncached attributes (R329)
  | other
deriving DecidableEq, Repr

/-- The checks made once every active lane has translated (R33, R154, R323); an access that the die's own L2 serves needs no route (R159). -/
def State.postFault (s : State) (die : Nat) (u : MemUser) (use : Use_) (p : Piece) (pa : Nat) : Option Cause :=
  let route := fun (_ : Unit) => if s.servedHere die (pa / 128) use then none else s.routeFault die pa
  match u, s.region pa with
  | .atomic _, .mmio _ => some (0x14, 0x02)
  | .atomic _, .host => if p.attr = attrHostUC then some (0x14, 0x01) else route ()
  | .atomic op, .pod t o => if 10 ≤ op then some (0x14, 0x03) else s.podFault die t o
  | .plain word, .mmio _ => if word && (p.n = 4 || p.n = 8) then none else some (0x13, 0x10)
  | .control, .mmio _ => none
  | .control, .pod _ _ => none
  | .other, .mmio _ => some (0x13, 0x10)
  | _, .pod t o => s.podFault die t o
  | _, _ => route ()

/-- How an access uses its lines. -/
def AccType.use : AccType → Use_ | .read | .exec => .read | .write => .write | .rmw => .atomic

/-- What an instruction asks of its address checks. -/
structure PrepArgs where
  accept : Accept := {}
  space  : Nat := 0
  n      : Nat
  acc    : AccType
  align  : Nat := 1
  alignSub : Nat := 1
  user   : MemUser := .other
  useL1  : Bool := false
deriving DecidableEq, Repr

/-- R34's checks and R323's alignment for every lane: the pieces, or the faults. -/
def State.classifyAll (s : State) (w : Warp) (a : PrepArgs) (addrs : List (Nat × DWord)) : List Piece × List LaneFault :=
  addrs.foldl (fun r x =>
    match s.classify w a.accept a.space x.2 a.n x.1 with
    | .error c => (r.1, r.2 ++ [{ lane := x.1, cause := c, va := x.2.toNat }])
    | .ok ps =>
      if x.2.toNat % a.align ≠ 0 then (r.1, r.2 ++ [{ lane := x.1, cause := (0x13, a.alignSub), va := x.2.toNat }])
      else (r.1 ++ ps, r.2)) ([], [])

/-- Whether an address would need a walk for which a cluster's miss queue has no room (R90): drain records stand in it too (R112), and one
page's misses share a walk. -/
def State.missFull (s : State) (cl ctx va : Nat) : Bool :=
  Config.missQueueEntries ≤ s.caches.misses.countP (fun m => m.cluster = cl) + s.caches.drains.countP (fun d => d.cluster = cl) &&
    (s.tlb? cl ctx va).isNone && !(s.caches.misses.any fun m => m.cluster = cl && m.ctx = ctx && m.page = va / 2 ^ 16)

/-- Whether a cluster holds a drain record for the page of an address (R112). -/
def State.draining (s : State) (cl ctx va : Nat) : Bool :=
  s.caches.drains.any fun r => r.cluster = cl && r.ctx = ctx && r.vpn / (r.size / 2 ^ 16) = va % 2 ^ 57 / 2 ^ 16 / (r.size / 2 ^ 16)

/-- Whether some piece waits at the core for room in the miss queue (R90). -/
def State.missHeld (s : State) (w : Warp) (a : PrepArgs) (ps : List Piece) : Bool :=
  !(s.caches.misses.isEmpty && s.caches.drains.isEmpty) && ps.any fun p =>
    p.key.isNone && !(a.useL1 && (s.l1? w.core w.ctx (p.va / 128)).isSome) && s.missFull (clusterOfCore w.core) w.ctx p.va

/-- Translates every piece that needs it, one after the other; with `fresh`, by walks of its own (R102). -/
def State.translateAll (s : State) (w : Warp) (a : PrepArgs) (ps : List Piece) (fresh : Bool := false) : State × List Piece × List LaneFault :=
  ps.foldl (fun r p =>
    let (s, done, bad) := r
    if p.key.isSome then (s, done ++ [p], bad)
    else
      match (if a.useL1 then s.l1? w.core w.ctx (p.va / 128) else none) with
      | some x => (s, done ++ [{ p with key := some (128 * x.pa + p.va % 128), attr := attrWB, hit := some x }], bad)
      | none =>
        let cl := clusterOfCore w.core
        match (if fresh then s.translateFresh cl w.ctx p.va a.acc else s.translate cl w.ctx p.va a.acc) with
        | (s, .ok x) =>
          (s.useAlias cl w.ctx p.va x, done ++ [{ p with key := some x.pa, attr := x.attr }], bad)
        | (s, .error f) => (s, done, bad ++ [{ lane := p.lane, cause := (f.code, f.sub), va := p.va, page := (f.base, f.size) }]))
    (s, [], [])

/-- The storage key of a resolved piece. -/
def Piece.at (p : Piece) : Nat := p.key.getD 0

/-- The pieces of the accesses for which a warp waits. -/
def Warp.awaited (w : Warp) : List Piece :=
  (w.liveSlices.flatMap fun i => match (w.slice i).wait with | .remote x => x.pieces | _ => []) ++ w.flights.flatMap fun x => x.x.pieces

/-- The line of a page-table entry that the host must give up before some piece is translated (R450). -/
def State.entryHeld (s : State) (w : Warp) (a : PrepArgs) (ps : List Piece) (fresh : Bool) : Option Nat :=
  if s.hub.snoop.isEmpty then none
  else ps.findSome? fun p =>
    if p.key.isSome || (a.useL1 && (s.l1? w.core w.ctx (p.va / 128)).isSome) then none
    else s.leafHeld (clusterOfCore w.core) w.ctx p.va a.acc fresh

/-- Every check of a memory instruction, in order (R34, R100, R323). A line for which `asked` holds has a request outstanding or answered to a
pod device, by whose reply the access finishes (R433). -/
def State.prep (s : State) (w : Warp) (a : PrepArgs) (pc : DWord) (addrs : List (Nat × DWord)) (fresh : Bool := false)
    (asked : Nat → Bool := fun _ => false) : Prep :=
  match s.classifyAll w a addrs with
  | (_, f :: fs) => .fault s (groupFaults (f :: fs) pc false)
  | (ps, []) =>
    if s.missHeld w a ps then .wait
    else match s.entryHeld w a ps fresh with
    | some l => .again (s.askBack l)
    | none => match s.translateAll w a ps fresh with
    | (s, _, f :: fs) => .park s (groupFaults (f :: fs) pc true)
    | (s, ps, []) =>
      let bad : List LaneFault := (ps.filter fun p => p.hit.isNone && !asked (p.at / 128)).filterMap fun p =>
        (s.postFault (dieOfCore w.core) a.user a.acc.use p p.at).map fun c => { lane := p.lane, cause := c, va := p.va }
      match bad with
      | [] => .ok s ps
      | f :: fs => .fault s (groupFaults (f :: fs) pc false)

/-! ## Relays (R111) -/

/-- The number under which Cfg advertises the credits of the link from one agent to another (log entry 5). -/
def linkNumber (a b : Nat) : Nat := 8 * a + b

/-- The links of a route. -/
def State.linksOf (s : State) (i j : Nat) : List Nat :=
  if i = hubDie || j = hubDie then [linkNumber i j]
  else
    let r := s.routeOf i j
    if r.2 then [linkNumber i r.1, linkNumber r.1 j] else [linkNumber i j]

/-- The virtual channel under which the model notes the credits of a link's pool for relays (R145, log entry 5). -/
def relayVc : Nat := 5

/-- Whether the relay pool of the links from an old home to a new one is used up by relays that have not been answered. -/
def State.relayHeld (s : State) (old new : Nat) : Bool :=
  (s.linksOf old new).any fun l => (s.hub.credits.find? fun x => x.1 = l && x.2.1 = relayVc).any fun x =>
    x.2.2 ≤ ((s.eng.stubs.filter fun t => (s.homeOf (t.newFrame / 128)).any fun d => (s.linksOf t.die d).contains l).map Stub.relays).sum

/-- Whether a stub is the same as another. -/
def Stub.same (a b : Stub) : Bool := a.die = b.die && a.oldFrame = b.oldFrame && a.ctx = b.ctx && a.vpn = b.vpn

/-- The stub that a request of a context and address meets at a physical address (R111). -/
def State.stubFor (s : State) (pa ctx va : Nat) : Option Stub :=
  s.eng.stubs.find? fun t =>
    t.oldFrame ≤ pa && pa < t.oldFrame + t.size &&
    (!t.swap || (t.ctx = ctx && t.vpn / (t.size / 2 ^ 16) = va % 2 ^ 57 / 2 ^ 16 / (t.size / 2 ^ 16)))

/-- Applies a redirect to a cluster's TLB entry for a page (R111). -/
def State.applyRedirect (s : State) (r : RedirectMsg) : State :=
  s.modCaches fun c => { c with tlb := c.tlb.map fun e =>
    if e.cluster = r.cluster && e.ctx = r.ctx && e.vpn * e.size ≤ r.vpn * 2 ^ 16 && r.vpn * 2 ^ 16 < (e.vpn + 1) * e.size &&
       e.frame = r.oldFrame && e.gen < r.gen then { e with frame := r.newFrame, gen := r.gen } else e }

/-- Whether a cluster has sent an access to a page's old frame that has not been answered (R112). -/
def State.unanswered (s : State) (cl old size : Nat) : Bool :=
  let hits := fun (l : Nat) => old ≤ 128 * l && 128 * l < old + size
  (s.coh.outs.any fun o => Config.clustersPerDie * o.die + o.cluster = cl && hits o.line) ||
    (s.coh.msgs.any fun m => match m with | .redirect r => r.cluster = cl && r.oldFrame = old | _ => false) ||
    s.eng.pend.any fun o => !o.answered && clusterOfCore o.core = cl && (hits o.line || o.old.any hits)

/-- A cluster that has received a redirect holds a drain record while it has accesses to the old frame unanswered (R112). -/
def State.addDrain (s : State) (d : DrainRec) : State :=
  if s.unanswered d.cluster d.oldFrame d.size && !s.caches.drains.contains d then s.modCaches fun c => { c with drains := d :: c.drains } else s

/-- Performs the relay of a request: the new physical address, the REDIRECT's effect on the requester's TLB (R112: and the drain record
that it makes), the other aliases of the new frame (R93), and its trace record. -/
def State.relay (s : State) (cl ctx va pa : Nat) : State × Nat :=
  match s.stubFor pa ctx va with
  | none => (s, pa)
  | some t =>
    let new := t.newFrame + (pa - t.oldFrame)
    let s := s.applyRedirect { cluster := cl, ctx := ctx, vpn := va / 2 ^ 16, oldFrame := t.oldFrame, newFrame := t.newFrame, gen := t.gen }
    let s := s.addDrain { cluster := cl, ctx := ctx, vpn := va % 2 ^ 57 / 2 ^ 16, oldFrame := t.oldFrame, size := t.size }
    let s := s.dropAliases cl ctx (va + t.oldFrame - pa) t.newFrame t.size
    let home := (s.homeOf (new / 128)).getD 0
    (s.emit home (144 + sliceOf (new / 128)) 0 ctx 0x11 t.gen
      (traceBody t.oldFrame (cl / 36 + cl % 36 * 256)) true, new)

/-- Whether the relay of a request waits at the old home, for a relay credit or for trace (R145, R446). -/
def State.relayWaits (s : State) (ctx va pa : Nat) : Bool :=
  match s.stubFor pa ctx va with
  | none => false
  | some t =>
    match s.homeOf ((t.newFrame + (pa - t.oldFrame)) / 128) with
    | some home => s.relayHeld t.die home || s.traceHeld home ctx 0x11 true
    | none => false

/-- Notes the hold of trace on a relay (R447). -/
def State.noteRelayHold (s : State) (ctx va pa : Nat) : State :=
  match (s.stubFor pa ctx va).bind fun t => s.homeOf ((t.newFrame + (pa - t.oldFrame)) / 128) with
  | some home => s.noteHeldAt home ctx 0x11 true
  | none => s

/-- Whether a piece goes to its frame: no L1 line serves it, and it is no scratchpad. -/
def Piece.outside (p : Piece) : Bool := p.hit.isNone && p.at < scratchKeys

/-- Relays every piece whose frame has a live stub: the pieces of one line are one request, answered with one REDIRECT (R426, R437). -/
def State.relayAll (s : State) (w : Warp) (ps : List Piece) : State × List Piece :=
  ps.foldl (fun r p =>
    if !p.outside then (r.1, r.2 ++ [p])
    else match r.1.stubFor p.at w.ctx p.va with
      | none => (r.1, r.2 ++ [p])
      | some t =>
        let (s, pa) :=
          if r.2.any fun q => q.from_.any fun f => f.1 / 128 = p.at / 128 then (r.1, t.newFrame + (p.at - t.oldFrame))
          else r.1.relay (clusterOfCore w.core) w.ctx p.va p.at
        let attr := match s.region pa with | .pod _ _ => attrPod | _ => p.attr
        (s, r.2 ++ [{ p with key := some pa, attr := attr, from_ := some (p.at, t.die) }])) (s, [])

/-! ## Storage accesses of resolved pieces -/

/-- The chain depth that a warp's writes give to triggers (R214). -/
def State.depthOf (s : State) (w : Warp) : Nat := ((s.gang? w.gang).map fun g => g.chain + 1).getD 1

/-- Reads one piece of storage: the value and the poison it meets. A hit takes its hint where the line is still in L1 (R52, R60); a NORMAL-WB miss fills L1 where `fill` asks for it; the line's poison
comes with it (R59). -/
def State.readPiece (s : State) (w : Warp) (p : Piece) (ch : Nat) (fill : Bool) : State × Nat × Option Nat :=
  match p.hit with
  | some x =>
    let v := (x.data.extractLsb' (8 * (p.va % 128)) (8 * p.n)).toNat
    (((s.l1? w.core w.ctx (p.va / 128)).elim s fun y => s.l1Touch y ch), s.lpView w p v, x.poisonAt (p.va % 128) p.n)
  | none =>
    let l := p.at / 128
    let s' := if isScratch l then s else s.touch (dieOfCore w.core) l ch .read
    let pois := s.store.poisonAt p.at p.n
    let s' :=
      if fill && p.attr = attrWB && !isScratch l then
        s'.l1Fill { core := w.core, ctx := w.ctx, va := p.va / 128, pa := l, data := s.store.line l, tag := s.store.tag l,
                    poison := s.store.linePoison l } ch
      else s'
    (s', s.lpView w p (s.store.read p.at p.n), pois)

/-- One lane's value from its pieces: the value and any poison. -/
def State.readLane (s : State) (w : Warp) (ps : List Piece) (ch : Nat) (fill : Bool) : State × Nat × Option Nat :=
  ps.foldl (fun r p =>
    let (s, v, po) := r.1.readPiece w p ch fill
    (s, r.2.1 + v * 2 ^ p.shift, if r.2.2.isSome then r.2.2 else po)) (s, 0, none)

/-- A store's bytes merged by line: the mask and data of each line, later lanes over earlier ones (R43). -/
def mergeStores (ps : List Piece) (val : Nat → Nat) : List (Nat × BitVec 128 × LineData) :=
  ps.foldl (fun acc p =>
    let l := p.at / 128
    let o := p.at % 128
    let m := byteMask o p.n
    let v := val p.lane / 2 ^ p.shift % 256 ^ p.n
    let clear : LineData := (BitVec.ofNat 1024 (256 ^ p.n - 1)) <<< (8 * o)
    let d : LineData := (BitVec.ofNat 1024 v) <<< (8 * o)
    if acc.any fun x => x.1 = l then
      acc.map fun x => if x.1 = l then (l, x.2.1 ||| m, (x.2.2 &&& ~~~clear) ||| d) else x
    else acc ++ [(l, m, d)]) []

/-- A write of host memory that the die's L2 does not keep (R62: `.na`) goes to the host at once. -/
def State.hostThrough (s : State) (die l : Nat) : State :=
  match s.region (128 * l) with
  | .host => if (s.l2? die l).isNone then s.say (.d2hWriteBack die (hostLine l) (s.store.line l)) else s
  | _ => s

/-- Stores to storage: each line once, with the L1 line it hits updated (R51). -/
def State.storePieces (s : State) (w : Warp) (ps : List Piece) (val : Nat → Nat) (ch : Nat) : State :=
  let depth := s.depthOf w
  (mergeStores ps val).foldl (fun s x =>
    let (l, m, d) := x
    let s := (ps.find? fun p => p.at / 128 = l && p.attr = attrWB).elim s fun p => s.l1Store w.core w.ctx (p.va / 128) m d none ch
    let s := if isScratch l then s else s.touch (dieOfCore w.core) l ch .write
    (s.writeLine l m d depth).hostThrough (dieOfCore w.core) l) s

end Sys2Proof.Machine
end

