-- ==== Sys2Proof/Machine/Float.lean ====
section
/-! DEFINITION. Exact binary floating point on bit patterns: formats (R66, R68), rounding (R73, R74), NaN rules (R67), the
arithmetic of R285 to R289, the conversions of R83. Bits are natural numbers; flags are the FLAGS bits of R77. -/

namespace Sys2Proof.Machine

open Sys2Proof

/-- Flag bits (R77). -/
def flIV : Nat := 1
def flDZ : Nat := 2
def flOF : Nat := 4
def flUF : Nat := 8
def flNX : Nat := 16
def flMXSAT : Nat := 32
def flMXNAN : Nat := 64
def flMXFALL : Nat := 128

/-- How a format uses its top exponent (R68). -/
inductive FKind
  | ieee | e4m3 | finite
deriving DecidableEq, Repr

/-- A binary float format. -/
structure Fmt where
  ebits : Nat
  fbits : Nat
  bias  : Nat
  kind  : FKind := .ieee
  sub   : Bool := false       -- FTZ and DAZ act on it (R76)
deriving DecidableEq, Repr

/-- The formats of R66 and R68. -/
def fF64 : Fmt := { ebits := 11, fbits := 52, bias := 1023 }
def fF32 : Fmt := { ebits := 8, fbits := 23, bias := 127, sub := true }
def fF16 : Fmt := { ebits := 5, fbits := 10, bias := 15, sub := true }
def fBf16 : Fmt := { ebits := 8, fbits := 7, bias := 127, sub := true }
def fE4M3 : Fmt := { ebits := 4, fbits := 3, bias := 7, kind := .e4m3 }
def fE5M2 : Fmt := { ebits := 5, fbits := 2, bias := 15 }
def fE2M3 : Fmt := { ebits := 2, fbits := 3, bias := 1, kind := .finite }
def fE3M2 : Fmt := { ebits := 3, fbits := 2, bias := 3, kind := .finite }
def fE2M1 : Fmt := { ebits := 2, fbits := 1, bias := 1, kind := .finite }

/-- The format of a float or MX type code (R232); other codes give f32. -/
def fmtOf (ty : Nat) : Fmt :=
  match ty with
  | 9 => fF64 | 10 => fF16 | 11 => fBf16 | 12 => fE4M3 | 13 => fE5M2 | 14 => fE2M3 | 15 => fE3M2 | 16 => fE2M1 | _ => fF32

/-- Bits of a value. -/
def Fmt.width (F : Fmt) : Nat := 1 + F.ebits + F.fbits
/-- Precision, hidden bit included. -/
def Fmt.prec (F : Fmt) : Nat := F.fbits + 1
/-- Exponent of the smallest normal number. -/
def Fmt.emin (F : Fmt) : Int := 1 - (F.bias : Int)
/-- Significand of the largest finite number. -/
def Fmt.maxM (F : Fmt) : Nat := match F.kind with | .e4m3 => 14 | _ => 2 ^ F.prec - 1
/-- Exponent of the unit of that significand. -/
def Fmt.maxE (F : Fmt) : Int :=
  (match F.kind with | .ieee => ((2 ^ F.ebits - 2 : Nat) : Int) | _ => ((2 ^ F.ebits - 1 : Nat) : Int)) - F.bias - F.fbits

/-- A value read from its bits: a NaN with its sign, whether it signals, its fraction and the fraction's width; an infinity; or
± m × 2^e. -/
inductive FV
  | nan (sign sig : Bool) (frac fbits : Nat)
  | inf (sign : Bool)
  | fin (sign : Bool) (m : Nat) (e : Int)
deriving DecidableEq, Repr

/-- How an operation rounds and treats subnormals and NaNs: the RND code with DYN resolved, the random bits of the element and
their number (R74), and the MODE bits of R75. -/
structure FEnv where
  rm   : Nat := 1
  u    : Nat := 0
  w    : Nat := 32
  ftz  : Bool := false
  daz  : Bool := false
  nanp : Bool := false
  satf : Bool := false
deriving DecidableEq, Repr

/-- Bits and flags. -/
abbrev FRes := Nat × Nat

/-- R66, R68; with DAZ, R76. -/
def fdecode (F : Fmt) (daz : Bool) (b : Nat) : FV :=
  let sign := b / 2 ^ (F.width - 1) % 2 = 1
  let ex := b / 2 ^ F.fbits % 2 ^ F.ebits
  let fr := b % 2 ^ F.fbits
  if F.kind = .ieee && ex = 2 ^ F.ebits - 1 then
    if fr = 0 then .inf sign else .nan sign (fr / 2 ^ (F.fbits - 1) = 0) fr F.fbits
  else if F.kind = .e4m3 && ex = 15 && fr = 7 then .nan sign false fr F.fbits
  else if ex = 0 then (if daz && F.sub then .fin sign 0 0 else .fin sign fr (F.emin - F.fbits))
  else .fin sign (2 ^ F.fbits + fr) ((ex : Int) - F.bias - F.fbits)

/-- The sign bit in place. -/
def fsign (F : Fmt) (s : Bool) : Nat := if s then 2 ^ (F.width - 1) else 0

/-- An infinity's bits. -/
def finf (F : Fmt) (s : Bool) : Nat := fsign F s + (2 ^ F.ebits - 1) * 2 ^ F.fbits

/-- The canonical NaN (R66, R68). -/
def fnan (F : Fmt) : Nat :=
  match F.kind with
  | .e4m3 => 0x7F
  | _ => (2 ^ F.ebits - 1) * 2 ^ F.fbits + 2 ^ (F.fbits - 1)

/-- Bits of n × 2^q, n below 2^prec or equal to it, q at least emin − fbits. -/
def fpack (F : Fmt) (s : Bool) (n : Nat) (q : Int) : Nat :=
  if n < 2 ^ F.fbits then fsign F s + n
  else if n = 2 ^ F.prec then fsign F s + ((q + 1 + F.fbits + F.bias).toNat) * 2 ^ F.fbits
  else fsign F s + ((q + F.fbits + F.bias).toNat) * 2 ^ F.fbits + (n - 2 ^ F.fbits)

/-- The largest finite value's bits. -/
def fmax (F : Fmt) (s : Bool) : Nat :=
  match F.kind with
  | .e4m3 => fsign F s + 0x7E
  | .finite => fsign F s + (2 ^ (F.width - 1) - 1)
  | .ieee => finf F s - 1

/-- Rounds m / 2^sh to an integer; the second part says whether it was inexact. `sticky` says the exact value lies above m by
less than one (R73, R74). -/
def roundInt (v : FEnv) (s : Bool) (m sh : Nat) (sticky : Bool) : Nat × Bool :=
  let r := m / 2 ^ sh
  let rem := m % 2 ^ sh
  let half := 2 ^ sh / 2
  let inexact := rem ≠ 0 || sticky
  let up : Bool :=
    match v.rm with
    | 1 => sh ≠ 0 && (half < rem || (rem = half && (sticky || r % 2 = 1)))
    | 3 => s
    | 4 => !s
    | 5 => sh ≠ 0 && half ≤ rem
    | 6 => v.u < rem * 2 ^ v.w / 2 ^ sh
    | _ => false
  (if inexact && up then r + 1 else r, inexact)

/-- a × 2^ea > b × 2^eb. -/
def magGt (a : Nat) (ea : Int) (b : Nat) (eb : Int) : Bool :=
  let e := min ea eb
  b * 2 ^ (eb - e).toNat < a * 2 ^ (ea - e).toNat

/-- A rounded magnitude: n × 2^q, whether inexact, and whether tiny after rounding (R66). -/
structure Rounded where
  n       : Nat
  q       : Int
  inexact : Bool
  tiny    : Bool
deriving DecidableEq, Repr

/-- Rounds m × 2^e (m nonzero) to the precision and least exponent of F, without a largest value. -/
def roundMag (F : Fmt) (v : FEnv) (s : Bool) (m : Nat) (e : Int) (sticky : Bool) : Rounded :=
  let top := (Nat.log2 m : Int) + e
  let q := max top F.emin - F.fbits
  let (n, inexact) :=
    if e ≤ q then roundInt v s m (q - e).toNat sticky else (m * 2 ^ (e - q).toNat, sticky)
  let qu := top - F.fbits
  let nu := if e ≤ qu then (roundInt v s m (qu - e).toNat sticky).1 else m * 2 ^ (e - qu).toNat
  { n, q, inexact, tiny := top < F.emin && !(top = F.emin - 1 && nu = 2 ^ F.prec) }

/-- What IEEE 754 prescribes on overflow: infinity, or the largest finite value (R66). -/
def overflowBits (F : Fmt) (rm : Nat) (s : Bool) : Nat :=
  match rm with
  | 2 => fmax F s
  | 3 => if s then finf F s else fmax F s
  | 4 => if s then fmax F s else finf F s
  | _ => finf F s

/-- Rounds ± m × 2^e (with `sticky`, a little more) into F: bits and flags (R66, R73, R74, R76). -/
def roundFin (F : Fmt) (v : FEnv) (s : Bool) (m : Nat) (e : Int) (sticky : Bool) : FRes :=
  if m = 0 then (fsign F s, 0)
  else
    let v := if v.rm = 6 && magGt m e F.maxM F.maxE then { v with rm := 1 } else v
    let r := roundMag F v s m e sticky
    if magGt r.n r.q F.maxM F.maxE then (overflowBits F v.rm s, flOF + flNX)
    else
      let fl := (if r.inexact then flNX else 0) + (if r.inexact && r.tiny then flUF else 0)
      if v.ftz && F.sub && r.n ≠ 0 && r.n < 2 ^ F.fbits then (fsign F s, flUF + flNX)
      else (fpack F s r.n r.q, fl)

/-- IV when some operand signals (R67). -/
def ivOf (l : List FV) : Nat := if l.any fun x => match x with | .nan _ true _ _ => true | _ => false then flIV else 0

/-- Whether a value is a NaN. -/
def FV.isNan : FV → Bool | .nan .. => true | _ => false

/-- The sign of a value. -/
def FV.sign : FV → Bool | .nan s _ _ _ => s | .inf s => s | .fin s _ _ => s

/-- A zero of either sign. -/
def FV.isZero : FV → Bool | .fin _ 0 _ => true | _ => false

/-- The NaN result of R67 from operands in order. -/
def nanBits (F : Fmt) (v : FEnv) (l : List FV) : Nat :=
  if F.kind ≠ .ieee then fnan F
  else match l.find? FV.isNan with
    | some (.nan s _ fr fb) =>
      if v.nanp then
        let fr := fr ||| 2 ^ (fb - 1)
        let fr := if fb ≤ F.fbits then fr * 2 ^ (F.fbits - fb) else fr / 2 ^ (fb - F.fbits)
        fsign F s + (2 ^ F.ebits - 1) * 2 ^ F.fbits + fr
      else fnan F
    | _ => fnan F

/-- The result when some operand is a NaN. -/
def nanRes (F : Fmt) (v : FEnv) (l : List FV) : FRes := (nanBits F v l, ivOf l)

/-- An invalid operation on operands that are no NaN (R67). -/
def invalid (F : Fmt) : FRes := (fnan F, flIV)

/-- Signed value of a finite operand at a common exponent. -/
def signedAt (s : Bool) (m : Nat) (e lo : Int) : Int :=
  let x : Int := (m * 2 ^ (e - lo).toNat : Nat)
  if s then -x else x

/-- Exact sum, rounded once; an exact zero sum follows R285. -/
def addFin (F : Fmt) (v : FEnv) (s1 : Bool) (m1 : Nat) (e1 : Int) (s2 : Bool) (m2 : Nat) (e2 : Int) : FRes :=
  if m1 = 0 && m2 = 0 then (fsign F (if s1 = s2 then s1 else v.rm = 3), 0)
  else
    let lo := min e1 e2
    let x := signedAt s1 m1 e1 lo + signedAt s2 m2 e2 lo
    if x = 0 then (fsign F (v.rm = 3), 0) else roundFin F v (x < 0) x.natAbs lo false

/-- Sum of two values. -/
def addFV (F : Fmt) (v : FEnv) (a b : FV) : FRes :=
  match a, b with
  | .inf s, .inf t => if s = t then (finf F s, 0) else invalid F
  | .inf s, _ => (finf F s, 0)
  | _, .inf t => (finf F t, 0)
  | .fin s1 m1 e1, .fin s2 m2 e2 => addFin F v s1 m1 e1 s2 m2 e2
  | a, b => nanRes F v [a, b]

/-- The exact product of two values that are no NaN; none for 0 × ∞. -/
def mulExact (a b : FV) : Option FV :=
  match a, b with
  | .inf s, .inf t => some (.inf (s != t))
  | .inf s, .fin t m _ => if m = 0 then none else some (.inf (s != t))
  | .fin s m _, .inf t => if m = 0 then none else some (.inf (s != t))
  | .fin s1 m1 e1, .fin s2 m2 e2 => some (.fin (s1 != s2) (m1 * m2) (e1 + e2))
  | a, _ => some a

/-- Rounds a value into F. -/
def roundFV (F : Fmt) (v : FEnv) : FV → FRes
  | .inf s => (finf F s, 0)
  | .fin s m e => roundFin F v s m e false
  | x => nanRes F v [x]

/-- FADD (R285). -/
def fAdd (F : Fmt) (v : FEnv) (a b : Nat) : FRes :=
  let x := fdecode F v.daz a; let y := fdecode F v.daz b
  if x.isNan || y.isNan then nanRes F v [x, y] else addFV F v x y

/-- The value with its sign turned, a NaN as it is. -/
def FV.neg : FV → FV
  | .inf s => .inf (!s)
  | .fin s m e => .fin (!s) m e
  | x => x

/-- FSUB (R285). -/
def fSub (F : Fmt) (v : FEnv) (a b : Nat) : FRes :=
  let x := fdecode F v.daz a; let y := fdecode F v.daz b
  if x.isNan || y.isNan then nanRes F v [x, y] else addFV F v x y.neg

/-- FMUL (R285). -/
def fMul (F : Fmt) (v : FEnv) (a b : Nat) : FRes :=
  let x := fdecode F v.daz a; let y := fdecode F v.daz b
  if x.isNan || y.isNan then nanRes F v [x, y]
  else match mulExact x y with
    | none => invalid F
    | some p => roundFV F v p

/-- FFMA (R285). -/
def fFma (F : Fmt) (v : FEnv) (a b c : Nat) : FRes :=
  let x := fdecode F v.daz a; let y := fdecode F v.daz b; let z := fdecode F v.daz c
  if x.isNan || y.isNan || z.isNan then nanRes F v [x, y, z]
  else match mulExact x y with
    | none => invalid F
    | some p => addFV F v p z

/-- Quotient of nonzero magnitudes with at least 120 significant bits: significand, exponent, whether it was cut. -/
def divMag (m1 : Nat) (e1 : Int) (m2 : Nat) (e2 : Int) : Nat × Int × Bool :=
  let k := 120 + Nat.log2 m2
  (m1 * 2 ^ k / m2, e1 - e2 - k, m1 * 2 ^ k % m2 ≠ 0)

/-- FDIV (R285). -/
def fDiv (F : Fmt) (v : FEnv) (a b : Nat) : FRes :=
  let x := fdecode F v.daz a; let y := fdecode F v.daz b
  match x, y with
  | .inf _, .inf _ => invalid F
  | .inf s, .fin t _ _ => (finf F (s != t), 0)
  | .fin s _ _, .inf t => (fsign F (s != t), 0)
  | .fin s m1 e1, .fin t m2 e2 =>
    if m2 = 0 then (if m1 = 0 then invalid F else (finf F (s != t), flDZ))
    else if m1 = 0 then (fsign F (s != t), 0)
    else let (m, e, st) := divMag m1 e1 m2 e2; roundFin F v (s != t) m e st
  | x, y => nanRes F v [x, y]

/-- Signed comparison key of two values that are no NaN: −1, 0 or 1. -/
def cmpFV (a b : FV) : Int :=
  match a, b with
  | .inf s, .inf t => if s = t then 0 else if s then -1 else 1
  | .inf s, _ => if s then -1 else 1
  | _, .inf t => if t then 1 else -1
  | .fin s1 m1 e1, .fin s2 m2 e2 =>
    let lo := min e1 e2
    let x := signedAt s1 m1 e1 lo; let y := signedAt s2 m2 e2 lo
    if x < y then -1 else if y < x then 1 else 0
  | _, _ => 0

/-- −0 before +0 (R286). -/
def cmpTotal (a b : FV) : Int :=
  if a.isZero && b.isZero then (if a.sign = b.sign then 0 else if a.sign then -1 else 1) else cmpFV a b

/-- The bits of a value as it was read: those given, or zero of its sign when DAZ read it as zero. -/
def asRead (F : Fmt) (x : FV) (b : Nat) : Nat := if x.isZero then fsign F x.sign else b % 2 ^ F.width

/-- FMIN and FMAX (R286, R88). -/
def fMinMax (F : Fmt) (v : FEnv) (isMax : Bool) (a b : Nat) : FRes :=
  let x := fdecode F v.daz a; let y := fdecode F v.daz b
  let iv := ivOf [x, y]
  if x.isNan && y.isNan then (nanBits F v [x, y], iv)
  else if x.isNan then (asRead F y b, iv)
  else if y.isNan then (asRead F x a, iv)
  else
    let c := cmpTotal x y
    (if (if isMax then 0 ≤ c else c ≤ 0) then asRead F x a else asRead F y b, iv)

/-- FCMP's condition (R234, R286): the result and IV. -/
def fCompare (F : Fmt) (v : FEnv) (cond a b : Nat) : Bool × Nat :=
  let x := fdecode F v.daz a; let y := fdecode F v.daz b
  let un := x.isNan || y.isNan
  let c := cmpFV x y
  let r : Bool := match cond with
    | 0 => !un && c = 0
    | 1 => un || c ≠ 0
    | 2 => !un && c < 0
    | 3 => !un && c ≤ 0
    | 4 => !un && 0 < c
    | 5 => !un && 0 ≤ c
    | 6 => un
    | _ => !un
  (r, if 2 ≤ cond && cond ≤ 5 && un then flIV else ivOf [x, y])

/-- FCLASS's mask (R286). -/
def fClass (F : Fmt) (b : Nat) : Nat :=
  match fdecode F false b with
  | .nan _ sig _ _ => if sig then 256 else 512
  | .inf s => if s then 1 else 128
  | .fin s m _ =>
    if m = 0 then (if s then 8 else 16)
    else if m < 2 ^ F.fbits then (if s then 4 else 32)
    else if s then 2 else 64

/-- Signed types and widths of the integer type codes i32 to n64 (R232). -/
def intSigned (ty : Nat) : Bool := ty % 2 = 0
/-- Width of an integer type code. -/
def intWidth (ty : Nat) : Nat := if ty = 2 || ty = 3 then 64 else 32
/-- Least value of an integer type. -/
def intMin (ty : Nat) : Int := if intSigned ty then -(2 ^ (intWidth ty - 1) : Nat) else 0
/-- Greatest value of an integer type. -/
def intMax (ty : Nat) : Int := if intSigned ty then (2 ^ (intWidth ty - 1) : Nat) - 1 else (2 ^ intWidth ty : Nat) - 1

/-- The integer that w bits stand for. -/
def toInteger (signed : Bool) (w b : Nat) : Int :=
  let b := b % 2 ^ w
  if signed && 2 ^ (w - 1) ≤ b then (b : Int) - (2 ^ w : Nat) else b

/-- The low w bits of an integer. -/
def ofInteger (w : Nat) (x : Int) : Nat := (x % ((2 ^ w : Nat) : Int)).toNat

/-- Between two bounds. -/
def clampInt (lo hi x : Int) : Int := if x < lo then lo else if hi < x then hi else x

/-- float to integer (R83). -/
def fToInt (F : Fmt) (v : FEnv) (ty b : Nat) : FRes :=
  match fdecode F v.daz b with
  | .nan .. => (0, flIV)
  | .inf s => (ofInteger (intWidth ty) (if s then intMin ty else intMax ty), flIV)
  | .fin s m e =>
    let (n, inexact) := if 0 ≤ e then (m * 2 ^ e.toNat, false) else roundInt v s m (-e).toNat false
    let x : Int := if s then -(n : Int) else n
    if x < intMin ty || intMax ty < x then (ofInteger (intWidth ty) (clampInt (intMin ty) (intMax ty) x), flIV)
    else (ofInteger (intWidth ty) x, if inexact then flNX else 0)

/-- integer to float (R83). -/
def fOfInt (F : Fmt) (v : FEnv) (ty b : Nat) : FRes :=
  let x := toInteger (intSigned ty) (intWidth ty) b
  roundFin F v (x < 0) x.natAbs 0 false

/-- float to float (R83). -/
def fToF (F G : Fmt) (v : FEnv) (b : Nat) : FRes := roundFV G v (fdecode F v.daz b)

/-- integer to integer (R83). -/
def iToI (src dst : Nat) (sat : Bool) (b : Nat) : FRes :=
  let x := toInteger (intSigned src) (intWidth src) b
  (ofInteger (intWidth dst) (if sat then clampInt (intMin dst) (intMax dst) x else x), 0)

/-- E8M0 to FP32 (R83): exact, never flushed. -/
def e8m0ToF32 (b : Nat) : Nat :=
  if b % 256 = 255 then fnan fF32 else (roundFin fF32 {} false 1 ((b % 256 : Nat) - 127 : Int) false).1

/-- FP32 to E8M0 (R83). -/
def f32ToE8m0 (v : FEnv) (b : Nat) : FRes :=
  match fdecode fF32 v.daz b with
  | .nan .. => (255, flIV)
  | .inf _ => (255, 0)
  | .fin _ m e => if m = 0 then (0, 0) else ((clampInt 0 254 ((Nat.log2 m : Int) + e + 127)).toNat, 0)

/-- Whether a type code is an integer type of conversions. -/
def isInt4 (ty : Nat) : Bool := ty ≤ 3

/-- SCVT and the single-element conversions of FCVT (R83, R258, R288). -/
def convertBits (v : FEnv) (src dst : Nat) (sat : Bool) (b : Nat) : FRes :=
  if isInt4 src then (if isInt4 dst then iToI src dst sat b else fOfInt (fmtOf dst) v src b)
  else if isInt4 dst then fToInt (fmtOf src) v dst b
  else if src = tyE8M0 then (e8m0ToF32 b, 0)
  else if dst = tyE8M0 then f32ToE8m0 v b
  else fToF (fmtOf src) (fmtOf dst) v b

/-- FRINT (R289). -/
def fRint (F : Fmt) (v : FEnv) (b : Nat) : FRes :=
  match fdecode F v.daz b with
  | .fin s m e =>
    if 0 ≤ e then roundFin F v s m e false
    else
      let (n, inexact) := roundInt v s m (-e).toNat false
      ((roundFin F { v with rm := 1 } s n 0 false).1, if inexact then flNX else 0)
  | x => roundFV F v x

/-- FSCALE (R289). -/
def fScale (F : Fmt) (v : FEnv) (b : Nat) (k : Int) : FRes :=
  match fdecode F v.daz b with
  | .fin s m e => roundFin F v s m (e + clampInt (-5000) 5000 k) false
  | x => roundFV F v x

/-- The float constants of R228: 0.0, 0.5, 1.0, 2.0, 4.0, −0.5, −1.0, −2.0, −4.0. -/
def floatConst (F : Fmt) (n : Nat) : Nat :=
  let v : FV := match n with
    | 0 => .fin false 0 0 | 1 => .fin false 1 (-1) | 2 => .fin false 1 0 | 3 => .fin false 1 1 | 4 => .fin false 1 2
    | 5 => .fin true 1 (-1) | 6 => .fin true 1 0 | 7 => .fin true 1 1 | _ => .fin true 1 2
  (roundFV F {} v).1

/-- An integer's encoding in a float format, exact for the constants of R229. -/
def floatOfInt (F : Fmt) (x : Int) : Nat := (roundFin F {} (x < 0) x.natAbs 0 false).1

end Sys2Proof.Machine
end

