-- ==== Sys2Proof/Machine/AtomicOps.lean ====
section
/-! DEFINITION. What an atomic computes (R330), and a store or atomic performed on storage unit by unit (R132). -/

namespace Sys2Proof.Machine

open Sys2Proof

/-- The new value of an atomic (R330): operation, width in bytes, signedness, the value at the location, and the operands. -/
def atomicNew (op n : Nat) (signed : Bool) (old v v2 : Nat) : Nat :=
  let w := 8 * n
  let less := toInteger signed w old < toInteger signed w v
  match op with
  | 0 => (old + v) % 2 ^ w
  | 1 => old &&& v
  | 2 => old ||| v
  | 3 => old ^^^ v
  | 4 => if less then old else v
  | 5 => if less then v else old
  | 6 => v
  | 7 => if old = v then v2 else old
  | 8 => if v ≤ old then 0 else old + 1
  | 9 => if old = 0 || v < old then v else old - 1
  | 10 => (fAdd fF32 {} old v).1
  | 11 => (fAdd fBf16 {} (old % 65536) (v % 65536)).1 + (fAdd fBf16 {} (old / 65536) (v / 65536)).1 * 65536
  | 12 => (fMinMax fF32 {} false old v).1
  | _ => (fMinMax fF32 {} true old v).1

/-- Performs one store or atomic whole (R132, R419). -/
def State.performUnit (s : State) (depth : Nat) (u : StoreUnit) : State :=
  let new := match u.op with
    | none => u.val
    | some r =>
      let old := u.parts.foldl (fun v p => v + s.store.read p.1 p.2.1 * 2 ^ p.2.2) 0
      atomicNew r.op r.width r.signed old r.v1.toNat r.v2.toNat
  match u.tag, u.parts with
  | some t, [p] => s.writeTagged (p.1 / 128) (BitVec.ofNat 1024 new) t depth
  | _, _ => u.parts.foldl (fun s p => s.writeKey p.1 p.2.1 (new / 2 ^ p.2.2) depth) s

end Sys2Proof.Machine
end

