-- ==== Sys2Proof/Machine/Window.lean ====
section
/-! DEFINITION. The words of the device MMIO range, and what a store there brings about as the device's next move (R452, R453). -/

namespace Sys2Proof.Machine

open Sys2Proof

/-- The registers of 8 bytes; the others have 4 (log entry 2). -/
def wideReg : MmioReg → Bool
  | .owner | .podcfg | .faultResponse _ | .queueTable _ _ | .trchdr _ => true
  | _ => false

/-- A register of the global block (R452). -/
def MmioReg.inGlobal : MmioReg → Option MmioReg
  | .bootstat => some .bootstat
  | .owner => some .owner
  | .claim => some .claim
  | .tbcfg => some .tbcfg
  | .podcfg => some .podcfg
  | .discovery => some .discovery
  | .generation => some .generation
  | .deadPeer w => some (.deadPeer w)
  | _ => none

/-- A register of a compute die's block, as that of die `d` (R452). -/
def MmioReg.inDie (d : Nat) : MmioReg → Option MmioReg
  | .l2cfg _ => some (.l2cfg d)
  | .trainmod _ => some (.trainmod d)
  | .station t => some (.station (5 * d + t % 5))
  | .topology _ w => some (.topology d w)
  | .stub _ i w => some (.stub d i w)
  | _ => none

/-- A register of a context slot's block, as that of slot `c` (R452). -/
def MmioReg.inSlot (c : Nat) : MmioReg → Option MmioReg
  | .ctxDesc _ w => some (.ctxDesc c w)
  | .preempt _ => some (.preempt c)
  | .faultResponse _ => some (.faultResponse c)
  | .eventSet _ w => some (.eventSet c w)
  | .eventClear _ w => some (.eventClear c w)
  | .queueTable _ i => some (.queueTable c i)
  | .trchdr _ => some (.trchdr c)
  | .trccfg _ => some (.trccfg c)
  | _ => none

/-- The register at an offset of the device MMIO range (R452): the blocks are the manual's, the offsets inside them free (log entry 2). -/
def mmioLayout (off : Nat) : Option MmioReg :=
  if off < 0x01000000 then (Config.globalLayout off).bind MmioReg.inGlobal
  else if off < 0x05000000 then (Config.dieLayout (off % 0x01000000)).bind (MmioReg.inDie (off / 0x01000000 - 1))
  else if 0x10000000 ≤ off && off < 0x10400000 then (Config.slotLayout (off % 0x10000)).bind (MmioReg.inSlot ((off - 0x10000000) / 0x10000))
  else none

/-- The register that a 4-byte word of the range belongs to, and whether the word is its high half. -/
def mmioWordReg (off : Nat) : Option (MmioReg × Bool) :=
  match (if 4 ≤ off then mmioLayout (off - 4) else none) with
  | some r => if wideReg r then some (r, true) else (mmioLayout off).map fun r => (r, false)
  | none => (mmioLayout off).map fun r => (r, false)

/-- The register write that a 4-byte store brings about. -/
def mmioWordStore (ctx off v : Nat) : List Move :=
  match mmioWordReg off with
  | none => []
  | some (r, hi) => if wideReg r then [.half (.warpOf ctx) r hi (v % 2 ^ 32)] else [.register (.warpOf ctx) r (v % 2 ^ 32)]

/-- A store of a warp of context `ctx` in the MMIO range: its effect in the register is the device's next move (log entry 2). -/
def State.mmioStore (s : State) (ctx off n v : Nat) : State :=
  let l :=
    match mmioWordReg off with
    | some (r, false) =>
      if n = 8 && wideReg r then [Move.register (.warpOf ctx) r (v % 2 ^ 64)]
      else mmioWordStore ctx off v ++ (if n = 8 then mmioWordStore ctx (off + 4) (v / 2 ^ 32) else [])
    | _ => mmioWordStore ctx off v ++ (if n = 8 then mmioWordStore ctx (off + 4) (v / 2 ^ 32) else [])
  { s with agenda := l ++ s.agenda }

end Sys2Proof.Machine
end

