-- ==== Sys2Proof/Machine/Fault.lean ====
section
/-! DEFINITION. Fault records and queues (R403 to R408), the end of a context by kill or loss (R419, R420), warp frames (R409 to
R412), and taking an exception: handler entry (R393, R396). -/

namespace Sys2Proof.Machine

open Sys2Proof

/-! ## Records -/

/-- Who raises a record (R403): a warp, the device for a warp whose context is lost (R405, R420), the copy engine for a warp, a unit of a die without a warp (R436), the command processors for
a queue index, or a UALink station. -/
inductive Raiser
  | warp (core slot : Nat)
  | lost (core slot : Nat)
  | engine (core slot : Nat)
  | agent (die unit : Nat)
  | queue (idx : Nat)
  | station (st : Nat)
deriving DecidableEq, Repr

/-- FLAGS bits (R403). -/
def flagResumable : Nat := 1
def flagLast : Nat := 2
def flagEngine : Nat := 4
def flagNowarp : Nat := 8
def flagSyscopy : Nat := 16

/-- The die, core on the die, warp slot and FLAGS bits of a raiser. -/
def Raiser.place : Raiser → Nat × Nat × Nat × Nat
  | .warp c w => (dieOfCore c, c % Config.coresPerDie, w, 0)
  | .engine c w => (dieOfCore c, c % Config.coresPerDie, w, flagEngine)
  | .lost c w => (dieOfCore c, c % Config.coresPerDie, w, flagNowarp)
  | .agent d _ => (d, 0, 0, flagNowarp)
  | .queue _ => (hubDie, 0, 0, flagNowarp)
  | .station t => (t / 5, 0, 0, flagNowarp)

/-- Trace unit and sub-unit of a raiser (R436). -/
def Raiser.unit : Raiser → Nat × Nat
  | .warp c w | .lost c w => (c % Config.coresPerDie, w / 8)
  | .engine c _ => (c % Config.coresPerDie, 8)
  | .agent _ u => (u, 0)
  | .queue i => (215, i)
  | .station t => (208, t % 5)

/-- The bundle over which a die reaches another (R2, R436); of the hub, its migration engine. -/
def State.linkUnit (s : State) (die target : Nat) : Nat :=
  let hop := (s.routeOf die target).1
  if die = hubDie then 214
  else if target = hubDie || hop = hubDie then 209
  else if hop = min (die ^^^ 1) (die ^^^ 2) then 210 else 211

/-- The 48 bytes of a record (R403). -/
def recordBytes (r : FaultRec) (ctx batch time flags : Nat) (p : Nat × Nat × Nat × Nat) : Nat :=
  let info := r.code % 256 + r.sub % 256 * 2 ^ 8 + ctx % 2 ^ 16 * 2 ^ 16 + p.1 % 256 * 2 ^ 32 + p.2.1 % 256 * 2 ^ 40 +
    p.2.2.1 % 256 * 2 ^ 48 + flags % 256 * 2 ^ 56
  info + r.pc.toNat * 2 ^ 64 + r.va.toNat * 2 ^ 128 + r.lanes.toNat * 2 ^ 192 + batch % 2 ^ 32 * 2 ^ 288 + time % 2 ^ 64 * 2 ^ 320

/-- Bits of a number. -/
def natBits (v lo len : Nat) : Nat := v / 2 ^ lo % 2 ^ len

/-- Writes one batch of records into a context's fault queue (R406, R407). -/
def State.queueBatch (s : State) (ctx : Nat) (recs : List Nat) : State :=
  match s.ctx? ctx with
  | none => s
  | some c =>
    if c.killed then s
    else match s.deviceRead ctx c.fqhdr 128 with
      | none => s
      | some h =>
        let s := s.markPages ctx c.fqhdr 128 false
        let base := natBits h 0 64
        let size := natBits h 64 32
        let lost := natBits h 96 32
        let head := natBits h 128 32
        let tail := natBits h 512 32
        let n := recs.length
        let drop := fun (_ : Unit) =>
          (s.deviceWrite ctx (c.fqhdr + 0x0C) 4 (min (lost + n) 0xFFFFFFFF)).getD s
        if size < (tail + n + 2 ^ 32 - head) % 2 ^ 32 then drop ()
        else
          let put := (recs.zipIdx).foldl (fun o r => o.bind fun t =>
            let va := (base + (tail + r.2) % size * 48) % 2 ^ 64
            State.ringWrite t ctx va 48 r.1 false) (some s)
          match put.bind fun t => t.tailWrite ctx (c.fqhdr + 0x40) ((tail + n) % 2 ^ 32) with
          | some t => if c.system then t.say (.msi 1) else t
          | none => drop ()

/-- Codes of which the system context's queue receives a copy (R405, R408). -/
def systemCodes : List Nat := [0x40, 0x41, 0x42]

/-- The batch number after `b` (R404). -/
def nextBatch (b : Nat) : Nat := if b = 0xFFFFFFFF then 1 else b + 1

/-- FLAGS of the records of a batch, LAST on the last of them (R403). -/
def batchFlags (who : Raiser) (recs : List FaultRec) : List (FaultRec × Nat) :=
  recs.zipIdx.map fun r => (r.1, who.place.2.2.2 + (if r.1.resum then flagResumable else 0) + if r.2 + 1 = recs.length then flagLast else 0)

/-- Writes one batch: numbers it, queues it, copies the records that the system context must see, and traces each record (R404, R407,
R408, R437, log entry 54). `systemOnly` is for a record that only the system context's queue receives. -/
def State.writeBatch (s : State) (ctx : Nat) (who : Raiser) (recs : List FaultRec) (systemOnly : Bool := false) : State :=
  match s.ctx? ctx, recs with
  | none, _ => s
  | _, [] => s
  | some c, _ =>
    let p := who.place
    let time := s.nsOf p.1
    let own := fun (r : FaultRec) => if c.system && systemCodes.contains r.code then flagSyscopy else 0
    let raw := fun (rs : List FaultRec) (extra : FaultRec → Nat) =>
      (batchFlags who rs).map fun r => recordBytes r.1 ctx c.batch time (r.2 + extra r.1) p
    let s := s.modCtx ctx fun c => { c with batch := nextBatch c.batch }
    let s := if systemOnly then s else s.queueBatch ctx (raw recs own)
    let copies := recs.filter fun r => systemCodes.contains r.code
    let s := match s.sysCtx? with
      | some sc => if !copies.isEmpty && (systemOnly || sc.id ≠ ctx) then s.queueBatch sc.id (raw copies fun _ => flagSyscopy) else s
      | none => s
    (batchFlags who recs).foldl (fun s r =>
      s.emit p.1 who.unit.1 who.unit.2 ctx 0x0D (r.1.code + r.1.sub * 2 ^ 8 + (r.2 + if systemOnly then flagSyscopy else own r.1) * 2 ^ 16)
        (traceBody r.1.pc.toNat r.1.va.toNat) false (match who with | .warp c w => (s.warp? c w).map Warp.identity | _ => none)) s

/-- Writes the records that home slices have raised (R214), until none is left. -/
def State.flushRecs : Nat → State → State
  | 0, s => s
  | n + 1, s =>
    match s.recs with
    | [] => s
    | r :: rest => State.flushRecs n ({ s with recs := rest }.writeBatch r.ctx (.agent r.die r.unit) [r.rec_])

/-- What every step ends with: the records due are written. -/
def State.settle (s : State) : State := s.flushRecs 64

/-! ## The end of a context (R419, R420) -/

/-- The stores and atomics that a context's warps have issued and not performed. -/
def State.unperformed (s : State) (ctx : Nat) : List (Warp × StoreUnit) :=
  (s.warps.filter fun w => w.ctx = ctx).flatMap fun w =>
    (w.hoods.flatMap fun h => match (w.slice h).wait with
      | .remote x => x.units.map fun u => (w, u)
      | _ => []) ++ w.flights.flatMap fun x => x.x.units.map fun u => (w, u)

/-- One of them is performed (R419): in storage, or by leaving the device as the instruction would have sent it. -/
def State.performOut (s : State) (w : Warp) (u : StoreUnit) : State :=
  match u.dest, u.parts with
  | .store, _ => s.performUnit (s.depthOf w) u
  | .uc, l => l.foldl (fun s p => s.say (.cxlIoWrite (hostPa p.1) (u.val / 2 ^ p.2.2 % 256 ^ p.2.1) p.2.1)) s
  | .device off, l => l.foldl (fun s p => s.mmioStore w.ctx off p.2.1 (u.val / 2 ^ p.2.2)) s
  | .pod, l => l.foldl (fun s p =>
      match s.region p.1 with
      | .pod t off =>
        let die := dieOfCore w.core
        let st := stationOf die t off
        (match u.op with
        | some r => (s.modEng fun e => { e with nextPend := e.nextPend + 1 }).say (.podAtomic st s.eng.nextPend t (p.1 / 128) r)
        | none =>
          let d : LineData := (BitVec.ofNat 1024 (u.val / 2 ^ p.2.2 % 256 ^ p.2.1)) <<< (8 * (p.1 % 128))
          let o : Outstanding := { txn := s.eng.nextPend, die := die, core := w.core, slot := w.slot, hood := 0, ctx := w.ctx, pc := 0, station := st
                                   target := t, line := p.1 / 128, va := u.va, write := true, data := d, mask := byteMask (p.1 % 128) p.2.1
                                   since := (s.die die).tick, gang := w.gang, pos := w.pos, idx := w.idx }
          (s.modEng fun e => { e with pend := e.pend ++ [o], nextPend := e.nextPend + 1 }).say
            (.podRequest st o.txn t o.line true d o.mask))
      | _ => s) s

/-- Each of them is performed whole or not at all, which one is free (R419, log entry 44). -/
def State.settleStores (s : State) (ctx : Nat) : State :=
  ((s.unperformed ctx).zipIdx.foldl (fun t x =>
    if Config.pick s.free (70000 + x.2) % 2 = 1 then t.performOut x.1.1 x.1.2 else t) s).bump

/-- R419: every hood stops, everything the context holds is released, and its queue receives nothing more. A posted pod write has left the
device and keeps its entry (log entry 44). -/
def State.kill (s : State) (ctx : Nat) (lost : Bool) : State :=
  let s := s.settleStores ctx
  let spilled := s.eng.copies.filter fun c => c.ctx = ctx
  let s := { s with warps := s.warps.filter fun w => w.ctx ≠ ctx }
  let s := s.modSched fun c =>
    { c with gangs := c.gangs.filter fun g => g.ctx ≠ ctx
             queued := c.queued.filter fun r => r.ctx ≠ ctx
             triggers := c.triggers.filter fun r => r.ctx ≠ ctx
             watches := c.watches.filter fun w => w.ctx ≠ ctx
             launches := c.launches.filter fun l => l.ctx ≠ ctx }
  let s := s.modEng fun e =>
    { e with copies := e.copies.filter fun c => c.ctx ≠ ctx
             bandFlags := e.bandFlags.filter fun b => (s.gang? b.gang).isSome
             products := e.products.filter fun p => (s.gang? p.gang).isSome
             pend := e.pend.filter fun p => p.ctx ≠ ctx || p.write
             fields := e.fields.filter fun f => f.ctx ≠ ctx
             spillUsed := spilled.foldl (fun l c =>
               l.map fun d => if d.1 = dieOfCore c.core then (d.1, d.2 - 512 * c.spilled.length) else d) e.spillUsed
             migs := e.migs.map fun m => if (s.warps.any fun w => m.requester = some (w.core, w.slot)) then m
               else { m with requester := none } }
  let s := s.modStore fun m => { m with lp := m.lp.filter fun x => x.ctx ≠ ctx }
  s.modCtx ctx fun c =>
    { c with events := 0, layouts := [], rings := [], busy := false, killed := true, lost := c.lost || lost
             queues := c.queues.map fun q => { q with held := none, fired := false } }

/-- R420: the context is lost, and the system context's queue receives CONTEXT_SAVE_FAILED. -/
def State.lose (s : State) (ctx core slot sub : Nat) : State :=
  (s.kill ctx true).writeBatch ctx (.lost core slot) [{ code := 0x40, sub := sub }] true

/-! ## The warp frame (R410) -/

/-- Bytes of a warp frame. -/
def frameBytes (vrc : Nat) : Nat := 0x2C00 + vrc * 408

/-- The VA of a warp's frame slot (R409). -/
def Context.warpSlot (c : Context) (n : Nat) : Nat := (c.saveBase + n * 0x20000) % 2 ^ 64

/-- The VA of a block's frame slot (R409). -/
def Context.blockSlot (c : Context) (n : Nat) : Nat := (c.saveBase + c.wslots * 0x20000 + n * 0x90000) % 2 ^ 64

/-- SRC as the frame holds it. -/
def srcCode (n : Nat) : Nat := if n = 128 then 0 else n

/-- The 1,280 bytes of an operand-log entry (R101). -/
def LogEntry.bytes (e : LogEntry) : Nat :=
  e.pc.toNat + e.insn.toNat * 2 ^ 64 + e.ctl.toNat * 2 ^ 160 + e.lanes.toNat * 2 ^ 192 + e.batch.toNat * 2 ^ 288 +
    e.data.toNat * 2 ^ 1024

/-- `%phase` (R207, R390): its record's PHASE, which in the phase that a trigger starts is zero. -/
def Gang.phaseReg (g : Gang) : Nat := g.phase

/-- The fields of a warp frame: offset, bytes and value (R410). An ended slice has no hood: its HOOD is a free value (log entry 1). -/
def Warp.frameFields (w : Warp) (free reason : Nat) (pc : DWord) (phase sq : Nat) : List (Nat × Nat × Nat) :=
  let valid := w.log.countP fun e => e.ctl.getLsbD 0
  [(0x0000, 8, 1 + w.vrc * 2 ^ 16 + srcCode w.src * 2 ^ 32 + valid * 2 ^ 40 + reason * 2 ^ 48), (0x0008, 8, pc.toNat)] ++
  ((List.range 24).map fun i => (0x0010 + 8 * i, 8, if w.isLive i then (w.slice i).pc.toNat else 0)) ++
  ((List.range 24).map fun i => (0x00D0 + i, 1, if w.isLive i then 32 + (w.slice i).hood % 32 else Config.pick free (9000 + i) % 32)) ++
  [(0x00E8, 4, w.mode.toNat), (0x00EC, 4, w.flags.toNat), (0x00F0, 4, phase), (0x00F4, 4, sq % 64), (0x00F8, 8, w.mshape.toNat)] ++
  ((List.range 128).map fun n => (0x0100 + 4 * n, 4, if (w.src ≤ n && n < 122) || n = 124 then 0 else (w.getS n).toNat)) ++
  [(0x0300, 8, w.tvec.toNat), (0x0308, 8, 0)] ++
  ((List.range 15).map fun n => (0x0310 + 16 * n, 16, (w.getQ (n + 1)).toNat)) ++
  ((List.range 8).map fun n => (0x0400 + 0x500 * n, 0x500, (w.log.getD n {}).bytes)) ++
  ((List.range w.vrc).map fun n => (0x2C00 + 384 * n, 384, (w.getV n).toNat)) ++
  ((List.range w.vrc).map fun n => (0x2C00 + 384 * w.vrc + 24 * n, 24, (w.getK n).toNat))

/-- The value of `n` bytes that fields make up, the bytes between them zero. -/
def fieldsValue (fields : List (Nat × Nat × Nat)) : Nat :=
  fields.foldl (fun a f => a + f.2.2 % 256 ^ f.2.1 * 256 ^ f.1) 0

/-- Writes fields at a base address of a context's save area; none when a page lacks what R409 asks for. -/
def State.writeFields (s : State) (ctx base total : Nat) (fields : List (Nat × Nat × Nat)) : Option State :=
  s.deviceWrite ctx base total (fieldsValue fields) true

/-- Whether an error is in a warp's state; `p` picks the words. -/
def Upset.inWarp (core slot : Nat) (p : WarpWord → Bool) : Upset → Bool
  | .warp c w x _ => c = core && w = slot && p x
  | _ => false

/-- The bits of a code word that stand inverted after errors in the bits `l`: those struck an odd number of times. -/
def wrongBits (l : List Nat) : List Nat := l.dedup.filter fun i => l.count i % 2 = 1

/-- The wrong bits of a word's error. -/
def Upset.bits : Upset → List Nat
  | .l2 _ _ _ l | .scratch _ _ l | .warp _ _ _ l => wrongBits l
  | _ => []

/-- Whether an error is in more than one bit, and so detected and not corrected. -/
def Upset.double (u : Upset) : Bool := 1 < u.bits.length

/-- Counts soft errors of a die (R57, R58, R219). -/
def State.countSoft (s : State) (die n : Nat) : State := s.modDie die fun d => { d with soft := d.soft + n }

/-- The words `p` of a warp's state are read (R58): single-bit errors are corrected and counted; none when one is uncorrectable. -/
def State.checkWords (s : State) (core slot : Nat) (p : WarpWord → Bool) : Option State :=
  if s.upsets.isEmpty then some s
  else
    let mine := s.upsets.filter (Upset.inWarp core slot p)
    if mine.any Upset.double then none
    else some ({ s with upsets := s.upsets.filter fun u => !u.inWarp core slot p }.countSoft (dieOfCore core) (mine.countP fun (u : Upset) => !u.bits.isEmpty))

/-- The words `p` of a warp's state are written or given to another warp, which ends any error in them (R58, R170). -/
def State.clearWords (s : State) (core slot : Nat) (p : WarpWord → Bool) : State :=
  if s.upsets.isEmpty then s else { s with upsets := s.upsets.filter fun u => !u.inWarp core slot p }

/-- The warp as a frame takes it: a hood that has gone on inside the window of a WAITV which has still to complete stands at that WAITV
(R335, log entry 22). -/
def Warp.rewound (w : Warp) : Warp :=
  { w.flights.foldr (fun x w => w.mapSlices fun i sl => if sl.live && sliceLanes i &&& x.lanes ≠ 0 then { sl with pc := x.x.pc } else sl) w with
    flights := [] }

/-- Writes a warp's frame (R393 step 3, R416); when it cannot be written, the subcode with which the context is lost (R58, R420). -/
def State.writeFrame (s : State) (w : Warp) (reason : Nat) (pc : DWord) : Except Nat State :=
  match s.ctx? w.ctx, s.checkWords w.core w.slot fun _ => true with
  | none, _ => .error 0x01
  | _, none => .error 0x02
  | some c, some s =>
    let g := s.gang? w.gang
    match s.writeFields w.ctx (c.warpSlot w.frameSlot) (frameBytes w.vrc)
      (w.rewound.frameFields s.free reason pc ((g.map Gang.phaseReg).getD 0) ((g.map fun g => if g.phased || g.triggered then g.sq else 0).getD 0)) with
    | some t => if s.upsets.contains (.frame w.core w.slot) then .error 0x03 else .ok t
    | none => .error 0x01

/-- Reads a log entry back (R412): an entry with CTL[0] clear is empty. -/
def LogEntry.ofBytes (v : Nat) : LogEntry :=
  if v / 2 ^ 160 % 2 = 0 then {}
  else { pc := BitVec.ofNat 64 v, insn := BitVec.ofNat 96 (v / 2 ^ 64), ctl := BitVec.ofNat 32 (v / 2 ^ 160) &&& 7,
         lanes := BitVec.ofNat 96 (v / 2 ^ 192), batch := BitVec.ofNat 32 (v / 2 ^ 288), data := BitVec.ofNat 9216 (v / 2 ^ 1024) }

/-- The log as a reload takes it (R412): a continuation entry that does not follow a valid first entry is ignored. -/
def keepEntries (log : List LogEntry) : List LogEntry :=
  log.zipIdx.map fun x =>
    let before := (log[x.2 - 1]?.getD {}).ctl
    if x.1.ctl.getLsbD 1 && (x.2 = 0 || !before.getLsbD 0 || before.getLsbD 1) then {} else x.1

/-- MODE as a reload takes it (R412). -/
def reloadMode (m : Word) : Word :=
  let m := m &&& 0x1FFF
  if m &&& 7 = 0 || m &&& 7 = 7 then (m &&& ~~~7) ||| 1 else m

/-- The fields of MSHAPE that exist (R373). -/
def mshapeMask : DWord := 0x000003FF01FFFFFF

/-- A warp as its frame leaves it (R412); `rd off n` reads the frame, `live` says which slices had not ended. What its MFENCEs
have ordered stays ordered (R384). -/
def Warp.reload (w : Warp) (rd : Nat → Nat → Nat) (live : Nat → Bool) : Warp :=
  let grp := fun (i : Nat) => rd (0x00D0 + i) 1
  let on := fun (i : Nat) => live i && grp i / 32 % 2 = 1
  let pc := fun (i : Nat) => BitVec.ofNat 64 (rd (0x0010 + 8 * i) 8)
  let same := fun (i j : Nat) => on i && on j && grp i % 32 = grp j % 32 && pc i = pc j
  let slices := (List.range 24).map fun i =>
    ({ pc := pc i, live := on i, hood := ((List.range 24).find? (same i)).getD i, fence := (w.slice i).fence } : Slice)
  let liveLanes := lanesOfSlices ((List.range 24).filter on)
  let sreg := fun (n : Nat) =>
    let x := BitVec.ofNat 32 (rd (0x0100 + 4 * n) 4)
    if n = 124 || (w.src ≤ n && n < 122) then 0
    else if 125 ≤ n then x &&& liveLanes.extractLsb' (32 * (n - 125)) 32 else x
  { w with
    slices := slices
    mode := reloadMode (BitVec.ofNat 32 (rd 0x00E8 4))
    flags := BitVec.ofNat 32 (rd 0x00EC 4) &&& 0xFF
    mshape := BitVec.ofNat 64 (rd 0x00F8 8) &&& mshapeMask
    s := (List.range 128).map sreg
    tvec := BitVec.ofNat 64 (rd 0x0300 8)
    q := (List.range 16).map fun n => if n = 0 then BitVec.allOnes 96 else BitVec.ofNat 96 (rd (0x0300 + 16 * n) 12)
    log := keepEntries ((List.range 8).map fun n => LogEntry.ofBytes (rd (0x0400 + 0x500 * n) 0x500))
    v := (List.range w.vrc).map fun n => BitVec.ofNat 3072 (rd (0x2C00 + 384 * n) 384)
    k := (List.range w.vrc).map fun n => BitVec.ofNat 192 (rd (0x2C00 + 384 * w.vrc + 24 * n) 24)
    windows := []
    shared := []
    flights := []
    handler := false
    returning := none
    entry := none }

/-- Whether a frame can be read: mapped and not poisoned (R420). -/
def State.frameReadable (s : State) (ctx base n : Nat) : Bool := (s.deviceRead ctx base n).isSome

/-- Reads part of a frame. -/
def State.frameRead (s : State) (ctx base : Nat) (off n : Nat) : Nat := (s.deviceRead ctx (base + off) n).getD 0

/-! ## Taking an exception (R393, R396) -/

/-- REASON of a batch (R411). -/
def reasonOf (r : FaultRec) : Nat :=
  if r.code = 0x38 then 0x01 else if r.code = 0x39 then 0x02 else if r.code = 0x3A || r.code = 0x3B then 0x03 else 0x04

/-- Waits of an issued instruction that has neither completed nor parked (R393 step 1). -/
def Wait.inFlight : Wait → Bool
  | .remote _ => true
  | .copy _ => true
  | .tfence _ => true
  | .migration _ => true
  | _ => false

/-- Waits that hold back handler entry: those, and a sleep, which only a pre-emption ends early (R267). -/
def Wait.holdsEntry : Wait → Bool
  | .sleep _ => true
  | x => x.inFlight

/-- Whether every issued instruction of a warp has completed or parked; a WAITV that has read its comparand waits again later (R335). -/
def Warp.drained (w : Warp) : Bool := (w.liveSlices.all fun i => !(w.slice i).wait.holdsEntry) && w.flights.all Flight.value

/-- Whether an access that a warp issued is still outstanding, posted writes apart. -/
def State.hasAccess (s : State) (core slot : Nat) : Bool :=
  s.eng.pend.any fun o => !o.write && o.copy = 0 && o.core = core && o.slot = slot && !o.answered

/-- Whether a product of a warp has not completed. -/
def State.hasProducts (s : State) (core slot : Nat) : Bool := s.eng.products.any fun p => p.core = core && p.slot = slot && !p.done

/-- A core's L1 without the lines of `n` bytes of storage at a context's address, which the device has written for it to read (R393, R466). -/
def State.dropSpan (s : State) (core ctx va n : Nat) : State :=
  let spans := (s.deviceSpan ctx va n false).getD []
  s.l1Keep fun x => !(x.core = core && spans.any fun p => p.2.1 < 128 * x.pa + 128 && 128 * x.pa < p.2.1 + p.2.2)

/-- Where a batch of `n` records of a context is written now: its queue's header and its records (R406). -/
def State.batchSpans (s : State) (ctx n : Nat) : List (Nat × Nat) :=
  match s.ctx? ctx with
  | none => []
  | some c => match s.deviceRead ctx c.fqhdr 128 with
    | none => []
    | some h => (c.fqhdr, 128) :: (List.range n).map fun i => ((natBits h 0 64 + (natBits h 512 32 + i) % natBits h 64 32 * 48) % 2 ^ 64, 48)

/-- The warp as handler entry makes it: one hood of all its live slices at `%tvec` (R393 steps 4 and 5). What was parked stands in
the frame's log, from which TRET takes it back (log entry 30). -/
def Warp.atHandler (w : Warp) : Warp :=
  let live := w.liveSlices
  let m := w.liveLanes
  let w := w.mapSlices fun _ sl => if sl.live then { sl with pc := w.tvec, hood := keyOf live, wait := .run, tgt := true } else sl
  { w with
    s := ((w.s.set 125 (m.extractLsb' 0 32)).set 126 (m.extractLsb' 32 32)).set 127 (m.extractLsb' 64 32)
    handler := true, entry := none, windows := [], shared := [], flights := [], returning := none, log := List.replicate 8 {} }

/-- Completes a pending handler entry once the warp has drained and its products have completed (R393); in handler mode, or with no handler,
the warp halts and the frame is not rewritten (R396). The handler's loads see the frame and the records (R393, R466): it begins once those
stand in storage, which the host may have to give up first (R450). -/
def State.tryEntry (s : State) (core slot : Nat) : State :=
  match s.warp? core slot with
  | none => s
  | some w =>
    match w.entry with
    | none => s
    | some e =>
      let frame := (((s.ctx? w.ctx).map fun c => c.warpSlot w.frameSlot).getD 0, frameBytes w.vrc)
      if e.written then
        (if s.hub.late.isEmpty then (s.setWarp { w with entry := none }).l1Flush core else s)
      else if !w.drained || s.hasAccess core slot || s.hasProducts core slot then s
      else
        let seen := s.batchSpans w.ctx e.recs.length
        let s := s.writeBatch w.ctx (.warp core slot) e.recs
        if w.handler || w.tvec = 0 then s.setWarp { w with halted := true, entry := none }
        else
          match s.writeFrame w e.reason e.pc with
          | .error e => s.lose w.ctx core slot e
          | .ok s => ((frame :: seen).foldl (fun s x => s.dropSpan core w.ctx x.1 x.2) s).modWarp core slot fun _ =>
              if s.hub.late.isEmpty then w.atHandler else { w.atHandler with entry := some { e with written := true } }

/-- More records of one entry, in the order of their lowest lanes; its REASON and FAULT_PC follow the first (R404, R411). -/
def Entry.join (e : Entry) (recs : List FaultRec) : Entry :=
  let low := fun (r : FaultRec) => (LaneMask.lowest r.lanes).getD 96
  match (e.recs ++ recs).insertionSort fun a b => low a ≤ low b with
  | [] => e
  | r :: rest => { recs := r :: rest, reason := reasonOf r, pc := r.pc, written := e.written }

/-- A fault with outcome H, a trap or a breakpoint of a warp: its records join the pending entry, which takes place as soon as it can
(R393). -/
def State.raise (s : State) (core slot : Nat) (recs : List FaultRec) (reason : Nat) (pc : DWord) : State :=
  let s := s.modWarp core slot fun w =>
    { w with entry := some (w.entry.elim { recs := recs, reason := reason, pc := pc } fun e => e.join recs) }
  s.tryEntry core slot

/-- Raises records whose REASON is that of the first (R411). -/
def State.raiseRecs (s : State) (core slot : Nat) (recs : List FaultRec) (pc : DWord) : State :=
  match recs with
  | [] => s
  | r :: _ => s.raise core slot recs (reasonOf r) pc

end Sys2Proof.Machine
end

