-- ==== Sys2Proof/Machine/Mx.lean ====
section
/-! DEFINITION. Microscaling: where elements and scales sit (R70 to R72), quantising a block (R80, R81, R315, R316) and
dequantising an element (R82). -/

namespace Sys2Proof.Machine

open Sys2Proof

/-- Exponent of the largest normal power of two of an MX element format (R69). -/
def emaxOf (ty : Nat) : Int :=
  match ty with | 0x0C => 8 | 0x0D => 15 | 0x0F => 4 | _ => 2

/-- FP6 and FP4 formats have no NaN (R68). -/
def noNanFmt (ty : Nat) : Bool := ty = 0x0E || ty = 0x0F || ty = 0x10

/-- Elements of a lane of an MX type: 8 for e2m1, else 4 (R65, R72). -/
def perLane (ty : Nat) : Nat := if ty = 0x10 then 8 else 4

/-- Width of an element's container in a lane (R70, R72). -/
def slotBits (ty : Nat) : Nat := if ty = 0x10 then 4 else 8

/-- Bits of an element that carry its value: a padded FP6 element ignores bits [7:6] (R70). -/
def elemBits (ty b : Nat) : Nat := b % 2 ^ (fmtOf ty).width

/-- Blocks of a register (R72). -/
def blocksPerReg (ty : Nat) : Nat := if ty = 0x10 then 24 else if ty = 10 || ty = 11 then 6 else 12

/-- Lane of the warp and part of the lane that hold element `i` of block `b` of a register (R72). -/
def regPos (ty b i : Nat) : Nat × Nat :=
  if ty = 0x10 then (32 * (b / 8) + 4 * (b % 8) + i / 8, i % 8)
  else if ty = 10 || ty = 11 then (32 * (b / 2) + 16 * (b % 2) + i / 2, i % 2)
  else (32 * (b / 4) + 8 * (b % 4) + i / 4, i % 4)

/-- Byte of the k register that holds the scale of block `b` (R72). -/
def scalePos (ty b : Nat) : Nat := if ty = 0x10 then b else 8 * (b / 4) + b % 4

/-- Blocks of a tagged line (R71). -/
def blocksPerLine (ty : Nat) (tight : Bool) : Nat := if tight then 5 else if ty = 0x10 then 8 else 4

/-- Bit of a line at which element `i` of block `t` begins (R71). -/
def lineBit (ty : Nat) (tight : Bool) (t i : Nat) : Nat :=
  if tight then 6 * (32 * t + i) else if ty = 0x10 then 4 * (32 * t + i) else 8 * (32 * t + i)

/-- Bits of an element's container in a line. -/
def lineSlot (ty : Nat) (tight : Bool) : Nat := if tight then 6 else slotBits ty

/-- The value of an MX element (R68). -/
def mxValue (ty b : Nat) : FV := fdecode (fmtOf ty) false (elemBits ty b)

/-- A value times a power of two. -/
def FV.scale (k : Int) : FV → FV
  | .fin s m e => .fin s m (e + k)
  | x => x

/-- The NaN element of E4M3 or E5M2 (R80, R67). -/
def nanElem (ty : Nat) (v : FEnv) (x : FV) : Nat :=
  if v.nanp then
    (if ty = 0x0C then fsign fE4M3 x.sign + 0x7F else nanBits fE5M2 v [x])
  else fnan (fmtOf ty)

/-- One element of a block under scale code `c` (R80). -/
def quantElem (ty : Nat) (v : FEnv) (c : Nat) (x : FV) : FRes :=
  let F := fmtOf ty
  match x with
  | .nan .. => (nanElem ty v x, ivOf [x])
  | .inf s => if ty = 0x0D && !v.satf then (finf F s, 0) else (fmax F s, flMXSAT + flNX)
  | .fin s m e =>
    let e := e - ((c : Int) - 127)
    if m = 0 then (fsign F s, 0)
    else
      let v := if v.rm = 6 && magGt m e F.maxM F.maxE then { v with rm := 1 } else v
      let r := roundMag F v s m e false
      if magGt r.n r.q F.maxM F.maxE then
        if ty = 0x0D && !v.satf then (overflowBits F v.rm s, flOF + flNX) else (fmax F s, flMXSAT + flNX)
      else (fpack F s r.n r.q, (if r.inexact then flNX else 0) + (if r.inexact && r.tiny then flUF else 0))

/-- The magnitude of a value. -/
def FV.abs : FV → FV
  | .nan _ g f b => .nan false g f b
  | .inf _ => .inf false
  | .fin _ m e => .fin false m e

/-- Largest magnitude of the values that are no NaN; none when there is none (R81). -/
def amaxOf (l : List FV) : Option FV :=
  l.foldl (fun a x => if x.isNan then a else match a with
    | none => some x.abs
    | some y => some (if cmpFV y x.abs < 0 then x.abs else y)) none

/-- The scale code of an amax that is not zero (R81). -/
def codeOfAmax (ty : Nat) : FV → Nat
  | .inf _ => 0xFE
  | .fin _ m e => (max ((Nat.log2 m : Int) + e - emaxOf ty) (-127) + 127).toNat
  | .nan .. => 0

/-- A quantised block: scale code, each element's code and flags, and flags of the block itself. -/
structure QBlock where
  code  : Nat
  elems : List FRes
  flags : Nat := 0
deriving DecidableEq, Repr

/-- The block under one scale code: each value comes with its random bits (R74, R80). -/
def quantUnder (ty : Nat) (v : FEnv) (c : Nat) (xs : List (FV × Nat)) : List FRes :=
  xs.map fun x => quantElem ty { v with u := x.2 } c x.1

/-- The search score of a candidate (R316): FP64 bits. -/
def searchScore (ty : Nat) (v : FEnv) (c : Nat) (xs : List (FV × Nat)) : Nat :=
  xs.foldl (fun acc x =>
    if x.1.isNan then acc
    else
      let q := (mxValue ty (quantElem ty { v with u := x.2 } c x.1).1).scale ((c : Int) - 127)
      let dif := (addFV fF64 {} x.1 q.neg).1
      (fAdd fF64 {} acc (fMul fF64 {} dif dif).1).1) 0

/-- Search scaling's choice among e0 − 1, e0 and e0 + 1 (R316). A score that is infinite or no number is no less than any. -/
def searchCode (ty : Nat) (v : FEnv) (e0 : Nat) (xs : List (FV × Nat)) : Nat :=
  let cands := [e0, e0 + 1] ++ (if e0 = 0 then [] else [e0 - 1])
  let scored := (cands.filter (· ≤ 0xFE)).map fun c =>
    let s := searchScore ty v c xs
    (c, if 0x7FF0000000000000 ≤ s then 0x7FF0000000000000 else s)
  (scored.foldl (fun (best : Option (Nat × Nat)) x => match best with
    | none => some x
    | some b => if x.2 < b.2 then some x else some b) none).elim e0 (·.1)

/-- How a block's scale is chosen (R315); delayed scaling carries the ring's high value when the ring is not empty. -/
inductive ScaleMode
  | cur
  | dly (h : Option Nat)
  | srch
deriving DecidableEq, Repr

/-- Quantises a block of values in element order, each with its random bits (R80, R81, R315, R316). -/
def quantBlock (ty : Nat) (v : FEnv) (mode : ScaleMode) (xs : List (FV × Nat)) : QBlock :=
  let vals := xs.map (·.1)
  if noNanFmt ty && vals.any FV.isNan then
    { code := 0xFF, elems := xs.map fun _ => (0, 0), flags := flMXNAN }
  else
    match amaxOf vals with
    | none => { code := 0, elems := quantUnder ty v 0 xs }
    | some a =>
      if a.isZero then
        { code := 0, elems := xs.map fun x => if x.1.isNan then quantElem ty v 0 x.1 else (0, 0) }
      else
        let e0 := codeOfAmax ty a
        let srch := match a with | .inf _ => e0 | _ => searchCode ty v e0 xs
        let fall : QBlock := { code := srch, elems := quantUnder ty v srch xs, flags := flMXFALL }
        match mode with
        | .cur => { code := e0, elems := quantUnder ty v e0 xs }
        | .srch => { code := srch, elems := quantUnder ty v srch xs }
        | .dly h =>
          match h.map (fdecode fF32 false) with
          | none => fall
          | some hv =>
            if hv.isZero then fall
            else
              let c := codeOfAmax ty hv
              let F := fmtOf ty
              if 0 < cmpFV a (.fin false F.maxM (F.maxE + ((c : Int) - 127))) then fall
              else { code := c, elems := quantUnder ty v c xs }

/-- One element delivered to FP32, BF16 or FP16 (R82): an FP32 result rounds only on overflow, to ±∞ under every rounding. That a signalling
NaN element raises nothing is the model's choice (log entry 52). -/
def dequantElem (ty dst : Nat) (v : FEnv) (scale b : Nat) : FRes :=
  let G := fmtOf dst
  if scale = 0xFF then (fnan G, 0)
  else match mxValue ty b with
    | .nan .. => (fnan G, 0)
    | .inf s => (finf G s, 0)
    | .fin s m e => roundFin G (if dst = 8 then { v with rm := 1 } else v) s m (e + ((scale : Int) - 127)) false

end Sys2Proof.Machine
end

