-- ==== Sys2Proof/Machine/MatrixOps.lean ====
section
/-! DEFINITION. The arithmetic of matrix products (R86, R87), where their operands lie (R376 to R378, R381), and what the warp sees of
an accumulator while its product runs (R386). -/

namespace Sys2Proof.Machine

open Sys2Proof

/-! ## Exact sums -/

/-- The exact sum of products, times 2^`sh`, rounded once to FP32 (R86, R87); a product that is NaN, 0 × ∞, or infinities of both
signs give NaN. A sum that is exactly zero is −0 where every product is −0, else +0 (log entry 61). -/
def sumProducts (l : List (FV × FV)) (sh : Int) : FRes :=
  if l.any fun x => x.1.isNan || x.2.isNan then nanRes fF32 {} (l.flatMap fun x => [x.1, x.2])
  else
    let ps := l.map fun x => mulExact x.1 x.2
    if ps.any Option.isNone then invalid fF32
    else
      let xs := ps.filterMap id
      let inf := fun (s : Bool) => xs.any fun x => match x with | .inf t => t = s | _ => false
      if inf true && inf false then invalid fF32
      else if inf true || inf false then (finf fF32 (inf true), 0)
      else
        let fins := xs.filterMap fun x => match x with | .fin s m e => some (s, m, e) | _ => none
        let lo := fins.foldl (fun b x => if x.2.1 = 0 then b else min b x.2.2) 4096
        let total := (fins.map fun x => if x.2.1 = 0 then 0 else signedAt x.1 x.2.1 x.2.2 lo).sum
        if total = 0 then (fsign fF32 (!fins.isEmpty && fins.all fun x => x.1 && x.2.1 = 0), 0)
        else roundFin fF32 {} (total < 0) total.natAbs (lo + sh) false

/-- One block of an MMA (R86): its 32 products under the two scale codes. A block under a 0xFF scale raises nothing, whatever its
elements are; beside a NaN element a 0 × ∞ product raises nothing (log entry 52). -/
def blockSum (l : List (FV × FV)) (sa sb : Nat) : FRes :=
  if sa = 0xFF || sb = 0xFF then (fnan fF32, 0) else sumProducts l ((sa : Int) + sb - 254)

/-! ## Shapes -/

/-- The fields of MSHAPE (R373). -/
def shM (x : DWord) : Nat := (x.extractLsb' 0 7).toNat
def shN (x : DWord) : Nat := (x.extractLsb' 7 7).toNat
def shK (x : DWord) : Nat := (x.extractLsb' 14 11).toNat
def shAty (x : DWord) : Nat := (x.extractLsb' 32 5).toNat
def shBty (x : DWord) : Nat := (x.extractLsb' 37 5).toNat

/-- A matrix type with 16-bit elements. -/
def isHalf (ty : Nat) : Bool := ty = 0x0A || ty = 0x0B

/-- Rows of a block of A in one register (R373). -/
def rprOf (ty : Nat) : Nat := if isHalf ty then 6 else blocksPerReg ty

/-- Blocks of a B line (R373). -/
def bplOf (ty : Nat) : Nat := if isHalf ty then 2 else blocksPerLine ty false

/-- K blocks of an MMA. -/
def Product.blocks (p : Product) : Nat := shK p.mshape / 32

/-- Bytes of an element of a DMMA (R381). -/
def Product.elem (p : Product) : Nat := if shAty p.mshape = 9 then 8 else 4

/-- Steps of one element's sum: blocks, groups of eight, or single products (R86, R87). -/
def Product.steps (p : Product) : Nat :=
  if !p.double then p.blocks else if shAty p.mshape = 9 then shK p.mshape else shK p.mshape / 8

/-- Registers of the A span (R376). -/
def Product.aSpan (p : Product) : List Nat :=
  if p.double || shM p.mshape = 0 || shK p.mshape = 0 then []
  else (List.range (p.blocks * (96 / rprOf (shAty p.mshape)))).map (p.a + ·)

/-- Whether D's elements are pairs. -/
def Product.pair (p : Product) : Bool := p.double && shAty p.mshape = 9

/-- Registers of the D span (R378). -/
def Product.dSpan (p : Product) : List Nat :=
  if shM p.mshape = 0 || shN p.mshape = 0 then [] else (List.range (shN p.mshape * if p.pair then 2 else 1)).map (p.d + ·)

/-- Bytes of a column of B that an MMA reads (R377). -/
def colBytes (bty k : Nat) : Nat := 128 * ((k / 32 + bplOf bty - 1) / bplOf bty)

/-- The lines of the block's scratchpad that a product reads. -/
def Product.lineNumbers (p : Product) : List Nat :=
  if shK p.mshape = 0 || p.rows = 0 then []
  else
    let span := fun (a n : Nat) => (List.range ((a + n - 1) / 128 + 1 - a / 128)).map (a / 128 + ·)
    let cols := fun (n : Nat) => (List.range (shN p.mshape)).flatMap fun j => span (p.b + j * p.sb) n
    if p.double then
      ((List.range (shM p.mshape)).flatMap fun i => span (p.a + i * p.sa) (shK p.mshape * p.elem)) ++ cols (shK p.mshape * p.elem)
    else cols (colBytes (shBty p.mshape) (shK p.mshape))

/-! ## Operands as the unit holds them -/

/-- A register the unit holds. -/
def Product.reg (p : Product) (r : Nat) : VReg × KReg := (p.regs.lookup r).getD (0, 0)

/-- A line the unit holds. -/
def Product.line (p : Product) (l : Nat) : OperandLine := (p.lines.find? fun x => x.line = l).getD { line := l, data := 0, tag := 0 }

/-- `n` bytes at an offset of the block's scratchpad, within one line. -/
def Product.bytes (p : Product) (o n : Nat) : Nat := (p.line (o / 128)).data.toNat / 256 ^ (o % 128) % 256 ^ n

/-- Whether a word of `n` bytes at an offset is poisoned. -/
def Product.bad (p : Product) (o n : Nat) : Bool :=
  (List.range ((o % 128 + n - 1) / 4 + 1 - o % 128 / 4)).any fun i => (p.line (o / 128)).poison.getLsbD (o % 128 / 4 + i)

/-- Element `j` of row `i` in block `c` of A (R376). -/
def Product.aElem (p : Product) (i c j : Nat) : FV :=
  let ty := shAty p.mshape
  let r := p.reg (p.a + c * (96 / rprOf ty) + i / rprOf ty)
  let at_ := regPos ty (i % rprOf ty) j
  let w := (r.1.extractLsb' (32 * at_.1) 32).toNat
  if isHalf ty then fdecode (fmtOf ty) false (w / 2 ^ (16 * at_.2) % 2 ^ 16) else mxValue ty (w / 2 ^ (slotBits ty * at_.2) % 2 ^ slotBits ty)

/-- The scale of row `i` in block `c` of A. -/
def Product.aScale (p : Product) (i c : Nat) : Nat :=
  let ty := shAty p.mshape
  if isHalf ty then 127
  else ((p.reg (p.a + c * (96 / rprOf ty) + i / rprOf ty)).2.extractLsb' (8 * scalePos ty (i % rprOf ty)) 8).toNat

/-- The line offset of block `c` of column `n` of B. -/
def Product.bLine (p : Product) (n c : Nat) : Nat := p.b + n * p.sb + 128 * (c / bplOf (shBty p.mshape))

/-- Element `j` of column `n` in block `c` of B (R377). -/
def Product.bElem (p : Product) (n c j : Nat) : FV :=
  let ty := shBty p.mshape
  let t := c % bplOf ty
  let d := (p.line (p.bLine n c / 128)).data.toNat
  if isHalf ty then fdecode (fmtOf ty) false (d / 2 ^ (512 * t + 16 * j) % 2 ^ 16)
  else mxValue ty (d / 2 ^ lineBit ty false t j % 2 ^ slotBits ty)

/-- The scale of column `n` in block `c` of B. -/
def Product.bScale (p : Product) (n c : Nat) : Nat :=
  let ty := shBty p.mshape
  if isHalf ty then 127 else ((p.line (p.bLine n c / 128)).tag.extractLsb' (8 * (c % bplOf ty)) 8).toNat

/-- Bytes of a B line that one block takes. -/
def blockBytes (ty : Nat) : Nat := 128 / bplOf ty

/-- Whether an element of D depends on a poisoned word (R380, R381). -/
def Product.poisoned (p : Product) (i n : Nat) : Bool :=
  if p.double then
    (List.range (shK p.mshape)).any fun k => p.bad (p.a + i * p.sa + k * p.elem) p.elem || p.bad (p.b + n * p.sb + k * p.elem) p.elem
  else
    let ty := shBty p.mshape
    (List.range p.blocks).any fun c => p.bad (p.bLine n c + c % bplOf ty * blockBytes ty) (blockBytes ty)

/-- Step `j` of element (i, n) from an accumulator (R86, R87). -/
def Product.step (p : Product) (i n j acc : Nat) : FRes :=
  let dec := fun (x : Nat) => fdecode fF32 false x
  let a := fun (k : Nat) => p.bytes (p.a + i * p.sa + k * p.elem) p.elem
  let b := fun (k : Nat) => p.bytes (p.b + n * p.sb + k * p.elem) p.elem
  if !p.double then
    let t := blockSum ((List.range 32).map fun e => (p.aElem i j e, p.bElem n j e)) (p.aScale i j) (p.bScale n j)
    let r := fAdd fF32 {} acc t.1
    (r.1, r.2 ||| t.2)
  else if shAty p.mshape = 9 then fFma fF64 {} (a j) (b j) acc
  else
    let t := sumProducts ((List.range 8).map fun e => (dec (a (8 * j + e)), dec (b (8 * j + e)))) 0
    let r := fAdd fF32 {} acc t.1
    (r.1, r.2 ||| t.2)

/-- Steps `lo` to `lo + cnt − 1` of element (i, n): value and flags. A poisoned operand makes it a canonical NaN (R380). -/
def Product.run (p : Product) (i n acc lo cnt : Nat) : FRes :=
  if p.poisoned i n then (fnan (if p.pair then fF64 else fF32), 0)
  else (List.range cnt).foldl (fun r j => let x := p.step i n (lo + j) r.1; (x.1, x.2 ||| r.2)) (acc, 0)

/-- Element (i, n) of D among registers. -/
def Product.dElem (p : Product) (get : Nat → VReg) (i n : Nat) : Nat :=
  if p.pair then (VReg.lane (get (p.d + 2 * n)) i).toNat + (VReg.lane (get (p.d + 2 * n + 1)) i).toNat * 2 ^ 32
  else (VReg.lane (get (p.d + n)) i).toNat

/-- Element (i, n) of D as the product found it. -/
def Product.dStart (p : Product) (i n : Nat) : Nat := p.dElem (fun r => (p.reg r).1) i n

/-- Where the sum of element (i, n) begins. -/
def Product.acc0 (p : Product) (i n : Nat) : Nat := if p.acc then p.dStart i n else 0

/-! ## Contents that the unit may find (R136, R384, R386) -/

/-- Whether a write of a register by the warp is one that no MFENCE before the product has ordered, in lane `l`. -/
def Product.unfenced (p : Product) (e : RegPast) (l : Nat) : Bool := e.lanes.getLsbD l && p.fences.getD (l / 4) 0 ≤ e.at_

/-- The contents that the unit may find in register `r` of the A span: the current ones, and those before each write that no MFENCE has
ordered before the product. Writes by an earlier product are always found (R382). -/
def Product.contents (p : Product) (w : Warp) (r : Nat) : List (VReg × KReg) :=
  ((w.past.filter fun e => e.n = r).takeWhile fun e => !e.unit).foldl (fun l e =>
    let x := l.headD (0, 0)
    let m := LaneMask.ofFn (p.unfenced e)
    if m = 0 then l else (VReg.write x.1 m fun i => VReg.lane (e.v.getD x.1) i, e.k.getD x.2) :: l) [(w.getV r, w.getK r)]

/-- A register of the A span as the unit read it: each beat, with its scale bytes, from one of its contents. -/
def readBeats (free salt : Nat) (l : List (VReg × KReg)) : VReg × KReg :=
  (List.range 3).foldl (fun r j =>
    let x := pickOf free (salt + j) (0, 0) l
    let m : VReg := (BitVec.allOnes 1024).setWidth 3072 <<< (1024 * j)
    let k : KReg := (BitVec.allOnes 64).setWidth 192 <<< (64 * j)
    (r.1 ||| (x.1 &&& m), r.2 ||| (x.2 &&& k))) (0, 0)

/-- Whether the product may miss a write of a scratchpad line: no MFENCE before the product has ordered it, of a store by the product's warp no
MFENCE of the hood that made it (R136, R384), of any other write none of the live slices that executed MFENCE first (log entry 53). -/
def Product.mayMiss (p : Product) (x : PastWrite) : Bool :=
  match x.by_ with
  | some (core, slot, lanes) =>
    if core = p.core && slot = p.slot then (LaneMask.lanes lanes).any fun l => p.fences.getD (l / 4) 0 ≤ x.at_ else p.fence ≤ x.at_
  | none => p.fence ≤ x.at_

/-- A line with one more write made. -/
def OperandLine.after (a : OperandLine) (x : PastWrite) : OperandLine :=
  { a with data := LineData.merge a.data x.data x.mask, tag := x.tag.getD a.tag
           poison := if x.mask = BitVec.allOnes 128 then x.newPoison else a.poison }

/-- Line `l` of the block's scratchpad, which begins at line `origin`, as the unit reads it: of the writes that the product may miss, each is
there or not, as `see` says of its place among them (R136, R483). -/
def State.lineWith (s : State) (p : Product) (origin l : Nat) (see : Nat → Bool) : OperandLine :=
  let now : OperandLine :=
    { line := l, data := s.store.line (origin + l), tag := s.store.tag (origin + l), poison := s.store.poisonMask (origin + l) }
  match (s.store.past.filter fun x => x.line = origin + l).dropWhile fun x => !p.mayMiss x with
  | [] => now
  | x :: rest =>
    let ws := (x :: rest).zipIdx.filter fun y => !p.mayMiss y.1 || see y.2
    if ws.length = rest.length + 1 then now
    else ws.foldl (fun a y => a.after y.1) { line := l, data := x.oldData, tag := x.oldTag, poison := x.oldPoison }

/-- The product with the operands that the unit has read. -/
def State.readProduct (s : State) (p : Product) (w : Warp) : Product :=
  let origin := ((s.blockOf? w).map fun b => scratchKey b.core b.base / 128).getD 0
  { p with
    regs := p.regs ++ p.aSpan.map fun r => (r, readBeats s.free (20000 + 4 * r) (p.contents w r))
    lines := p.lineNumbers.dedup.map fun l => s.lineWith p origin l fun i => Config.pick s.free (2 ^ 52 + l * 2 ^ 20 + i) % 2 = 0 }

/-- The warp's writes to register `r` since the product was accepted, newest first. -/
def Product.since (p : Product) (w : Warp) (r : Nat) : List RegPast :=
  (w.past.filter fun e => e.n = r && e.v.isSome).takeWhile fun e => p.at_ < e.at_

/-- Register `r` of the D span as the unit finds it: what the warp has written since the product was accepted, and since an earlier product
wrote it, is not in it (R382, R386). -/
def Product.found (p : Product) (w : Warp) (r : Nat) : VReg :=
  match ((p.since w r).takeWhile fun e => !e.unit).getLast? with
  | some e => e.v.getD 0
  | none => w.getV r

/-- The registers that hold element (i, n) of D. -/
def Product.dRegs (p : Product) (n : Nat) : List Nat := if p.pair then [p.d + 2 * n, p.d + 2 * n + 1] else [p.d + n]

/-- The values that the warp has written to element (i, n) of D since the product was accepted. -/
def Product.writes (p : Product) (w : Warp) (i n : Nat) : List Nat :=
  let read := fun (get : Nat → VReg) => p.dElem get i n
  let stamps := ((p.dRegs n).flatMap fun r => ((p.since w r).filter fun e => !e.unit && e.lanes.getLsbD i).map RegPast.at_).dedup
  stamps.map fun t => read fun r =>
    match ((p.since w r).takeWhile fun e => t < e.at_).getLast? with
    | some e => e.v.getD 0
    | none => w.getV r

/-- Writes element values into the D span in the computed rows. -/
def Product.putD (p : Product) (w : Warp) (g : Nat → Nat → Nat) : Warp :=
  if p.dSpan.isEmpty then w
  else (List.range (shN p.mshape)).foldl (fun w n =>
    if p.pair then w.setV64 (p.d + 2 * n) p.rows fun i => BitVec.ofNat 64 (g i n)
    else w.setV (p.d + n) p.rows fun i => BitVec.ofNat 32 (g i n)) w

/-! ## What the warp sees of D while the product runs (R386) -/

/-- A value of element (i, n) that a read may return: D before the product, or the accumulator after any number of steps, none among
them. An element that has been written since shows what was written (log entry 22). -/
def Product.seen (p : Product) (free : Nat) (w : Warp) (i n : Nat) : Nat :=
  let k := Config.pick free (8000 + 96 * n + i) % (p.steps + 2)
  if !(p.writes w i n).isEmpty then p.dElem w.getV i n
  else if k = 0 then p.dStart i n
  else (p.run i n (p.acc0 i n) 0 (k - 1)).1

/-- The products of a warp that are running. -/
def State.running (s : State) (core slot : Nat) : List Product :=
  s.eng.products.filter fun p => p.core = core && p.slot = slot && p.started && !p.done

/-- A warp's registers as a read sees them while products of it run. -/
def State.viewProducts (s : State) (w : Warp) : Warp :=
  (s.running w.core w.slot).foldl (fun a p => p.putD a ((s.readProduct p w).seen s.free w)) w

end Sys2Proof.Machine
end

