-- ==== Sys2Proof/Machine/Operands.lean ====
section
/-! DEFINITION. How an instruction issues (R171, R176, R238), how its operands are read (R228 to R231), what may hold it back
(R100, R104), lookahead and pairing windows (R236, R237), and parking in the operand log (R100, R101). -/

namespace Sys2Proof.Machine

open Sys2Proof

/-! ## The issuing instruction -/

/-- An instruction as one hood issues it: the state, the warp, the hood's key and lanes, the active set and the PC. `w` is where
sources are read: its registers stand as the instruction sees them (R102, R236, R386), those of the state as they are. -/
structure Issue where
  s     : State
  w     : Warp
  hood  : Nat
  opc   : Nat
  form  : Form
  lanes : LaneMask
  act   : LaneMask
  pc    : DWord
  sent  : List Piece := []
  retry : Bool := false     -- performed again from the operand log (R102)
  paired : Bool := false    -- has waited with its PAIR bit set (R237)
  aloft : Bool := false     -- goes on after a wait inside its window (R427)

/-- How an instruction's performance ends. -/
inductive Res
  | next (s : State)                              -- complete; the hood goes on at the next PC
  | jump (s : State)                              -- complete; the PCs are set
  | stall                                         -- held back: nothing has happened
  | again (s : State)                             -- held back; what it asked for meanwhile is in the state
  | hold (s : State)                              -- waits, as the state says
  | fault (s : State) (recs : List FaultRec)      -- handler mode at the instruction
  | trap (s : State) (recs : List FaultRec)       -- complete, then handler mode; resumes after it
  | park (s : State) (recs : List FaultRec)       -- parks (R100)
  | parkSome (s : State) (recs : List FaultRec) (act : LaneMask)  -- parks for some lanes: the others have been performed (R107)
  | fly (s : State) (x : Flight)                  -- waits, while its lookahead window lets the hood go on (R335, R427)
deriving Repr

/-- The hood that issues: resident, live, not waiting, its warp neither halted, entering a handler nor stopped (R186, R216). -/
def State.issuer? (s : State) : Option Warp :=
  match s.warp? s.cur.core s.cur.slot with
  | none => none
  | some w =>
    let l := w.hoodSlices s.cur.hood
    if l.isEmpty || w.halted || s.startUntaken w.gang || w.entry.isSome || (w.stopping && !w.handler) || w.returning.any (· ≠ s.cur.hood) then none
    else if l.all fun i => (w.slice i).wait = .run then some w else none

/-- What decoding knows of a warp (R168, R241). -/
def State.envOf (s : State) (w : Warp) : DecodeEnv :=
  { vrc := w.vrc, src := w.src, system := (s.ctx? w.ctx).any Context.system, handler := w.handler }

/-- A record of the issuing hood (R238): its mask holds the lanes of the hood's live slices. -/
def Issue.record (c : Issue) (x : Cause) (lanes : LaneMask) (va : DWord := 0) : FaultRec :=
  { code := x.1, sub := x.2, lanes := lanes, pc := c.pc, va := va }

/-- A fault charged to the active set. -/
def Issue.bad (c : Issue) (x : Cause) : Res := .fault c.s [c.record x c.act]

/-- A fault charged to the lanes of the hood's live slices. -/
def Issue.badHood (c : Issue) (x : Cause) (va : DWord := 0) : Res := .fault c.s [c.record x c.lanes va]

/-- The lowest active lane, for which a scalar access is performed (R121, R176). -/
def Issue.lane (c : Issue) : Nat := (LaneMask.lowest c.act).getD 0

/-- Whether the active set is empty. -/
def Issue.idle (c : Issue) : Bool := c.act = 0

/-- Writes the issuing warp's registers in the state. -/
def Issue.put (c : Issue) (g : Warp → Warp) : State := c.s.modWarp c.w.core c.w.slot g

/-- Completes with a change of the issuing warp's registers. -/
def Issue.done (c : Issue) (g : Warp → Warp) : Res := .next (c.put g)

/-! ## Reading operands -/

/-- A constant's bits under a type (R229), 64 bits wide. -/
def constBits (ty : Nat) (o : Operand) : Nat :=
  match o with
  | .int x =>
    if ty = 8 then floatOfInt fF32 x
    else if ty = 9 then floatOfInt fF64 x
    else if ty = 10 then floatOfInt fF16 x * 0x10001
    else if ty = 11 then floatOfInt fBf16 x * 0x10001
    else if ty = 4 || ty = 5 then ofInteger 16 x * 0x10001
    else if ty = 6 || ty = 7 then ofInteger 8 x * 0x01010101
    else ofInteger 64 x
  | .flt n =>
    if ty = 8 then floatConst fF32 n
    else if ty = 9 then floatConst fF64 n
    else if ty = 10 then floatConst fF16 n * 0x10001
    else if ty = 11 then floatConst fBf16 n * 0x10001
    else 0
  | _ => 0

/-- IMM32 under a type (R230). An f32 NaN pattern read as f64 is the canonical NaN (log entry 60). -/
def immBits (ty : Nat) (imm : BitVec 32) : Nat :=
  if ty = 2 then (imm.signExtend 64).toNat
  else if ty = 9 then (fToF fF32 fF64 {} imm.toNat).1
  else imm.toNat

/-- Narrows to 32 bits unless the position is wide. -/
def narrow (wide : Bool) (x : Nat) : Nat := if wide then x % 2 ^ 64 else x % 2 ^ 32

/-- A scalar source (R228, R229). -/
def Issue.scalar (c : Issue) (f : BitVec 10) (wide : Bool) (ty : Nat) : Nat :=
  match operand f with
  | .s n => if wide then (c.w.getS64 n).toNat else (c.w.getS n).toNat
  | o => narrow wide (constBits ty o)

/-- A vector source in one lane (R229). -/
def Issue.vector (c : Issue) (f : BitVec 10) (wide : Bool) (ty l : Nat) : Nat :=
  match operand f with
  | .v n => if wide then (c.w.getV64 n l).toNat else (VReg.lane (c.w.getV n) l).toNat
  | _ => c.scalar f wide ty

/-- The register number in a field. -/
def regNum (f : BitVec 10) : Nat := f.toNat % 256

/-- A k register. -/
def Issue.kreg (c : Issue) (f : BitVec 10) : KReg := c.w.getK (regNum f)

/-- A q register. -/
def Issue.qreg (c : Issue) (f : BitVec 10) : LaneMask := c.w.getQ (regNum f)

/-! ## Writing destinations -/

/-- Writes a scalar destination; none discards it (R228). -/
def Warp.putScalar (w : Warp) (lanes : LaneMask) (f : BitVec 10) (wide : Bool) (x : Nat) : Warp :=
  match operand f with
  | .s n => if wide then w.setS64 lanes n (BitVec.ofNat 64 x) else w.setS lanes n (BitVec.ofNat 32 x)
  | _ => w

/-- Writes a vector destination in the lanes of `m`. -/
def Warp.putVector (w : Warp) (m : LaneMask) (f : BitVec 10) (wide : Bool) (g : Nat → Nat) : Warp :=
  match operand f with
  | .v n =>
    if wide then w.setV64 n m fun l => BitVec.ofNat 64 (g l) else w.setV n m fun l => BitVec.ofNat 32 (g l)
  | _ => w

/-! ## Which registers an instruction names -/

/-- The operand fields of a form with their uses. -/
def fieldUses (opc : Nat) : Form → List (BitVec 10 × Use)
  | .a f => let o := specA opc f; [(f.d, o.d), (f.s1, o.s1), (f.s2, o.s2), (f.s3, o.s3), (f.s4, o.s4)]
  | .i f => let o := specI opc f; [(f.d, o.d), (f.s1, o.s1)]
  | .m f => let o := specM opc f; [(f.d, o.d), (f.a, o.s1), (f.s, o.s2)]
  | .b f => let o := specB opc; [(f.c, o.d)]
  | .x f => let o := specX opc f; [(f.d, o.d), (f.s1, o.s1), (f.s2, o.s2), (f.s3, o.s3), (f.s4, o.s4)]

/-- The registers a field names: class and number. -/
def fieldRegs (x : BitVec 10 × Use) : List (Cls × Nat) :=
  match x.2 with
  | .reg p =>
    let span := fun (c : Cls) (n : Nat) =>
      (List.range (Nat.max p.group (if p.wide && (c = .v || c = .s) then 2 else 1))).map fun i => (c, n + i)
    match operand x.1 with
    | .v n => span .v n | .s n => span .s n | .k n => span .k n | .q n => span .q n
    | _ => []
  | _ => []

/-- The link register's halves, which CALL writes and RET reads without naming them (R262, R263). -/
def linkRegs : List (Cls × Nat) := [(.s, 122), (.s, 123)]

/-- The registers that the destination fields of a form name. -/
def destFields (opc : Nat) (f : Form) : List (Cls × Nat) :=
  ((fieldUses opc f).filter fun x => match x.2 with | .reg p => p.dst | _ => false).flatMap fieldRegs

/-- The k registers of a list of v registers. -/
def kOf (l : List (Cls × Nat)) : List (Cls × Nat) := l.filterMap fun r => if r.1 = .v then some (.k, r.2) else none

/-- The registers an instruction reads or writes (R100); the line instructions and VQNT also name the k register of their v destination or
source, VDQNT those of its source. -/
def formRegs (opc : Nat) (f : Form) : List (Cls × Nat) :=
  let l := (fieldUses opc f).flatMap fieldRegs
  if opc = 0x0C4 || opc = 0x0C5 then l ++ kOf l
  else if opc = 0x095 then l ++ kOf (destFields opc f)
  else if opc = 0x096 then l ++ kOf (l.filter fun r => !(destFields opc f).contains r)
  else if opc = 0x004 || opc = 0x005 then l ++ linkRegs else l

/-- The spans that a matrix instruction of a warp names through its operands and MSHAPE (R376, R378). -/
def matrixSpan (w : Warp) (opc : Nat) (f : Form) : Product :=
  let x := fun (d a : Nat) =>
    ({ core := w.core, slot := w.slot, gang := w.gang, number := 0, double := opc = 0x144, acc := true, mshape := w.mshape, d := d, a := a,
       b := 0, sa := 0, sb := 0, rows := 0 } : Product)
  match f with
  | .x g => x (g.d.toNat % 256) (g.s1.toNat % 256)
  | _ => x 0 0

/-- The registers of MZERO's group (R385). -/
def zeroGroup (w : Warp) (f : FormA) : List Nat :=
  let wide : Bool := f.ty = 9
  let v := match operand f.s1 with | .s n => (w.getS n).toNat | .int x => x.toNat | _ => 0
  (List.range ((if v = 0 then (if wide then 32 else 64) else min v 64) * if wide then 2 else 1)).map (f.d.toNat % 256 + ·)

/-- Registers that an instruction reaches beyond those its fields name: the A and D spans of a product with the scale registers of A,
and MZERO's group. -/
def reachRegs (w : Warp) (opc : Nat) (f : Form) : List (Cls × Nat) :=
  if opc = 0x141 || opc = 0x144 then
    let p := matrixSpan w opc f
    (p.aSpan.flatMap fun r => [(Cls.v, r), (Cls.k, r)]) ++ p.dSpan.map fun r => (Cls.v, r)
  else match f with
    | .a g => if opc = 0x143 then (zeroGroup w g).map fun r => (Cls.v, r) else []
    | _ => []

/-- The registers an instruction writes. -/
def destRegs (opc : Nat) (f : Form) : List (Cls × Nat) :=
  let l := destFields opc f
  if opc = 0x0C4 || opc = 0x095 then l ++ kOf l else l

/-- The registers an instruction of a warp writes itself: its destinations, of SMOVIH's the high one (R250), CALL's link, MZERO's group; a
product writes its own later. -/
def writtenRegs (w : Warp) (opc : Nat) (f : Form) : List (Cls × Nat) :=
  if opc = 0x141 || opc = 0x144 then []
  else if opc = 0x004 then linkRegs
  else if opc = 0x022 then (destRegs opc f).drop 1
  else if opc = 0x143 then reachRegs w opc f
  else destRegs opc f

/-- The opcode and form in a word. -/
def wordForm (w : BitVec 96) : Option (Nat × Form) := (decodeForm w).map fun f => (decodeOpc w, f)

/-! ## The operand log (R101) -/

/-- A valid first entry of the log. -/
def LogEntry.first (e : LogEntry) : Bool := e.ctl.getLsbD 0 && !e.ctl.getLsbD 1

/-- The parked instructions of a warp: each first entry with its index. -/
def Warp.parked (w : Warp) : List (Nat × LogEntry) :=
  (w.log.zipIdx.filter fun x => x.1.first).map fun x => (x.2, x.1)

/-- Registers and the bytes each source takes in DATA, in field order (R101); a source coded as a constant takes none (log entry 42). -/
def sourceLayout (opc : Nat) (f : Form) : List (Cls × Nat × Nat) :=
  ((fieldUses opc f).filterMap fun x =>
    match x.2 with
    | .reg p => if p.dst then none else
      let regs := fieldRegs x
      let pair := p.wide
      match regs with
      | (.v, n) :: _ => some ((List.range regs.length).map (fun i => (Cls.v, n + i, 384)) ++
          if opc = 0x0C5 then [(Cls.k, n, 24)] else [])
      | (.s, n) :: _ => some (if pair then (List.range (regs.length / 2)).map fun i => (Cls.s, n + 2 * i, 8)
          else regs.map fun r => (Cls.s, r.2, 8))
      | _ => none
    | _ => none).flatten

/-- Whether a scalar source stands for a pair. -/
def scalarPair (opc : Nat) (f : Form) (n : Nat) : Bool :=
  (fieldUses opc f).any fun x => match x.2 with
    | .reg p => !p.dst && p.wide && (fieldRegs x).contains (.s, n) | _ => false

/-- DATA for a parked instruction and its length in bytes. -/
def packSources (w : Warp) (opc : Nat) (f : Form) : Nat × Nat :=
  (sourceLayout opc f).foldl (fun a x =>
    let v := match x.1 with
      | .v => (w.getV x.2.1).toNat
      | .k => (w.getK x.2.1).toNat
      | _ => if scalarPair opc f x.2.1 then (w.getS64 x.2.1).toNat else (w.getS x.2.1).toNat
    (a.1 + v * 256 ^ a.2, a.2 + x.2.2)) (0, 0)

/-- The warp with the registers a parked instruction reads holding the logged values (R102). -/
def unpackSources (w : Warp) (opc : Nat) (f : Form) (data : Nat) : Warp :=
  ((sourceLayout opc f).foldl (fun a x =>
    let v := data / 256 ^ a.2
    let w := a.1
    let w := match x.1 with
      | .v => w.putV x.2.1 (BitVec.ofNat 3072 v)
      | .k => w.putK x.2.1 (BitVec.ofNat 192 v)
      | _ =>
        let lo := { w with s := w.s.set x.2.1 (BitVec.ofNat 32 v) }
        if scalarPair opc f x.2.1 then { lo with s := lo.s.set (x.2.1 + 1) (BitVec.ofNat 32 (v / 2 ^ 32)) } else lo
    (w, a.2 + x.2.2)) (w, 0)).1

/-- The index of room for `n` consecutive entries in a warp's log. -/
def Warp.logRoom (w : Warp) (n : Nat) : Option Nat :=
  (List.range (9 - n)).find? fun i => (List.range n).all fun j => !(w.log.getD (i + j) {}).ctl.getLsbD 0

/-- A log of eight entries. -/
def Warp.log8 (w : Warp) : List LogEntry := (List.range 8).map fun i => w.log.getD i {}

/-- Logs an instruction with its DATA and their length (R101); none when the log has no room. -/
def Warp.logPacked (w : Warp) (insn : BitVec 96) (data len : Nat) (pc : DWord) (act : LaneMask) (batch : Nat) (hood : LaneMask) : Option Warp :=
  let n := if len ≤ 1152 then 1 else 2
  (w.logRoom n).map fun i =>
    let mk := fun (ctl : Nat) (d : Nat) =>
      ({ pc := pc, insn := insn, ctl := BitVec.ofNat 32 ctl, lanes := act, batch := BitVec.ofNat 32 batch,
         data := BitVec.ofNat 9216 d, hood := hood } : LogEntry)
    let l := w.log8.set i (mk (if n = 2 then 5 else 1) data)
    { w with log := if n = 2 then l.set (i + 1) (mk 3 (data / 2 ^ 9216)) else l }

/-- Logs an instruction with the values its sources hold in `src` (R101). -/
def Warp.logInsn (w : Warp) (opc : Nat) (f : Form) (src : Warp) (pc : DWord) (act : LaneMask) (batch : Nat) (hood : LaneMask) : Option Warp :=
  let p := packSources src opc f
  w.logPacked (encodeForm opc f) p.1 p.2 pc act batch hood

/-- Whether a word of a warp's state lies in an entry of its log. -/
def inLogEntry (i : Nat) : WarpWord → Bool
  | .log n => n / 320 = i
  | _ => false

/-- Empties a parked instruction's entries. -/
def Warp.dropLog (w : Warp) (i : Nat) : Warp :=
  let two := (w.log.getD i {}).ctl.getLsbD 2
  let l := w.log8.set i {}
  { w with log := if two then l.set (i + 1) {} else l }

/-- The whole DATA of a parked instruction: its entry's, then its continuation's (R101, R412). -/
def Warp.logData (w : Warp) (i : Nat) : Nat :=
  let e := w.log.getD i {}
  let nx := w.log.getD (i + 1) {}
  if nx.ctl.getLsbD 0 && nx.ctl.getLsbD 1 then e.data.toNat + nx.data.toNat * 2 ^ 9216 else e.data.toNat

/-- The slices of a mask. -/
def maskSlices (m : LaneMask) : LaneMask := lanesOfSlices ((List.range 24).filter fun i => m &&& sliceLanes i ≠ 0)

/-- The lanes for which a retried instruction acts beside its active ones: those of the hood that issued it (R173). A frame does not hold
them: after a reload they are those of the slices with an active lane (log entry 29). -/
def LogEntry.hoodLanes (e : LogEntry) : LaneMask := if e.hood = 0 then maskSlices e.lanes else e.hood

/-! ## What holds an instruction back (R100, R104, R185) -/

/-- The ORD of a parked or issuing memory instruction; FENCE and TFENCE count as ordered (R104), BANDA and QGET.free release, BANDW and
QPUT.resv acquire (R356, R357, R492). -/
def ordOf (opc : Nat) (f : Form) : Nat :=
  if opc = 0x0C8 then 3 else match f with
    | .m g => if opc = 0x0C9 then 3 else if opc = 0x102 then 2 else if opc = 0x103 then 1
      else if g.ord = 0 && opc = 0x10B then 1 else if g.ord = 0 && opc = 0x10C then 2 else g.ord.toNat
    | _ => 0

/-- Opcodes that access memory on their own account (chapter 13 and the engine's objects). -/
def isMemory (opc : Nat) : Bool := (0x0C0 ≤ opc && opc ≤ 0x0FD) || (0x100 ≤ opc && opc ≤ 0x10D)

/-- Opcodes of chapter 13 that write memory. -/
def isWriter (opc : Nat) : Bool :=
  opc = 0x0C1 || opc = 0x0C3 || opc = 0x0C5 || (0x0E0 ≤ opc && opc ≤ 0x0ED) || (0x0F0 ≤ opc && opc ≤ 0x0FD)

/-- Opcodes whose effects include writes of memory that a watch may see (R116, R337): the writers of chapter 13, BANDI, BANDA, XCOPY, QINIT,
QPUT and QGET. -/
def actsAsWriter (opc : Nat) : Bool := isWriter opc || (0x100 ≤ opc && opc ≤ 0x103) || (0x109 ≤ opc && opc ≤ 0x10D)

/-- Bytes of an access by the width field W and the type (R322). -/
def widthOf (w : BitVec 10) (ty : Nat) : Nat := if w = 0x181 then 1 else if w = 0x182 then 2 else if wideTy ty then 8 else 4

/-- Bytes of each access at `touchedAddresses`. -/
def touchedWidth (opc : Nat) : Form → Nat
  | .m g =>
    if opc = 0x0C0 || opc = 0x0C2 then widthOf g.s g.ty.toNat
    else if opc = 0x0C1 || opc = 0x0C3 then widthOf g.d g.ty.toNat
    else if opc = 0x0CA || (0x0E0 ≤ opc && opc ≤ 0x0FD) then (if wideTy g.ty.toNat then 8 else 4) else 1
  | _ => 1

/-- The final addresses of a memory instruction with their SPACE, as far as its operands tell: one per active lane, one per beat of a
line instruction, and the record of XLAY. -/
def touchedAddresses (w : Warp) (opc : Nat) (f : Form) (act : LaneMask) : List (Nat × Nat × Nat) :=
  match f with
  | .m g =>
    let sp := g.space.toNat
    let off := if sp = 0 then (g.off.signExtend 64).toNat else (g.off.signExtend 32).toNat
    let one := fun (l : Nat) =>
      let a := match operand g.a with
        | .v n => if sp = 0 then (w.getV64 n l).toNat else (VReg.lane (w.getV n) l).toNat
        | .s n => if sp = 0 then (w.getS64 n).toNat else (w.getS n).toNat
        | _ => 0
      (a + off) % (if sp = 0 then 2 ^ 64 else 2 ^ 32)
    let span := if opc = 0x0C4 || opc = 0x0C5 then 3 else 1
    (LaneMask.lanes act).flatMap fun l => (List.range span).map fun j => (l, sp, one l + 128 * j)
  | .a g =>
    if opc = 0x108 && g.sub.toNat ≤ 1 then
      match operand g.s1 with
      | .s n => [((LaneMask.lowest act).getD 0, 0, (w.getS64 n).toNat)]
      | _ => []
    else []
  | _ => []

/-- The names of the lines a memory instruction touches: storage lines, where an address resolves or translates now, and virtual lines
(log entry 43). -/
def State.touchedLines (s : State) (w : Warp) (opc : Nat) (f : Form) (act : LaneMask) : List (Bool × Nat) :=
  ((touchedAddresses w opc f act).flatMap fun x =>
    match s.classify w {} x.2.1 (BitVec.ofNat 64 x.2.2) (touchedWidth opc f) x.1 with
    | .error _ => []
    | .ok ps => ps.flatMap fun p =>
      match p.key with
      | some k => [(true, k / 128)]
      | none => (false, p.va / 128) ::
          match (s.walk none w.ctx p.va .read).1 with
          | .ok lf => [(true, s.relayPa (pteFrame lf.entry + p.va % 2 ^ levelShift lf.level) / 128)]
          | .error _ => []).eraseDups

/-- Whether a later access must wait behind a parked instruction (R104): ordered ones on either side, one line in common, and the accesses
that act for the warp over a range: a copy sees every write that precedes it (R135), UNWATCH follows the writes before it and a WATCH
precedes the writes after it (R337, R338). `o`, `f`, `data` and `lanes` are the parked one's. -/
def Issue.mustFollow (c : Issue) (o : Nat) (f : Form) (data : Nat) (lanes : LaneMask) : Bool :=
  ordOf c.opc c.form ≠ 0 || ordOf o f ≠ 0 ||
  ((c.opc = 0x109 || c.opc = 0x0CC) && isWriter o) || (actsAsWriter c.opc && o = 0x0CB) ||
  (let mine := c.s.touchedLines c.w c.opc c.form c.act
   let its := c.s.touchedLines (unpackSources c.w o f data) o f lanes
   mine.any its.contains)

/-- Entries that an instruction takes when it parks (R101). -/
def entriesNeeded (w : Warp) (opc : Nat) (f : Form) : Nat := if (packSources w opc f).2 ≤ 1152 then 1 else 2

/-- Whether a window over the instruction at a PC is open for the issuing hood. -/
def Issue.windowOver (c : Issue) (pc : DWord) : Bool := c.w.windows.any fun x => x.hood = c.hood && 0 < x.count && x.pc = pc

/-- Whether an instruction touches a pending destination: a register it names, or, for the hood of the instruction that will write it, the
activity mask, which every instruction reads (R100, R171, R173). -/
def Issue.touches (c : Issue) (dest : List (Cls × Nat)) (hood : LaneMask) : Bool :=
  ((formRegs c.opc c.form ++ reachRegs c.w c.opc c.form).any fun r => dest.contains r) ||
    (hood &&& c.lanes ≠ 0 && dest.any fun r => r.1 = .s && 125 ≤ r.2)

/-- Whether a parked instruction holds this one back: a pending destination (R100), a WAITV of its hood that has still to complete (R335),
each outside that one's window; or an access that must wait behind it (R104). -/
def Issue.heldByParked (c : Issue) (i : Nat) (e : LogEntry) : Bool :=
  match wordForm e.insn with
  | none => false
  | some (o, f) =>
    (!c.windowOver e.pc && (c.touches (destRegs o f) e.hoodLanes || (o = 0x0CA && e.hoodLanes &&& c.lanes ≠ 0))) ||
    (isMemory c.opc && c.mustFollow o f (c.w.logData i) e.lanes)

/-- Whether an instruction that waits aloft holds this one of its hood back: outside its window, or inside it where this one touches its
destination while its answers are outstanding (R427), is an access that must follow it, or is the same instruction again. -/
def Issue.heldByFlight (c : Issue) (x : Flight) : Bool :=
  x.lanes &&& c.lanes ≠ 0 && ((!x.posted && !c.windowOver x.x.pc) || x.x.pc = c.pc ||
    match wordForm x.x.insn with
    | none => false
    | some (o, f) => (!x.value && c.touches (destRegs o f) x.lanes) || (isMemory c.opc && c.mustFollow o f x.x.data x.x.act))

/-- Whether something holds an instruction back: a parked one, one that waits aloft (R335, R427), or an operand log with no room for a
long-latency instruction (R101). -/
def Issue.blocked (c : Issue) : Bool :=
  (!c.w.parked.isEmpty &&
    ((c.w.parked.any fun x => c.heldByParked x.1 x.2) || (isMemory c.opc && (c.w.logRoom (entriesNeeded c.w c.opc c.form)).isNone))) ||
  c.w.flights.any c.heldByFlight

/-! ## What an instruction writes -/

/-- Whether a slice takes a conditional branch (R178). -/
def Issue.takes (c : Issue) (mode : Nat) (q : LaneMask) (i : Nat) : Bool :=
  let l := c.act &&& sliceLanes i
  l ≠ 0 && match mode with
    | 0 => l &&& q ≠ 0
    | 1 => l &&& ~~~q = 0
    | _ => l &&& q = 0

/-- The k bytes whose slice holds an active lane (R300). -/
def Issue.kBytes (c : Issue) : Nat → Bool := fun n => (c.act &&& sliceLanes n) ≠ 0

/-- Whether byte `n` holds a scale of the format (R305). -/
def scaleByte (ty n : Nat) : Bool := ty = 0x10 || ty = 0x11 || n % 8 < 4

/-- The lanes of `m` as bytes of a k register: the beats that hold one. -/
def beatBytes (m : LaneMask) (i : Nat) : Bool := m.extractLsb' (32 * (i / 8)) 32 ≠ 0

/-- Whether VQNT.lane produces a block (R313): an element of it is active, and its slices lie in the hood. -/
def Issue.laneBlockMade (c : Issue) (ty b : Nat) : Bool :=
  let els := (List.range 32).map fun i => regPos ty b i
  (els.any fun p => c.act.getLsbD p.1) && els.all fun p => (c.w.hoodSlices c.hood).contains (p.1 / 4)

/-- The k bytes that an instruction writes: register and byte (R300). -/
def Issue.kWritten (c : Issue) : List (Nat × Nat) :=
  let of := fun (d : BitVec 10) (p : Nat → Bool) => ((List.range 24).filter p).map fun i => (regNum d, i)
  match c.form with
  | .a f =>
    if c.opc = 0x090 || c.opc = 0x093 || c.opc = 0x094 then of f.d c.kBytes
    else if c.opc = 0x092 then
      (if f.sub = 2 then of f.d fun i => c.act.getLsbD i
       else if c.idle then []
       else let idx := c.scalar f.s2 false 0; of f.d fun i => if f.sub = 0 then i = idx else i / 8 = idx)
    else []
  | .i f =>
    if c.opc = 0x093 || c.opc = 0x094 then of f.d c.kBytes
    else if c.opc = 0x092 && !c.idle then of f.d fun i => if f.sub = 0 then i = f.imm.toNat else i / 8 = f.imm.toNat
    else []
  | .x f =>
    if c.opc = 0x095 then
      let ty := f.xf.toNat / 512
      let made := ((List.range (blocksPerReg ty)).filter (c.laneBlockMade ty)).map (scalePos ty)
      of f.d fun i => made.contains i || (!scaleByte ty i && beatBytes c.act i)
    else []
  | .m f => if c.opc = 0x0C4 then of f.d (beatBytes c.act) else []
  | .b _ => []

/-- Whether an instruction writes its destinations: one that its empty active set leaves unperformed writes none (R176), unless its
description says otherwise (VRED, VVOTE, VCMPR, VAMAX), and neither does a CALL that no slice takes (R262). -/
def Issue.writes (c : Issue) : Bool :=
  if c.opc = 0x004 then (match c.form with | .b f => (c.w.hoodSlices c.hood).any (c.takes f.bmode.toNat (c.qreg f.c)) | _ => false)
  else !c.idle || c.opc = 0x081 || c.opc = 0x083 || c.opc = 0x084 || c.opc = 0x097

/-- The lanes in which it writes a vector destination: those of its active set, of VCMPR the first of them, as many as are selected (R296). -/
def Issue.wroteLanes (c : Issue) : LaneMask :=
  match c.opc, c.form with
  | 0x084, .a f => LaneMask.ofLanes ((LaneMask.lanes c.act).take (LaneMask.lanes (c.act &&& c.qreg f.s2)).length)
  | _, _ => c.act

/-- The registers that the issued instruction writes. -/
def Issue.written (c : Issue) : List (Cls × Nat) := if c.writes then writtenRegs c.w c.opc c.form else []

/-! ## Windows (R184, R236, R237) -/

/-- A window over the registers `regs` and k bytes `kb` that an instruction of hood `h`, active in `act`, writes: `old` is the warp before
it. -/
def Warp.opened (old : Warp) (h n : Nat) (pc : DWord) (act : LaneMask) (regs : List (Cls × Nat)) (kb : List (Nat × Nat))
    (done : Bool := true) : Window :=
  { hood := h, count := n, pc := pc, act := act, kb := kb, done := done
    oldV := regs.filterMap fun r => if r.1 = .v then some (r.2, old.getV r.2) else none
    oldK := regs.filterMap fun r => if r.1 = .k then some (r.2, old.getK r.2) else none
    oldS := regs.filterMap fun r => if r.1 = .s && r.2 ≠ 124 then some (r.2, old.getS r.2) else none
    oldQ := regs.filterMap fun r => if r.1 = .q && r.2 ≠ 0 then some (r.2, old.getQ r.2) else none }

/-- A choice, lane by lane, between two values of a vector register. -/
def mixV (n salt : Nat) (a b : VReg) : VReg :=
  VReg.write a (LaneMask.ofFn fun l => Config.pick n (salt * 96 + l) % 2 = 1) fun l => VReg.lane b l

/-- A choice, lane by lane, between two values of a q register. -/
def mixQ (n salt : Nat) (a b : LaneMask) : LaneMask :=
  LaneMask.merge a (LaneMask.ofFn fun l => Config.pick n (salt * 96 + l) % 2 = 1) b

/-- A choice between two whole values. -/
def mix {α : Type} (n salt : Nat) (a b : α) : α := if Config.pick n salt % 2 = 1 then b else a

/-- A choice, byte by byte, between two values of a k register in the bytes for which `p` holds. -/
def mixK (n salt : Nat) (p : Nat → Bool) (a b : KReg) : KReg :=
  (List.range 24).foldl (fun k i => if p i && Config.pick n (salt * 96 + i) % 2 = 1 then KReg.setByte k i (KReg.byte b i) else k) a

/-- The bits of a scalar register that a hood with the lanes `lanes` writes: of am0 to am2 those of its lanes (R173). -/
def hoodBits (lanes : LaneMask) (n : Nat) : Word := if n < 125 then BitVec.allOnes 32 else lanes.extractLsb' (32 * (n - 125)) 32

/-- The bits of `new` in `m` over those of `old` elsewhere. -/
def Word.merge (old m new : Word) : Word := (old &&& ~~~m) ||| (new &&& m)

/-- The warp as reads inside a hood's windows see it: each register written, per lane, old or new (R236). -/
def Warp.blur (w : Warp) (h n : Nat) : Warp :=
  let lanes := w.hoodLanes h
  (w.windows.filter fun x => x.hood = h && 0 < x.count && x.done).foldl (fun w x =>
    let w := x.oldV.foldl (fun w r => w.putV r.1 (mixV n r.1 (w.getV r.1) r.2)) w
    let w := x.oldK.foldl (fun w r => w.putK r.1 (mixK n (1000 + r.1) (fun i => x.kb.contains (r.1, i)) (w.getK r.1) r.2)) w
    let w := x.oldS.foldl (fun w r =>
      { w with s := w.s.set r.1 (mix n (2000 + r.1) (w.s.getD r.1 0) (Word.merge (w.s.getD r.1 0) (hoodBits lanes r.1) r.2)) }) w
    x.oldQ.foldl (fun w r => { w with q := w.q.set r.1 (mixQ n (3000 + r.1) (w.q.getD r.1 0) r.2) }) w) w

/-- After an instruction inside a window that has written the registers `regs`: such a register of the window holds, where the window's
instruction wrote it, one of the two values written (R236, R237). `t` is the warp before, `a` after. -/
def Warp.contest (t a : Warp) (h n : Nat) (regs : List (Cls × Nat)) : Warp :=
  (t.windows.filter fun x => x.hood = h && 0 < x.count && x.done).foldl (fun w x =>
    let w := (x.oldV.filter fun r => regs.contains (.v, r.1)).foldl (fun w r =>
      w.putV r.1 (mix n (4000 + r.1) (w.getV r.1) (VReg.write (w.getV r.1) x.act fun l => VReg.lane (t.getV r.1) l))) w
    let w := (x.oldK.filter fun r => regs.contains (.k, r.1)).foldl (fun w r =>
      w.putK r.1 (mix n (5000 + r.1) (w.getK r.1)
        ((List.range 24).foldl (fun k i => if x.kb.contains (r.1, i) then KReg.setByte k i (KReg.byte (t.getK r.1) i) else k) (w.getK r.1)))) w
    let w := (x.oldS.filter fun r => regs.contains (.s, r.1)).foldl (fun w r =>
      { w with s := w.s.set r.1 (mix n (6000 + r.1) (w.s.getD r.1 0) (t.s.getD r.1 0)) }) w
    (x.oldQ.filter fun r => regs.contains (.q, r.1)).foldl (fun w r =>
      { w with q := w.q.set r.1 (mix n (7000 + r.1) (w.q.getD r.1 0) (LaneMask.merge (w.q.getD r.1 0) x.act (t.q.getD r.1 0))) }) w) a

/-- Counts one instruction issued by a hood against its windows. -/
def Warp.countWindows (w : Warp) (h : Nat) : Warp :=
  { w with windows := (w.windows.map fun x => if x.hood = h then { x with count := x.count - 1 } else x).filter fun x => 0 < x.count }

/-- Whether a hood stands in an open window. -/
def Warp.inWindow (w : Warp) (h : Nat) : Bool := w.windows.any fun x => x.hood = h && 0 < x.count

/-! ## Registers that hoods share (R177, R300) -/

/-- What stands at a shared location. -/
def Warp.sharedAt (w : Warp) : SharedLoc → Word
  | .s n => w.s.getD n 0
  | .k n i => (KReg.byte (w.getK n) i).setWidth 32
  | .mode => w.mode

/-- Puts a value at a shared location. -/
def Warp.putShared (w : Warp) (x : SharedLoc) (v : Word) : Warp :=
  match x with
  | .s n => { w with s := w.s.set n v }
  | .k n i => w.putK n (KReg.setByte (w.getK n) i (v.setWidth 8))
  | .mode => { w with mode := v }

/-- The number of am0 to am2, whose bits belong each to one hood (R173). -/
def SharedLoc.mask? : SharedLoc → Option Nat
  | .s n => if 125 ≤ n then some n else none
  | _ => none

/-- The locations at which some hood's write is still unordered. -/
def Warp.racing (w : Warp) : List SharedLoc := (w.shared.map SharedWrite.loc).dedup

/-- The writes of other hoods than that with the lanes `lanes` at a location. -/
def Warp.others (w : Warp) (lanes : LaneMask) (x : SharedLoc) : List SharedWrite :=
  w.shared.filter fun e => e.loc = x && e.lanes &&& lanes = 0

/-- What a hood with the lanes `lanes` may read at a location (R177, R300): what stands there, what another hood has written, what stood
before that where this hood has not written since, and what it has written itself. -/
def Warp.readable (w : Warp) (lanes : LaneMask) (x : SharedLoc) : List Word :=
  match w.others lanes x with
  | [] => [w.sharedAt x]
  | l => (w.sharedAt x :: (l.map SharedWrite.val ++ (l.filter fun e => e.blind &&& lanes = 0).map SharedWrite.old ++
      (w.shared.filter fun e => e.loc = x && e.lanes &&& lanes ≠ 0 && !e.stale).map SharedWrite.val)).dedup

/-- The warp as a hood with the lanes `lanes` reads it (R177, R300): what another hood has written, with no FELT or collective since, is old
or new; of am0 to am2 the bits of the hoods that wrote them, each write's as one. -/
def Warp.raced (w : Warp) (lanes : LaneMask) (n : Nat) : Warp :=
  w.racing.zipIdx.foldl (fun a x =>
    let salt := 50000 + 128 * x.2
    match x.1.mask? with
    | some r => (w.others lanes x.1).zipIdx.foldl (fun a e =>
        a.putShared x.1 (mix n (salt + 1 + e.2) (a.sharedAt x.1) (Word.merge (a.sharedAt x.1) (hoodBits e.1.lanes r) e.1.old))) a
    | none => a.putShared x.1 (pickOf n salt (w.sharedAt x.1) (w.readable lanes x.1))) w

/-- After a write by a hood at locations where other hoods have written with no FELT or collective between: each holds one of the values
written (R177, R300). `t` is the warp before, `a` after. The bits of am0 to am2 belong each to one hood. -/
def Warp.settleRaces (t a : Warp) (lanes : LaneMask) (n : Nat) (locs : List SharedLoc) : Warp :=
  locs.zipIdx.foldl (fun a x =>
    match x.1.mask?, (t.others lanes x.1).filter fun e => !e.stale with
    | none, e :: l => a.putShared x.1 (pickOf n (60000 + x.2) (a.sharedAt x.1) (a.sharedAt x.1 :: (e :: l).map SharedWrite.val))
    | _, _ => a) a

/-- Notes what a hood of a divergent warp has written: `t` is the warp before, `v` as the instruction wrote it. -/
def Warp.noteShared (t v a : Warp) (lanes : LaneMask) (locs : List SharedLoc) : Warp :=
  if t.hoods.length < 2 && t.shared.isEmpty then a
  else
    { a with shared := (a.shared.map fun e =>
        if locs.contains e.loc then { e with blind := e.blind ||| lanes, stale := e.stale || e.lanes &&& lanes ≠ 0 } else e) ++
      locs.map fun x => { lanes := lanes, loc := x, old := t.sharedAt x, val := v.sharedAt x } }

/-- Notes what vector and scale registers held before a write, by an instruction or by the matrix unit, until an MFENCE orders it (R136,
R386). -/
def Warp.notePast (t a : Warp) (n : Nat) (act : LaneMask) (regs : List (Cls × Nat)) (unit : Bool := false) : Warp :=
  let nums := (regs.filterMap fun r => if r.1 = .v || r.1 = .k then some r.2 else none).dedup
  { a with past := nums.map (fun r =>
      { n := r, at_ := n, lanes := act, v := if regs.contains (.v, r) then some (t.getV r) else none
        k := if regs.contains (.k, r) then some (t.getK r) else none, unit := unit : RegPast }) ++ a.past }

/-- An MFENCE of the slices for which `p` holds, at `n` of the counter of free values (R384). -/
def Warp.fenced (w : Warp) (p : Nat → Bool) (n : Nat) : Warp := w.mapSlices fun i sl => if p i then { sl with fence := n } else sl

/-- Forgets the writes that MFENCEs have ordered before every later product. -/
def Warp.prunePast (w : Warp) : Warp :=
  { w with past := w.past.filter fun e => (LaneMask.lanes e.lanes).any fun l => (w.slice (l / 4)).fence ≤ e.at_ }

/-- The warp as an issuing hood reads it: inside its windows, and among hoods that share registers. -/
def Warp.seenBy (w : Warp) (h : Nat) (lanes : LaneMask) (n : Nat) : Warp :=
  let w := if w.inWindow h then w.blur h n else w
  if w.shared.isEmpty then w else w.raced lanes n

/-! ## Issuing -/

/-- LA of a form. -/
def formLa (f : Form) : Nat := f.hdr.la.toNat

/-- Moves the issuing hood to the next PC. -/
def State.advance (s : State) (core slot hood : Nat) (pc : DWord) : State :=
  s.modWarp core slot fun w => w.moveHood hood (nextPc pc)

/-- Whether an instruction writes MODE: SRSET of number 0x0E (R392). -/
def setsMode (opc : Nat) : Form → Bool
  | .i f => opc = 0x010 && f.imm.toNat = 0x0E
  | _ => false

/-- Whether an instruction is FELT or warp-collective (R182): it closes lookahead windows and is checked by the scoreboard as
usual (R184). -/
def isCollective (opc : Nat) (f : Form) : Bool :=
  match opc with
  | 0x006 | 0x008 | 0x00A | 0x00B | 0x0C4 | 0x0C5 | 0x140 | 0x141 | 0x142 | 0x144 => true
  | 0x095 => match f with | .x g => g.xf.getLsbD 6 | _ => false
  | _ => false

/-- The locations shared between hoods that the issued instruction writes; a collective's writes are ordered for every hood (R177). -/
def Issue.sharedWritten (c : Issue) : List SharedLoc :=
  if isCollective c.opc c.form then []
  else (c.written.filterMap fun r => if r.1 = .s && r.2 ≠ 124 then some (.s r.2) else none) ++
    c.kWritten.map (fun r => .k r.1 r.2) ++ if setsMode c.opc c.form then [.mode] else []

/-- What is settled and noted when an instruction has been performed: races with other hoods, and what its registers held before (R136,
R177, R300, R386). `before` is the warp before it, `a` after. -/
def Issue.wrote (c : Issue) (before a : Warp) : Warp :=
  let locs := c.sharedWritten
  let w := if before.shared.isEmpty || a.shared.isEmpty then a else Warp.settleRaces before a c.lanes c.s.free locs
  Warp.notePast before (Warp.noteShared before a w c.lanes locs) c.s.free c.wroteLanes c.written

/-- Notes, with each instruction whose window an instruction of hood `h` has issued in and that has still to be performed, what the latter
has written (R236). -/
def Warp.noteOver (before a : Warp) (h : Nat) (act : LaneMask) (regs : List (Cls × Nat)) : Warp :=
  match (before.windows.filter fun x => x.hood = h && 0 < x.count && !x.done).map Window.pc with
  | [] => a
  | pcs =>
    let l := regs.map fun r => (r.1, r.2, act)
    { a with log := a.log.map fun e => if e.first && pcs.contains e.pc then { e with later := e.later ++ l } else e
             flights := a.flights.map fun e => if pcs.contains e.x.pc then { e with later := e.later ++ l } else e }

/-- After an instruction has been performed that parked or waited inside its window: what instructions of the window have written to its
destinations meanwhile stands against what it writes (R236). `t` is the warp before, `a` after. -/
def Warp.overruled (t a : Warp) (n : Nat) (later : List (Cls × Nat × LaneMask)) : Warp :=
  later.zipIdx.foldl (fun a x =>
    let r := x.1.2.1
    let salt := 80000 + x.2
    match x.1.1 with
    | .v => a.putV r (mix n salt (a.getV r) (VReg.write (a.getV r) x.1.2.2 fun l => VReg.lane (t.getV r) l))
    | .k => a.putK r (mix n salt (a.getK r) (t.getK r))
    | .s => { a with s := a.s.set r (mix n salt (a.s.getD r 0) (t.s.getD r 0)) }
    | .q => { a with q := a.q.set r (mix n salt (a.q.getD r 0) (LaneMask.merge (a.q.getD r 0) x.1.2.2 (t.q.getD r 0))) }
    | .const => a) a

/-- The warp after an instruction has issued: what windows leave open is settled, what it wrote is noted, its windows are counted and
inherited, and its own lookahead window opens (R177, R184, R236, R300). `before` is the warp before it, `a` after; `done` says that it has
been performed. -/
def Issue.close (c : Issue) (before a : Warp) (done : Bool := true) : Warp :=
  let regs := c.written
  let open_ := fun (x : Window) => a.windows.any fun y => y.pc = x.pc && y.hood = x.hood
  let w := if done && before.inWindow c.hood then
      (before.noteOver (Warp.contest { before with windows := before.windows.filter open_ } a c.hood c.s.free regs) c.hood c.act regs)
    else a
  let w := Warp.inheritWindows before { w with windows := (before.countWindows c.hood).windows.filter open_ }
  let w := if done then c.wrote before w else w
  if formLa c.form = 0 then w
  else { w with windows := w.windows ++ [Warp.opened before c.hood (formLa c.form) c.pc c.act regs c.kWritten done] }

/-- The window that a PAIR bit opens over an instruction (R237). -/
def Issue.pairWindow (c : Issue) (before : Warp) (done : Bool) : Window :=
  { Warp.opened before c.hood 1 c.pc c.act c.written c.kWritten done with pair := true }

/-- Whether the instruction at a PC has parked, or waits while its hood goes on. -/
def Warp.pendingAt (w : Warp) (pc : DWord) : Bool := (w.parked.any fun x => x.2.pc = pc) || w.flights.any fun x => x.x.pc = pc

/-- A wait at the instruction at a PC whose PAIR bit is set (R237). -/
def Wait.paired (x : Wait) (pc : DWord) : Wait :=
  match x with
  | .remote y => .remote { y with pair := y.pair || y.pc = pc }
  | .value y => .value { y with pair := y.pair || y.pc = pc }
  | .band y => .band { y with pair := y.pair || y.pc = pc }
  | x => x

/-- Whether the issued instruction, performed, has written a word of its warp's state whole, which ends any error in it (R58). -/
def Issue.overwrites (c : Issue) : WarpWord → Bool
  | .v n l => c.act.getLsbD l && c.written.contains (.v, n)
  | .s n => n < 124 && c.written.contains (.s, n)
  | .k n b => (List.range 8).all fun i => c.kWritten.contains (n, 8 * b + i)
  | .q n i => c.act.extractLsb' (32 * i) 32 = BitVec.allOnes 32 && c.written.contains (.q, n)
  | .mode => setsMode c.opc c.form && !c.idle
  | .mshape => c.opc = 0x140
  | _ => false

/-- Signs the scratchpad stores that the issued instruction has made (R384). -/
def Issue.signed (c : Issue) (s : State) : State :=
  let n := c.s.store.past.length
  if s.store.past.length ≤ n then s else s.modStore fun m => m.signPast n (c.w.core, c.w.slot, c.lanes)

/-- Closes an issue in the state. -/
def closeIssue (c : Issue) (before : Warp) (s : State) (done : Bool := true) : State :=
  let s := (c.signed s).modWarp before.core before.slot fun a => c.close before a done
  if done then s.clearWords before.core before.slot c.overwrites else s

/-- The issue as it waits: its operands are kept (R427). -/
def Issue.inFlight (c : Issue) (ps : List Piece) : InFlight :=
  { pc := c.pc, insn := encodeForm c.opc c.form, act := c.act, data := (packSources c.w c.opc c.form).1, pieces := ps }

/-- Marks a hood's slices as held back (R186). -/
def Warp.holdHood (w : Warp) (h : Nat) : Warp := w.mapSlices fun _ sl => if sl.live && sl.hood = h then { sl with held := true } else sl

/-- The lanes an operand-log entry names: a line instruction is the warp's (R182). -/
def Issue.logLanes (c : Issue) : LaneMask × LaneMask :=
  if c.opc = 0x0C4 || c.opc = 0x0C5 then (c.w.activeIn c.w.liveLanes c.form.hdr, c.w.liveLanes) else (c.act, c.lanes)

/-- The warp with the instruction in its operand log, if there is room (R101). -/
def Issue.logged (c : Issue) (before : Warp) (s : State) (lanes : LaneMask × LaneMask) : Option Warp :=
  before.logInsn c.opc c.form c.w c.pc lanes.1 (((s.ctx? c.w.ctx).map Context.batch).getD 1) lanes.2

/-- The instruction parks for some lanes, and its hood goes on at the next PC (R100, R101); with no room in the log it is held back. `done`
says that it has been performed for others. -/
def Issue.parked (c : Issue) (before : Warp) (s : State) (recs : List FaultRec) (lanes : LaneMask × LaneMask) (done : Bool) : State :=
  let core := c.w.core
  let slot := c.w.slot
  match c.logged before s lanes with
  | none => s.modWarp core slot fun _ => before.holdHood c.hood
  | some w' =>
    let s := (before.logRoom (entriesNeeded c.w c.opc c.form)).elim s fun i => s.clearWords core slot (inLogEntry i)
    let s := (s.writeBatch c.w.ctx (.warp core slot) recs).modWarp core slot fun w => { w with log := w'.log }
    closeIssue { c with act := if done then c.act &&& ~~~lanes.1 else c.act } before { s.advance core slot c.hood c.pc with free := s.free + 1 } done

/-- A record of a fault at which nothing resumes. -/
def FaultRec.final (r : FaultRec) : FaultRec := { r with resum := false }

/-- Ends the issue of an instruction as its performance asks; `before` is the warp before it. In handler mode nothing parks: the fault halts
the warp (R396). -/
def Issue.finish (c : Issue) (before : Warp) (r : Res) : State :=
  let core := c.w.core
  let slot := c.w.slot
  let close := fun (s : State) => closeIssue c before { s with free := s.free + 1 }
  let waits := fun (s : State) (g : Warp → Warp) => s.modWarp core slot fun w =>
    g { w with windows := before.windows.filter fun x => w.windows.any fun y => y.pc = x.pc && y.hood = x.hood }
  match r with
  | .next s => close (s.advance core slot c.hood c.pc)
  | .jump s => close s
  | .stall => c.s.modWarp core slot fun _ => before.holdHood c.hood
  | .again s => waits s fun w => w.holdHood c.hood
  | .hold s => waits s id
  | .fault s recs => s.raiseRecs core slot recs c.pc
  | .trap s recs => (close (s.advance core slot c.hood c.pc)).raiseRecs core slot recs c.pc
  | .park s recs => if before.handler then s.raiseRecs core slot (recs.map FaultRec.final) c.pc else c.parked before s recs c.logLanes false
  | .parkSome s recs act =>
    if before.handler then s.raiseRecs core slot (recs.map FaultRec.final) c.pc else c.parked before s recs (act, c.lanes) true
  | .fly s x => closeIssue c before ({ s with free := s.free + 1 }.advance core slot c.hood c.pc |>.modWarp core slot fun w =>
      { w with flights := w.flights ++ [x] }) false

/-- Closes the lookahead windows of one hood; what a PAIR bit leaves open stands for the second slot (R237). -/
def Warp.closeHoodWindows (w : Warp) (h : Nat) : Warp := { w with windows := w.windows.filter fun x => x.hood ≠ h || x.pair }

/-- The issue that a hood makes of an instruction: the warp as it stood, a collective's windows closed, and the warp as it is read. -/
def State.issueFor (s : State) (w : Warp) (hood opc : Nat) (f : Form) : Warp × Issue :=
  let lanes := w.hoodLanes hood
  let b := if isCollective opc f then w.closeHoodWindows hood else w
  let v := s.viewProducts (b.seenBy hood lanes s.free)
  (b, { s := s, w := v, hood := hood, opc := opc, form := f, lanes := lanes, act := v.activeIn lanes f.hdr,
        pc := (w.slice (keyOf (w.hoodSlices hood))).pc })

/-! ## Replays (R102, R412) -/

/-- Closes an instruction that is performed outside its issue (R102, R335, R427): `before` is the warp before it, `later` what its window's
instructions have written since; its window, if still open, is over an instruction performed. -/
def Issue.closeLate (c : Issue) (before : Warp) (later : List (Cls × Nat × LaneMask)) (s : State) : State :=
  (c.signed s).modWarp before.core before.slot fun a =>
    let a := c.wrote before (Warp.overruled before a c.s.free later)
    { a with windows := a.windows.map fun x =>
        if x.pc = c.pc && a.hoodLanes x.hood &&& c.lanes ≠ 0 then { x with done := true } else x }

/-- The hood under which a parked instruction's own requests are counted. -/
def logHood (i : Nat) : Nat := 100 + i

/-- Changes an entry of a warp's log. -/
def State.modLog (s : State) (core slot i : Nat) (g : LogEntry → LogEntry) : State :=
  s.modWarp core slot fun w => { w with log := w.log8.set i (g (w.log.getD i {})) }

/-- A parked instruction as it replays: with the sources of its log entry, for the lanes in it (R102, R412). -/
def State.entryIssue (s : State) (w : Warp) (i opc : Nat) (f : Form) : Issue :=
  let e := w.log.getD i {}
  { s := s, w := unpackSources w opc f (w.logData i), hood := logHood i, opc := opc, form := f, lanes := e.hoodLanes, act := e.lanes
    pc := e.pc, retry := true }

/-- The warp and the number of the log entry whose replay is due, if `cur` names one. -/
def State.replays? (s : State) : Option (Warp × Nat) :=
  (s.warp? s.cur.core s.cur.slot).bind fun w =>
    let i := s.cur.hood - 100
    if 100 ≤ s.cur.hood && (w.log.getD i {}).first && (w.log.getD i {}).due then some (w, i) else none

/-- How the replay of an instruction ends that can neither wait nor park: performed, with its fault, or held back until something it waits for
may have ended; none of its hood's slices stands at it, so it moves none (log entry 29). -/
def Issue.replayed (c : Issue) (w : Warp) (i : Nat) (r : Res) : State :=
  let e := w.log.getD i {}
  let drop := fun (s : State) => s.modWarp w.core w.slot fun w => w.dropLog i
  match r with
  | .next t => c.closeLate w e.later (drop t)
  | .jump t => drop t
  | .trap t recs | .fault t recs => (drop t).raiseRecs w.core w.slot recs e.pc
  | _ => c.s.modLog w.core w.slot i fun e => { e with again := true, due := false }

/-- Issues an instruction for the hood that `cur` names: the checks of R238, then what holds it back, then its performance; or replays the log
entry that `cur` names (R412). -/
def issue (opc : Nat) (f : Form) (s : State) (body : Issue → Res) : Host.Outcome State Fault Refusal :=
  match s.issuer? with
  | none =>
    match s.replays? with
    | some x =>
      let c := s.entryIssue x.1 x.2 opc f
      .next (c.replayed x.1 x.2 (body c)).settle
    | none => .refused .noIssuingHood
  | some w =>
    match checkAll (s.envOf w) opc f with
    | some x =>
      let pc := (w.slice (keyOf (w.hoodSlices s.cur.hood))).pc
      .next (s.raiseRecs w.core w.slot [{ code := x.1, sub := x.2, lanes := w.hoodLanes s.cur.hood, pc := pc }] pc).settle
    | none =>
      let c := s.issueFor w s.cur.hood opc f
      if c.2.blocked then .next (s.modWarp w.core w.slot fun x => x.holdHood s.cur.hood) else .next (c.2.finish c.1 (body c.2)).settle

end Sys2Proof.Machine
end

