-- ==== Sys2Proof/Machine/Flags.lean ====
section
/-! DEFINITION. Rounding environments, sticky flags and the FP and MX traps (R73 to R79). -/

namespace Sys2Proof.Machine

open Sys2Proof

/-- MODE.RM (R75). -/
def Warp.rm (w : Warp) : Nat := (w.mode &&& 7).toNat
/-- MODE.FTZ, DAZ, SATF and NANP (R75). -/
def Warp.ftz (w : Warp) : Bool := w.mode.getLsbD 3
def Warp.daz (w : Warp) : Bool := w.mode.getLsbD 4
def Warp.satf (w : Warp) : Bool := w.mode.getLsbD 5
def Warp.nanp (w : Warp) : Bool := w.mode.getLsbD 6

/-- The rounding code in force (R73, R74): DYN takes MODE.RM, and stochastic rounding without a random operand rounds RNE. -/
def Warp.rounding (w : Warp) (rnd : BitVec 3) (hasRandom : Bool) : Nat :=
  let r := if rnd = 0 then w.rm else rnd.toNat
  if r = 6 && !hasRandom then 1 else r

/-- The environment of one element (R74 to R76): `u` its random bits, `width` how many. -/
def Warp.fenv (w : Warp) (rm : Nat) (u width : Nat) : FEnv :=
  { rm := rm, u := u, w := width, ftz := w.ftz, daz := w.daz, nanp := w.nanp, satf := w.satf }

/-- The environment of an instruction with fixed rounding to nearest (R73). -/
def Warp.fenvRne (w : Warp) : FEnv := w.fenv 1 0 32

/-- The trap enables of MODE as FLAGS bits IV to NX (R75, R79). -/
def Warp.fpEnabled (w : Warp) : Nat := (w.mode.extractLsb' 7 5).toNat

/-- MODE.MXSATE (R75). -/
def Warp.mxEnabled (w : Warp) : Bool := w.mode.getLsbD 12

/-- The union of the flags of a list of lanes. -/
def flagsUnion (l : List (Nat × Nat)) : Nat := l.foldl (fun a x => a ||| x.2) 0

/-- The trap records due after an instruction whose lanes raised the given flags (R79). -/
def trapRecords (w : Warp) (pc : DWord) (raised : List (Nat × Nat)) : List FaultRec :=
  let en := w.fpEnabled
  let fp := flagsUnion raised &&& en &&& 31
  let a : List FaultRec :=
    if fp = 0 then [] else
      [{ code := 0x3A, sub := fp, pc := pc,
         lanes := LaneMask.ofLanes ((raised.filter fun x => x.2 &&& en &&& 31 ≠ 0).map Prod.fst) }]
  let b : List FaultRec :=
    if w.mxEnabled && flagsUnion raised &&& flMXSAT ≠ 0 then
      [{ code := 0x3B, sub := 0x01, pc := pc, lanes := LaneMask.ofLanes ((raised.filter fun x => x.2 &&& flMXSAT ≠ 0).map Prod.fst) }]
    else []
  a ++ b

/-- Completes an instruction that changes the warp's registers and raises flags, lane by lane: flags are ORed in, and the enabled
ones trap after it (R77 to R79). -/
def Issue.doneFlags (c : Issue) (raised : List (Nat × Nat)) (g : Warp → Warp) : Res :=
  let s := c.put fun w => (g w).orFlags (flagsUnion raised)
  match trapRecords c.w c.pc raised with
  | [] => .next s
  | l => .trap s l

end Sys2Proof.Machine
end

