-- ==== Sys2Proof/Machine/Fetch.lean ====
section
/-! DEFINITION. Instruction fetch: lines and their parity (R218 to R220), the instruction cache, fetch faults (R105), and the checks
of branch targets and entry points (R221 to R223). -/

namespace Sys2Proof.Machine

open Sys2Proof

/-- The exclusive OR of the bits of a number. -/
def parity (n len : Nat) : Bool := (List.range len).foldl (fun b i => xor b (n.testBit i)) false

/-- The 96 bits of slot `i` of a line (R218). -/
def lineSlotBits (d : BitVec 512) (i : Nat) : BitVec 96 := d.extractLsb' (96 * i) 96

/-- The line word (R218). -/
def lineWord (d : BitVec 512) : Word := d.extractLsb' 480 32

/-- TGT of slot `i`. -/
def lineTgt (d : BitVec 512) (i : Nat) : Bool := (lineWord d).getLsbD (27 + i)

/-- Whether slots `i` and `i`+1 pair: bits in ascending order, a slot already paired with the one before not pairing again (R237). -/
def linePair (d : BitVec 512) : Nat → Bool
  | 0 => (lineWord d).getLsbD 23
  | i + 1 => i < 3 && (lineWord d).getLsbD (24 + i) && !linePair d i

/-- LPAR is even over bits [31:5] of the line word. -/
def lineWordGood (d : BitVec 512) : Bool := parity ((lineWord d).toNat / 32) 27 = false

/-- SPAR of slot `i` is even. -/
def slotGood (d : BitVec 512) (i : Nat) : Bool :=
  xor (parity (lineSlotBits d i).toNat 96) ((lineWord d).getLsbD i) = false

/-- A line without a mismatch (R219). -/
def lineGood (d : BitVec 512) : Bool := lineWordGood d && (List.range 5).all (slotGood d)

/-- A line as the instruction cache keeps it after at most one refetch (R219): the first copy if it is good, else the second with
its mismatches marked. -/
def fillLine (core ctx va : Nat) (d1 d2 : BitVec 512) : ICacheLine :=
  if lineGood d1 then { core := core, ctx := ctx, va := va, data := d1 }
  else { core := core, ctx := ctx, va := va, data := d2, lineBad := !lineWordGood d2,
         slotBad := (List.range 5).foldl (fun m i => if slotGood d2 i then m else m ||| ((1 : BitVec 5) <<< i)) 0 }

/-- Puts a line into a core's instruction cache of 128 KiB (R4, R218); a full cache loses the line `Config.icacheVictim` names. -/
def State.icacheInstall (s : State) (x : ICacheLine) : State :=
  let rest := s.caches.icache.filter fun y => !(y.core = x.core && y.ctx = x.ctx && y.va = x.va)
  let mine := rest.filter fun y => y.core = x.core
  let rest :=
    if mine.length < Config.icacheLines then rest
    else match mine[Config.icacheVictim x.core s.free % mine.length]? with | some y => rest.filter (· ≠ y) | none => rest
  { s with caches := { s.caches with icache := x :: rest }, free := s.free + 1 }

/-- Puts a line into a core's instruction cache from its first copy and, where that has a mismatch, its second: the refetch counts one soft
error (R219). -/
def State.icacheFill (s : State) (core ctx va : Nat) (d1 d2 : BitVec 512) : State × ICacheLine :=
  let x := { fillLine core ctx va d1 d2 with age := s.sched.nextAge }
  ((if lineGood d1 then s else s.countSoft (dieOfCore core) 1).icacheInstall x, x)

/-- Whether a code line's fetch waits at its core for room in the miss queue (R90), or behind a drain record (R112). -/
def State.fetchWaits (s : State) (core ctx va : Nat) : Bool :=
  !(s.caches.misses.isEmpty && s.caches.drains.isEmpty) &&
    !(s.caches.icache.any fun x => x.core = core && x.ctx = ctx && x.va = va) &&
    (s.missFull (clusterOfCore core) ctx (64 * va) ||
      s.draining (clusterOfCore core) ctx (64 * va))

/-- What the host must give up before a core's use of a virtual line goes on: the line of a page-table entry, or the line itself; and whether
the use waits for something else, a request at the line's home or the relay from an old frame (R111, R145, R150, R446, R450). -/
def State.lineHeld (s : State) (core ctx va : Nat) (acc : AccType) : Option Nat × Bool :=
  let cl := clusterOfCore core
  match s.leafHeld cl ctx va acc false with
  | some l => (some l, true)
  | none =>
    if s.hub.snoop.isEmpty && s.coh.outs.isEmpty && s.coh.msgs.isEmpty && s.eng.stubs.isEmpty then (none, false)
    else match (s.translate cl ctx va acc).2 with
    | .error _ => (none, false)
    | .ok x =>
      let l := ((s.stubFor x.pa ctx va).elim x.pa fun t => t.newFrame + (x.pa - t.oldFrame)) / 128
      if s.hostBlocks (dieOfCore core) l .read then (some l, true)
      else (none, s.relayWaits ctx va x.pa || s.lineBusy l || (s.lineQueued l && !s.servedHere (dieOfCore core) l .read))

/-- Whether a code line's fetch waits for what `lineHeld` names; with the host asked. -/
def State.fetchHeld (s : State) (core ctx va : Nat) : Option State :=
  if s.caches.icache.any fun x => x.core = core && x.ctx = ctx && x.va = va then none
  else match s.lineHeld core ctx (64 * va) .exec with
    | (some l, _) => some (s.askBack l)
    | (none, true) => some s
    | (none, false) => none

/-- Reads a code line for a core: from its instruction cache, or through translation and L2 (R90, R140). -/
def State.fetchLine (s : State) (core ctx va : Nat) : State × Except XFault ICacheLine :=
  match s.caches.icache.find? fun x => x.core = core && x.ctx = ctx && x.va = va with
  | some x => (s, .ok x)
  | none =>
    match s.translate (clusterOfCore core) ctx (64 * va) .exec with
    | (s, .error f) => (s, .error f)
    | (s, .ok x) =>
      let (s, pa) := s.relay (clusterOfCore core) ctx (64 * va) x.pa
      let s := s.touch (dieOfCore core) (pa / 128) 0 .read
      let d := BitVec.ofNat 512 (s.store.read pa 64)
      let (s, x) := s.icacheFill core ctx va d d
      (s, .ok x)

/-- What is wrong with a PC itself (R221, R222). -/
def pcFault (pc : DWord) : Option Cause :=
  if pc &&& 0x38 ≠ 0 || 5 ≤ (pc &&& 7).toNat then some (0x06, 0x00)
  else if !canonical (pc &&& ~~~0x3F) then some (0x12, 0x01)
  else none

/-- What stands against a transfer: a fault of the transferring instruction, or the fault of the fetch of the target's line. -/
inductive Bar
  | fault (c : Cause)
  | fetch (f : XFault)
deriving DecidableEq, Repr

/-- What stands against a non-sequential transfer to a target (R221 to R223): TGT is read from the target's line, which must be fetched. -/
def State.targetFault (s : State) (core ctx : Nat) (target : DWord) : State × Option Bar :=
  match pcFault target with
  | some c => (s, some (.fault c))
  | none =>
    match s.fetchLine core ctx (target.toNat / 64) with
    | (s, .error f) => (s, some (.fetch f))
    | (s, .ok x) => (s, if lineTgt x.data (target.toNat % 8) then none else some (.fault (0x05, 0x00)))

/-- A fetch that faults (R105): the slices `stop` of a warp wait for the line `va`, and one record is written, for their lanes in `act`. -/
def State.stopFetch (s : State) (w : Warp) (stop : Nat → Bool) (act : LaneMask) (va : Nat) (f : XFault) : State :=
  let pc := match (List.range 24).find? stop with | some i => (w.slice i).pc | none => 0
  let batch := ((s.ctx? w.ctx).map Context.batch).getD 1
  (s.writeBatch w.ctx (.warp w.core w.slot)
      [{ code := f.code, sub := f.sub, lanes := lanesOfSlices ((List.range 24).filter stop) &&& act, pc := pc,
         va := BitVec.ofNat 64 (64 * va), resum := true }]).modWarp
    w.core w.slot fun w => w.mapSlices fun i sl => if stop i then { sl with wait := .fetch batch va } else sl

/-- The fetch of an instruction faults (R105): every running hood of the warp whose PC lies in the line stops; in handler mode the warp
halts (R396). -/
def State.fetchFault (s : State) (w : Warp) (va : Nat) (f : XFault) : State :=
  let pc := (w.slice (keyOf (w.hoodSlices s.cur.hood))).pc
  if w.handler then
    s.raiseRecs w.core w.slot [{ code := f.code, sub := f.sub, lanes := w.mask, pc := pc, va := BitVec.ofNat 64 (64 * va) }] pc
  else s.stopFetch w (fun i => (w.slice i).live && (w.slice i).wait = .run && (w.slice i).pc.toNat / 64 = va) w.mask va f

/-- What a fetch gives: an instruction word, with the word of the slot it pairs with, or nothing more to do in this step. -/
inductive Fetched
  | word (s : State) (w : BitVec 96) (pair : Option (BitVec 96))
  | done (s : State)
deriving Repr

/-- Clears the entry check of a hood's slices. -/
def Warp.clearTgt (w : Warp) (h : Nat) : Warp :=
  w.mapSlices fun _ sl => if sl.live && sl.hood = h then { sl with tgt := false } else sl

/-- Fetches for the hood that `cur` names (R219 to R223): bad PCs, marked or malformed lines and bad entry points send the warp into
handler mode. -/
def State.fetchHood (s : State) (w : Warp) : Fetched :=
  let h := s.cur.hood
  let sl := w.slice (keyOf (w.hoodSlices h))
  let pc := sl.pc
  let lanes := w.hoodLanes h
  let fail := fun (s : State) (c : Cause) (va : DWord) =>
    Fetched.done (s.raiseRecs w.core w.slot [{ code := c.1, sub := c.2, lanes := lanes, pc := pc, va := va }] pc)
  match pcFault pc with
  | some c => fail s c pc
  | none =>
    if s.fetchWaits w.core w.ctx (pc.toNat / 64) then .done (s.modWarp w.core w.slot fun w => w.holdHood h)
    else match s.fetchHeld w.core w.ctx (pc.toNat / 64) with
    | some s => .done (s.modWarp w.core w.slot fun w => w.holdHood h)
    | none => match s.fetchLine w.core w.ctx (pc.toNat / 64) with
    | (s, .error f) => .done (s.fetchFault w (pc.toNat / 64) f)
    | (s, .ok x) =>
      let i := pc.toNat % 8
      if x.lineBad then fail s (0x07, 0x02) 0
      else if x.slotBad.getLsbD i then fail s (0x07, 0x01) 0
      else if x.slotBad = 0 && (lineWord x.data).extractLsb' 6 17 ≠ 0 then fail s (0x04, 0x00) 0
      else if sl.tgt && !lineTgt x.data i then fail s (0x05, 0x00) pc
      else .word (s.modWarp w.core w.slot fun w => w.clearTgt h) (lineSlotBits x.data i)
        (if linePair x.data i then some (lineSlotBits x.data (i + 1)) else none)

end Sys2Proof.Machine
end

