-- ==== Sys2Proof/Machine/IntOps.lean ====
section
/-! DEFINITION. Integer arithmetic on one element of a type (R251 to R257, R279): the operations that the scalar and the vector
instructions share. -/

namespace Sys2Proof.Machine

open Sys2Proof

/-- An integer or bit type: bits of an element, signedness, elements of a register or pair (R65, R232). -/
structure ElemTy where
  n      : Nat
  signed : Bool
  count  : Nat := 1
deriving DecidableEq, Repr

/-- The element type of a type code (R232); float and bit types as unsigned bits. -/
def elemTy (ty : Nat) : ElemTy :=
  match ty with
  | 0x00 => { n := 32, signed := true }
  | 0x02 => { n := 64, signed := true }
  | 0x04 => { n := 16, signed := true, count := 2 }
  | 0x05 => { n := 16, signed := false, count := 2 }
  | 0x06 => { n := 8, signed := true, count := 4 }
  | 0x07 => { n := 8, signed := false, count := 4 }
  | _ => { n := if wideTy ty then 64 else 32, signed := false }

/-- The integer an element's bits stand for. -/
def ElemTy.val (t : ElemTy) (b : Nat) : Int := toInteger t.signed t.n b

/-- Least value of a type. -/
def ElemTy.min (t : ElemTy) : Int := if t.signed then -(2 ^ (t.n - 1) : Nat) else 0

/-- Greatest value of a type. -/
def ElemTy.max (t : ElemTy) : Int := if t.signed then (2 ^ (t.n - 1) : Nat) - 1 else (2 ^ t.n : Nat) - 1

/-- The result of arithmetic: clamped with SAT, else modulo 2^n (R251). -/
def ElemTy.out (t : ElemTy) (sat : Bool) (r : Int) : Nat := ofInteger t.n (if sat then clampInt t.min t.max r else r)

/-- R251. -/
def opAdd (sat : Bool) (t : ElemTy) (a b : Nat) : Nat := t.out sat (t.val a + t.val b)
def opSub (sat : Bool) (t : ElemTy) (a b : Nat) : Nat := t.out sat (t.val a - t.val b)
def opMul (sat : Bool) (t : ElemTy) (a b : Nat) : Nat := t.out sat (t.val a * t.val b)
def opMulH (t : ElemTy) (a b : Nat) : Nat := ofInteger t.n (t.val a * t.val b / (2 ^ t.n : Nat))
def opMad (sat : Bool) (t : ElemTy) (a b c : Nat) : Nat := t.out sat (t.val a * t.val b + t.val c)
def opMin (t : ElemTy) (a b : Nat) : Nat := if t.val a ≤ t.val b then a % 2 ^ t.n else b % 2 ^ t.n
def opMax (t : ElemTy) (a b : Nat) : Nat := if t.val b ≤ t.val a then a % 2 ^ t.n else b % 2 ^ t.n

/-- R252. -/
def opDiv (t : ElemTy) (a b : Nat) : Nat :=
  if t.val b = 0 then 2 ^ t.n - 1 else ofInteger t.n ((t.val a).tdiv (t.val b))
def opRem (t : ElemTy) (a b : Nat) : Nat :=
  if t.val b = 0 then a % 2 ^ t.n else ofInteger t.n ((t.val a).tmod (t.val b))

/-- R253. -/
def opAnd (t : ElemTy) (a b : Nat) : Nat := (a &&& b) % 2 ^ t.n
def opOr (t : ElemTy) (a b : Nat) : Nat := (a ||| b) % 2 ^ t.n
def opXor (t : ElemTy) (a b : Nat) : Nat := (a ^^^ b) % 2 ^ t.n
def opShl (t : ElemTy) (a c : Nat) : Nat := if c < t.n then a * 2 ^ c % 2 ^ t.n else 0
def opShr (t : ElemTy) (a c : Nat) : Nat := if c < t.n then a % 2 ^ t.n / 2 ^ c else 0
def opSra (t : ElemTy) (a c : Nat) : Nat := ofInteger t.n (toInteger true t.n a / (2 ^ Nat.min c t.n : Nat))

/-- A condition on two integers (R234): codes 0 to 5. -/
def intCond (cond : Nat) (a b : Int) : Bool :=
  match cond with
  | 0 => a = b | 1 => a ≠ b | 2 => a < b | 3 => a ≤ b | 4 => b < a | _ => b ≤ a

/-- R255. -/
def opClz (t : ElemTy) (a : Nat) : Nat := if a % 2 ^ t.n = 0 then t.n else t.n - 1 - Nat.log2 (a % 2 ^ t.n)
def opPopc (t : ElemTy) (a : Nat) : Nat := (List.range t.n).countP fun i => a.testBit i

/-- R256. -/
def opBfe (t : ElemTy) (a p w : Nat) : Nat :=
  let p := Nat.min p t.n
  let w := Nat.min w t.n
  let f := a % 2 ^ t.n / 2 ^ p % 2 ^ w
  if w = 0 then 0 else if t.signed then ofInteger t.n (toInteger true w f) else f
def opBfi (t : ElemTy) (a b p w : Nat) : Nat :=
  let p := Nat.min p t.n
  let w := Nat.min w t.n
  let m := (2 ^ w - 1) * 2 ^ p % 2 ^ t.n
  (a % 2 ^ t.n &&& (2 ^ t.n - 1 - m)) ||| (b * 2 ^ p % 2 ^ t.n &&& m)

/-- SLEA's sum (R257). -/
def opLea (signed : Bool) (base idx sh : Nat) : Nat :=
  ofInteger 64 ((base : Int) + toInteger signed 32 idx * (2 ^ sh : Nat))

/-- Element `j` of a register's bits. -/
def ElemTy.elem (t : ElemTy) (j b : Nat) : Nat := b / 2 ^ (t.n * j) % 2 ^ t.n

/-- A register's bits from its elements. -/
def ElemTy.join (t : ElemTy) (g : Nat → Nat) : Nat :=
  (List.range t.count).foldl (fun a j => a + g j % 2 ^ t.n * 2 ^ (t.n * j)) 0

end Sys2Proof.Machine
end

