-- ==== Sys2Proof/Machine/Collect.lean ====
section
/-! DEFINITION. FELT and the warp-collective instructions (R181 to R184). -/

namespace Sys2Proof.Machine

open Sys2Proof

/-- Moves every live slice of a warp that waits at a collective to the next instruction (R182). -/
def Warp.releaseCollective (w : Warp) : Warp :=
  w.mapSlices fun _ sl => if sl.live && sl.wait = .collective then { sl with pc := nextPc sl.pc, wait := .run } else sl

/-- The tag of a slice that waits at FELT. -/
def Wait.feltTag : Wait → Option Word
  | .felt t => some t
  | _ => none

/-- Rejoins the live slices when all of them wait at FELT with one tag (R181); windows close (R184). -/
def Warp.feltJoin (w : Warp) : Option Warp :=
  match w.liveSlices with
  | [] => none
  | i :: rest =>
    match (w.slice i).wait.feltTag with
    | none => none
    | some t =>
      if rest.all fun j => (w.slice j).wait.feltTag = some t then
        some ((w.formHood w.liveSlices (nextPc (w.slice i).pc)).closeWindows)
      else none

/-- Whether every live slice waits at one collective instruction (R182). -/
def Warp.atCollective (w : Warp) : Bool :=
  match w.liveSlices with
  | [] => false
  | i :: rest => (w.slice i).wait = .collective && rest.all fun j => (w.slice j).wait = .collective && (w.slice j).pc = (w.slice i).pc

/-- Whether every live slice waits at FELT or a collective, but not all at one thing (R183). -/
def Warp.feltDeadlock (w : Warp) : Bool :=
  let l := w.liveSlices
  !l.isEmpty && (l.all fun i => (w.slice i).wait.feltTag.isSome || (w.slice i).wait = .collective) &&
    w.feltJoin.isNone && !w.atCollective

/-- What follows when a slice has come to wait at FELT or a collective, or has ended: FELT rejoins (R181), the lowest hood issues
again a collective that has only waited for the slice that ended (R182), or the warp enters handler mode (R183). -/
def State.resolveFelt (s : State) (core slot : Nat) : State :=
  match s.warp? core slot with
  | none => s
  | some w =>
    match w.feltJoin with
    | some w' => s.setWarp w'
    | none =>
      if w.atCollective then s.setWarp (w.waitHood (w.slice (keyOf w.liveSlices)).hood .run)
      else if w.feltDeadlock then
        let pc := (w.slice (keyOf w.liveSlices)).pc
        s.raiseRecs core slot [{ code := 0x01, sub := 0x20, lanes := w.liveLanes, pc := pc }] pc
      else s

/-- The issuing warp, as it is read, with this hood waiting at the collective. -/
def Issue.waiting (c : Issue) : Warp := c.w.waitHood c.hood .collective

/-- The issue as the whole warp performs it: every live lane, its mask bit as its own hood left it, and its guards (R173, R182). -/
def Issue.whole (c : Issue) : Issue :=
  { c with lanes := c.w.liveLanes, act := ((c.s.warp? c.w.core c.w.slot).getD c.w).activeIn c.w.liveLanes c.form.hdr }

/-- Moves the other hoods that waited past the instruction; closes windows. -/
def Issue.passOthers (c : Issue) (s : State) : State :=
  s.modWarp c.w.core c.w.slot fun w => w.releaseCollective.closeWindows

/-- What a collective came to, with the other hoods moved past it when it has been performed or has parked. -/
def Issue.passed (c : Issue) (r : Res) : Res :=
  match r with
  | .next s => .next (c.passOthers s)
  | .trap s l => .trap (c.passOthers s) l
  | .park s l => .park (c.passOthers s) l
  | .parkSome s l m => .parkSome (c.passOthers s) l m
  | .fly s x => .fly (c.passOthers s) x
  | r => r

/-- A warp-collective instruction (R182): the hood waits until every live slice waits at it, and then `k` performs it once. -/
def Issue.collective (c : Issue) (k : Issue → Res) : Res :=
  let w := c.waiting
  if w.atCollective then c.passed (k c.whole)
  else .hold ((c.put fun w => w.waitHood c.hood .collective).resolveFelt c.w.core c.w.slot)

end Sys2Proof.Machine
end

