-- ==== Sys2Proof/Machine/Outside.lean ====
section
/-! DEFINITION. Accesses that leave the die's own storage: the pod (R425 to R433), the host (R141, R152, R450), lines whose home is
busy (R150), and the range scoreboard (R360). -/

namespace Sys2Proof.Machine

open Sys2Proof

/-! ## The range scoreboard (R360) -/

/-- The core of a receiver of a copy (R351). -/
def Copy.receiverCore (c : Copy) (p : Nat) : Nat := clusterOfCore c.core * 4 + p

/-- The chunk that the walk comes to next. -/
def Copy.nextChunk (c : Copy) : Option Nat :=
  (c.arr.map Prod.fst).find? fun k =>
    !c.written.contains k && !c.lostChunks.contains k && !(c.spilled.any fun x => x.chunk = k) && !(c.landed.any fun x => x.2 = k)

/-- The block of a copy's gang at a core position (R19). -/
def State.copyBlock? (s : State) (c : Copy) (p : Nat) : Option Block :=
  (s.gang? c.gang).bind fun g => g.blocks.find? fun b => b.core = c.receiverCore p

/-- Whether a copy's chunk at offset `a` (in 512-byte units) overlaps window offsets `lo` to `hi`. -/
def chunkOverlaps (chunk lo hi : Nat) : Bool :=
  let a := 512 * chunk % 2 ^ 19
  a < hi && lo < a + 512

/-- Whether the range scoreboard holds an access of `n` bytes at a storage key (R360): a load on a chunk that has not landed, within
its range or beside it, a store or atomic on the whole range until the copy retires. -/
def State.scoreHolds (s : State) (store : Bool) (k n : Nat) : Bool :=
  if k < scratchKeys then false
  else
    let core := (k - scratchKeys) / Config.scratchBytes
    let off := (k - scratchKeys) % Config.scratchBytes
    s.eng.copies.any fun c =>
      c.scratch && c.taken && !c.heldSave && c.receivers.any fun p =>
        c.receiverCore p = core &&
        match s.copyBlock? c p with
        | none => false
        | some b =>
          let lo := off - b.base
          let hi := off + n - b.base
          b.base ≤ off && lo < b.scratch &&
            if store then lo < c.hi && c.lo < hi else c.arr.any fun x => chunkOverlaps x.1 lo hi && !c.landed.contains (p, x.1)

/-! ## Requests outstanding -/

/-- Whose requests: an issued instruction of a hood, or a chunk of a copy. -/
structure Agent where
  core  : Nat
  slot  : Nat
  hood  : Nat
  ctx   : Nat
  pc    : DWord
  copy  : Nat := 0
  chunk : Nat := 0
  gang  : Nat := 0
  pos   : Nat := 0
  idx   : Nat := 0
  launch : Option Nat := none
  ch    : Nat := 0
  via   : Option (Nat × Nat) := none -- the stub that has relayed the access: its PA in the old frame, and the die of the stub
deriving DecidableEq, Repr

/-- Whether a request is an agent's. -/
def Outstanding.of (o : Outstanding) (a : Agent) : Bool :=
  !o.write && o.copy = a.copy &&
    if a.copy = 0 then o.core = a.core && o.slot = a.slot && o.hood = a.hood && o.pc = a.pc else o.chunk = a.chunk

/-- An agent's request for a line (for HOST-UC, an address). -/
def State.request? (s : State) (a : Agent) (kind : PendKind) (line : Nat) (lanes : LaneMask) : Option Outstanding :=
  s.eng.pend.find? fun o => o.of a && o.kind = kind && o.line = line && (o.op.isNone || o.lanes = lanes)

/-- Removes an agent's answered requests. -/
def State.dropAnswers (s : State) (a : Agent) : State :=
  s.modEng fun e => { e with pend := e.pend.filter fun o => !(o.of a && o.answered) }

/-- Whether every request of an agent has been answered or has failed (R427). -/
def State.allAnswered (s : State) (a : Agent) : Bool := s.eng.pend.all fun o => !o.of a || o.answered

/-- How an access stands before it is performed: ready, waiting for an answer, or to be tried again. -/
inductive Gate
  | ready (s : State)
  | wait (s : State)
  | again (s : State)
deriving Repr

/-- Goes on with a further access, keeping the worse outcome: `wait` when any waits, else `again`. -/
def Gate.andThen (g : Gate) (k : State → Gate) : Gate :=
  match g with
  | .ready s => k s
  | .wait s => match k s with | .ready t => .wait t | .wait t => .wait t | .again t => .wait t
  | .again s => match k s with | .ready t => .again t | .wait t => .wait t | .again t => .again t

/-- A request of an agent, before it is numbered. -/
def Agent.request (a : Agent) (line va : Nat) (kind : PendKind) : Outstanding :=
  { txn := 0, die := dieOfCore a.core, core := a.core, slot := a.slot, hood := a.hood, ctx := a.ctx, pc := a.pc, line := line,
    va := va, kind := kind, copy := a.copy, chunk := a.chunk, gang := a.gang, pos := a.pos, idx := a.idx, launch := a.launch,
    old := a.via.map fun x => x.1 / 128 }

/-- Outstanding pod requests that a filter counts. -/
def State.podCount (s : State) (p : Outstanding → Bool) : Nat := s.eng.pend.countP fun o => o.kind = .pod && !o.answered && p o

/-- Whether `n` more pod requests of a core find entries (R428). -/
def State.podRoom (s : State) (core n : Nat) : Bool :=
  s.podCount (fun o => o.core = core) + n ≤ 128 && s.podCount (fun o => o.die = dieOfCore core) + n ≤ 2048

/-- Whether a pod write is a warp's own, wherever the warp has moved since (R118, R141). -/
def Outstanding.byThread (o : Outstanding) (a : Agent) : Bool := o.copy = 0 && a.copy = 0 && o.gang = a.gang && o.pos = a.pos && o.idx = a.idx

/-- Whether an agent's core, or its thread before it moved, has a pod write to a line unacknowledged (R118, R428). -/
def State.podLineBusy (s : State) (a : Agent) (line : Nat) : Bool :=
  s.eng.pend.any fun o => o.kind = .pod && o.write && o.line = line && (o.core = a.core || o.byThread a)

/-- Whether an agent's new access waits behind a drain record of its cluster (R112); one that a stub relays went to the old frame. -/
def State.drainHolds (s : State) (a : Agent) (va : Nat) : Bool := a.via.isNone && s.draining (clusterOfCore a.core) a.ctx va

/-- The drain record that a REDIRECT makes for an access which it has relayed and which has not been answered (R112). -/
def State.drainRelayed (s : State) (a : Agent) (va : Nat) : State :=
  match a.via.bind fun x => s.stubFor x.1 a.ctx va with
  | some t => s.addDrain { cluster := clusterOfCore a.core, ctx := a.ctx, vpn := va % 2 ^ 57 / 2 ^ 16, oldFrame := t.oldFrame, size := t.size }
  | none => s

/-- The die from whose station an agent's pod request leaves: its own, or the old home that relays it (R425, R434). -/
def Agent.outDie (a : Agent) : Nat := a.via.elim (dieOfCore a.core) Prod.snd

/-- Sends a pod read of the bytes `mask` of a line, or an atomic, or finds it answered (R426, R427, R429). -/
def State.askPod (s : State) (a : Agent) (line va : Nat) (lanes : LaneMask) (op : Option AtomicReq) (mask : BitVec 128) : Gate :=
  match s.request? a .pod line lanes with
  | some o => if o.answered then .ready s else .wait s
  | none =>
    if !s.podRoom a.core 1 || s.podLineBusy a line || s.drainHolds a va then .again s
    else match s.region (128 * line) with
      | .pod t off =>
        let st := stationOf a.outDie t off
        let s' := s.addRequest
          { a.request line va .pod with station := st, target := t, lanes := lanes, op := op, mask := mask, since := (s.die (dieOfCore a.core)).tick }
        .wait ((s'.drainRelayed a va).say (match op with
          | none => .podRequest st s.eng.nextPend t line false 0 mask
          | some x => .podAtomic st s.eng.nextPend t line x))
      | _ => .ready s

/-- Sends a posted pod write of one line (R426, R428); `origin` is the instruction, for the lanes it serves. -/
def State.postPod (s : State) (a : Agent) (line va : Nat) (mask : BitVec 128) (d : LineData) (origin : Option InFlight := none) : State :=
  match s.region (128 * line) with
  | .pod t off =>
    let st := stationOf a.outDie t off
    ((s.addRequest
      { a.request line va .pod with station := st, target := t, write := true, data := d, mask := mask,
                                    since := (s.die (dieOfCore a.core)).tick, origin := origin }).drainRelayed a va).say
      (.podRequest st s.eng.nextPend t line true d mask)
  | _ => s

/-- Asks the host's coherence agent for a line, unless the die's L2 holds it well enough (R152) or the answer is there; an answer under
`.na` is not put in L2 (R62). -/
def State.askHost (s : State) (a : Agent) (line va : Nat) (write : Bool) : Gate :=
  let die := dieOfCore a.core
  let held : Bool := (s.l2? die line).any fun (x : L2Line) => !write || x.st ≠ CacheState.s
  if held || (s.request? a .hostCoh line 0).any (fun (o : Outstanding) => o.answered && (!write || o.mask = 1)) then .ready s
  else
    let asked : Bool := s.eng.pend.any fun (o : Outstanding) => o.kind = .hostCoh && o.die = die && o.line = line && o.write = false && !o.answered && o.mask = (if write then 1 else 0)
    let mine : Bool := (s.request? a .hostCoh line 0).any fun (o : Outstanding) => o.mask = (if write then 1 else 0)
    let s' := if mine then s else s.addRequest { a.request line va .hostCoh with mask := if write then 1 else 0, ch := a.ch }
    .wait (if asked then s' else s'.say (.d2hOwn die (hostLine line) (!write)))

/-- Reads `n` bytes of HOST-UC memory over CXL.io (R141). -/
def State.askUc (s : State) (a : Agent) (pa va n : Nat) : Gate :=
  match s.request? a .hostUc pa 0 with
  | some o => if o.answered then .ready s else .wait s
  | none =>
    .wait ((s.addRequest (a.request pa va .hostUc)).say (.cxlIoRead s.eng.nextPend (hostPa pa) n))

/-- Whether a die has used its 4,096 transaction numbers (R146). -/
def State.txnsUsed (s : State) (die : Nat) : Bool :=
  2 ^ 12 ≤ s.coh.outs.countP (fun o => o.die = die) + s.eng.pend.countP fun o => o.kind = .coesk && o.die = die && !o.answered

/-- Waits behind a drain record (R112), behind a transaction on the line at its home, or at the old home that relays it (R150, R485), for the
host to give the line up (R450), or for an answer that a link declared down does not bring (R159). -/
def State.gateHome (s : State) (a : Agent) (l va : Nat) (u : Use_) : Gate :=
  let die := dieOfCore a.core
  let behind := fun (l : Nat) => s.lineBusy l || (s.lineQueued l && !s.servedHere die l u)
  if (s.request? a .coesk l 0).any (·.answered) then .ready s
  else if s.drainHolds a va || behind l || a.via.any (fun x => behind (x.1 / 128)) then .again s
  else if s.hostBlocks die l u then .again (s.askBack l)
  else match s.homeOf l with
    | some home =>
      if home = die || !s.pathDown die home || s.servedHere die l u then .ready s
      else if (s.request? a .coesk l 0).isSome then .wait s
      else if s.txnsUsed die then .again s
      else .wait (s.addRequest { a.request l va .coesk with target := home, since := (s.die die).tick })
    | none => .ready s

/-- The bytes of a line that pieces touch (R426). -/
def lineMask (ps : List Piece) (l : Nat) : BitVec 128 :=
  (ps.filter fun p => p.at / 128 = l).foldl (fun m p => m ||| byteMask (p.at % 128) p.n) 0

/-- How one access of `n` bytes at a storage key stands (reads; atomics carry their request); `mask` is what its instruction reads of the
line. -/
def State.gateRead (s : State) (a : Agent) (attr key va n : Nat) (mask : BitVec 128) : Gate :=
  if scratchKeys ≤ key then .ready s
  else match s.region key with
    | .pod _ _ => s.askPod a (key / 128) va 0 none mask
    | .host => if attr = attrHostUC then s.askUc a key va n else s.askHost a (key / 128) va false
    | .mmio _ => .ready s
    | _ => s.gateHome a (key / 128) va .read

/-- How a store at a storage key stands; pod lines are counted by the caller. -/
def State.gateWrite (s : State) (a : Agent) (attr key va : Nat) (u : Use_) : Gate :=
  if scratchKeys ≤ key then .ready s
  else match s.region key with
    | .pod _ _ => if s.podLineBusy a (key / 128) then .again s else .ready s
    | .host => if attr = attrHostUC then .ready s else s.askHost a (key / 128) va true
    | .mmio _ => .ready s
    | _ => s.gateHome a (key / 128) va u

/-- Folds gates over a list. -/
def gateFold {α : Type} (l : List α) (s : State) (f : State → α → Gate) : Gate :=
  l.foldl (fun g x => g.andThen fun s => f s x) (.ready s)

/-- The agent of a warp's hood. -/
def State.agentOf (s : State) (w : Warp) (hood : Nat) (pc : DWord) : Agent :=
  { core := w.core, slot := w.slot, hood := hood, ctx := w.ctx, pc := pc, gang := w.gang, pos := w.pos, idx := w.idx,
    launch := (s.gang? w.gang).bind Gang.launch }

/-- The agent of an issuing hood, with the instruction's hint. -/
def Issue.agent (c : Issue) : Agent := { c.s.agentOf c.w c.hood c.pc with ch := c.form.hdr.ch.toNat }

/-- Whether an instruction is an acquire promoted to a scope that pod writes matter to (R134). -/
def Issue.promoted (c : Issue) : Bool := match c.form with | .m g => g.promo = 1 && 4 ≤ g.scope.toNat | _ => false

/-- Whether bytes that an access reads were written by a release whose core has still to make pod writes visible (R134). -/
def State.unsettledRelease (s : State) (ps : List Piece) : Bool :=
  s.eng.releases.any fun r => (ps.any fun p => p.at < r.key + r.n && r.key < p.at + p.n) &&
    r.txns.any fun t => s.eng.pend.any fun o => o.write && o.txn = t

/-- The lanes whose cross-die requests have timed out (R159). -/
def State.timedOut (s : State) (a : Agent) (ps : List Piece) : List LaneFault :=
  ps.filterMap fun p => (((s.request? a .coesk (p.at / 128) 0).bind fun o => o.fail).map fun x => { lane := p.lane, cause := x, va := p.va })

/-- An issued instruction waits: the hood stands at it, or, while its lookahead window is open, and past a pod atomic without a destination,
goes on (R236, R335, R427). -/
def Issue.waits (c : Issue) (s : State) (x : Wait) (posted : Bool := false) : Res :=
  let stand := Res.hold (s.modWarp c.w.core c.w.slot fun w => w.waitHood c.hood x)
  if c.aloft || ((formLa c.form ≠ 0 || posted) && !c.retry && c.sent.isEmpty) then
    match x with
    | .remote y => .fly s { hood := c.hood, lanes := c.lanes, x := y, posted := posted }
    | .value y => .fly s { hood := c.hood, lanes := c.lanes, x := y, value := true }
    | _ => stand
  else stand

/-- Performs when every gate is open and, for a promoted acquire, the releases it reads from have taken effect at its scope (R134); else the
hood waits, or tries again (R427, R428). A cross-die request that has timed out fails the instruction, which then changes nothing (R159).
`units` is what it has still to store (R419), `posted` that nothing of its hood waits for it (R427). -/
def Issue.gated (c : Issue) (g : Gate) (ps : List Piece) (k : State → Res) (units : List StoreUnit := []) (posted : Bool := false) : Res :=
  match g with
  | .ready s =>
    (match s.timedOut c.agent ps with
    | [] => if c.promoted && s.unsettledRelease ps then .again s else k s
    | l => .fault (s.dropAnswers c.agent) (groupFaults l c.pc false))
  | .wait s => c.waits s (.remote { c.inFlight ps with units := units }) posted
  | .again s => .again s

end Sys2Proof.Machine
end

