-- ==== Sys2Proof/Machine/Mmio.lean ====
section
/-! DEFINITION. The device MMIO set as loads and stores meet it (R452, R453): what each register reads, and the halves of
its 8-byte registers. -/

namespace Sys2Proof.Machine

open Sys2Proof

/-! ## The topology table (R163) -/

/-- One byte of ROUTE. -/
def State.routeByte (s : State) (i j : Nat) : Nat :=
  if !s.present i || !s.present j then 0
  else
    let r := s.routeOf i j
    r.1 + (if r.2 then 8 else 0) + (if i = j then 16 else 0)

/-- HOME of a quarter: its home agent, with the capabilities that its die has (R162, R163). -/
def State.homeEntry (s : State) (q : Nat) : Nat :=
  if s.present q then q + (if s.hasCap q 1 then 0x10 else 0) + (if s.hasCap q 2 then 0x20 else 0) + (if s.hasCap q 3 then 0x40 else 0) else 8

/-- The 64 bytes of die `d`'s topology table. -/
def State.topologyTable (s : State) (d : Nat) : Nat :=
  let ncomp := (List.range 4).countP s.present
  let route := (List.range 16).foldl (fun a k => a + s.routeByte (k / 4) (k % 4) * 256 ^ (8 + k)) 0
  let home := (List.range 4).foldl (fun a q => a + s.homeEntry q * 65536 ^ (12 + q)) 0
  let ident := (List.range 4).foldl (fun a q =>
    a + (if s.present q then ((s.hub.discovered.lookup q).map fun r => r.ident.toNat).getD (Config.fusedIdent q).toNat else 0) *
      2 ^ (64 * (4 + q))) 0
  1 + ncomp * 2 ^ 16 + d * 2 ^ 24 + route + home + ident

/-! ## Reads -/

/-- The context of a context slot. -/
def State.slotCtx? (s : State) (slot : Nat) : Option Context := s.contexts.find? fun c => c.slot = slot

/-- OWNER (R454). -/
def Hub.owner (h : Hub) : Nat :=
  h.holder + h.succ * 2 ^ 8 + (if h.elect then 2 ^ 11 else 0) + h.hprio * 2 ^ 12 + h.denied.toNat * 2 ^ 16 + h.lease % 2 ^ 32 * 2 ^ 32

/-- BOOTSTAT (R460). -/
def Hub.bootstat (h : Hub) : Nat := h.boot + (if h.bootFail then 256 else 0) + (if h.degraded then 512 else 0)

/-- PODCFG (R424). -/
def Hub.podcfg (h : Hub) : Nat :=
  h.podTout + (if h.podErr then 2 ^ 31 else 0) + h.podDevid * 2 ^ 32 + (if h.podIdv then 2 ^ 40 else 0)

/-- L2CFG (R47). -/
def DieRegs.l2cfg (d : DieRegs) : Nat := d.carve + (if d.busy then 8 else 0) + (if d.cfgerr then 16 else 0)

/-- A station's status register (R422). -/
def Station.status (t : Station) : Nat :=
  (if t.up then 1 else 0) + (if t.downev then 4 else 0) + t.lanes * 16 + t.trims * 256

/-- A context slot's CTL word (R456). -/
def CtxSlot.ctl (c : CtxSlot) : Nat :=
  (c.desc.getD 0 0).toNat + (if c.valid then 256 else 0) + c.status * 65536

/-- PREEMPT (R415). -/
def Context.preempt (c : Context) : Nat :=
  (if c.kind then 2 else 0) + (if c.hold then 8 else 0) + (if c.busy then 32 else 0) + (if c.lost then 64 else 0)

/-- TRCCFG (R442). -/
def Context.trccfg (c : Context) : Nat :=
  (if c.en then 1 else 0) + (if c.ll then 4 else 0) + (if c.allctx then 8 else 0) + (if c.fallback then 128 else 0) +
    (if c.cfgerr then 256 else 0) + c.llwait * 2 ^ 24

/-- The 32 bytes of an entry of a die's stub table (R110). -/
def Stub.bytes (t : Stub) : Nat :=
  t.oldFrame + t.newFrame * 2 ^ 64 + t.gen * 2 ^ 128 +
    (1 + (if t.swap then 2 else 0) + (if t.size = 2 ^ 16 then 0 else 4) + t.chain * 8 + t.ctx * 65536) * 2 ^ 160 + t.vpn * 2 ^ 192

/-- What a register reads. The discovery register holds READY, DEGRADED and FAILED (R161), in bits of the model's choice (log entry 2). A die's
live stubs stand in the order in which they were made, without gaps (log entry 62). -/
def State.mmioRead (s : State) (r : MmioReg) : Nat :=
  match r with
  | .bootstat => s.hub.bootstat
  | .owner => s.hub.owner
  | .claim => 0
  | .tbcfg => s.hub.tbsource
  | .podcfg => s.hub.podcfg
  | .discovery => (if s.hub.ready then 1 else 0) + (if s.hub.degraded then 2 else 0) + (if s.hub.boot = 4 && s.hub.bootFail then 4 else 0)
  | .generation => s.hub.gen
  | .l2cfg d => (s.die d).l2cfg
  | .trainmod d => (s.die d).tmHub + (s.die d).tmLow * 256 + (s.die d).tmHigh * 65536
  | .station t => (s.stations.getD t {}).status
  | .topology d w => s.topologyTable d / 2 ^ (32 * w) % 2 ^ 32
  | .stub d i w => (((s.eng.stubs.filter fun t => t.die = d)[i]?).map fun t => t.bytes / 2 ^ (32 * w) % 2 ^ 32).getD 0
  | .ctxDesc c w => ((s.slots.find? fun x => x.slot = c).map fun x => if w = 0 then x.ctl else (x.desc.getD w 0).toNat).getD 0
  | .preempt c => ((s.slotCtx? c).map Context.preempt).getD 0
  | .faultResponse _ => 0
  | .eventSet c w => ((s.slotCtx? c).map fun x => (x.events.extractLsb' (32 * w) 32).toNat).getD 0
  | .eventClear c w => ((s.slotCtx? c).map fun x => (x.events.extractLsb' (32 * w) 32).toNat).getD 0
  | .queueTable c i => (((s.slotCtx? c).bind fun x => x.queues.find? fun q => q.idx = i).map CmdQueue.hdr).getD 0
  | .trchdr c => ((s.slotCtx? c).map Context.trchdr).getD 0
  | .trccfg c => ((s.slotCtx? c).map Context.trccfg).getD 0
  | .deadPeer w => (s.hub.deadPeers.extractLsb' (32 * w) 32).toNat

/-- What a word of the range reads: zero where no register stands (R452). -/
def State.mmioWord (s : State) (off : Nat) : Nat :=
  match mmioWordReg off with
  | some (r, hi) => s.mmioRead r / (if hi then 2 ^ 32 else 1) % 2 ^ 32
  | none => 0

/-- What `n` bytes of the MMIO range read. -/
def State.mmioLoad (s : State) (off n : Nat) : Nat := s.mmioWord off + (if n = 8 then 2 ^ 32 * s.mmioWord (off + 4) else 0)

/-! ## Writes -/

/-- What the other half of an 8-byte register is written with when a store reaches one half: its value, without the bits that a one
would clear (log entry 2). -/
def State.mmioKeep (s : State) (r : MmioReg) : Nat :=
  match r with
  | .owner => 0
  | .podcfg => s.mmioRead r - s.mmioRead r / 2 ^ 31 % 2 * 2 ^ 31
  | _ => s.mmioRead r

/-- The value with which an 8-byte register is written when a store reaches one half of it. -/
def State.mmioHalf (s : State) (r : MmioReg) (high : Bool) (v : Nat) : Nat :=
  let k := s.mmioKeep r
  if high then v % 2 ^ 32 * 2 ^ 32 + k % 2 ^ 32 else v % 2 ^ 32 + k / 2 ^ 32 * 2 ^ 32

end Sys2Proof.Machine
end

