-- ==== Sys2Proof/Machine/Memory.lean ====
section
/-! DEFINITION. Loads, stores, line instructions, prefetch, cache control, fences and waits (R319 to R329, R333 to R335). -/

namespace Sys2Proof.Machine

open Sys2Proof

/-! ## Operands -/

/-- The final address of a lane (R16, R25, R321). -/
def Issue.address (c : Issue) (f : FormM) (l : Nat) : DWord :=
  if f.space = 0 then BitVec.ofNat 64 (c.vector f.a true 3 l) + f.off.signExtend 64
  else ((BitVec.ofNat 32 (c.vector f.a false 1 l)) + f.off.signExtend 32).setWidth 64

/-- The lanes for which an instruction accesses memory, with their addresses: every active lane, or the lowest (R121, R320). -/
def Issue.addresses (c : Issue) (f : FormM) (scalar : Bool) : List (Nat × DWord) :=
  if c.idle then [] else (if scalar then [c.lane] else LaneMask.lanes c.act).map fun l => (l, c.address f l)

/-- A loaded value as its register takes it (R322). -/
def extendLoad (ty n v : Nat) : Nat := if n < 4 && ty = 0 then ofInteger 32 (toInteger true (8 * n) v) else v

/-! ## Orderings (R119, R126, R141) -/

/-- Whether an ordering acquires, or releases. -/
def ordAcquires (ord : BitVec 2) : Bool := ord.getLsbD 0
def ordReleases (ord : BitVec 2) : Bool := ord.getLsbD 1

/-- Whether a release at a scope must wait for pod writes of the thread, made wherever its warp was (R118, R141, R428). -/
def Issue.podWritesOut (c : Issue) (scope : Nat) : Bool :=
  4 ≤ scope && ((c.s.eng.pend.any fun o => o.write && o.byThread c.agent) || c.w.flights.any Flight.posted)

/-- Whether a release at `.dev` or wider of a registered queue's TAIL, whose edge is one at `.sys` (R126), must wait for pod writes of the
thread. -/
def Issue.tailHeld (c : Issue) (f : FormM) (s : State) (ps : List Piece) : Bool :=
  ordReleases f.ord && 3 ≤ f.scope.toNat && c.podWritesOut 5 && s.contexts.any fun k => k.queues.any fun q =>
    ps.any fun p => p.at < 128 * q.tailPa + 0x44 && 128 * q.tailPa + 0x40 < p.at + p.n

/-- A write of bytes ends the release sequences on them, unless it is an atomic (R123); a release at a scope that waits for no pod write is
noted with those that the device has not had acknowledged, among which are all that happen before it (R134). -/
def Issue.noteRelease (c : Issue) (f : FormM) (atomic : Bool) (ps : List Piece) (s : State) : State :=
  let overlaps := fun (r : ReleaseRec) => ps.any fun p => p.at < r.key + r.n && r.key < p.at + p.n
  let s := if atomic || s.eng.releases.isEmpty then s else s.modEng fun e => { e with releases := e.releases.filter fun r => !overlaps r }
  let txns := (s.eng.pend.filter fun o => o.write).map Outstanding.txn
  if ordReleases f.ord && f.scope.toNat < 4 && !txns.isEmpty then
    s.modEng fun e => { e with releases := e.releases ++ ps.map fun p => { key := p.at, n := p.n, txns := txns } }
  else s

/-- The L1 after an acquire at a scope (R52). -/
def Issue.acquired (c : Issue) (acq : Bool) (scope : Nat) (s : State) : State :=
  if acq && 1 ≤ scope && !c.idle then s.l1Flush c.w.core else s

/-! ## Resolving addresses -/

/-- Checks and translates every lane's address (R34, R100, R323), or takes up the pieces of an access that has waited for answers; relays
them from frames that have moved meanwhile (R111, R139), a dead new home failing the access (R434); then holds it back behind the range
scoreboard (R360). -/
def Issue.resolve (c : Issue) (a : PrepArgs) (store : Bool) (addrs : List (Nat × DWord)) (k : State → List Piece → Res) : Res :=
  let go := fun (s : State) (ps : List Piece) =>
    let r := s.relayAll c.w ps
    let dead : List LaneFault := (ps.zip r.2).filterMap fun x =>
      if x.1.key = x.2.key then none
      else match r.1.region x.2.at with
        | .pod t o => (r.1.podFault (dieOfCore c.w.core) t o).map fun y => { lane := x.2.lane, cause := y, va := x.2.va }
        | _ => none
    if ps.any fun p => p.outside && s.relayWaits c.w.ctx p.va p.at then
      .again (ps.foldl (fun s p => if p.outside then s.noteRelayHold c.w.ctx p.va p.at else s) s)
    else if !dead.isEmpty then .fault r.1 (groupFaults dead c.pc false)
    else if r.2.any fun p => p.hit.isNone && r.1.scoreHolds store p.at p.n then .again r.1 else k r.1 r.2
  if !c.sent.isEmpty then go c.s c.sent
  else match c.s.prep c.w a c.pc addrs c.retry fun l => c.s.eng.pend.any fun o => o.of c.agent && o.kind = .pod && o.line = l with
    | .fault s recs => .fault s recs
    | .park s recs => .park s recs
    | .wait => .stall
    | .again s => .again s
    | .ok s ps => go s ps

/-! ## Reading -/

/-- Reads one piece: from L1, from storage, from a device register, or from the answer of a request; the value, or the fault of
what it consumed (R30, R59, R432). -/
def State.fetchPiece (s : State) (a : Agent) (w : Warp) (p : Piece) (ch : Nat) (fill : Bool) : State × Nat × Option Cause :=
  let plain := fun (_ : Unit) =>
    let (s, v, po) := s.readPiece w p ch fill
    (s, v, po.map fun x => ((0x17, x) : Cause))
  if p.hit.isSome || scratchKeys ≤ p.at then plain ()
  else match s.region p.at with
    | .pod _ _ =>
      match s.request? a .pod (p.at / 128) 0 with
      | some o => (s, (o.data.extractLsb' (8 * (p.at % 128)) (8 * p.n)).toNat, o.fail)
      | none => (s, 0, none)
    | .host =>
      if p.attr = attrHostUC then
        match s.request? a .hostUc p.at 0 with
        | some o => (s, o.data64.toNat % 256 ^ p.n, o.fail)
        | none => (s, 0, none)
      else plain ()
    | .mmio off => (s, s.mmioLoad off p.n, none)
    | _ => plain ()

/-- Adds a piece's value to its lane's. -/
def addLane (l : List (Nat × Nat)) (lane v : Nat) : List (Nat × Nat) :=
  if l.any fun x => x.1 = lane then l.map fun x => if x.1 = lane then (lane, x.2 + v) else x else l ++ [(lane, v)]

/-- Reads every piece: each lane's value, and the lanes that consumed a fault. -/
def State.fetchAll (s : State) (a : Agent) (w : Warp) (ps : List Piece) (ch : Nat) (fill : Bool) :
    State × List (Nat × Nat) × List LaneFault :=
  ps.foldl (fun r p =>
    let (s, v, e) := r.1.fetchPiece a w p ch fill
    (s, addLane r.2.1 p.lane (v * 2 ^ p.shift),
      match e with | none => r.2.2 | some c => r.2.2 ++ [{ lane := p.lane, cause := c, va := p.va }])) (s, [], [])

/-- The kind of store a piece makes. -/
def State.storeTo (s : State) (p : Piece) : StoreTo :=
  if scratchKeys ≤ p.at then .store
  else match s.region p.at with
    | .pod _ _ => .pod
    | .host => if p.attr = attrHostUC then .uc else .store
    | .mmio off => .device off
    | _ => .store

/-- A HOST-UC line is read in 8-byte parts. -/
def ucParts (p : Piece) : List Piece :=
  (List.range ((p.n + 7) / 8)).map fun i =>
    { p with key := some (p.at + 8 * i), va := p.va + 8 * i, n := min 8 (p.n - 8 * i), shift := p.shift + 64 * i }

/-- Splits HOST-UC pieces of more than 8 bytes. -/
def State.splitUc (s : State) (ps : List Piece) : List Piece :=
  ps.flatMap fun p => if 8 < p.n && s.storeTo p = .uc then ucParts p else [p]

/-- Gates of every piece that a load reads. -/
def Issue.readGate (c : Issue) (s : State) (ps : List Piece) : Gate :=
  let out := ps.filter fun p => p.hit.isNone
  gateFold out s fun s p => s.gateRead { c.agent with via := p.from_ } p.attr p.at p.va p.n (lineMask out (p.at / 128))

/-- The fault of what lanes consumed: an error response counts as a hole, for which the instruction parks (R30, R100, R405). -/
def Issue.consumed (c : Issue) (s : State) (bad : List LaneFault) : Res :=
  if bad.all fun b => b.cause = (0x18, 0x02) then .park s (groupFaults bad c.pc true) else .fault s (groupFaults bad c.pc false)

/-- What a load that consumed faults comes to: `k` goes on with what the sound lanes read where poison struck others (R59), and
none of it stands where the fault is another. -/
def Issue.afterLoad (c : Issue) (s : State) (bad : List LaneFault) (some_ : Bool) (k : State → Res) : Res :=
  if bad.isEmpty then k s
  else if some_ && bad.all fun b => b.cause.1 = 0x17 then
    match k s with
    | .next s => .fault s (groupFaults bad c.pc false)
    | r => r
  else c.consumed s bad

/-- L1 after a read that bypasses it: a line that may be older than what was read goes (R122). -/
def Issue.bypassed (c : Issue) (a : PrepArgs) (ps : List Piece) (s : State) : State :=
  if a.useL1 then s else ps.foldl (fun s p => if p.attr = attrWB then s.l1Inval c.w.core c.w.ctx (p.va / 128) else s) s

/-- A load: resolves, waits for what lies outside, reads, and goes on with each lane's value. -/
def Issue.load (c : Issue) (a : PrepArgs) (ch : Nat) (fill : Bool) (addrs : List (Nat × DWord))
    (k : State → List (Nat × Nat) → Res) : Res :=
  c.resolve a false addrs fun s ps =>
    let ps := s.splitUc ps
    c.gated (c.readGate s ps) ps fun s =>
      let (s, vals, bad) := s.fetchAll c.agent c.w ps ch fill
      let s := c.bypassed a ps (s.dropAnswers c.agent)
      let good := vals.filter fun v => !bad.any fun b => b.lane = v.1
      c.afterLoad s bad (!good.isEmpty) fun s => k s good

/-- A lane's value. -/
def laneVal (l : List (Nat × Nat)) (lane : Nat) : Nat := (l.lookup lane).getD 0

/-- The 32-bit and 64-bit types, packed ones apart (R230). -/
def wordTy (ty : Nat) : Bool := [0, 1, 2, 3, 8, 9, 0x12, 0x13].contains ty

/-- The arguments of a plain load or store of `n` bytes: DEVICE memory takes SLD, SST and the 32-bit and 64-bit types (R33); a load that hits
in L1 is served there whatever its ordering (R326). -/
def plainArgs (f : FormM) (acc : AccType) (n : Nat) (scalar : Bool) : PrepArgs :=
  { space := f.space.toNat, n := n, acc := acc, align := n, user := .plain (scalar || wordTy f.ty.toNat), useL1 := acc = .read }

/-- Writes registers after an access and ends it with its acquire. -/
def Issue.loaded (c : Issue) (f : FormM) (s : State) (g : Warp → Warp) : Res :=
  .next (c.acquired (ordAcquires f.ord) f.scope.toNat ({ c with s := s }.put g))

/-- SLD, VLD (R325). -/
def Issue.sld (c : Issue) (f : FormM) : Res :=
  let ty := f.ty.toNat
  let n := widthOf f.s ty
  if c.idle then .next c.s
  else c.load (plainArgs f .read n true) f.hdr.ch.toNat true (c.addresses f true) fun s vals =>
    c.loaded f s fun w => w.putScalar c.lanes f.d (wideTy ty) (extendLoad ty n (laneVal vals c.lane))

/-- VLD (R325). -/
def Issue.vld (c : Issue) (f : FormM) : Res :=
  let ty := f.ty.toNat
  let n := widthOf f.s ty
  if c.idle then .next c.s
  else c.load (plainArgs f .read n false) f.hdr.ch.toNat true (c.addresses f false) fun s vals =>
    c.loaded f s fun w =>
      w.putVector (c.act &&& LaneMask.ofLanes (vals.map Prod.fst)) f.d (wideTy ty) fun l => extendLoad ty n (laneVal vals l)

/-! ## Storing -/

/-- Gates of every piece that a store writes: pod writes need an entry for each line (R428). -/
def Issue.writeGate (c : Issue) (s : State) (ps : List Piece) (u : Use_) : Gate :=
  let pods := ((ps.filter fun p => s.storeTo p = .pod).map fun p => p.at / 128).dedup.length
  (gateFold ps s fun s p => s.gateWrite { c.agent with via := p.from_ } p.attr p.at p.va u).andThen fun s =>
    if s.podRoom c.w.core pods then .ready s else .again s

/-- The instruction as a posted pod write of one line keeps it: for the lanes whose pieces lie in that line (R107). -/
def Issue.origin (c : Issue) (ps : List Piece) (line : Nat) : InFlight :=
  { c.inFlight [] with act := LaneMask.ofLanes ((ps.filter fun p => p.at / 128 = line).map Piece.lane) }

/-- Stores every piece: storage line by line, pod lines as posted writes, host and device accesses once each in lane order (R43, R51, R33,
R325); a register's effect is a later move, so the moves of the device lanes go on the agenda last lane first. -/
def Issue.storeAll (c : Issue) (s : State) (ps : List Piece) (val : Nat → Nat) (ch : Nat) : State :=
  let pick := fun (t : StoreTo) => ps.filter fun p => s.storeTo p = t
  let s' := s.storePieces c.w (pick .store) val ch
  let s' := (mergeStores (pick .pod) val).foldl (fun t x =>
    let first := (pick .pod).find? fun p => p.at / 128 = x.1
    t.postPod { c.agent with via := first.bind Piece.from_ } x.1 (first.elim 0 Piece.va) x.2.1 x.2.2 (some (c.origin (pick .pod) x.1))) s'
  let s' := (pick .uc).foldl (fun t p => t.say (.cxlIoWrite (hostPa p.at) (val p.lane / 2 ^ p.shift % 256 ^ p.n) p.n)) s'
  let s' := ps.reverse.foldl (fun t p => match s.storeTo p with
    | .device off => t.mmioStore c.w.ctx off p.n (val p.lane / 2 ^ p.shift)
    | _ => t) s'
  ps.foldl (fun t p => t.lpWrote c.w p (val p.lane / 2 ^ p.shift)) s'

/-- The stores of an instruction that waits, by single-copy-atomic unit (R132, R419). -/
def State.storeUnits (s : State) (ps : List Piece) (val : Nat → Nat) : List StoreUnit :=
  ps.map fun p => { parts := [(p.at, p.n, p.shift)], val := val p.lane, dest := s.storeTo p, va := p.va }

/-- A store of `n` bytes from each address. -/
def Issue.store (c : Issue) (f : FormM) (n : Nat) (scalar : Bool) (val : Nat → Nat) : Res :=
  if c.idle then .next c.s
  else if ordReleases f.ord && c.podWritesOut f.scope.toNat then .stall
  else c.resolve (plainArgs f .write n scalar) true (c.addresses f scalar) fun s ps =>
    if c.tailHeld f s ps then .again s
    else c.gated (c.writeGate s ps .write) ps (fun s =>
      .next (c.acquired (ordAcquires f.ord) f.scope.toNat
        ((c.noteRelease f false ps (c.storeAll s ps val f.hdr.ch.toNat)).dropAnswers c.agent))) (s.storeUnits ps val)

/-- SST (R325). -/
def Issue.sst (c : Issue) (f : FormM) : Res :=
  c.store f (widthOf f.d f.ty.toNat) true fun _ => c.scalar f.s (wideTy f.ty.toNat) f.ty.toNat

/-- VST (R325). -/
def Issue.vst (c : Issue) (f : FormM) : Res :=
  c.store f (widthOf f.d f.ty.toNat) false fun l => c.vector f.s (wideTy f.ty.toNat) f.ty.toNat l

/-! ## Line instructions (R327) -/

/-- Beats with an active lane. -/
def Issue.beats (c : Issue) : List Nat := (List.range 3).filter fun j => c.act.extractLsb' (32 * j) 32 ≠ 0

/-- The line that each active lane stands for, its beat's: lanes masked off are not checked (R34). -/
def Issue.lineAddresses (c : Issue) (f : FormM) : List (Nat × DWord) :=
  (LaneMask.lanes c.act).map fun l =>
    let a := c.address f 0 + BitVec.ofNat 64 (128 * (l / 32))
    (l, if f.space = 0 then a else (a.setWidth 32).setWidth 64)

/-- The checks of a line instruction: no lane-private window, 128-byte alignment. -/
def lineArgs (f : FormM) (acc : AccType) : PrepArgs :=
  { accept := { lp := false }, space := f.space.toNat, n := 128, acc := acc, align := 128, alignSub := 2,
    useL1 := acc = .read }

/-- The piece of beat `j`. -/
def beatPiece (ps : List Piece) (j : Nat) : Option Piece := ps.find? fun p => p.lane / 32 = j

/-- One tagged line read in one step: data, tag, and poison (R39, R59, R132). -/
def State.fetchLinePiece (s : State) (a : Agent) (w : Warp) (p : Piece) (ch : Nat) (fill : Bool) :
    State × LineData × TagWord × Option Cause :=
  let l := p.at / 128
  let tag := match p.hit with | some x => x.tag | none => if s.tagged l then s.store.tag l else 0
  let (s, v, e) := s.fetchPiece a w p ch fill
  (s, BitVec.ofNat 1024 v, tag, e)

/-- Places a line in a beat of a register. -/
def VReg.putBeat (v : VReg) (j : Nat) (d : LineData) : VReg :=
  (v &&& ~~~((BitVec.allOnes 1024).setWidth 3072 <<< (1024 * j))) ||| (d.setWidth 3072 <<< (1024 * j))

/-- Places a tag in a beat's bytes of a scale register. -/
def KReg.putBeat (k : KReg) (j : Nat) (t : TagWord) : KReg :=
  (k &&& ~~~((BitVec.allOnes 64).setWidth 192 <<< (64 * j))) ||| (t.setWidth 192 <<< (64 * j))

/-- Reads the lines of a line instruction beat by beat; a HOST-UC line in its parts. Each beat's line and tag, and the lanes that
consumed a fault. -/
def Issue.fetchBeats (c : Issue) (f : FormM) (beats : List (Nat × Piece)) (s : State) :
    State × List (Nat × LineData × TagWord) × List LaneFault :=
  beats.foldl (fun r x =>
    let parts := r.1.splitUc [x.2]
    let (s, d, t, e) :=
      if parts.length = 1 then r.1.fetchLinePiece c.agent c.w x.2 f.hdr.ch.toNat true
      else
        let (s, vals, bad) := r.1.fetchAll c.agent c.w parts 0 false
        (s, BitVec.ofNat 1024 ((vals.map Prod.snd).sum), 0, (bad.head?).map LaneFault.cause)
    (s, r.2.1 ++ [(x.1, d, t)], match e with
      | none => r.2.2
      | some z => r.2.2 ++ (List.range 32).map fun i => ({ lane := 32 * x.1 + i, cause := z, va := x.2.va } : LaneFault))) (s, [], [])

/-- The beats of a line instruction with their pieces. -/
def Issue.beatPieces (c : Issue) (ps : List Piece) : List (Nat × Piece) :=
  c.beats.filterMap fun j => (beatPiece ps j).map fun p => (j, p)

/-- Writes the beats that were read to a v register and its k register. -/
def Warp.putBeats (w : Warp) (n : Nat) (got : List (Nat × LineData × TagWord)) : Warp :=
  (w.putV n (got.foldl (fun v x => VReg.putBeat v x.1 x.2.1) (w.getV n))).putK n (got.foldl (fun k x => KReg.putBeat k x.1 x.2.2) (w.getK n))

/-- VLDL (R327). -/
def Issue.vldl (c : Issue) (f : FormM) : Res :=
  if c.idle then .next c.s
  else c.resolve (lineArgs f .read) false (c.lineAddresses f) fun s ps =>
    let beats := c.beatPieces ps
    c.gated (c.readGate s (s.splitUc (beats.map Prod.snd))) ps fun s =>
      let (s, got, bad) := c.fetchBeats f beats s
      let s := s.dropAnswers c.agent
      let got := got.filter fun x => !bad.any fun b => b.lane / 32 = x.1
      c.afterLoad s bad (!got.isEmpty) fun s => c.loaded f s fun w => w.putBeats (regNum f.d) got

/-- One tagged line written whole (R40, R51, R59). -/
def Issue.storeLine (c : Issue) (s : State) (p : Piece) (d : LineData) (t : TagWord) (ch : Nat) : State :=
  let l := p.at / 128
  match s.storeTo p with
  | .pod => s.postPod { c.agent with via := p.from_ } l p.va (BitVec.allOnes 128) d
      (some { c.inFlight [] with act := c.act &&& LaneMask.ofFn fun i => i / 32 = p.lane / 32 })
  | .uc => (ucParts p).foldl (fun s q =>
      s.say (.cxlIoWrite (hostPa q.at) ((d.extractLsb' (8 * (q.at % 128)) (8 * q.n)).toNat) q.n)) s
  | _ =>
    let s := if p.attr = attrWB then s.l1Store c.w.core c.w.ctx (p.va / 128) (BitVec.allOnes 128) d (some t) ch else s
    let s := if isScratch l then s else s.touch (dieOfCore c.w.core) l ch .write
    ((s.writeTagged l d t (s.depthOf c.w)).hostThrough (dieOfCore c.w.core) l).lpWrote c.w p d.toNat

/-- What a VSTL that waits has still to store: a tagged line for each beat (R132, R419). -/
def Issue.lineUnits (c : Issue) (n : Nat) (beats : List (Nat × Piece)) (s : State) : List StoreUnit :=
  beats.map fun x =>
    { parts := [(x.2.at, 128, 0)], val := ((c.w.getV n).extractLsb' (1024 * x.1) 1024).toNat, tag := some ((c.w.getK n).extractLsb' (64 * x.1) 64)
      dest := s.storeTo x.2, va := x.2.va }

/-- VSTL (R327). -/
def Issue.vstl (c : Issue) (f : FormM) : Res :=
  if c.idle then .next c.s
  else if ordReleases f.ord && c.podWritesOut f.scope.toNat then .stall
  else c.resolve (lineArgs f .write) true (c.lineAddresses f) fun s ps =>
    let beats := c.beatPieces ps
    let n := regNum f.s
    if c.tailHeld f s (beats.map Prod.snd) then .again s
    else c.gated (c.writeGate s (beats.map Prod.snd) .write) ps (fun s =>
      let s := beats.foldl (fun s x =>
        c.storeLine s x.2 ((c.w.getV n).extractLsb' (1024 * x.1) 1024) (KReg.tagWord' (c.w.getK n) x.1) f.hdr.ch.toNat) s
      .next (c.acquired (ordAcquires f.ord) f.scope.toNat ((c.noteRelease f false (beats.map Prod.snd) s).dropAnswers c.agent)))
      (c.lineUnits n beats s)
where
  KReg.tagWord' (k : KReg) (j : Nat) : TagWord := k.extractLsb' (64 * j) 64

/-! ## Prefetch and cache control (R328, R329) -/

/-- Asks for a prefetched line (R51, R60, R63, R328): a fill under the hint for what L1 and L2 may cache, a request of its own to the host's
agent for a HOST-COH line that L2 does not hold. -/
def State.askFill (s : State) (core ctx line : Nat) (x : Xlat) (ch : Nat) : State :=
  let die := dieOfCore core
  let pa := x.pa / 128
  if x.attr = attrWB || x.attr = attrNC then
    let f : Fill := { core := core, ctx := ctx, va := line, pa := pa, prio := ch, toL1 := x.attr = attrWB && ch ≠ 3, toL2 := true }
    if s.caches.fills.contains f then s else s.modCaches fun k => { k with fills := k.fills ++ [f] }
  else if x.attr = attrHostCoh then
    if (s.l2? die pa).isSome then s.touch die pa ch .read
    else
      match s.askHost { core := core, slot := 255, hood := 0, ctx := ctx, pc := 0, ch := if ch = 3 then 0 else ch } pa (128 * line) false with
      | .ready s | .wait s | .again s => s
  else s

/-- Whether a prefetch of an address asks for anything (R328): global, canonical, accepted. -/
def Issue.prefLine (c : Issue) (f : FormM) (l : Nat) : Option Nat :=
  let a := c.address f l
  if f.space ≠ 0 || !canonical a then none else some (a.toNat / 128)

/-- A prefetch of one line: a line that L1 holds takes the hint there and is brought into L2 (R60); a translation that is not to hand waits in
the cluster's miss queue, where one page's misses share a walk (R90); a fault ends it. -/
def Issue.prefLane (c : Issue) (f : FormM) (s : State) (line : Nat) : State :=
  let cl := clusterOfCore c.w.core
  let ctx := c.w.ctx
  let ch := f.hdr.ch.toNat
  match s.l1? c.w.core ctx line with
  | some x => (s.l1Touch x ch).askFill c.w.core ctx line { pa := 128 * x.pa, attr := attrNC, frame := 0, size := 0 } ch
  | none => match s.tlb? cl ctx (128 * line) with
    | none =>
      let w : MissWait := { core := c.w.core, line := line, prio := ch }
      let page := 128 * line / 2 ^ 16
      let mine := fun (m : MissEntry) => m.cluster = cl && m.ctx = ctx && m.page = page
      s.modCaches fun x =>
        if x.misses.any mine then
          { x with misses := x.misses.map fun m => if mine m && !m.waits.contains w then { m with waits := m.waits ++ [w] } else m }
        else { x with misses := x.misses ++ [{ cluster := cl, ctx := ctx, page := page, waits := [w] }] }
    | some _ =>
      match s.translate cl ctx (128 * line) .read with
      | (s, .error _) => s
      | (s, .ok x) => (s.useAlias cl ctx (128 * line) x).askFill c.w.core ctx line x ch

/-- Pages whose walks a prefetch adds to the miss queue of its cluster. -/
def Issue.prefPages (c : Issue) (lines : List Nat) : List Nat :=
  let cl := clusterOfCore c.w.core
  ((lines.filter fun l => (c.s.l1? c.w.core c.w.ctx l).isNone && (c.s.tlb? cl c.w.ctx (128 * l)).isNone &&
    !c.s.caches.misses.any fun m => m.cluster = cl && m.ctx = c.w.ctx && m.page = 128 * l / 2 ^ 16).map fun l => 128 * l / 2 ^ 16).dedup

/-- PREF (R328): it waits at its core while the miss queue has no room for its walks (R90), or behind a drain record (R112). -/
def Issue.pref (c : Issue) (f : FormM) : Res :=
  let lines := (LaneMask.lanes c.act).filterMap fun l => c.prefLine f l
  let cl := clusterOfCore c.w.core
  let used := c.s.caches.misses.countP (fun m => m.cluster = cl) + c.s.caches.drains.countP fun d => d.cluster = cl
  if lines.any fun l => c.s.draining cl c.w.ctx (128 * l) then .stall
  else if !(c.prefPages lines).isEmpty && Config.missQueueEntries < used + (c.prefPages lines).length then .stall
  else .next (lines.foldl (fun s l => c.prefLane f s l) c.s)

/-- A line of a die's L2 written to its home and kept clean (R329). -/
def State.l2Clean (s : State) (die l : Nat) : State :=
  match s.l2? die l with
  | none => s
  | some x =>
    if x.dirty || x.st = .m then
      let s := match s.region (128 * l) with | .host => s.say (.d2hWriteBack die (hostLine l) (s.store.line l)) | _ => s
      s.modCoh fun c => { c with l2 := c.l2.map fun y => if y.die = die && y.line = l then
        { y with dirty := false, st := if y.st = .m then .e else y.st } else y }
    else s

/-- CCTL's action on one line (R329): 0 demote, 1 invalidate, 2 write back, 3 evict. -/
def Issue.cctlLine (c : Issue) (op : Nat) (s : State) (p : Piece) : State :=
  let l := p.at / 128
  let die := dieOfCore c.w.core
  let cached := p.attr = attrWB || p.attr = attrNC || p.attr = attrHostCoh
  let aper := match s.region p.at with | .aperture _ _ => true | _ => false
  if !cached || aper || scratchKeys ≤ p.at then s
  else match op with
    | 0 =>
      (s.modCaches fun k => { k with l1 := k.l1.map fun x =>
        if x.core = c.w.core && x.ctx = c.w.ctx && x.va = p.va / 128 then { x with prio := prioNormal } else x }).modCoh fun k =>
          { k with l2 := k.l2.map fun x => if x.die = die && x.line = l then { x with prio := prioNormal } else x }
    | 1 => s.l1Inval c.w.core c.w.ctx (p.va / 128)
    | 2 => s.l2Clean die l
    | _ =>
      let s := (s.l2Clean die l).l1Inval c.w.core c.w.ctx (p.va / 128)
      match s.l2? die l with | some x => s.l2Evict x | none => s

/-- CCTL (R329). -/
def Issue.cctl (c : Issue) (f : FormM) : Res :=
  if c.idle then .next c.s
  else
    c.resolve { accept := { sp := false, ds := false }, space := f.space.toNat, n := 1, acc := .read, user := .control }
      false (c.addresses f false) fun s ps =>
        .next (ps.foldl (fun s p => c.cctlLine (f.s.toNat % 128) s p) s)

/-! ## Fences (R333, R334) -/

/-- FENCE (R333): not at all when the active set is empty (R320). -/
def Issue.fence (c : Issue) (f : FormA) : Res :=
  let scope := f.aux.toNat
  if c.idle then .next c.s
  else if c.podWritesOut scope then .stall
  else .next (if 1 ≤ scope then c.s.l1Flush c.w.core else c.s)

/-- The number under which another device of the pod acknowledges a TFENCE, beyond those of this device's clusters (R434). -/
def podCluster (t : Nat) : Nat := 4 * Config.clustersPerDie + t

/-- The devices of the pod that a TFENCE at `.pod` names: all but this one and those marked dead (R434). -/
def State.podPeers (s : State) : List Nat :=
  if !s.hub.podIdv then []
  else (List.range 192).filter fun t => t ≠ s.hub.podDevid && !s.hub.deadPeers.getLsbD t

/-- The clusters in a scope (R99); at `.pod` those of this device and the other devices of the pod. -/
def State.clustersIn (s : State) (core scope : Nat) : List Nat :=
  if scope = 1 then [clusterOfCore core]
  else if scope = 2 then (List.range 36).map fun i => 36 * dieOfCore core + i
  else s.allClusters ++
    if scope = 4 then s.podPeers.map podCluster else []

/-- Starts a TFENCE; the other devices of its scope are told over the pod (R434). -/
def State.startFence (s : State) (op : TFenceOp) : State :=
  let s := s.modEng fun e => { e with tfences := e.tfences ++ [{ op with ptes := s.caches.ptes }] }
  (op.clusters.filter fun k => podCluster 0 ≤ k).foldl (fun s k => s.say (.podShoot (k - podCluster 0) op.id op.ctx op.lo op.hi)) s

/-- Whether a cluster still has an access on its way that it issued under a translation of a range (R99); one that its home holds or has
relayed is no longer on its way (R485). -/
def State.accessing (s : State) (cl ctx lo hi : Nat) : Bool :=
  let hits := fun (va : Nat) => lo < va / 128 * 128 + 128 && va < hi
  (s.eng.pend.any fun o => clusterOfCore o.core = cl && o.ctx = ctx && !o.answered && o.old.isNone && o.reply.isNone && hits o.va) ||
  (s.caches.fills.any fun f => clusterOfCore f.core = cl && f.ctx = ctx && hits (128 * f.va)) ||
  s.warps.any fun w => clusterOfCore w.core = cl && w.ctx = ctx && w.awaited.any fun p => p.at < scratchKeys && p.from_.isNone && hits p.va

/-- TFENCE (R99, R334). -/
def Issue.tfence (c : Issue) (f : FormM) : Res :=
  let scope := f.scope.toNat
  let ctx := if f.d = 0x1FF then c.w.ctx else c.scalar f.d false 1
  let whole := f.a = 0x1FF
  let lo := c.scalar f.a true 3
  let n := c.scalar f.s false 1
  if c.idle then .next c.s
  else if c.podWritesOut scope then .stall
  else if ctx ≠ c.w.ctx && !(c.s.ctx? c.w.ctx).any Context.system then c.badHood (0x08, 0x04)
  else if !whole && n = 0 then c.badHood (0x03, 0x10)
  else
    let one := fun (x : Cause) =>
      Res.fault c.s [c.record x ((1 : LaneMask) <<< c.lane) (BitVec.ofNat 64 lo)]
    match if whole then none else
        (match c.s.classify c.w { sp := false, ds := false, lp := false } 0 (BitVec.ofNat 64 lo) 1 c.lane with
          | .error x => some x | .ok _ => none) with
    | some x => one x
    | none =>
      match c.s.ctx? ctx with
      | none => .next (c.s.l1Flush c.w.core)
      | some _ =>
        let base := lo / 2 ^ 16 * 2 ^ 16
        let id := c.s.eng.nextTf
        let op : TFenceOp :=
          { id := id, ctx := ctx, all := whole, lo := if whole then 0 else base, hi := if whole then 2 ^ 64 else base + n * 2 ^ 16
            clusters := c.s.clustersIn c.w.core scope, scope := c.s.clustersIn c.w.core scope, hood := some ⟨c.w.core, c.w.slot, c.hood⟩ }
        let s := ((c.s.modEng fun e => { e with nextTf := id + 1 }).startFence op).l1Flush c.w.core
        .hold (s.modWarp c.w.core c.w.slot fun w => w.waitHood c.hood (.tfence id))

/-! ## WAITV (R335) -/

/-- One read of a WAITV: it completes when the value differs from the comparand, and else waits. -/
def Issue.waitv (c : Issue) (f : FormM) : Res :=
  let ty := f.ty.toNat
  let wide := wideTy ty
  let n := if wide then 8 else 4
  if c.idle then .next c.s
  else
    c.load { space := f.space.toNat, n := n, acc := .read, align := n } f.hdr.ch.toNat false (c.addresses f true) fun s vals =>
      let v := laneVal vals c.lane
      if v = c.scalar f.s wide ty then c.waits s (.value (c.inFlight []))
      else c.loaded f s fun w => w.putScalar c.lanes f.d wide v

/-! ## The instructions -/

/-- SLD (R325). -/
def execSld (f : FormM) (s : State) : Host.Outcome State Fault Refusal := issue 0x0C0 (.m f) s fun c => c.sld f
/-- SST (R325). -/
def execSst (f : FormM) (s : State) : Host.Outcome State Fault Refusal := issue 0x0C1 (.m f) s fun c => c.sst f
/-- VLD (R325). -/
def execVld (f : FormM) (s : State) : Host.Outcome State Fault Refusal := issue 0x0C2 (.m f) s fun c => c.vld f
/-- VST (R325). -/
def execVst (f : FormM) (s : State) : Host.Outcome State Fault Refusal := issue 0x0C3 (.m f) s fun c => c.vst f
/-- VLDL (R327). -/
def execVldl (f : FormM) (s : State) : Host.Outcome State Fault Refusal :=
  issue 0x0C4 (.m f) s fun c => c.collective fun c => c.vldl f
/-- VSTL (R327). -/
def execVstl (f : FormM) (s : State) : Host.Outcome State Fault Refusal :=
  issue 0x0C5 (.m f) s fun c => c.collective fun c => c.vstl f
/-- PREF (R328). -/
def execPref (f : FormM) (s : State) : Host.Outcome State Fault Refusal := issue 0x0C6 (.m f) s fun c => c.pref f
/-- CCTL (R329). -/
def execCctl (f : FormM) (s : State) : Host.Outcome State Fault Refusal := issue 0x0C7 (.m f) s fun c => c.cctl f
/-- FENCE (R333). -/
def execFence (f : FormA) (s : State) : Host.Outcome State Fault Refusal := issue 0x0C8 (.a f) s fun c => c.fence f
/-- TFENCE (R334). -/
def execTfence (f : FormM) (s : State) : Host.Outcome State Fault Refusal := issue 0x0C9 (.m f) s fun c => c.tfence f
/-- WAITV (R335). -/
def execWaitv (f : FormM) (s : State) : Host.Outcome State Fault Refusal := issue 0x0CA (.m f) s fun c => c.waitv f

end Sys2Proof.Machine
end

