-- ==== Sys2Proof/Machine/Atomic.lean ====
section
/-! DEFINITION. Atomics (R121, R153, R154, R330 to R332, R429). -/

namespace Sys2Proof.Machine

open Sys2Proof

/-- The request that an atomic makes for one lane. -/
def Issue.atomicReq (c : Issue) (f : FormM) (op lane key : Nat) : AtomicReq :=
  let ty := f.ty.toNat
  let wide := wideTy ty
  { op := op, width := if wide then 8 else 4, signed := ty % 2 = 0, offset := key % 128
    v1 := BitVec.ofNat 64 (c.vector f.s wide ty lane)
    v2 := if op = 7 then BitVec.ofNat 64 (c.vector (f.s + (if wide then 2 else 1)) wide ty lane) else 0 }

/-- Whether a lane's access is split (R22). -/
def laneSplit (ps : List Piece) (lane : Nat) : Bool := 1 < ps.countP fun p => p.lane = lane

/-- What one piece of an atomic asks of the pod: the atomic, or, for a word of a split one, that word's value (log entry 46). -/
def Issue.podReq (c : Issue) (f : FormM) (op : Nat) (ps : List Piece) (p : Piece) : AtomicReq :=
  if laneSplit ps p.lane then { op := 2, width := p.n, signed := false, offset := p.at % 128, v1 := 0, v2 := 0 } else c.atomicReq f op p.lane p.at

/-- The lanes of an atomic whose pod requests have timed out or met a port that is down: the instruction fails, and sends no more (R432). -/
def Issue.podLate (c : Issue) (s : State) (ps : List Piece) : List LaneFault :=
  (ps.filter fun p => s.storeTo p = .pod).filterMap fun p =>
    ((s.request? c.agent .pod (p.at / 128) ((1 : LaneMask) <<< p.lane)).bind Outstanding.fail).bind fun x =>
      if x.1 = 0x41 then some { lane := p.lane, cause := x, va := p.va } else none

/-- The pod lanes of an atomic send one request after another's response (R429); each piece goes where its class puts it (R22, R153). -/
def Issue.atomicGate (c : Issue) (f : FormM) (op : Nat) (s : State) (ps : List Piece) : Gate :=
  let pods := ps.filter fun p => s.storeTo p = .pod
  let rest := gateFold (ps.filter fun p => s.storeTo p ≠ .pod) s fun s p => s.gateWrite { c.agent with via := p.from_ } p.attr p.at p.va .atomic
  let asked := pods.foldl (fun g p => match g with
    | .ready s => s.askPod { c.agent with via := p.from_ } (p.at / 128) p.va ((1 : LaneMask) <<< p.lane) (some (c.podReq f op ps p)) 0
    | g => g) rest
  if !(c.podLate s ps).isEmpty then .ready s else asked.andThen fun s => if s.podRoom c.w.core (pods.filter fun p => laneSplit ps p.lane).length then .ready s else .again s

/-- What an atomic reads of one piece at its execution point, or the fault of what it consumed. -/
def Issue.atomicRead (c : Issue) (s : State) (p : Piece) : Except Cause Nat :=
  if s.storeTo p = .pod then
    match s.request? c.agent .pod (p.at / 128) ((1 : LaneMask) <<< p.lane) with
    | some o => (match o.fail with | some x => .error x | none => .ok (o.data64.toNat % 256 ^ p.n))
    | none => .ok 0
  else match s.store.poisonAt p.at p.n with
    | some x => .error (0x17, x)
    | none => .ok (s.lpView c.w p (s.store.read p.at p.n))

/-- Writes one piece of an atomic: at the home or the requester's L2 for storage (R153), at the target for a word of a split pod atomic; the
target of a whole pod atomic has written it. -/
def Issue.atomicWrite (c : Issue) (f : FormM) (split : Bool) (s : State) (p : Piece) (v : Nat) : State :=
  let l := p.at / 128
  let s :=
    if s.storeTo p = .pod then
      if split then
        s.postPod { c.agent with via := p.from_ } l p.va (byteMask (p.at % 128) p.n) ((BitVec.ofNat 1024 (v % 256 ^ p.n)) <<< (8 * (p.at % 128)))
          (some { c.inFlight [] with act := (1 : LaneMask) <<< p.lane })
      else s
    else
      let s := if isScratch l then s else
        (s.touch (dieOfCore c.w.core) l f.hdr.ch.toNat .atomic).l1Inval c.w.core c.w.ctx (p.va / 128)
      (s.writeIn p.at p.n v (s.depthOf c.w)).hostThrough (dieOfCore c.w.core) l
  s.lpWrote c.w p v

/-- One lane's read-modify-write at its execution point (R153, R332), its pieces taken together (R22): the old value, or the fault
of what it consumed. -/
def Issue.atomicLane (c : Issue) (f : FormM) (op : Nat) (s : State) (ps : List Piece) : State × Except Cause Nat :=
  match ps with
  | [] => (s, .ok 0)
  | p :: _ =>
    let got := ps.foldl (fun r p => r.bind fun v => (c.atomicRead s p).map fun x => v + x * 2 ^ p.shift) (.ok 0 : Except Cause Nat)
    match got with
    | .error x => (s, .error x)
    | .ok old =>
      let r := c.atomicReq f op p.lane p.at
      let new := atomicNew op (ps.map Piece.n).sum r.signed old r.v1.toNat r.v2.toNat
      (ps.foldl (fun s p => c.atomicWrite f (laneSplit ps p.lane) s p (new / 2 ^ p.shift)) s, .ok old)

/-- Every lane's read-modify-write: the old values, and the lanes that consumed a fault. -/
def Issue.atomicAll (c : Issue) (f : FormM) (op : Nat) (ps : List Piece) (s : State) : State × List (Nat × Nat) × List LaneFault :=
  ((ps.map Piece.lane).dedup).foldl (fun r l =>
    let mine := ps.filter fun p => p.lane = l
    match c.atomicLane f op r.1 mine with
    | (s, .ok v) => (s, r.2.1 ++ [(l, v)], r.2.2)
    | (s, .error x) => (s, r.2.1, r.2.2 ++ [({ lane := l, cause := x, va := (mine.head?.map Piece.va).getD 0 } : LaneFault)]))
    (s, [], [])

/-- Writes the destination of an atomic in the lanes that were performed. -/
def Issue.putOld (c : Issue) (f : FormM) (scalar : Bool) (got : List (Nat × Nat)) (w : Warp) : Warp :=
  if scalar then (if got.isEmpty then w else w.putScalar c.lanes f.d (wideTy f.ty.toNat) (laneVal got c.lane))
  else w.putVector (c.act &&& LaneMask.ofLanes (got.map Prod.fst)) f.d (wideTy f.ty.toNat) (laneVal got)

/-- The checks of an atomic (R34, R332). -/
def atomicArgs (f : FormM) (op : Nat) : PrepArgs :=
  let n := if wideTy f.ty.toNat then 8 else 4
  { space := f.space.toNat, n := n, acc := .rmw, align := n, user := .atomic op }

/-- The atomics of an instruction that waits, by lane (R132, R419): of those at a pod target, the ones it has not sent. -/
def Issue.atomicUnits (c : Issue) (f : FormM) (op : Nat) (s : State) (ps : List Piece) : List StoreUnit :=
  ((ps.map Piece.lane).dedup.map fun l => ps.filter fun p => p.lane = l).filterMap fun mine =>
    match mine with
    | [] => none
    | p :: _ =>
      let u : StoreUnit := { parts := mine.map fun q => (q.at, q.n, q.shift), val := 0, op := some (c.atomicReq f op p.lane p.at), va := p.va }
      if mine.all fun q => s.storeTo q = .store then some u
      else if mine.length = 1 && s.storeTo p = .pod && (s.request? c.agent .pod (p.at / 128) ((1 : LaneMask) <<< p.lane)).isNone then
        some { u with dest := .pod }
      else none

/-- ATOM and SATOM (R332). A lane that a pod target answers with an error parks alone, for a retry to send its request again (R107); the
others have been performed. One whose pod request timed out fails the instruction with its destinations unchanged (R432). -/
def Issue.atomic (c : Issue) (f : FormM) (op : Nat) (scalar : Bool) : Res :=
  if c.idle then .next c.s
  else if ordReleases f.ord && c.podWritesOut f.scope.toNat then .stall
  else c.resolve (atomicArgs f op) true (c.addresses f scalar) fun s ps =>
    if c.tailHeld f s ps then .again s
    else c.gated (c.atomicGate f op s ps) ps (posted := f.d = 0x1FF && ps.all fun p => p.attr ≠ attrHostCoh) (fun s =>
      if !(c.podLate s ps).isEmpty then .fault (s.dropAnswers c.agent) (groupFaults (c.podLate s ps) c.pc false) else
      let (s, got, bad) := c.atomicAll f op ps s
      let s := { c with s := (c.noteRelease f true ps s).dropAnswers c.agent }.put (c.putOld f scalar got)
      match bad with
      | [] => .next (c.acquired (ordAcquires f.ord) f.scope.toNat s)
      | l =>
        if l.all fun b => b.cause = (0x18, 0x02) then .parkSome s (groupFaults l c.pc true) (LaneMask.ofLanes (l.map LaneFault.lane))
        else .fault s (groupFaults l c.pc false)) (c.atomicUnits f op s ps)

/-- ATOM.add (R330). -/
def execAtomAdd (f : FormM) (s : State) : Host.Outcome State Fault Refusal :=
  issue 0x0E0 (.m f) s fun c => c.atomic f 0 false
/-- ATOM.and (R330). -/
def execAtomAnd (f : FormM) (s : State) : Host.Outcome State Fault Refusal :=
  issue 0x0E1 (.m f) s fun c => c.atomic f 1 false
/-- ATOM.or (R330). -/
def execAtomOr (f : FormM) (s : State) : Host.Outcome State Fault Refusal :=
  issue 0x0E2 (.m f) s fun c => c.atomic f 2 false
/-- ATOM.xor (R330). -/
def execAtomXor (f : FormM) (s : State) : Host.Outcome State Fault Refusal :=
  issue 0x0E3 (.m f) s fun c => c.atomic f 3 false
/-- ATOM.min (R330). -/
def execAtomMin (f : FormM) (s : State) : Host.Outcome State Fault Refusal :=
  issue 0x0E4 (.m f) s fun c => c.atomic f 4 false
/-- ATOM.max (R330). -/
def execAtomMax (f : FormM) (s : State) : Host.Outcome State Fault Refusal :=
  issue 0x0E5 (.m f) s fun c => c.atomic f 5 false
/-- ATOM.exch (R330). -/
def execAtomExch (f : FormM) (s : State) : Host.Outcome State Fault Refusal :=
  issue 0x0E6 (.m f) s fun c => c.atomic f 6 false
/-- ATOM.cas (R330). -/
def execAtomCas (f : FormM) (s : State) : Host.Outcome State Fault Refusal :=
  issue 0x0E7 (.m f) s fun c => c.atomic f 7 false
/-- ATOM.incw (R330). -/
def execAtomIncw (f : FormM) (s : State) : Host.Outcome State Fault Refusal :=
  issue 0x0E8 (.m f) s fun c => c.atomic f 8 false
/-- ATOM.decw (R330). -/
def execAtomDecw (f : FormM) (s : State) : Host.Outcome State Fault Refusal :=
  issue 0x0E9 (.m f) s fun c => c.atomic f 9 false
/-- ATOM.fadd.f32 (R330). -/
def execAtomFaddF32 (f : FormM) (s : State) : Host.Outcome State Fault Refusal :=
  issue 0x0EA (.m f) s fun c => c.atomic f 10 false
/-- ATOM.fadd.bf16x2 (R330). -/
def execAtomFaddBf16x2 (f : FormM) (s : State) : Host.Outcome State Fault Refusal :=
  issue 0x0EB (.m f) s fun c => c.atomic f 11 false
/-- ATOM.fmin.f32 (R330). -/
def execAtomFminF32 (f : FormM) (s : State) : Host.Outcome State Fault Refusal :=
  issue 0x0EC (.m f) s fun c => c.atomic f 12 false
/-- ATOM.fmax.f32 (R330). -/
def execAtomFmaxF32 (f : FormM) (s : State) : Host.Outcome State Fault Refusal :=
  issue 0x0ED (.m f) s fun c => c.atomic f 13 false
/-- SATOM.add (R330). -/
def execSatomAdd (f : FormM) (s : State) : Host.Outcome State Fault Refusal :=
  issue 0x0F0 (.m f) s fun c => c.atomic f 0 true
/-- SATOM.and (R330). -/
def execSatomAnd (f : FormM) (s : State) : Host.Outcome State Fault Refusal :=
  issue 0x0F1 (.m f) s fun c => c.atomic f 1 true
/-- SATOM.or (R330). -/
def execSatomOr (f : FormM) (s : State) : Host.Outcome State Fault Refusal :=
  issue 0x0F2 (.m f) s fun c => c.atomic f 2 true
/-- SATOM.xor (R330). -/
def execSatomXor (f : FormM) (s : State) : Host.Outcome State Fault Refusal :=
  issue 0x0F3 (.m f) s fun c => c.atomic f 3 true
/-- SATOM.min (R330). -/
def execSatomMin (f : FormM) (s : State) : Host.Outcome State Fault Refusal :=
  issue 0x0F4 (.m f) s fun c => c.atomic f 4 true
/-- SATOM.max (R330). -/
def execSatomMax (f : FormM) (s : State) : Host.Outcome State Fault Refusal :=
  issue 0x0F5 (.m f) s fun c => c.atomic f 5 true
/-- SATOM.exch (R330). -/
def execSatomExch (f : FormM) (s : State) : Host.Outcome State Fault Refusal :=
  issue 0x0F6 (.m f) s fun c => c.atomic f 6 true
/-- SATOM.cas (R330). -/
def execSatomCas (f : FormM) (s : State) : Host.Outcome State Fault Refusal :=
  issue 0x0F7 (.m f) s fun c => c.atomic f 7 true
/-- SATOM.incw (R330). -/
def execSatomIncw (f : FormM) (s : State) : Host.Outcome State Fault Refusal :=
  issue 0x0F8 (.m f) s fun c => c.atomic f 8 true
/-- SATOM.decw (R330). -/
def execSatomDecw (f : FormM) (s : State) : Host.Outcome State Fault Refusal :=
  issue 0x0F9 (.m f) s fun c => c.atomic f 9 true
/-- SATOM.fadd.f32 (R330). -/
def execSatomFaddF32 (f : FormM) (s : State) : Host.Outcome State Fault Refusal :=
  issue 0x0FA (.m f) s fun c => c.atomic f 10 true
/-- SATOM.fadd.bf16x2 (R330). -/
def execSatomFaddBf16x2 (f : FormM) (s : State) : Host.Outcome State Fault Refusal :=
  issue 0x0FB (.m f) s fun c => c.atomic f 11 true
/-- SATOM.fmin.f32 (R330). -/
def execSatomFminF32 (f : FormM) (s : State) : Host.Outcome State Fault Refusal :=
  issue 0x0FC (.m f) s fun c => c.atomic f 12 true
/-- SATOM.fmax.f32 (R330). -/
def execSatomFmaxF32 (f : FormM) (s : State) : Host.Outcome State Fault Refusal :=
  issue 0x0FD (.m f) s fun c => c.atomic f 13 true

end Sys2Proof.Machine
end

