-- ==== Sys2Proof/Machine/Band.lean ====
section
/-! DEFINITION. Bands (R354 to R359): the object, its operations and the band instructions. -/

namespace Sys2Proof.Machine

open Sys2Proof

/-- A band object (R354). -/
structure Band where
  expect  : Nat
  arrived : Nat
  done    : Nat
  magic   : Nat
  err     : Nat
  chunks  : Nat
deriving DecidableEq, Repr

/-- The magic of a band. -/
def bandMagic : Nat := 0xFE17ED

/-- A band from its 32 bytes. -/
def Band.ofNat (v : Nat) : Band :=
  { expect := natBits v 0 32, arrived := natBits v 32 32, done := natBits v 64 8, magic := natBits v 72 24
    err := natBits v 96 32, chunks := natBits v 128 128 }

/-- The 32 bytes of a band. -/
def Band.toNat (b : Band) : Nat :=
  b.expect % 2 ^ 32 + b.arrived % 2 ^ 32 * 2 ^ 32 + (b.done % 256 + b.magic * 256) * 2 ^ 64 + b.err % 2 ^ 32 * 2 ^ 96 +
    b.chunks % 2 ^ 128 * 2 ^ 128

/-- Sets an ERR bit. -/
def Band.orErr (b : Band) (x : Nat) : Band := { b with err := b.err ||| x }

/-- settle() (R356). -/
def Band.settle (b : Band) : Band :=
  if b.expect = 0 then (if 0 < b.arrived then b.orErr 2 else b)
  else if b.expect ≤ b.arrived then
    { (if b.expect < b.arrived then b.orErr 1 else b) with done := (b.done + 1) % 256, arrived := b.arrived - b.expect }
  else b

/-- Adds to ARRIVED, saturating (R356). -/
def Band.add (b : Band) (n : Nat) : Band :=
  let x := b.arrived + n
  if 0xFFFFFFFF < x then { b.orErr 1 with arrived := 0xFFFFFFFF } else { b with arrived := x }

/-- BANDI. -/
def Band.init : Band := { expect := 0, arrived := 0, done := 0, magic := bandMagic, err := 0, chunks := 0 }

/-- BANDX. -/
def Band.arm (b : Band) (expect base : Nat) : Band :=
  Band.settle { b with expect := expect, err := b.err % 65536 + base / 512 * 65536, chunks := 0 }

/-- An engine arrival of `n` bytes (R352, R356, R363); `off` is the chunk's window offset where it sets a bit. -/
def Band.arrive (b : Band) (n : Nat) (off : Option Nat) (lost : Bool) : Band :=
  let b := b.add n
  let b := if lost then b.orErr 4 else b
  let b := match off with
    | some o =>
      let k := o / 512
      let d := b.err / 65536
      if d ≤ k && k - d < 128 then { b with chunks := b.chunks ||| 2 ^ (k - d) } else b
    | none => b
  b.settle

/-- Whether phase `t` of a band has completed (R357). -/
def Band.completed (b : Band) (t : Nat) : Bool := (b.done + 256 - t % 256) % 256 < 128

/-- The band at a storage key. -/
def State.band (s : State) (k : Nat) : Band := Band.ofNat (s.store.read k 32)

/-- The resident block whose allocation holds a scratchpad byte, with its gang. -/
def State.blockHolding? (s : State) (k : Nat) : Option (Gang × Block) :=
  if k < scratchKeys then none
  else
    let core := (k - scratchKeys) / Config.scratchBytes
    let off := (k - scratchKeys) % Config.scratchBytes
    s.sched.gangs.findSome? fun g =>
      if g.status = .resident || g.status = .stopping then
        (g.blocks.find? fun b => b.core = core && b.base ≤ off && off < b.base + b.scratch).map fun b => (g, b)
      else none

/-- The fields of a band at a key (R354). -/
def Band.fields (b : Band) (ctx k : Nat) : List DevField :=
  [(0, 4), (4, 4), (8, 4), (12, 4), (16, 16)].map fun x =>
    { obj := k, kind := .band, ctx := ctx, key := k + x.1, n := x.2, val := b.toNat / 256 ^ x.1 % 256 ^ x.2 }

/-- Writes a band of a context. When a phase completes, the flags of the copies counted in it become due (R78, R357). -/
def State.putBand (s : State) (ctx k : Nat) (old new : Band) (depth : Nat) : State :=
  let s := (s.putField { obj := k, kind := .band, ctx := ctx, key := k, n := 32, val := new.toNat } depth).noteFields (new.fields ctx k)
  if old.done = new.done then s
  else match s.blockHolding? k with
    | none => s
    | some (g, b) =>
      let off := k - scratchKey b.core b.base
      s.modEng fun e => { e with bandFlags := e.bandFlags.map fun x =>
        if x.gang = g.id && x.bpos = b.pos && x.band = off then { x with ready := true } else x }

/-! ## Addresses (R355) -/

/-- The storage key of an object that lies in a scratchpad, cluster or die-scratch window, for the lowest active lane: aligned to
`align`, with the subcode of that fault. -/
def Issue.objectKey (c : Issue) (f : FormM) (n align sub : Nat) : Except FaultRec Nat :=
  let a := c.address f c.lane
  let bad := fun (x : Cause) => Except.error (c.record x ((1 : LaneMask) <<< c.lane) a)
  match c.s.classify c.w { lp := false } f.space.toNat a n c.lane with
  | .error x => bad x
  | .ok ps =>
    match ps.head?.bind Piece.key with
    | none => bad (0x15, 0x05)
    | some k => if a.toNat % align ≠ 0 then bad (0x13, sub) else .ok k

/-- A band operation: its address, then `k` with the storage key. -/
def Issue.bandOp (c : Issue) (f : FormM) (store : Bool) (k : Nat → Res) : Res :=
  if c.idle then .next c.s
  else match c.objectKey f 32 32 3 with
    | .error r => .fault c.s [r]
    | .ok key => if c.s.scoreHolds store key 32 then .stall else k key

/-- The scope of an object at a key for the issuing warp: 0 `.core`, 1 `.clus`, 2 `.die` (R356). -/
def Issue.objectScope (c : Issue) (key : Nat) : Nat :=
  if key < scratchKeys then 2 else if (key - scratchKeys) / Config.scratchBytes = c.w.core then 0 else 1

/-- BANDI (R356). -/
def Issue.bandi (c : Issue) (f : FormM) : Res :=
  c.bandOp f true fun k => .next (c.s.putBand c.w.ctx k Band.init Band.init (c.s.depthOf c.w))

/-- BANDX (R355, R356). -/
def Issue.bandx (c : Issue) (f : FormM) : Res :=
  c.bandOp f true fun k =>
    let base := if f.d = 0x1FF then 0 else c.scalar f.d false 1
    let b := c.s.band k
    if base % 512 ≠ 0 || 0x80000 ≤ base then c.badHood (0x03, 0x10)
    else if b.magic ≠ bandMagic then c.badHood (0x22, 0x02)
    else .next (c.s.putBand c.w.ctx k b (b.arm (c.scalar f.s false 1) base) (c.s.depthOf c.w))

/-- BANDA (R355, R356). -/
def Issue.banda (c : Issue) (f : FormM) : Res :=
  c.bandOp f true fun k =>
    let n := c.scalar f.s false 1
    let b := c.s.band k
    if n = 0 then c.badHood (0x03, 0x10)
    else if b.magic ≠ bandMagic then c.badHood (0x22, 0x02)
    else .next (c.s.putBand c.w.ctx k b (b.add n).settle (c.s.depthOf c.w))

/-- A warp's wait on a band has succeeded: the flags of its own copies counted in the band's completed phases reach its FLAGS (R78, R350). -/
def State.deliverFlags (s : State) (w : Warp) (key : Nat) : State :=
  match s.blockHolding? key with
  | none => s
  | some (g, b) =>
    let due := fun (x : BandFlags) => x.ready && x.gang = w.gang && x.pos = w.pos && x.widx = w.idx && x.gang = g.id && x.bpos = b.pos && x.band = key - scratchKey b.core b.base
    let flags := s.eng.bandFlags.filter due
    if flags.isEmpty then s
    else
      let s := s.modEng fun e => { e with bandFlags := e.bandFlags.filter fun x => !due x }
      s.modWarp w.core w.slot fun w => flags.foldl (fun w x => w.orFlags x.flags) w

/-- BANDW (R357): returns, or waits. -/
def Issue.bandw (c : Issue) (f : FormM) : Res :=
  c.bandOp f false fun k =>
    let t := c.scalar f.s false 1
    let b := c.s.band k
    if 255 < t then c.badHood (0x03, 0x10)
    else if b.magic ≠ bandMagic then c.badHood (0x22, 0x03)
    else if b.completed t then
      .next (c.acquired true (c.objectScope k) ({ c with s := c.s.deliverFlags c.w k }.put fun w => w.putScalar c.lanes f.d false b.err))
    else .hold (c.s.modWarp c.w.core c.w.slot fun w => w.waitHood c.hood (.band (c.inFlight [])))

/-- BANDT (R358). -/
def Issue.bandt (c : Issue) (f : FormM) : Res :=
  c.bandOp f false fun k =>
    let b := c.s.band k
    if b.magic ≠ bandMagic then c.badHood (0x22, 0x03)
    else c.done fun w => w.setQ (regNum f.d) c.act
      (LaneMask.ofFn fun l => let i := c.vector f.s false 1 l; i < 128 && b.chunks.testBit i)

/-- BANDI (R356). -/
def execBandi (f : FormM) (s : State) : Host.Outcome State Fault Refusal := issue 0x100 (.m f) s fun c => c.bandi f
/-- BANDX (R356). -/
def execBandx (f : FormM) (s : State) : Host.Outcome State Fault Refusal := issue 0x101 (.m f) s fun c => c.bandx f
/-- BANDA (R356). -/
def execBanda (f : FormM) (s : State) : Host.Outcome State Fault Refusal := issue 0x102 (.m f) s fun c => c.banda f
/-- BANDW (R357). -/
def execBandw (f : FormM) (s : State) : Host.Outcome State Fault Refusal := issue 0x103 (.m f) s fun c => c.bandw f
/-- BANDT (R358). -/
def execBandt (f : FormM) (s : State) : Host.Outcome State Fault Refusal := issue 0x104 (.m f) s fun c => c.bandt f

end Sys2Proof.Machine
end

