-- ==== Sys2Proof/Machine/Layout.lean ====
section
/-! DEFINITION. Layout records and the geometry of a copy (R340, R341, R343, R347, R348, R352, R353, R473). -/

namespace Sys2Proof.Machine

open Sys2Proof

/-- A layout record (R340). `stride` has an entry for dimension 0 that is never used. -/
structure Layout where
  base   : Nat
  ty     : Nat
  rank   : Nat
  tagged : Bool
  tight  : Bool
  quant  : Nat
  ext    : List Nat
  box    : List Nat
  perm   : List Nat
  stride : List Nat
  limit  : Nat
  sbase  : Nat
  resv   : Bool           -- a reserved field or bit is nonzero
deriving DecidableEq, Repr

/-- The fields of a record. -/
def Layout.ofRec (r : BitVec 1024) : Layout :=
  let v := r.toNat
  let at_ := fun (off len : Nat) => v / 2 ^ (8 * off) % 256 ^ len
  let form := at_ 0x08 4
  let perm := at_ 0x2E 2
  { base := at_ 0 8, ty := form % 32, rank := form / 32 % 8, tagged := form.testBit 8, tight := form.testBit 9
    quant := form / 2 ^ 11 % 4
    ext := (List.range 5).map fun d => at_ (0x10 + 4 * d) 4
    box := (List.range 5).map fun d => at_ (0x24 + 2 * d) 2
    perm := (List.range 5).map fun d => perm / 2 ^ (3 * d) % 8
    stride := 0 :: (List.range 4).map fun d => at_ (0x30 + 8 * d) 8
    limit := at_ 0x50 8, sbase := at_ 0x58 8
    resv := form.testBit 10 || form / 2 ^ 13 ≠ 0 || at_ 0x0C 4 ≠ 0 || perm.testBit 15 || at_ 0x60 32 ≠ 0 }

/-- MX element types. -/
def isMx (ty : Nat) : Bool := 0x0C ≤ ty && ty ≤ 0x10

/-- Whether a layout is MX, and whether its scales lie in a scale array. -/
def Layout.mx (r : Layout) : Bool := isMx r.ty
def Layout.split (r : Layout) : Bool := r.mx && !r.tagged

/-- Bits of an element (R341). -/
def elemBitsOf (ty : Nat) : Nat :=
  if ty = 0x10 then 4
  else if ty = 6 || ty = 7 || (0x0C ≤ ty && ty ≤ 0x0F) || ty = 0x11 then 8
  else if ty = 4 || ty = 5 || ty = 10 || ty = 11 then 16
  else if ty = 2 || ty = 3 || ty = 9 || ty = 0x13 then 64 else 32

/-- Bits of an element as a layout stores it. -/
def Layout.bits (r : Layout) : Nat := if r.tight then 6 else elemBitsOf r.ty

/-- The bytes of one row of dimension 0 (R341). -/
def Layout.rowBytes (r : Layout) : Nat :=
  if r.tight then (r.ext.getD 0 0 + 159) / 160 * 128 else (r.ext.getD 0 0 * r.bits + 7) / 8

/-- An index's entry. -/
def idx (c : List Nat) (d : Nat) : Nat := c.getD d 0

/-- The bit address of an element (R341, R71). -/
def Layout.bitAddr (r : Layout) (c : List Nat) : Nat :=
  let a := r.base + ((List.range 4).map fun d => idx c (d + 1) * idx r.stride (d + 1)).sum
  if r.tight then 8 * (a + 128 * (idx c 0 / 160)) + 6 * (idx c 0 % 160) else 8 * a + idx c 0 * r.bits

/-- Where a block's scale lies: a tag byte of a line, or a byte of the scale array (R341, R71). -/
inductive ScaleAt
  | tag (line t : Nat)
  | byte (a : Nat)
deriving DecidableEq, Repr

/-- The scale of the block that element `c` begins. -/
def Layout.scaleAt (r : Layout) (c : List Nat) : ScaleAt :=
  if r.tagged then
    let b := r.bitAddr c
    .tag (b / 1024) (b % 1024 / (32 * r.bits))
  else
    let e := idx r.ext
    .byte (r.sbase + (idx c 0 / 32 + e 0 / 32 * (idx c 1 + e 1 * (idx c 2 + e 2 * (idx c 3 + e 3 * idx c 4)))))

/-! ## XLAY's checks (R343) -/

/-- Bits of a window address outside its fields (R17). -/
def windowStray (a : Nat) : Bool :=
  match a / 2 ^ 52 with
  | 0xFE0 => a % 2 ^ 52 / 2 ^ 19 ≠ 0
  | 0xFE1 => a % 2 ^ 52 / 2 ^ 22 ≠ 0 || a.testBit 19
  | 0xFE2 => a % 2 ^ 52 / 2 ^ 28 ≠ 0
  | _ => false

/-- Whether an address lies in a scratchpad window. -/
def scratchWindow (a : Nat) : Bool := a / 2 ^ 52 = 0xFE0 || a / 2 ^ 52 = 0xFE1

/-- Status −2's conditions. -/
def Layout.malformed (r : Layout) : Bool :=
  let dims := List.range 5
  r.resv || r.rank = 0 || 5 < r.rank || 0x14 ≤ r.ty || 2 ≤ r.quant ||
  dims.any (fun d => d < r.rank && (idx r.ext d = 0 || idx r.box d = 0 || idx r.ext d < idx r.box d)) ||
  dims.any (fun d => r.rank ≤ d && (idx r.ext d ≠ 1 || idx r.box d ≠ 1)) ||
  dims.any (fun d => d < r.rank && (r.rank ≤ idx r.perm d || dims.any fun e => e < d && idx r.perm e = idx r.perm d)) ||
  dims.any (fun d => r.rank ≤ d && idx r.perm d ≠ d) ||
  (r.tagged && !r.mx) || (r.tight && (!r.tagged || (r.ty ≠ 0x0E && r.ty ≠ 0x0F))) ||
  idx r.stride 1 < r.rowBytes || (List.range 3).any fun d => idx r.stride (d + 2) < idx r.stride (d + 1) * idx r.ext (d + 1)

/-- Status −3's conditions. -/
def Layout.misaligned (r : Layout) : Bool :=
  let al := if r.tagged then 128 else 16
  r.base % al ≠ 0 || ((List.range r.rank).any fun d => 0 < d && idx r.stride d % al ≠ 0) ||
  (r.mx && (idx r.ext 0 % 32 ≠ 0 || idx r.box 0 % 32 ≠ 0))

/-- Status −6's conditions. -/
def Layout.badWindow (r : Layout) : Bool :=
  r.base / 2 ^ 52 = 0xFE3 || (r.tight && scratchWindow r.base) || windowStray r.base

/-- Status −4's conditions. -/
def Layout.outside (r : Layout) : Bool :=
  let last := (r.bitAddr (r.ext.map (· - 1)) + r.bits - 1) / 8
  let blocks := idx r.ext 0 / 32 * idx r.ext 1 * idx r.ext 2 * idx r.ext 3 * idx r.ext 4
  r.limit ≤ r.base || r.limit ≤ last || (r.split && (r.sbase < r.base || r.limit < r.sbase + blocks))

/-- The status of a record on its own (R343), as its magnitude: 2, 3, 6 or 4; 0 when it passes. -/
def Layout.status (r : Layout) : Nat :=
  if r.malformed then 2 else if r.misaligned then 3 else if r.badWindow then 6 else if r.outside then 4 else 0

/-! ## Transforms (R348) -/

/-- Whether source and destination pair under a transform. -/
def pairs (xop : Nat) (s d : Layout) : Bool :=
  let same := s.ty = d.ty
  let form := same && s.tagged = d.tagged && s.tight = d.tight
  let flt := fun (t : Nat) => t = 8 || t = 10 || t = 11
  match xop with
  | 0 => form
  | 1 => same && !s.mx && 2 ≤ s.rank
  | 2 => form && (!s.mx || idx s.perm 0 = 0)
  | 3 => same && (s.ty = 0x0E || s.ty = 0x0F) && s.tagged && !s.tight && d.tight
  | 4 => same && s.tight && d.tagged && !d.tight
  | 5 => same && s.mx && s.tagged && !s.tight && d.split
  | 6 => same && s.split && d.tagged && !d.tight
  | 7 => flt s.ty && d.mx && !d.tight
  | _ => s.mx && !s.tight && flt d.ty

/-- j from i. -/
def transformIndex (xop : Nat) (perm i : List Nat) : List Nat :=
  match xop with
  | 1 => [idx i 1, idx i 0, idx i 2, idx i 3, idx i 4]
  | 2 => (List.range 5).map fun d => idx i (idx perm d)
  | _ => i

/-- The index vectors of a box, dimension 0 fastest (R347). -/
def boxIndices (box : List Nat) : List (List Nat) :=
  box.foldr (fun n rest => rest.flatMap fun r => (List.range n).map fun i => i :: r) [[]]

/-- The geometry of one copy: the two records, the transform and the start coordinates. -/
structure Geometry where
  src : Layout
  dst : Layout
  xop : Nat
  sc  : List Nat
  dc  : List Nat
deriving DecidableEq, Repr

/-- A copy's geometry. -/
def Copy.geometry (c : Copy) : Geometry := ⟨Layout.ofRec c.srec, Layout.ofRec c.drec, c.xop, c.sc, c.dc⟩

/-- Source coordinates of index `i` (R347). -/
def Geometry.sOf (g : Geometry) (i : List Nat) : List Nat :=
  (List.range 5).map fun d => (idx g.sc d + idx i d) % max 1 (idx g.src.ext d)

/-- Destination coordinates of index `i`. -/
def Geometry.dOf (g : Geometry) (i : List Nat) : List Nat :=
  let j := transformIndex g.xop g.src.perm i
  (List.range 5).map fun d => (idx g.dc d + idx j d) % max 1 (idx g.dst.ext d)

/-- Whether the copy writes scales: its destination is MX. -/
def Geometry.scales (g : Geometry) : Bool := g.dst.mx

/-- The chunk that holds a byte address (R352). -/
def chunkOf (a : Nat) : Nat := a / 512

/-- The chunk of a scale. -/
def ScaleAt.chunk : ScaleAt → Nat
  | .tag l _ => chunkOf (128 * l)
  | .byte a => chunkOf a

/-- What one index writes: its chunk and bits, and at the first element of a block its scale's chunk (R473). -/
def Geometry.writes (g : Geometry) (i : List Nat) : List (Nat × Nat) :=
  (chunkOf (g.dst.bitAddr (g.dOf i) / 8), g.dst.bits) ::
    if g.scales && idx i 0 % 32 = 0 then [((g.dst.scaleAt (g.dOf i)).chunk, 8)] else []

/-- The chunks of a copy in walk order, each with the bytes its arrival counts (R352, R473). -/
def Geometry.arrivals (g : Geometry) : List (Nat × Nat) :=
  (((boxIndices g.src.box).foldl (fun l i =>
    (g.writes i).foldl (fun l x =>
      if l.any fun y => y.1 = x.1 then l.map fun y => if y.1 = x.1 then (y.1, y.2 + x.2) else y else l ++ [x]) l)
    ([] : List (Nat × Nat))).map fun x => (x.1, x.2 / 8))

/-- Grows a range by the bytes `a` to `b`. -/
def grow (r : Option (Nat × Nat)) (a b : Nat) : Option (Nat × Nat) :=
  match r with | none => some (a, b) | some (lo, hi) => some (min lo a, max hi b)

/-- The bounding byte range of the elements and of the scale array, separately: first and last byte (R353). -/
def boundOf (r : Layout) (coords : List (List Nat)) : Option (Nat × Nat) × Option (Nat × Nat) :=
  coords.foldl (fun x c =>
    let b := r.bitAddr c
    (grow x.1 (b / 8) ((b + r.bits - 1) / 8),
     if r.split then match r.scaleAt c with | .byte a => grow x.2 a a | .tag .. => x.2 else x.2)) (none, none)

/-- All coordinates that a copy reads, and that it writes. -/
def Geometry.sources (g : Geometry) : List (List Nat) := (boxIndices g.src.box).map g.sOf
def Geometry.dests (g : Geometry) : List (List Nat) := (boxIndices g.src.box).map g.dOf

/-- The bounding range of both parts together. -/
def bothBounds (x : Option (Nat × Nat) × Option (Nat × Nat)) : Nat × Nat :=
  match x.1, x.2 with
  | some a, some b => (min a.1 b.1, max a.2 b.2)
  | some a, none => a
  | none, some b => b
  | none, none => (0, 0)

/-- The byte ranges a list of coordinates touches, by line: line and first and last byte touched in it. -/
def touchedRanges (r : Layout) (coords : List (List Nat)) : List (Nat × Nat × Nat) :=
  let add := fun (l : List (Nat × Nat × Nat)) (a b : Nat) =>
    if l.any fun x => x.1 = a / 128 then l.map fun x => if x.1 = a / 128 then (x.1, min x.2.1 a, max x.2.2 b) else x
    else l ++ [(a / 128, a, b)]
  coords.foldl (fun l c =>
    let b := r.bitAddr c
    let l := add l (b / 8) ((b + r.bits - 1) / 8)
    if r.split then match r.scaleAt c with | .byte a => add l a a | .tag .. => l else l) []

end Sys2Proof.Machine
end

