-- ==== Sys2Proof/Machine/CopyCheck.lean ====
section
/-! DEFINITION. The checks an XCOPY makes at issue, and a held copy at resumption (R345, R346, R351, R353, R414). -/

namespace Sys2Proof.Machine

open Sys2Proof

/-- What the checks of a copy find: its receivers, its bounding destination range and its arrivals. -/
structure CopyPlan where
  receivers : List Nat
  scratch   : Bool
  lo        : Nat
  hi        : Nat
  arr       : List (Nat × Nat)
deriving DecidableEq, Repr

/-- The storage that a byte range names, for R353: 0 a global address, 1 die scratch, 2 + core a scratchpad; first and last byte. -/
def State.nameRange (s : State) (w : Warp) (lo hi : Nat) : Except Cause (Nat × Nat × Nat) :=
  match s.classify w { lp := false } 0 (BitVec.ofNat 64 lo) (hi + 1 - lo) 0 with
  | .error x => .error x
  | .ok ps =>
    match ps.head?.bind Piece.key with
    | none => .ok (0, lo, hi)
    | some k =>
      if k < scratchKeys then .ok (1, k, k + hi - lo)
      else .ok (2 + (k - scratchKeys) / Config.scratchBytes, k, k + hi - lo)

/-- The bounding ranges of named ranges, by storage. -/
def boundNames (l : List (Nat × Nat × Nat)) : List (Nat × Nat × Nat) :=
  l.foldl (fun acc x =>
    if acc.any fun y => y.1 = x.1 then acc.map fun y => if y.1 = x.1 then (y.1, min y.2.1 x.2.1, max y.2.2 x.2.2) else y
    else acc ++ [x]) []

/-- A list of checks in order: the first fault, or all results. -/
def checkAllOf {α β : Type} (l : List α) (f : α → Except Cause β) : Except Cause (List β) :=
  l.foldr (fun x r => match f x with
    | .error e => .error e
    | .ok y => match r with | .error e => .error e | .ok ys => .ok (y :: ys)) (.ok [])

/-- The block of a warp's gang that holds core position `p` (R351). -/
def State.receiver? (s : State) (w : Warp) (p : Nat) : Option Block := s.blockAt w p

/-- R345's checks of the band offset. -/
def checkBand (scratch band : Nat) : Option Cause :=
  if band % 32 ≠ 0 then some (0x13, 0x03) else if scratch < band + 32 then some (0x15, 0x02) else none

/-- Check 2 of R346. -/
def checkShape (g : Geometry) (mcast : Nat) (arr : List (Nat × Nat)) (lo hi : Nat) : Option Cause :=
  let win := scratchWindow g.dst.base
  if !pairs g.xop g.src g.dst then some (0x20, 0x02)
  else if 0x10000 < (arr.map Prod.snd).sum || (win && 0x10000 < hi + 1 - lo) then some (0x20, 0x03)
  else if (g.src.mx && idx g.sc 0 % max 1 (idx g.src.ext 0) % 32 ≠ 0) ||
      (g.dst.mx && idx g.dc 0 % max 1 (idx g.dst.ext 0) % 32 ≠ 0) then some (0x20, 0x04)
  else if mcast ≠ 0 && !win then some (0x20, 0x05)
  else if (g.src.tight && scratchWindow g.src.base) || (g.dst.tight && win) then some (0x20, 0x06)
  else none

/-- Checks 1 to 4 of R346 that follow the handles, with windows resolved for warp `w`. -/
def State.checkCopy (s : State) (w : Warp) (g : Geometry) (mcast band : Nat) : Except Cause CopyPlan :=
  let own := ((s.blockOf? w).map Block.scratch).getD 0
  match checkBand own band with
  | some x => .error x
  | none =>
    let arr := g.arrivals
    let (lo, hi) := bothBounds (boundOf g.dst g.dests)
    match checkShape g mcast arr lo hi with
    | some x => .error x
    | none =>
      let win := scratchWindow g.dst.base
      let positions := if !win then [w.core % 4]
        else if mcast ≠ 0 then (List.range 4).filter fun p => mcast.testBit p
        else [if g.dst.base / 2 ^ 52 = 0xFE0 then w.core % 4 else g.dst.base / 2 ^ 20 % 4]
      let srcs := checkAllOf (touchedRanges g.src g.sources) fun x => s.nameRange w x.2.1 x.2.2
      let dstLines := touchedRanges g.dst g.dests
      let dsts := if !win then checkAllOf dstLines fun x => s.nameRange w x.2.1 x.2.2
        else match checkAllOf positions fun p => match s.receiver? w p with
            | none => Except.error (0x15, 0x03)
            | some b => checkAllOf dstLines fun x =>
                if x.2.2 / 2 ^ 19 ≠ g.dst.base / 2 ^ 19 then Except.error (0x15, 0x01)
                else if b.scratch < x.2.2 % 2 ^ 19 + 1 then Except.error (0x15, 0x02)
                else Except.ok (2 + b.core, scratchKey b.core (b.base + x.2.1 % 2 ^ 19), scratchKey b.core (b.base + x.2.2 % 2 ^ 19)) with
          | .error e => .error e
          | .ok ls => .ok ls.flatten
      match srcs, dsts with
      | .error x, _ => .error x
      | _, .error x => .error x
      | .ok a, .ok b =>
        let overlap := (boundNames a).any fun x => (boundNames b).any fun y => x.1 = y.1 && x.2.1 ≤ y.2.2 && y.2.1 ≤ x.2.2
        if overlap then .error (0x21, 0x01)
        else .ok { receivers := positions, scratch := win, lo := if win then lo % 2 ^ 19 else lo
                   hi := (if win then hi % 2 ^ 19 else hi) + 1, arr := arr }

/-- A warp that stands for a copy's issuer in address checks: its block, gang and context. -/
def Copy.agentWarp (c : Copy) : Warp :=
  { core := c.core, slot := c.slot, gang := c.gang, pos := c.pos, idx := c.widx, ctx := c.ctx }

/-- Copies that a core's engine holds (R346). -/
def State.engineLoad (s : State) (core : Nat) : Nat :=
  s.eng.copies.countP fun c => c.core = core && c.taken && !c.heldSave

/-- Entries of a core's range scoreboard in use (R360). -/
def State.scoreLoad (s : State) (core : Nat) : Nat :=
  s.eng.copies.countP fun c => c.taken && !c.heldSave && c.scratch && c.receivers.any fun p => c.receiverCore p = core

/-- Whether the engine and every receiver can take a copy (R346). -/
def State.copyRoom (s : State) (c : Copy) : Bool :=
  s.engineLoad c.core < Config.engineCopies &&
    (!c.scratch || c.receivers.all fun p => s.scoreLoad (c.receiverCore p) < Config.scoreboardEntries)

/-- Changes a copy. -/
def State.modCopy (s : State) (id : Nat) (f : Copy → Copy) : State :=
  s.modEng fun e => { e with copies := e.copies.map fun c => if c.id = id then f c else c }

/-- A copy by its number in the model. -/
def State.copy? (s : State) (id : Nat) : Option Copy := s.eng.copies.find? fun c => c.id = id

/-- Bytes of a die's spill buffer in use (R361). -/
def State.spillOf (s : State) (die : Nat) : Nat := (s.eng.spillUsed.lookup die).getD 0

/-- Changes the bytes in use. -/
def State.setSpill (s : State) (die n : Nat) : State :=
  s.modEng fun e => { e with spillUsed := (die, n) :: e.spillUsed.filter fun x => x.1 ≠ die }

/-- Frees the space of some of a copy's spilled chunks. -/
def State.freeSpill (s : State) (c : Copy) (n : Nat) : State :=
  let d := dieOfCore c.core
  s.setSpill d (s.spillOf d - 512 * n)

end Sys2Proof.Machine
end

