-- ==== Sys2Proof/Machine/BlockFrame.lean ====
section
/-! DEFINITION. Block frames (R413, R414): their contents, their writing at an instruction-boundary pre-emption and their reload. -/

namespace Sys2Proof.Machine

open Sys2Proof

/-- Bytes of a block frame. -/
def blockFrameBytes (scratch : Nat) : Nat := 0x4A00 + scratch + scratch / 16

/-- The 72 bytes of an amax ring. -/
def AmaxRing.value (r : AmaxRing) : Nat :=
  fieldsValue (((List.range 16).map fun i => (4 * i, 4, (r.e.getD i 0).toNat)) ++ [(0x40, 4, r.wp % 16 + r.cnt % 32 * 2 ^ 8)])

/-- An amax ring from its 72 bytes: CNT above 16 is taken as 16. -/
def AmaxRing.ofNat (v : Nat) : AmaxRing :=
  { e := (List.range 16).map fun i => BitVec.ofNat 32 (v / 2 ^ (32 * i))
    wp := natBits v 512 4, cnt := min 16 (natBits v 520 5) }

/-- XF of a copy. -/
def Copy.xf (c : Copy) : Nat := c.xop * 2 ^ 9 + c.mcast * 2 ^ 5

/-- The bits of MODE that a copy takes at issue: RM, FTZ, DAZ and SATF (R350). -/
def copyModeMask : Word := 0x3F

/-- LANDED of a receiver: bit k for the kth chunk of the copy in the order of its walk (log entry 27). -/
def Copy.landedBits (c : Copy) (p : Nat) : Nat :=
  (c.arr.zipIdx.filter fun x => x.2 < 128 && c.landed.contains (p, x.1.1)).foldl (fun a x => a + 2 ^ x.2) 0

/-- The 512 bytes of a held copy (R414). -/
def Copy.heldValue (c : Copy) : Nat :=
  fieldsValue ([(0x000, 128, c.srec.toNat), (0x080, 128, c.drec.toNat)] ++
    ((List.range 5).map fun d => (0x100 + 4 * d, 4, c.sc.getD d 0)) ++ ((List.range 5).map fun d => (0x114 + 4 * d, 4, c.dc.getD d 0)) ++
    [(0x128, 4, c.xf + c.rnd * 2 ^ 14 + c.ch * 2 ^ 17), (0x12C, 4, c.band), (0x130, 8, c.pc.toNat)] ++
    ((List.range 4).map fun p => (0x138 + 16 * p, 16, c.landedBits p)) ++
    [(0x178, 4, c.batch), (0x17C, 4, (if c.heldSrc then 1 else 0) + if c.spilled.isEmpty then 0 else 2),
     (0x180, 4, (c.mode &&& copyModeMask).toNat)])

/-- Whether the record of a held copy no longer meets R345's own checks of XF and RND: XF[4:0], XOP, and RND under R350 (R346, R414). -/
def heldBad (v : Nat) : Bool :=
  let xf := natBits v (8 * 0x128) 32
  let xop := xf / 2 ^ 9 % 32
  let rnd := xf / 2 ^ 14 % 8
  xf % 32 ≠ 0 || 8 < xop || (if xop = 7 || xop = 8 then 6 ≤ rnd else rnd ≠ 0)

/-- A held copy as its record gives it back; what no record holds stays in the engine's own account. MODEIN is reloaded as MODE is (R412, log
entry 27). -/
def Copy.ofHeld (c : Copy) (v : Nat) : Copy :=
  let xf := natBits v (8 * 0x128) 32
  let arr := c.arr.zipIdx
  let early := c.arr.map Prod.fst |>.take 128
  { c with
    srec := BitVec.ofNat 1024 v, drec := BitVec.ofNat 1024 (v / 2 ^ 1024)
    sc := (List.range 5).map fun d => natBits v (8 * (0x100 + 4 * d)) 32
    dc := (List.range 5).map fun d => natBits v (8 * (0x114 + 4 * d)) 32
    xop := xf / 2 ^ 9 % 32, mcast := xf / 2 ^ 5 % 16, rnd := xf / 2 ^ 14 % 8, ch := xf / 2 ^ 17 % 4
    band := natBits v (8 * 0x12C) 32, pc := BitVec.ofNat 64 (v / 2 ^ (8 * 0x130))
    mode := (c.mode &&& ~~~copyModeMask) ||| (reloadMode (BitVec.ofNat 32 (natBits v (8 * 0x180) 32)) &&& copyModeMask)
    batch := natBits v (8 * 0x178) 32
    landed := (c.landed.filter fun x => !early.contains x.2) ++ (List.range 4).flatMap fun p =>
      (arr.filter fun x => x.2 < 128 && (natBits v (8 * (0x138 + 16 * p)) 128).testBit x.2).map fun x => (p, x.1.1) }

/-- The held copies of a block, in issue order. -/
def State.heldCopies (s : State) (gang pos : Nat) : List Copy :=
  s.eng.copies.filter fun c => c.gang = gang && c.pos = pos && c.taken

/-- The bytes of a block frame before IMAGE. -/
def State.blockHeader (s : State) (g : Gang) (b : Block) : Nat :=
  let held := s.heldCopies g.id b.pos
  fieldsValue ([(0x0000, 8, 1 + b.saved.length * 2 ^ 16 + held.length * 2 ^ 24), (0x0008, 4, b.lin), (0x000C, 4, b.scratch), (0x0010, 1, b.pos)] ++
    ((List.range 32).map fun i => (0x0020 + 72 * i, 72, (b.rings.getD i {}).value)) ++
    held.zipIdx.map fun x => (0x0A00 + 512 * x.2, 512, x.1.heldValue))

/-- The frame line at a virtual address. -/
def State.frameLine? (s : State) (ctx va : Nat) : Option Nat :=
  match s.translateBare ctx va .read with
  | .error _ => none
  | .ok (x, _) =>
    let pa := s.relayPa x.pa
    match s.region pa with | .hbm _ | .aperture _ _ => some (pa / 128) | _ => none

/-- Writes part of one frame line, and poisons it when what it holds is poisoned (R59, R413). -/
def State.putFrameLine (s : State) (ctx va n v : Nat) (poison : Option Nat) : Option State :=
  (s.deviceWrite ctx va n v true).map fun t =>
    match poison, s.frameLine? ctx va with
    | some p, some l => t.modStore fun m => m.poisonLine l p
    | _, _ => t

/-- The scratchpad line of a block. -/
def Block.line (b : Block) (i : Nat) : Nat := scratchKey b.core (b.base + 128 * i) / 128

/-- The subcode of a line's poison, if it has any. -/
def Store.lineSubcode (m : Store) (l : Nat) : Option Nat := (m.poison.find? fun c => c.1 / 32 = l).map fun c => c.2 % 8

/-- Writes a block's frame: header, rings and held copies, then IMAGE, then TAGS (R413). -/
def State.writeBlockFrame (s : State) (g : Gang) (b : Block) : Option State :=
  match s.ctx? g.ctx with
  | none => none
  | some c =>
    let base := c.blockSlot b.bslot
    let lines := b.scratch / 128
    match s.deviceSpan g.ctx base (blockFrameBytes b.scratch) true with
    | none => none
    | some _ =>
      let o := s.deviceWrite g.ctx base 0x4A00 (s.blockHeader g b) true
      let o := (List.range lines).foldl (fun o i => o.bind fun t =>
        t.putFrameLine g.ctx (base + 0x4A00 + 128 * i) 128 (s.store.line (b.line i)).toNat (s.store.lineSubcode (b.line i))) o
      (List.range ((lines + 15) / 16)).foldl (fun o j => o.bind fun t =>
        let mine := (List.range 16).filter fun i => 16 * j + i < lines
        let v := mine.foldl (fun a i => a + (s.store.tag (b.line (16 * j + i))).toNat * 2 ^ (64 * i)) 0
        let bad := mine.findSome? fun i =>
          if s.store.tagPoisoned (b.line (16 * j + i)) then s.store.lineSubcode (b.line (16 * j + i)) else none
        t.putFrameLine g.ctx (base + 0x4A00 + b.scratch + 128 * j) (8 * mine.length) v bad) o

/-- Puts a scratchpad line with its tag and poison in place. -/
def Store.placeLine (m : Store) (l : Nat) (d : LineData) (t : TagWord) (poison : Option Nat) : Store :=
  let m' := m.writeTagged l d t
  match poison with | some p => m'.poisonLine l (p + 8) | none => m'

/-- Reloads a block's scratchpad from its frame; none when a page is no longer mapped. -/
def State.reloadImage (s : State) (g : Gang) (b : Block) (base : Nat) : Option State :=
  (List.range (b.scratch / 128)).foldl (fun o i => o.bind fun t =>
    match s.frameLine? g.ctx (base + 0x4A00 + 128 * i), s.frameLine? g.ctx (base + 0x4A00 + b.scratch + i / 16 * 128) with
    | some li, some lt =>
      let tag : TagWord := BitVec.ofNat 64 (s.store.read (128 * lt + 8 * (i % 16)) 8)
      let bad := (s.store.lineSubcode li).isSome || (s.store.lineSubcode lt).isSome
      some (t.modStore fun m => m.placeLine (b.line i) (s.store.line li) tag (if bad then some 3 else none))
    | _, _ => none) (some s)

/-- The device-written fields of the first `n` bytes of a block's scratchpad, by their offset in it. -/
def State.blockFields (s : State) (b : Block) (n : Nat) : List DevField :=
  let lo := scratchKey b.core b.base
  (s.eng.fields.filter fun f => lo ≤ f.obj && f.obj < lo + n).map fun f => { f with obj := f.obj - lo, key := f.key - lo }

/-- Such fields noted again where the block now lies. -/
def State.noteBlockFields (s : State) (b : Block) (l : List DevField) : State :=
  let lo := scratchKey b.core b.base
  s.noteFields (l.map fun f => { f with obj := f.obj + lo, key := f.key + lo })

/-- Reloads a block's frame (R418 step 1): rings, image and tags, and what the device had written in its bands and ring headers (R354, R365); the header's value as well, for the held copies. None when a line
other than IMAGE or TAGS is poisoned or a page is no longer mapped (R420). -/
def State.reloadBlock (s : State) (g : Gang) (b : Block) : Option (State × Nat) :=
  match s.ctx? g.ctx with
  | none => none
  | some c =>
    let base := c.blockSlot b.bslot
    (s.deviceRead g.ctx base 0x4A00).bind fun h =>
      let rings := (List.range 32).map fun i => AmaxRing.ofNat (natBits h (8 * (0x20 + 72 * i)) 576)
      (s.reloadImage g b base).map fun t =>
        (((t.noteBlockFields b b.fields).modGang g.id fun g => g.modBlock b.pos fun b => { b with rings := rings, fields := [] }).markPages g.ctx base 0x90000 false, h)

/-! ## Scratchpad of a new gang (R45) -/

/-- What byte `i` of a line may read when a later gang of its context takes it (R45): zero, what it holds, or what was written to it before. -/
def Store.bytesOfPast (m : Store) (l i : Nat) : List Byte :=
  0 :: m.byte (128 * l + i) :: (m.past.filter fun p => p.line = l && p.mask.getLsbD i).map fun p => LineData.byte p.data i

/-- What the tag of a line may read then. -/
def Store.tagsOfPast (m : Store) (l : Nat) : List TagWord := 0 :: m.tag l :: m.past.filterMap fun p => if p.line = l then p.tag else none

/-- A line of the context's own, as a new gang of it finds it (R45). -/
def Store.redraw (m : Store) (free l : Nat) : Store :=
  let m' := (List.range 128).foldl (fun a i => a.setByte (128 * l + i) (pickOf free (128 * l + i) 0 (m.bytesOfPast l i))) m
  m'.setTag l (pickOf free (2 ^ 60 + l) 0 (m.tagsOfPast l))

/-- Makes a scratchpad allocation ready for a context (R45): what belonged to another context is zeroed; every other byte and tag is zero or
any value the context has written there (log entry 28). -/
def State.readyScratch (s : State) (ctx core base n : Nat) : State :=
  let first := scratchKey core base / 128
  let lines := (List.range (n / 128)).map fun i => first + i
  let mine := fun (l : Nat) => Memory.get 0 s.store.owner l = ctx + 1
  let inside := fun (l : Nat) => first ≤ l && l < first + n / 128
  let stays := fun (l : Nat) => !inside l || mine l
  let s := s.modStore fun m =>
    { m with
      mem := m.mem.filter fun c => stays (c.1 / 128)
      tags := m.tags.filter fun c => stays c.1
      poison := m.poison.filter fun c => stays (c.1 / 32)
      past := m.past.filter fun c => stays c.line
      owner := lines.foldl (fun o l => Memory.put 0 o l (ctx + 1)) m.owner }
  let used := ((s.store.past.map PastWrite.line ++ s.store.mem.map (fun (c : Host.Cell) => c.1 / 128) ++ s.store.tags.map Prod.fst).filter inside).dedup
  ((s.modStore fun m => used.foldl (fun m l => m.redraw s.free l) m).dropFields (scratchKey core base) n).bump

end Sys2Proof.Machine
end

