-- ==== Sys2Proof/Machine/Watches.lean ====
section
/-! DEFINITION. WATCH and UNWATCH (R195, R212, R336 to R338), and the checks of SHAPE and SCRATCH that launches share with them
(R188, R190). -/

namespace Sys2Proof.Machine

open Sys2Proof

/-! ## SHAPE and SCRATCH (R188, R190) -/

/-- Warps per block. -/
def shapeWarps (sh : Word) : Nat := if (sh &&& 0xF) = 0 then 16 else (sh &&& 0xF).toNat
/-- Gang size. -/
def shapeGang (sh : Word) : Nat := 2 ^ (sh.extractLsb' 4 2).toNat
/-- VRC. -/
def shapeVrc (sh : Word) : Nat := 16 * (sh.extractLsb' 8 8).toNat
/-- SRC. -/
def shapeSrc (sh : Word) : Nat := if (sh.extractLsb' 16 7) = 0 then 128 else (sh.extractLsb' 16 7).toNat

/-- Whether a reserved bit of SHAPE is set. -/
def shapeReserved (sh : Word) : Bool := sh.extractLsb' 6 2 ≠ 0 || sh.extractLsb' 23 9 ≠ 0

/-- Subcode 0x04 of R190. -/
def shapeBad (sh : Word) : Bool :=
  sh.extractLsb' 4 2 = 3 || sh.extractLsb' 8 8 = 0 || 16 < (sh.extractLsb' 8 8).toNat ||
    (0 < (sh.extractLsb' 16 7).toNat && (sh.extractLsb' 16 7).toNat < 4)

/-- Subcode 0x05 of R190. -/
def scratchBad (n : Nat) : Bool := n % 128 ≠ 0 || Config.scratchBytes < n

/-! ## WATCH -/

/-- A home die's entry for a descriptor (R336). -/
def watchOf (ctx id : Nat) (d : Nat) (lines : List (Nat × Nat)) (home : Nat) : WatchEntry :=
  { ctx := ctx, id := id, lines := lines, home := home
    tdie := natBits d 96 8, tsq := natBits d 104 8, depth := natBits d 112 8, prio := natBits d 120 3
    budget := natBits d 128 32, shape := BitVec.ofNat 32 (natBits d 160 32), scratch := natBits d 192 32
    pc := BitVec.ofNat 64 (natBits d 256 64), param := BitVec.ofNat 64 (natBits d 320 64) }

/-- Status −2 (R337): a field breaks its limits. -/
def State.watchRefused (s : State) (ctx : Nat) (d : Nat) : Bool :=
  let base := natBits d 0 64
  let len := natBits d 64 32
  let w := watchOf ctx 0 d [] 0
  !canonical (BitVec.ofNat 64 base) || base % 128 ≠ 0 || len % 128 ≠ 0 || len = 0 || 0x100000 < len ||
  3 < w.tdie || 63 < w.tsq || w.depth = 0 || 64 < w.depth || natBits d 123 5 ≠ 0 || w.budget = 0 || 1000000 < w.budget ||
  shapeReserved w.shape || natBits d 224 32 ≠ 0 || natBits d 384 128 ≠ 0 || !s.present w.tdie || shapeBad w.shape ||
  scratchBad w.scratch || ((s.ctx? ctx).map fun c => c.poolSize.getD w.tdie 0).getD 0 = 0

/-- The 64 KiB pages of a range: the first address of each part. -/
def pagesOf (lo n : Nat) : List Nat :=
  (List.range (n / 2 ^ 16 + 2)).filterMap fun i =>
    let a := max lo (2 ^ 16 * (lo / 2 ^ 16 + i))
    if a < lo + n then some a else none

/-- Translates every page of a range as a read (R337). -/
def State.watchPages (s : State) (w : Warp) (lane base len : Nat) : State × List (Nat × Nat × Nat) × List LaneFault :=
  (pagesOf base len).foldl (fun r va =>
    let va' := va % 2 ^ 64
    match State.translate r.1 (clusterOfCore w.core) w.ctx va' .read with
    | (s, .error f) => (s, r.2.1, r.2.2 ++ [{ lane := lane, cause := (f.code, f.sub), va := va', page := (f.base, f.size) }])
    | (s, .ok x) =>
      let (s, pa) := s.relay (clusterOfCore w.core) w.ctx va' x.pa
      (s, r.2.1 ++ [(va, pa, x.attr)], r.2.2)) (s, [], [])

/-- Whether a page can be watched (R162, R337: status −3). -/
def State.watchable (s : State) (pa attr : Nat) : Bool :=
  (attr = attrWB || attr = attrNC) && match s.region pa with | .hbm d => s.hasCap d 2 | .aperture d _ => s.hasCap d 2 | _ => false

/-- The lines of a range with their physical lines. -/
def watchLines (base len : Nat) (pages : List (Nat × Nat × Nat)) : List (Nat × Nat) :=
  (List.range (len / 128)).filterMap fun i =>
    let va := base + 128 * i
    (pages.find? fun p => p.1 / 2 ^ 16 = va / 2 ^ 16).map fun p => (va % 2 ^ 64 / 128, (p.2.1 + va - p.1) / 128)

/-- Entries in use of a die's watch table. -/
def State.watchesOn (s : State) (die : Nat) : Nat := s.sched.watches.countP fun w => w.home = die

/-- Installs a watch entry: no remote copy of its lines stays exclusive (R149, R212). -/
def State.installWatch (s : State) (w : WatchEntry) : State :=
  (w.lines.foldl (fun s l => s.recallAll l.2) s).modSched fun c => { c with watches := c.watches ++ [w] }

/-- Installs a watch: on each home die an entry with that die's lines (R337). -/
def State.installAll (s : State) (ctx id d : Nat) (lines : List (Nat × Nat)) (dies : List Nat) : State :=
  dies.foldl (fun s h => s.installWatch (watchOf ctx id d (lines.filter fun l => s.homeOf l.2 = some h) h)) s

/-- The lowest watch id that no watch of the context holds. -/
def State.freeWatch (s : State) (ctx : Nat) : Option Nat :=
  (List.range 4096).find? fun i => !s.sched.watches.any fun w => w.ctx = ctx && w.id = i

/-- WATCH (R336, R337). -/
def Issue.watch (c : Issue) (f : FormM) : Res :=
  if c.idle then .next c.s
  else c.load { accept := { sp := false, ds := false, lp := false }, n := 64, acc := .read, align := 64, useL1 := true } 0 true
      (c.addresses f true) fun s vals =>
    let d := laneVal vals c.lane
    let ctx := c.w.ctx
    let base := natBits d 0 64
    let len := natBits d 64 32
    let done := fun (s : State) (st : Nat) => Res.next ({ c with s := s }.put fun w => w.putScalar c.lanes f.d false st)
    if s.watchRefused ctx d then done s (2 ^ 32 - 2)
    else match s.watchPages c.w c.lane base len with
      | (s, _, b :: bs) => .park s (groupFaults (b :: bs) c.pc true)
      | (s, pages, []) =>
        if pages.any fun p => !s.watchable p.2.1 p.2.2 then done s (2 ^ 32 - 3)
        else
          let lines := watchLines base len pages
          let dies := (lines.filterMap fun l => s.homeOf l.2).dedup
          match s.freeWatch ctx, dies.all fun d => s.watchesOn d < Config.watchEntries with
          | some id, true => done (s.installAll ctx id d lines dies) id
          | _, _ =>
            done (s.writeBatch ctx (.warp c.w.core c.w.slot)
              [c.record (0x31, 0x01) ((1 : LaneMask) <<< c.lane) (BitVec.ofNat 64 base)]) (2 ^ 32 - 1)

/-- `%trig0` to `%trig3` of a trigger (R215). -/
def WatchEntry.trigWords (w : WatchEntry) : List Word :=
  [BitVec.ofNat 32 (w.id + w.count * 65536), BitVec.ofNat 32 w.word, BitVec.ofNat 32 (w.word / 2 ^ 32), w.val]

/-- Fixes the TRIG of a watch's pending record (R212). -/
def State.fixTrig (s : State) (w : WatchEntry) : State :=
  let fix := fun (r : PhaseRec) => if r.ctx = w.ctx && r.watch = some (w.id, w.home) then { r with trig := w.trigWords, watch := none } else r
  s.modSched fun c => { c with queued := c.queued.map fix, triggers := c.triggers.map fix }

/-- The entries that UNWATCH of an id frees (R338): a command queue's is none of them (R195). -/
def State.watchEntries (s : State) (ctx id : Nat) : List WatchEntry :=
  s.sched.watches.filter fun w => w.ctx = ctx && w.id = id && w.queue.isNone

/-- Frees watch entries: a pending record of each keeps its count so far (R212). -/
def State.freeWatches (s : State) (ws : List WatchEntry) : State :=
  (ws.foldl State.fixTrig s).modSched fun c => { c with watches := c.watches.filter fun x => !ws.any fun w => x.is w.ctx w.id w.home }

/-- UNWATCH of one id (R338). -/
def State.unwatch (s : State) (ctx id : Nat) : Option State :=
  if (s.watchEntries ctx id).isEmpty then none else some (s.freeWatches (s.watchEntries ctx id))

/-- UNWATCH (R338). -/
def Issue.unwatch (c : Issue) (f : FormM) : Res :=
  if c.idle then .next c.s
  else
    let (s, st) := match c.s.unwatch c.w.ctx (c.scalar f.s false 1) with | some s => (s, 0) | none => (c.s, 2 ^ 32 - 1)
    .next ({ c with s := s }.put fun w => w.putScalar c.lanes f.d false st)

/-- WATCH (R337). -/
def execWatch (f : FormM) (s : State) : Host.Outcome State Fault Refusal := issue 0x0CB (.m f) s fun c => c.watch f
/-- UNWATCH (R338). -/
def execUnwatch (f : FormM) (s : State) : Host.Outcome State Fault Refusal := issue 0x0CC (.m f) s fun c => c.unwatch f

end Sys2Proof.Machine
end

