-- ==== Sys2Proof/Machine/Record.lean ====
section
/-! DEFINITION. Where phase records lie in their pool, and their image there (R205, R206). -/

namespace Sys2Proof.Machine

open Sys2Proof

/-! ## Pool space (R206) -/

/-- The free ranges of a pool of `size` bytes from `lo` on, beside the ranges of a list in ascending order. -/
def freeRanges : List (Nat × Nat) → Nat → Nat → List (Nat × Nat)
  | [], lo, size => if lo < size then [(lo, size - lo)] else []
  | x :: l, lo, size => (if lo < x.1 then [(lo, x.1 - lo)] else []) ++ freeRanges l (max lo (x.1 + x.2)) size

/-- The first `n` bytes of a list of ranges. -/
def firstBytes : List (Nat × Nat) → Nat → List (Nat × Nat)
  | [], _ => []
  | x :: l, n => if n = 0 then [] else (x.1, min x.2 n) :: firstBytes l (n - x.2)

/-- Bytes of a context's phase pool on a die. -/
def State.poolSize (s : State) (ctx die : Nat) : Nat := (((s.ctx? ctx).map fun c => c.poolSize.getD die 0).getD 0) * 0x10000

/-- The ranges of a pool that `n` further bytes take: the first free ones (log entry 47). -/
def State.poolTake (s : State) (ctx die n : Nat) : List (Nat × Nat) :=
  let used := ((s.sched.gangs.filter fun g => g.ctx = ctx && g.die = die).flatMap Gang.poolAt) ++
    (s.sched.queued.filter fun r => r.ctx = ctx && r.die = die).flatMap PhaseRec.poolAt
  firstBytes (freeRanges (used.insertionSort fun a b => a.1 ≤ b.1) 0 (s.poolSize ctx die)) n

/-! ## The image of a record (R205) -/

/-- Rounds up to a multiple of 128. -/
def up128 (n : Nat) : Nat := (n + 127) / 128 * 128

/-- Values of `n` bytes each, one after another. -/
def joinBytes (n : Nat) (l : List Nat) : Nat := l.foldr (fun x a => x % 256 ^ n + a * 256 ^ n) 0

/-- The header of a record. -/
def PhaseRec.header (r : PhaseRec) : Nat :=
  let kind := (if r.triggered then 1 else 0) + if r.spawned then 2 else 0
  joinBytes 8 [r.pc.toNat, r.param.toNat] + joinBytes 4 [r.launch.getD 0xFFFFFFFF, r.first, r.shape.toNat, r.scratch] * 256 ^ 0x10 +
    (r.nv + r.ns * 256 ^ 2 + kind * 256 ^ 3) * 256 ^ 0x20 + joinBytes 4 [r.nb, r.phase] * 256 ^ 0x24 +
    joinBytes 1 [r.sq, r.chain, r.prio] * 256 ^ 0x2C + joinBytes 4 (r.trig.map BitVec.toNat) * 256 ^ 0x30

/-- The pieces of a record in order, each its size and value: the header; for each block its warps' v, k, s and q registers, its bytes and
their tags. -/
def PhaseRec.pieces (r : PhaseRec) : List (Nat × Nat) :=
  (64, r.header) :: ((List.range (shapeGang r.shape)).flatMap fun b =>
    ((List.range (shapeWarps r.shape)).flatMap fun i =>
      match r.carries.find? fun c => c.pos = b && c.idx = i with
      | none => []
      | some c =>
        [(384 * c.v.length, joinBytes 384 (c.v.map BitVec.toNat)), (24 * c.k.length, joinBytes 24 (c.k.map BitVec.toNat)),
         (4 * c.s.length, joinBytes 4 (c.s.map BitVec.toNat)), (16 * c.q.length, joinBytes 16 (c.q.map BitVec.toNat))]) ++
    match r.images.find? fun x => x.pos = b with
    | none => []
    | some x => [(128 * x.lines.length, joinBytes 128 (x.lines.map fun y => y.1.toNat)),
                 (8 * x.lines.length, joinBytes 8 (x.lines.map fun y => y.2.toNat))])

/-- The offset, size and value of each piece: each begins on a 128-byte boundary. -/
def PhaseRec.image (r : PhaseRec) : List (Nat × Nat × Nat) :=
  (r.pieces.foldl (fun (x : Nat × List (Nat × Nat × Nat)) p => (up128 (x.1 + p.1), (x.1, p.1, p.2) :: x.2)) (0, [])).2

/-- What a piece of a record writes in each of the ranges in which the record lies: offset in the pool, size and value. -/
def inRanges (l : List (Nat × Nat)) (off n v : Nat) : List (Nat × Nat × Nat) :=
  (l.foldl (fun (x : Nat × List (Nat × Nat × Nat)) g =>
    let lo := max off x.1
    let hi := min (off + n) (x.1 + g.2)
    (x.1 + g.2, if lo < hi then (g.1 + (lo - x.1), hi - lo, v / 256 ^ (lo - off) % 256 ^ (hi - lo)) :: x.2 else x.2)) (0, [])).2

/-- Writes a record to its ranges of the pool. -/
def State.layRecord (s : State) (r : PhaseRec) : State :=
  match s.ctx? r.ctx with
  | none => s
  | some c =>
    let base := apertureBase r.die + (c.dsOff.getD r.die 0 + c.poolOff.getD r.die 0) * 0x10000
    (r.image.flatMap fun p => inRanges r.poolAt p.1 p.2.1 p.2.2).foldl (fun s x => s.writeKey (base + x.1) x.2.1 x.2.2 1) s

end Sys2Proof.Machine
end

