-- ==== Sys2Proof/Machine/Xlay.lean ====
section
/-! DEFINITION. XLAY: the context's layout table (R342 to R344). -/

namespace Sys2Proof.Machine

open Sys2Proof

/-- Writes XLAY's status: a handle, or a negative number (R343). -/
def Issue.xlayStatus (c : Issue) (f : FormA) (s : State) (st : Nat) : Res :=
  .next ({ c with s := s }.put fun w => w.putScalar c.lanes f.d false st)

/-- The negative status −n. -/
def minus (n : Nat) : Nat := 2 ^ 32 - n

/-- Layout records of the issuing context. -/
def Issue.layouts (c : Issue) : List (Nat × BitVec 1024) := ((c.s.ctx? c.w.ctx).map Context.layouts).getD []

/-- Puts a record in a context's table at a handle. -/
def State.setLayout (s : State) (ctx h : Nat) (r : BitVec 1024) : State :=
  s.modCtx ctx fun k => { k with layouts := (h, r) :: k.layouts.filter fun x => x.1 ≠ h }

/-- The lowest handle that is not live. -/
def freeHandle (l : List (Nat × BitVec 1024)) : Option Nat := (List.range 4096).find? fun h => !l.any fun x => x.1 = h

/-- Reads a record and installs it at the handle that `at_` gives, none meaning that no handle is free (R343). -/
def Issue.xlayInstall (c : Issue) (f : FormA) (at_ : Option Nat) : Res :=
  c.load { n := 128, acc := .read, align := 128, useL1 := true } 0 true [(c.lane, BitVec.ofNat 64 (c.scalar f.s1 true 3))] fun s vals =>
    let r := BitVec.ofNat 1024 (laneVal vals c.lane)
    let st := (Layout.ofRec r).status
    if st ≠ 0 then c.xlayStatus f s (minus st)
    else match at_ with
      | none => c.xlayStatus f s (minus 1)
      | some h => c.xlayStatus f (s.setLayout c.w.ctx h r) h

/-- XLAY.new (R343). -/
def Issue.xlayNew (c : Issue) (f : FormA) : Res :=
  if c.idle then .next c.s else c.xlayInstall f (freeHandle c.layouts)

/-- XLAY.set (R343). -/
def Issue.xlaySet (c : Issue) (f : FormA) : Res :=
  let h := c.scalar f.s2 false 1
  if c.idle then .next c.s
  else if 4095 < h then c.xlayStatus f c.s (minus 5)
  else c.xlayInstall f (some h)

/-- XLAY.free (R343). -/
def Issue.xlayFree (c : Issue) (f : FormA) : Res :=
  let h := c.scalar f.s2 false 1
  if c.idle then .next c.s
  else if c.layouts.any fun x => x.1 = h then
    c.xlayStatus f (c.s.modCtx c.w.ctx fun k => { k with layouts := k.layouts.filter fun x => x.1 ≠ h }) h
  else c.xlayStatus f c.s (minus 5)

/-- XLAY_NEW (R342, R343). -/
def execXlayNew (f : FormA) (s : State) : Host.Outcome State Fault Refusal := issue 0x108 (.a f) s fun c => c.xlayNew f
/-- XLAY_SET (R342, R343). -/
def execXlaySet (f : FormA) (s : State) : Host.Outcome State Fault Refusal := issue 0x108 (.a f) s fun c => c.xlaySet f
/-- XLAY_FREE (R342, R343). -/
def execXlayFree (f : FormA) (s : State) : Host.Outcome State Fault Refusal := issue 0x108 (.a f) s fun c => c.xlayFree f

end Sys2Proof.Machine
end

