-- ==== Sys2Proof/Machine/Replay.lean ====
section
/-! DEFINITION. Instructions that go on after a wait (R427, R335, R357) and parked instructions that are retried or failed (R100 to
R105, R412, R417). -/

namespace Sys2Proof.Machine

open Sys2Proof

/-! ## Performing an instruction again -/

/-- What an instruction that can wait or park does, by its word: the memory instructions, XLAY and BANDW. None for any other. -/
def performWord (c : Issue) : Option Res :=
  match c.opc, c.form with
  | 0x0C0, .m f => some (c.sld f)
  | 0x0C1, .m f => some (c.sst f)
  | 0x0C2, .m f => some (c.vld f)
  | 0x0C3, .m f => some (c.vst f)
  | 0x0C4, .m f => some (c.vldl f)
  | 0x0C5, .m f => some (c.vstl f)
  | 0x0C6, .m f => some (c.pref f)
  | 0x0C7, .m f => some (c.cctl f)
  | 0x0CA, .m f => some (c.waitv f)
  | 0x0CB, .m f => some (c.watch f)
  | 0x0CC, .m f => some (c.unwatch f)
  | 0x103, .m f => some (c.bandw f)
  | 0x108, .a f => some (if f.sub = 0 then c.xlayNew f else if f.sub = 1 then c.xlaySet f else c.xlayFree f)
  | o, .m f =>
    if 0x0E0 ≤ o && o ≤ 0x0ED then some (c.atomic f (o - 0x0E0) false)
    else if 0x0F0 ≤ o && o ≤ 0x0FD then some (c.atomic f (o - 0x0F0) true)
    else none
  | _, _ => none

/-- Whether an instruction's other hoods go on with it (R182). -/
def movesOthers (opc : Nat) : Bool := opc = 0x0C4 || opc = 0x0C5

/-- What an issued instruction keeps, if its hood waits with it. -/
def Wait.kept : Wait → Option InFlight
  | .remote x | .value x | .band x | .ringResv x | .ringCommit x | .ringAcq x | .ringFree x => some x
  | _ => none

/-- After an instruction that has waited: its PAIR window opens once its hood has gone on (R237), and a wait that lasts keeps the bit. -/
def State.pairLate (s : State) (c : Issue) (before : Warp) : State :=
  if !c.paired then s
  else s.modWarp before.core before.slot fun w =>
    if (w.slice (keyOf (w.hoodSlices c.hood))).pc = nextPc c.pc && w.handler = before.handler then
      { w with windows := w.windows ++ [c.pairWindow before (!w.pendingAt c.pc)] }
    else w.mapSlices fun _ sl => if sl.hood = c.hood then { sl with wait := sl.wait.paired c.pc } else sl

/-- The issue of a hood whose instruction waits, as it goes on: the hood runs, the sources are those it kept. -/
def State.keptIssue (s : State) (core slot hood : Nat) : Option (Issue × Warp) :=
  match s.warp? core slot with
  | none => none
  | some w =>
    match (w.slice (keyOf (w.hoodSlices hood))).wait.kept with
    | none => none
    | some x =>
      match wordForm x.insn with
      | none => none
      | some (opc, form) =>
        let w := w.waitHood hood .run
        some ({ s := s.setWarp w, w := unpackSources w opc form x.data, hood := hood, opc := opc, form := form,
                lanes := if movesOthers opc then w.liveLanes else w.hoodLanes hood, act := x.act, pc := x.pc, sent := x.pieces, paired := x.pair }, w)

/-- The result with the other hoods of a collective moved on. -/
def Issue.withOthers (c : Issue) (r : Res) : Res :=
  if movesOthers c.opc then c.passed r else r

/-- Changes the flights of a warp. -/
def State.modFlights (s : State) (core slot : Nat) (g : List Flight → List Flight) : State :=
  s.modWarp core slot fun w => { w with flights := g w.flights }

/-- An instruction that waits inside its window goes on (R335, R427): it completes, waits further, parks or ends with its fault. -/
def State.flyOn (s : State) (core slot : Nat) (x : Flight) : State :=
  match s.warp? core slot, wordForm x.x.insn with
  | some w, some (opc, form) =>
    let c : Issue := { s := s, w := unpackSources w opc form x.x.data, hood := x.hood, opc := opc, form := form, lanes := x.lanes, act := x.x.act,
                       pc := x.x.pc, sent := x.x.pieces, aloft := true }
    let drop := fun (s : State) => s.modFlights core slot fun l => l.erase x
    let park := fun (t : State) (recs : List FaultRec) (m : LaneMask) =>
      if w.handler then (drop t).raiseRecs core slot (recs.map FaultRec.final) c.pc else
      match (drop t).warp? core slot with
      | none => t
      | some a =>
        match a.logPacked x.x.insn x.x.data (packSources c.w opc form).2 c.pc m (((t.ctx? w.ctx).map Context.batch).getD 1) x.lanes with
        | none => s
        | some b => ((drop t).writeBatch w.ctx (.warp core slot) recs).modWarp core slot fun a =>
            { a with log := b.log.map fun e => if e.first && e.pc = c.pc then { e with later := x.later } else e }
    (match performWord c with
    | none => s
    | some (.next t) => c.closeLate w x.later (drop t).bump
    | some (.jump t) => drop t
    | some (.fly t y) => t.modFlights core slot fun l => l.map fun z => if z = x then { x with x := y.x, value := y.value } else z
    | some (.trap t recs) | some (.fault t recs) => (drop t).raiseRecs core slot recs c.pc
    | some (.park t recs) => park t recs c.act
    | some (.parkSome t recs m) => park t recs m
    | some (.hold t) | some (.again t) => t
    | some .stall => s).tryEntry core slot
  | _, _ => s

/-- A hood's memory instructions that have waited are performed (R427, R335, R357): those aloft for which `p` holds, then the one at which
the hood stands. -/
def State.goOn (s : State) (core slot hood : Nat) (p : Flight → Bool := fun _ => true) : State :=
  let mine := ((s.warp? core slot).elim [] Warp.flights).filter fun x => x.hood = hood && p x
  let s := mine.foldl (fun s x => s.flyOn core slot x) s
  match s.keptIssue core slot hood with
  | none => s
  | some (c, w) =>
    match performWord c with
    | none => s
    | some r => ((c.finish w (c.withOthers r)).pairLate c w).tryEntry core slot

/-! ## Parked instructions -/

/-- Retries a parked instruction with the values in its log entry, by walks of its own (R102, R412): it completes, stays parked without a
new record, or ends with the fault of its operands. An entry whose instruction can neither wait nor park (a handler made it) is performed
as exec performs it, as the next thing that happens (log entry 29). Reading the entry meets the errors in it (R58). -/
def State.retryEntry (s : State) (core slot i : Nat) : State :=
  match s.warp? core slot with
  | none => s
  | some w =>
    let e := w.log.getD i {}
    if !e.first then s
    else match s.checkWords core slot fun x => inLogEntry i x || (e.ctl.getLsbD 2 && inLogEntry (i + 1) x) with
    | none => s.lose w.ctx core slot 0x02
    | some s =>
      let drop := fun (s : State) => s.modWarp core slot fun w => w.dropLog i
      let bad := fun (s : State) (x : Cause) => (drop s).raiseRecs core slot [{ code := x.1, sub := x.2, lanes := e.lanes, pc := e.pc }] e.pc
      match decode e.insn, wordForm e.insn with
      | .error r, _ => bad s (r.cause (s.envOf w))
      | .ok _, none => s
      | .ok _, some (opc, form) =>
        match checkAll (s.envOf w) opc form with
        | some x => bad s x
        | none =>
          let c := s.entryIssue w i opc form
          match performWord c with
          | none => s.modLog core slot i fun e => { e with again := false, due := true }
          | some (.next t) => c.closeLate w e.later (drop t)
          | some (.jump t) => drop t
          | some (.trap t recs) => (drop t).raiseRecs core slot recs e.pc
          | some (.fault t recs) => (drop t).raiseRecs core slot recs e.pc
          | some (.park t _) => t.modLog core slot i fun e => { e with again := false }
          | some (.parkSome t _ m) => t.modLog core slot i fun e => { e with again := false, lanes := m }
          | some (.again t) => t.modLog core slot i fun e => { e with again := true }
          | some .stall => s.modLog core slot i fun e => { e with again := true }
          | some (.hold t) | some (.fly t _) => t.modLog core slot i fun e => { e with again := true }

/-- Retries the parked instructions of a warp for which `p` holds, in order of their entries. -/
def State.retryWarp (s : State) (core slot : Nat) (p : LogEntry → Bool) : State :=
  (List.range 8).foldl (fun s i =>
    match s.warp? core slot with
    | some w => if (w.log.getD i {}).first && p (w.log.getD i {}) then s.retryEntry core slot i else s
    | none => s) s

/-- The handler entries whose records and frame now stand in storage (R393, R450). -/
def State.enterWritten (s : State) : State :=
  (s.warps.filter fun w => w.entry.any Entry.written).foldl (fun s w => s.tryEntry w.core w.slot) s

/-- Removes a posted write's entry, and the releases that waited for no other (R134, R428). -/
def State.dropWrite (s : State) (txn : Nat) : State :=
  s.modEng fun e =>
    let pend := e.pend.filter fun o => o.txn ≠ txn
    { e with pend := pend, releases := e.releases.filter fun r => r.txns.any fun t => pend.any fun o => o.write && o.txn = t }

/-- A posted pod write whose target has answered with an error (R30, R107): the store parks for the lanes that the write served, once its
warp is resident, out of its handler and with room in its log; if the warp has ended, the record is one without a warp (log entry 44). -/
def State.parkPosted (s : State) (o : Outstanding) : State :=
  let x := o.origin.getD { pc := o.pc, insn := 0, act := 0, data := 0 }
  let rec_ : FaultRec := { code := 0x18, sub := 0x02, lanes := x.act, pc := x.pc, va := BitVec.ofNat 64 o.va }
  match s.gang? o.gang, s.warps.find? fun w => w.gang = o.gang && w.pos = o.pos && w.idx = o.idx with
  | _, some w =>
    let len := ((wordForm x.insn).map fun y => (packSources w y.1 y.2).2).getD 0
    if w.handler then s
    else match w.logPacked x.insn x.data len x.pc x.act (((s.ctx? w.ctx).map Context.batch).getD 1) (w.liveLanes &&& maskSlices x.act) with
    | none => s
    | some w' => ((s.writeBatch w.ctx (.warp w.core w.slot) [{ rec_ with resum := true }]).modWarp w.core w.slot fun w => { w with log := w'.log }).dropWrite o.txn
  | some g, none => if g.status = .saved then s else (s.writeBatch o.ctx (.station o.station) [rec_]).dropWrite o.txn
  | none, none => (s.writeBatch o.ctx (.station o.station) [rec_]).dropWrite o.txn

/-- Parks what it can of the posted writes that were answered with an error. -/
def State.parkFailed (s : State) : State :=
  (s.eng.pend.filter fun o => o.write && o.fail.isSome).foldl State.parkPosted s

/-- Retries every instruction whose access waits only for something that may have ended. -/
def State.retryAgain (s : State) : State :=
  let s := s.parkFailed
  s.warps.foldl (fun s w =>
    let s := (s.retryWarp w.core w.slot fun e => e.again).tryEntry w.core w.slot
    (w.flights.filter fun x => !x.value).foldl (fun s x => s.flyOn w.core w.slot x) s) s

/-- Whether a parked instruction may touch addresses from `lo` to `hi` (R102). -/
def State.entryTouches (s : State) (w : Warp) (i lo hi : Nat) : Bool :=
  let e := w.log.getD i {}
  match wordForm e.insn with
  | none => true
  | some (opc, f) =>
    opc = 0x0CB ||
      (touchedAddresses (unpackSources w opc f (w.logData i)) opc f e.lanes).any fun x =>
        match s.classify w {} x.2.1 (BitVec.ofNat 64 x.2.2) (touchedWidth opc f) x.1 with
        | .error _ => true
        | .ok ps => ps.any fun p => p.key.isNone && lo < p.va + 128 && p.va / 128 * 128 < hi

/-- Retries the fetches of one line that a warp's hoods wait for, by a walk of its own (R102, R105); one that the host or the line's home holds
back is tried again as any fetch is. -/
def State.retryLine (s : State) (core slot line : Nat) : State :=
  match s.warp? core slot with
  | none => s
  | some w =>
    let cl := clusterOfCore core
    let t := s.modCaches fun c => { c with tlb := c.tlb.filter fun e => !(e.cluster = cl && e.ctx = w.ctx && e.vpn = 64 * line / e.size) }
    let free := fun (s : State) => s.modWarp core slot fun w => w.mapSlices fun _ sl =>
        match sl.wait with | .fetch _ l => if l = line then { sl with wait := .run } else sl | _ => sl
    match t.fetchHeld core w.ctx line with
    | some u => free u
    | none => match t.fetchLine core w.ctx line with
    | (s, .error _) => s
    | (s, .ok _) => free s

/-- Retries the fetches that a warp's hoods wait for, when `p` holds of their batch and line address (R105). -/
def State.retryFetch (s : State) (core slot : Nat) (p : Nat → Nat → Bool) : State :=
  let lines := ((s.warp? core slot).map fun w => w.liveSlices.filterMap fun i =>
    match (w.slice i).wait with | .fetch b line => if p b (line * 64) then some line else none | _ => none).getD []
  lines.dedup.foldl (fun s l => s.retryLine core slot l) s

/-- Sets a context's copies going again in the clusters for which `cl` holds: those stopped at a source page and the spilled chunks for
which `p` holds of the batch and address (R102, R361, R362). -/
def State.retryCopies (s : State) (ctx : Nat) (cl : Nat → Bool) (p : Nat → Nat → Bool) : State :=
  s.modEng fun e => { e with copies := e.copies.map fun c =>
    if c.ctx ≠ ctx || !(cl (clusterOfCore c.core)) then c
    else
      let c := if c.heldSrc && p c.batch c.heldVa then { c with heldSrc := false, quiet := c.nextChunk } else c
      { c with spilled := c.spilled.map fun x => if p x.batch x.va then { x with ready := true } else x } }

/-- The retry that a completed TFENCE makes over a range (R102); a warp that is saved already is retried when it resumes (R417). -/
def State.retryRange (s : State) (ctx lo hi : Nat) (clusters : List Nat) : State :=
  let s := s.warps.foldl (fun s w =>
    if w.ctx = ctx && !w.frameDone && clusters.contains (clusterOfCore w.core) then
      let s := (List.range 8).foldl (fun s i =>
        match s.warp? w.core w.slot with
        | some w => if (w.log.getD i {}).first && s.entryTouches w i lo hi then s.retryEntry w.core w.slot i else s
        | none => s) s
      (s.retryFetch w.core w.slot fun _ va => lo < va + 64 && va < hi).tryEntry w.core w.slot
    else s) s
  s.retryCopies ctx clusters.contains fun _ va => lo ≤ va && va < hi

/-- The RETRY of a batch (R102, R103). -/
def State.retryBatch (s : State) (ctx batch : Nat) : State :=
  let s := s.warps.foldl (fun s w =>
    if w.ctx = ctx && !w.frameDone then
      ((s.retryWarp w.core w.slot fun e => e.batch.toNat = batch).retryFetch w.core w.slot fun b _ => b = batch).tryEntry w.core w.slot
    else s) s
  s.retryCopies ctx (fun _ => true) fun b _ => b = batch

/-- FAIL of a batch for one warp (R102, R105, R411): its entries are discarded, and the warp enters handler mode with REASON 0x05. -/
def State.failWarp (s : State) (core slot : Nat) (p : Nat → Bool) : State :=
  match s.warp? core slot with
  | none => s
  | some w =>
    let entries := (w.parked.filter fun x => p x.2.batch.toNat).map fun x => (x.1, x.2.pc)
    let fetches := (w.liveSlices.filter fun i => match (w.slice i).wait with | .fetch b _ => p b | _ => false).map fun i => (w.slice i).pc
    match entries.map Prod.snd ++ fetches with
    | [] => s
    | pc :: _ =>
      let s := s.modWarp core slot fun w =>
        (entries.foldl (fun w x => w.dropLog x.1) w).mapSlices fun _ sl =>
          match sl.wait with | .fetch b _ => if p b then { sl with wait := .run } else sl | _ => sl
      s.raise core slot [] 0x05 pc

end Sys2Proof.Machine
end

