-- ==== Sys2Proof/Machine/Place.lean ====
section
/-! DEFINITION. Placement (R20, R23, R170, R198 to R203, R206, R207, R409, R418): room, the placement order and its rounds, and the start
of gangs and phases. -/

namespace Sys2Proof.Machine

open Sys2Proof

/-! ## What is in use -/

/-- Whether a gang's blocks occupy cores. -/
def Gang.onCores (g : Gang) : Bool := g.status = .resident || g.status = .stopping

/-- The blocks resident on a core. -/
def State.coreBlocks (s : State) (core : Nat) : List Block :=
  s.sched.gangs.flatMap fun g => if g.onCores then g.blocks.filter fun b => b.core = core else []

/-- The warps resident on a pipe of a core (R202). -/
def State.pipeWarps (s : State) (core p : Nat) : List Warp := s.warps.filter fun w => w.core = core && w.slot / 8 = p

/-- The first `n` numbers below `total` that are not used. -/
def takeFree (total : Nat) (used : List Nat) (n : Nat) : List Nat := ((List.range total).filter fun i => !used.contains i).take n

/-- Warp frame slots of a context in use (R409). -/
def State.frameSlots (s : State) (ctx : Nat) : List Nat :=
  ((s.warps.filter fun w => w.ctx = ctx).map Warp.frameSlot) ++
    (s.sched.gangs.filter fun g => g.ctx = ctx && g.status = .saved).flatMap fun g =>
      g.blocks.flatMap fun b => b.saved.map fun x => x.2.1

/-- Block frame slots of a context in use (R409). -/
def State.blockSlots (s : State) (ctx : Nat) : List Nat :=
  (s.sched.gangs.filter fun g => g.ctx = ctx).flatMap fun g => g.blocks.map Block.bslot

/-- Lane-private slots of a context in use (R23). -/
def State.laneSlots (s : State) (ctx : Nat) : List Nat :=
  ((s.warps.filter fun w => w.ctx = ctx).map Warp.lpSlot) ++
    (s.sched.gangs.filter fun g => g.ctx = ctx && g.status = .saved).flatMap fun g => g.blocks.flatMap Block.lpSlots

/-- Bytes of a phase record with a body (R205). -/
def recordSize (gang warps nv ns nb : Nat) : Nat :=
  128 + gang * (warps * (384 * nv + up128 (24 * nv) + up128 (4 * ns) + 256) + up128 nb + up128 (nb / 16))

/-- The largest record that a gang of a shape can write (R206). -/
def largestRecord (shape : Word) (scratch : Nat) : Nat :=
  recordSize (shapeGang shape) (shapeWarps shape) (shapeVrc shape) (min (shapeSrc shape) 122) scratch

/-- Bytes of a header-only record. -/
def headerRecord : Nat := 64

/-- Bytes of a context's phase pool on a die in use (R206). -/
def State.poolUsed (s : State) (ctx die : Nat) : Nat :=
  ((s.sched.gangs.filter fun g => g.ctx = ctx && g.die = die).map Gang.pool).sum +
    ((s.sched.queued.filter fun r => r.ctx = ctx && r.die = die).map PhaseRec.pool).sum

/-- Whether the phase pool can supply `n` more bytes. -/
def State.poolRoom (s : State) (ctx die n : Nat) : Bool :=
  s.poolUsed ctx die + n ≤ s.poolSize ctx die

/-! ## Room (R200) -/

/-- Where a block goes: core, base of its allocation, and the slots of its warps. -/
structure BlockPlan where
  core  : Nat
  base  : Nat
  slots : List Nat
deriving DecidableEq, Repr

/-- The lowest free range of `n` bytes of a core's scratchpad. -/
def freeRange (bs : List Block) (n : Nat) : Option Nat :=
  let fits := fun (c : Nat) => c + n ≤ Config.scratchBytes && bs.all fun b => b.scratch = 0 || n = 0 || c + n ≤ b.base || b.base + b.scratch ≤ c
  ((0 :: bs.map fun b => b.base + b.scratch).filter fits).foldl (fun m c => match m with | none => some c | some x => some (min x c)) none

/-- The pipe that the next warp goes to, when the slots of `taken` are given to warps of `vrc` registers (R202). -/
def State.nextPipe (s : State) (core vrc : Nat) (taken : List Nat) : Option Nat :=
  let load := fun (p : Nat) => (s.pipeWarps core p).length + (taken.countP fun t => t / 8 = p)
  let sum := fun (p : Nat) => ((s.pipeWarps core p).map Warp.vrc).sum + vrc * (taken.countP fun t => t / 8 = p)
  ((List.range 4).filter fun p => load p < 8 && sum p + vrc ≤ 1024).foldl
    (fun m p => match m with | none => some p | some x => if load p < load x then some p else some x) none

/-- Slots for `n` warps of a core (R202). -/
def State.placeWarps (s : State) (core vrc : Nat) : Nat → List Nat → Option (List Nat)
  | 0, taken => some taken
  | n + 1, taken =>
    match s.nextPipe core vrc taken with
    | none => none
    | some p =>
      let used := ((s.pipeWarps core p).map Warp.slot) ++ taken
      match (List.range 8).find? fun i => !used.contains (8 * p + i) with
      | none => none
      | some i => s.placeWarps core vrc n (taken ++ [8 * p + i])

/-- A core's room for a block (R200). -/
def State.coreRoom (s : State) (core warps vrc scratch : Nat) : Option BlockPlan :=
  let bs := s.coreBlocks core
  if 8 ≤ bs.length || Config.scratchBytes < (bs.map Block.scratch).sum + scratch then none
  else match freeRange bs scratch, s.placeWarps core vrc warps [] with
    | some base, some slots => some { core := core, base := base, slots := slots }
    | _, _ => none

/-- What a gang asks of its die: warps of each block by gang position, core positions when they are fixed, phase-pool bytes, and
whether it takes new slots. -/
structure Ask where
  ctx       : Nat
  die       : Nat
  warps     : List Nat
  vrc       : Nat
  scratch   : Nat
  positions : List Nat := []
  pool      : Nat := 0
  fresh     : Bool := true
deriving DecidableEq, Repr

/-- What the context must have for a gang: pool space, save slots and lane-private slots (R23, R200, R206, R409). -/
def State.ctxRoom (s : State) (a : Ask) : Bool :=
  match s.ctx? a.ctx with
  | none => false
  | some c =>
    let n := a.warps.sum
    !c.hold && !c.killed && s.poolRoom a.ctx a.die a.pool &&
    (!a.fresh ||
      ((takeFree c.wslots (s.frameSlots a.ctx) n).length = n &&
       (takeFree c.bslots (s.blockSlots a.ctx) a.warps.length).length = a.warps.length &&
       (c.lpSize = 0 || (takeFree c.lpSlots (s.laneSlots a.ctx) n).length = n)))

/-- The blocks of a gang on one cluster of its die: on its fixed positions, or on the lowest of those it may take
(R20, R202). -/
def State.clusterFit (s : State) (a : Ask) (cl : Nat) (free : List Nat := List.range 4) : Option (List BlockPlan) :=
  let core := fun (p : Nat) => a.die * Config.coresPerDie + 4 * cl + p
  if a.positions.isEmpty then
    (a.warps.foldl (fun r n => r.bind fun (x : List BlockPlan × List Nat) =>
      (x.2.findSome? fun p => (s.coreRoom (core p) n a.vrc a.scratch).map fun b => (b, p)).map fun y =>
        (x.1 ++ [y.1], x.2.filter fun q => y.2 < q)) (some ([], free))).map Prod.fst
  else if !a.positions.all free.contains then none
  else
    ((a.warps.zip a.positions).foldl (fun r x => r.bind fun l =>
      (s.coreRoom (core x.2) x.1 a.vrc a.scratch).map fun b => l ++ [b]) (some []))

/-- The cluster a gang goes to, with its blocks; `only` is the one cluster allowed to it, `not` one kept from it (R201, R202). -/
def State.fit (s : State) (a : Ask) (only not : Option Nat) : Option (Nat × List BlockPlan) :=
  if !s.present a.die || !s.ctxRoom a then none
  else (List.range Config.clustersPerDie).findSome? fun cl =>
    if not = some cl || only.any (· ≠ cl) then none else (s.clusterFit a cl).map fun b => (cl, b)

/-! ## Trace records of the work distributor (R203, R437) -/

/-- The launch id in trace records. -/
def traceLaunch (l : Option Nat) : Nat := l.getD 0xFFFFFF

/-- Writes a record of a die's work distributor. -/
def State.emitDist (s : State) (g : Gang) (code payload : Nat) (body : Option (BitVec 128)) : State :=
  s.emit g.die 212 0 g.ctx code payload body g.lossless none (if code = 0x03 || code = 0x06 then some g.id else none)

/-- BLOCK_START and BLOCK_END of a block. -/
def State.emitBlock (s : State) (g : Gang) (code : Nat) (lin core : Nat) : State :=
  s.emitDist g code (traceLaunch g.launch) (traceBody (lin % 2 ^ 32 + core % Config.coresPerDie * 2 ^ 32) 0)

/-- PHASE_START and PHASE_END. -/
def State.emitPhase (s : State) (g : Gang) (code sq phase core : Nat) : State :=
  s.emitDist g code (sq % 64 + phase % 2 ^ 18 * 64)
    (traceBody (g.first % 2 ^ 32 + phase % 2 ^ 32 * 2 ^ 32) (traceLaunch g.launch + core % Config.coresPerDie * 2 ^ 32))

/-- PREEMPT and RESUME; `kind` 1 for an instruction boundary. -/
def State.emitPreempt (s : State) (g : Gang) (code kind core : Nat) : State :=
  s.emitDist g code kind (traceBody (g.first % 2 ^ 32 + core % Config.coresPerDie * 2 ^ 32) 0)

/-! ## The start of a gang -/

/-- A warp as it starts (R170). -/
def newWarp (g : Gang) (b : Block) (i slot frame lane : Nat) : Warp :=
  { core := b.core, slot := slot, gang := g.id, pos := b.pos, idx := i, ctx := g.ctx, vrc := shapeVrc g.shape, src := shapeSrc g.shape
    v := List.replicate (shapeVrc g.shape) 0, k := List.replicate (shapeVrc g.shape) 0
    s := (((((List.replicate 128 (0 : Word)).set 0 (g.param.extractLsb' 0 32)).set 1 (g.param.extractLsb' 32 32)).set 125 (BitVec.allOnes 32)).set 126
      (BitVec.allOnes 32)).set 127 (BitVec.allOnes 32)
    q := BitVec.allOnes 96 :: List.replicate 15 0
    slices := List.replicate 24 { pc := g.pc, tgt := true }
    log := List.replicate 8 {}, frameSlot := frame, lpSlot := lane }

/-- A warp with what a phase record carries into it (R207). -/
def Warp.carried (w : Warp) (r : PhaseRec) : Warp :=
  match r.carries.find? fun c => c.pos = w.pos && c.idx = w.idx with
  | none => w
  | some c =>
    { w with
      v := (c.v.take r.nv) ++ w.v.drop r.nv
      k := (c.k.take r.nv) ++ w.k.drop r.nv
      s := (c.s.take r.ns) ++ w.s.drop r.ns
      q := c.q }

/-- Restores the carried bytes and tags of a block (R204, R207), and what the device had written in its objects (R354, R365). -/
def State.restoreImage (s : State) (b : Block) (r : PhaseRec) : State :=
  match r.images.find? fun x => x.pos = b.pos with
  | none => s
  | some x =>
    let s := x.lines.zipIdx.foldl (fun s y => s.modStore fun m => m.placeLine (b.line y.2) y.1.1 y.1.2 none) s
    (x.poison.foldl (fun s y => s.modStore fun m => m.setWordPoison (32 * b.line 0 + y.1) y.2) s).noteBlockFields b x.fields

/-- A launch start invalidates its context's lines in the instruction caches of the cores that receive its blocks (R140). -/
def State.dropCode (s : State) (ctx : Nat) (cores : List Nat) (old : ICacheLine → Bool := fun _ => true) : State :=
  s.modCaches fun k => { k with icache := k.icache.filter fun x => !(x.ctx = ctx && cores.contains x.core && old x) }

/-- A launch's blocks come to cores after its first phase: of its code lines there, those older than the launch go (R140). -/
def State.dropOldCode (s : State) (g : Gang) : State :=
  if g.launch.isNone then s else s.dropCode g.ctx (g.blocks.map Block.core) fun x => x.age ≤ g.age

/-- Starts a gang on the cores of a plan as new blocks and warps (R45, R170, R202, R203, R207, R409); `r` is the phase record it
starts from. -/
def State.startNew (s : State) (g : Gang) (cl : Nat) (plan : List BlockPlan) (r : Option PhaseRec) : State :=
  match s.ctx? g.ctx with
  | none => s
  | some c =>
    let n := (plan.map fun b => b.slots.length).sum
    let frames := takeFree c.wslots (s.frameSlots g.ctx) n
    let lanes := if c.lpSize = 0 then List.replicate n 0 else takeFree c.lpSlots (s.laneSlots g.ctx) n
    let bslots := takeFree c.bslots (s.blockSlots g.ctx) plan.length
    let blocks := plan.zipIdx.map fun x =>
      ({ pos := x.2, lin := g.first + x.2, core := x.1.core, base := x.1.base, scratch := g.scratch, rings := List.replicate 32 {},
         bslot := bslots.getD x.2 0 } : Block)
    let g := { g with cluster := cl, core0 := (blocks.head?.map Block.core).getD 0, blocks := blocks, status := .resident, passedAt := none }
    let per := (plan.head?.map fun b => b.slots.length).getD 0
    let warps := (blocks.zip plan).flatMap fun x => x.2.slots.zipIdx.map fun y =>
      let i := x.1.pos * per + y.2
      let w := (newWarp g x.1 y.2 y.1 (frames.getD i 0) (lanes.getD i 0)).fenced (fun _ => true) (s.free + 1)
      match r with | some r => w.carried r | none => w
    let s := s.modSched fun k =>
      { k with gangs := (if k.gangs.any fun x => x.id = g.id then k.gangs.map fun x => if x.id = g.id then g else x else k.gangs ++ [g]) }
    let s := { s with warps := s.warps ++ warps }
    let s := warps.foldl (fun s w => s.clearWords w.core w.slot fun _ => true) s
    let s := if c.lpSize = 0 then s else s.modStore fun m => lanes.foldl (fun m l => m.lpTake g.ctx l) m
    let s := blocks.foldl (fun s b =>
      let s := (s.readyScratch g.ctx b.core b.base b.scratch).l1Flush b.core
      match r with | some r => s.restoreImage b r | none => s) s
    let first : Bool := match r with | none => true | some r => r.positions.isEmpty && !r.spawned && r.launch.isSome
    let s := if first then s.dropCode g.ctx (blocks.map Block.core) else s.dropOldCode g
    let s := if first then blocks.foldl (fun s b => s.emitBlock g 0x03 b.lin b.core) s else s
    match r with
    | some r =>
      let s := if r.preempted then s.emitPreempt g 0x0F 0 g.core0 else s
      s.emitPhase g 0x06 r.sq r.phase g.core0
    | none => s

/-- The gang that a phase record starts; only phased launches and triggers make records (R204, R205, R371). -/
def PhaseRec.gangOf (r : PhaseRec) (id : Nat) : Gang :=
  { id := id, ctx := r.ctx, launch := r.launch, first := r.first, die := r.die, grid := r.grid, shape := r.shape, scratch := r.scratch
    pc := r.pc, param := r.param, phased := true, triggered := r.triggered, spawned := r.spawned, phase := r.phase, sq := r.sq
    chain := r.chain, prio := r.prio, trig := r.trig, age := if r.launch.isNone then 2 ^ 64 + r.order else r.age, order := r.order
    pool := largestRecord r.shape r.scratch, poolAt := r.poolAt, lossless := r.lossless }

/-- What a phase record's gang asks. -/
def PhaseRec.ask (r : PhaseRec) : Ask :=
  { ctx := r.ctx, die := r.die, warps := List.replicate (shapeGang r.shape) (shapeWarps r.shape), vrc := shapeVrc r.shape
    scratch := r.scratch, positions := r.positions, pool := largestRecord r.shape r.scratch - r.pool }

/-- Starts a phase record on a plan: it leaves its queue; a trigger's TRIG is fixed into its record, and its watch is armed again (R205, R207,
R212). -/
def State.startRec (s : State) (r : PhaseRec) (cl : Nat) (plan : List BlockPlan) : State :=
  let w := r.watch.bind fun x => s.sched.watches.find? fun w => w.is r.ctx x.1 x.2
  let r' := match w with | some w => { r with trig := w.trigWords } | none => r
  let s := if r.triggered && r.carries.isEmpty then s.layRecord r' else s
  let r' := { r' with poolAt := r.poolAt ++ s.poolTake r.ctx r.die (largestRecord r.shape r.scratch - r.pool) }
  let s := match w with | some w => s.modWatch w.ctx w.id w.home fun w => { w with state := .armed, count := 0 } | none => s
  let id := s.sched.nextGang
  let s := s.modSched fun k => { k with queued := k.queued.filter fun x => x.order ≠ r.order, nextGang := id + 1 }
  s.startNew (r'.gangOf id) cl plan (some r')

/-! ## Resumption (R418) -/

/-- What a saved gang asks: the positions it held, and nothing new (R20, R23, R409). -/
def Gang.askResume (g : Gang) : Ask :=
  { ctx := g.ctx, die := g.die, warps := g.blocks.map fun b => b.saved.length, vrc := shapeVrc g.shape
    scratch := g.scratch, positions := g.blocks.map fun b => b.core % 4, fresh := false }

/-- A saved warp as it comes back: its registers from its frame (R412, R418). -/
def State.reloadWarp (s : State) (g : Gang) (b : Block) (x : Nat × Nat × Nat) (slot lane : Nat) : Option State :=
  match s.ctx? g.ctx with
  | none => none
  | some c =>
    let base := c.warpSlot x.2.1
    if !s.frameReadable g.ctx base (frameBytes (shapeVrc g.shape)) then none
    else
      let s := s.markPages g.ctx base (frameBytes (shapeVrc g.shape)) false
      let w := (newWarp g b x.1 slot x.2.1 lane).reload (s.frameRead g.ctx base) fun i => x.2.2.testBit i
      let w := { w with halted := x.2.2.testBit 24 }.fenced (fun _ => true) (s.free + 1)
      some ({ s with warps := s.warps ++ [w] }.clearWords w.core w.slot fun _ => true)

/-- Checks a held copy against its new cores and sets it going again (R414); `slot` is its warp's new slot. A copy that fails loses its
remaining chunks. -/
def State.resumeCopy (s : State) (c : Copy) (slot held : Nat) : State :=
  let c := { c.ofHeld held with heldSave := false, slot := slot, quiet := if c.heldSrc then c.nextChunk else none }
  match s.blockOf? c.agentWarp with
  | none => s
  | some b =>
    let c := { c with core := b.core }
    match if heldBad held then .error (0x20, 0x07) else s.checkCopy c.agentWarp c.geometry c.mcast c.band with
    | .ok p =>
      let same := p.arr.map Prod.fst
      s.modCopy c.id fun _ => { c with receivers := p.receivers, scratch := p.scratch, lo := p.lo, hi := p.hi, arr := p.arr, heldSrc := false,
                                       written := c.written.filter same.contains, spilled := c.spilled.filter fun x => same.contains x.chunk }
    | .error _ =>
      let batch := ((s.ctx? c.ctx).map Context.batch).getD 1
      let s := s.writeBatch c.ctx (.engine c.core c.slot) [{ code := 0x20, sub := 0x07, pc := c.pc }]
      let s := s.freeSpill c c.spilled.length
      s.modCopy c.id fun _ => { c with heldSrc := false, spilled := [], batch := batch,
                                       lostChunks := (c.arr.map Prod.fst).filter fun x => !c.written.contains x }

/-- The rings of a context whose headers lie in a block's scratchpad go with the block to its new place. -/
def State.moveRings (s : State) (ctx : Nat) (old new : Block) : State :=
  let lo := scratchKey old.core old.base
  s.modCtx ctx fun c => { c with rings := c.rings.map fun r =>
    if lo ≤ r.2.2 && r.2.2 < lo + old.scratch then (r.1, r.2.1, scratchKey new.core new.base + (r.2.2 - lo)) else r }

/-- The slot that the warp of an index has on a plan; `d` where none has it. -/
def Block.newSlot (b : Block) (p : BlockPlan) (widx d : Nat) : Nat :=
  (((b.saved.zip p.slots).find? fun x => x.1.1 = widx).map Prod.snd).getD d

/-- Reloads the frames of a saved gang on a plan (R418): block frames, then held copies, then warp frames; where the save area no longer
gives one back, the core and the warp slot concerned (R420). -/
def State.reloadFrames (s : State) (g : Gang) (l : List (Block × BlockPlan)) : Except (Nat × Nat) State :=
  let o := l.foldl (fun (o : Except (Nat × Nat) State) x => o.bind fun s =>
    let b := x.1
    match (s.readyScratch g.ctx b.core b.base b.scratch).l1Flush b.core |>.reloadBlock g b with
    | none => .error (b.core, x.2.slots.headD 0)
    | some y => .ok ((y.1.heldCopies g.id b.pos).zipIdx.foldl (fun s z =>
        s.resumeCopy z.1 (b.newSlot x.2 z.1.widx z.1.slot) (natBits y.2 (8 * (0x0A00 + 512 * z.2)) 4096)) y.1)) (.ok s)
  l.foldl (fun o x => o.bind fun s =>
    (x.1.saved.zip (x.2.slots.zip x.1.lpSlots)).foldl (fun o y => o.bind fun s =>
      (s.reloadWarp g x.1 y.1 y.2.1 y.2.2).elim (.error (x.1.core, y.2.1)) .ok) (.ok s)) o

/-- Resumes a saved gang on a plan (R418): its frames, then RESUME. Where they cannot be reloaded the context is lost (R420). Failed batches
take effect (R417), and every other parked instruction is retried (R102). -/
def State.startSaved (s : State) (g : Gang) (cl : Nat) (plan : List BlockPlan) : State :=
  let old := g.blocks
  let blocks := (g.blocks.zip plan).map fun x => { x.1 with core := x.2.core, base := x.2.base }
  let g := { g with cluster := cl, blocks := blocks, status := .resident, passedAt := none
                    core0 := ((blocks.find? fun b => b.pos = 0).map Block.core).getD (4 * (cl + 36 * g.die) + g.core0 % 4) }
  let s0 := s.modGang g.id fun _ => g
  match s0.reloadFrames g (blocks.zip plan) with
  | .ok s =>
    let s := (old.zip blocks).foldl (fun s x => s.moveRings g.ctx x.1 x.2) s
    let s := s.modGang g.id fun g => { g with failed := [], blocks := g.blocks.map fun b => { b with saved := [], lpSlots := [] } }
    let mine := s.warps.filter fun w => w.gang = g.id
    let s := (s.dropOldCode g).emitPreempt g 0x0F 1 g.core0
    mine.foldl (fun s w => (s.failWarp w.core w.slot g.failed.contains).retryWarp w.core w.slot fun _ => true) s
  | .error x => s.lose g.ctx x.1 x.2 0x04

/-! ## The placement order (R199, R201, R490) -/

/-- What waits for placement. -/
inductive Item
  | gang (g : Gang)
  | rec_ (r : PhaseRec)
deriving DecidableEq, Repr

/-- The context of what waits. -/
def Item.ctx : Item → Nat | .gang g => g.ctx | .rec_ r => r.ctx
/-- Its launch. -/
def Item.launch : Item → Option Nat | .gang g => g.launch | .rec_ r => r.launch
/-- Its priority. -/
def Item.prio : Item → Nat | .gang g => g.prio | .rec_ r => r.prio
/-- When it entered the placement order. -/
def Item.order : Item → Nat | .gang g => g.order | .rec_ r => r.order
/-- Its LOSSLESS. -/
def Item.lossless : Item → Bool | .gang g => g.lossless | .rec_ r => r.lossless
/-- The cycle at which it was first passed over. -/
def Item.passedAt : Item → Option Nat | .gang g => g.passedAt | .rec_ r => r.passedAt
/-- What it asks. -/
def Item.ask : Item → Ask
  | .gang g => if g.status = .saved then g.askResume else
      { ctx := g.ctx, die := g.die, warps := List.replicate (shapeGang g.shape) (shapeWarps g.shape), vrc := shapeVrc g.shape, scratch := g.scratch }
  | .rec_ r => r.ask

/-- The lossless records that announce an item's start, by type and number: BLOCK_START for every block of a launch's first start, PHASE_START
of a phase record, and none for a gang that resumes (R203, R437, R444). -/
def Item.announced : Item → Nat × Nat
  | .gang g => (0x03, if g.status = .saved then 0 else shapeGang g.shape)
  | .rec_ r => if r.positions.isEmpty && !r.spawned && r.launch.isSome then (0x03, r.ask.warps.length + 1) else (0x06, 1)

/-- Whether lossless trace holds the distributor back from a start (R446). -/
def State.startHeld (s : State) (x : Item) : Bool :=
  0 < x.announced.2 && s.traceHeld x.ask.die x.ctx x.announced.1 x.lossless x.announced.2

/-- Notes that hold (R447). -/
def State.noteStartHold (s : State) (x : Item) : State :=
  if s.startHeld x then s.noteHold x.ask.die x.ctx x.announced.1 x.announced.2 else s

/-- The keys of the placement order, smaller first. -/
def Item.key : Item → List Nat
  | .gang g => if g.status = .saved then [7 - g.prio, 0, g.age, g.first] else [7 - g.prio, 2, g.order, 0]
  | .rec_ r => if r.sentBack ≠ 0 then [7 - r.prio, 1, 2 ^ 64 - r.sentBack, 0] else [7 - r.prio, 2, r.order, 1]

/-- Lexicographic order of keys. -/
def keyLe : List Nat → List Nat → Bool
  | a :: l, b :: r => if a = b then keyLe l r else a < b
  | _, _ => true

/-- A die's placement order. -/
def State.placementOrder (s : State) (die : Nat) : List Item :=
  let gs := (s.sched.gangs.filter fun g => g.die = die && (g.status = .waiting || g.status = .saved)).map Item.gang
  let rs := (s.sched.queued.filter fun r => r.die = die).map Item.rec_
  (gs ++ rs).insertionSort fun a b => keyLe a.key b.key

/-- The head of a stage queue (R208). -/
def State.sqHead? (s : State) (ctx die sq : Nat) : Option PhaseRec :=
  s.sched.queued.find? fun r => r.ctx = ctx && r.die = die && r.sq = sq

/-- Whether a record stands at the head of its stage queue. -/
def State.isHead (s : State) (r : PhaseRec) : Bool := (s.sqHead? r.ctx r.die r.sq).any fun x => x.order = r.order

/-- FLAGS of a launch record. -/
def launchFlags (v : Nat) : Nat := natBits v (8 * 0x24) 32
/-- Whether a launch record has COOP. -/
def launchCoop (v : Nat) : Bool := (launchFlags v).testBit 0
/-- PRIO of a launch record. -/
def launchPrio (v : Nat) : Nat := launchFlags v / 8 % 8
/-- COUNT of a die in a launch record. -/
def launchCount (v die : Nat) : Nat := natBits v (8 * (0x30 + 8 * die) + 32) 32
/-- WAIT of a launch record. -/
def launchWait (v : Nat) : BitVec 256 := BitVec.ofNat 256 (natBits v (8 * 0x50) 256)

/-- The priority of a COOP launch that waits for free room on a die, while which nothing of lower priority is placed there (R199). -/
def State.coopWaits (s : State) (die : Nat) : List Nat :=
  s.contexts.flatMap fun c => if c.hold then [] else c.queues.filterMap fun q =>
    match q.held with
    | some h =>
      let v := h.data.toNat
      if launchCoop v && 0 < launchCount v die && (launchWait v &&& ~~~c.events) = 0 then some (launchPrio v) else none
    | none => none

/-- The cluster that a die reserves, with what it is reserved for, as long as that waits (R201). -/
def State.reservation (s : State) (die : Nat) : Option (Nat × Nat) :=
  (s.die die).reserved.filter fun r => (s.placementOrder die).any fun y => y.order = r.2

/-- Marks what a round has passed over. -/
def State.markPassed (s : State) (die : Nat) (x : Item) : State :=
  let t := (s.die die).clock
  match x with
  | .gang g => s.modGang g.id fun g => { g with passedAt := some (g.passedAt.getD t) }
  | .rec_ r => s.modSched fun k => { k with queued := k.queued.map fun y =>
      if y.order = r.order then { y with passedAt := some (y.passedAt.getD t) } else y }

/-- The first waiting item, for which a cluster may be reserved (R201). -/
def State.firstWaiting (s : State) (die : Nat) : Option Item :=
  (s.placementOrder die).find? fun x => match x with
    | .gang g => !(s.ctx? g.ctx).any Context.hold
    | .rec_ r => s.isHead r && !(s.ctx? r.ctx).any Context.hold

/-- Places what waits on a plan. -/
def State.startItem (s : State) (x : Item) (cl : Nat) (plan : List BlockPlan) : State :=
  match x with
  | .gang g => if g.status = .saved then s.startSaved g cl plan else s.startNew g cl plan none
  | .rec_ r => s.startRec r cl plan

/-- Tries one item of a round; `skip` are the launches passed over so far. -/
def State.tryItem (s : State) (die : Nat) (skip : List Nat) (x : Item) : State × List Nat :=
  let heldBack := match x with | .gang _ => false | .rec_ r => !s.isHead r
  let held := (s.ctx? x.ctx).any Context.hold
  if heldBack || held || x.launch.any (skip.contains ·) || s.startHeld x || (s.coopWaits die).any (x.prio < ·) then (s.noteStartHold x, skip)
  else
    let res := s.reservation die
    let mine := res.any fun r => r.2 = x.order
    let only := if mine then res.map Prod.fst else none
    let not := if mine then none else res.map Prod.fst
    match s.fit x.ask only not with
    | some (cl, plan) =>
      let s := if mine then s.modDie die fun d => { d with reserved := none } else s
      (s.startItem x cl plan, skip)
    | none => (s.markPassed die x, match x.launch with | some l => l :: skip | none => skip)

/-- A placement round of a die (R201). -/
def State.placementRound (s : State) (die : Nat) : State :=
  ((s.placementOrder die).foldl (fun r x => State.tryItem r.1 die r.2 x) (s, ([] : List Nat))).1

/-- Free room of a cluster for an item, by the keys of R201, smaller first. -/
def State.roomKey (s : State) (a : Ask) (cl : Nat) : List Nat :=
  let core := fun (p : Nat) => a.die * Config.coresPerDie + 4 * cl + p
  let room := fun (n p : Nat) => (s.coreRoom (core p) n a.vrc a.scratch).isSome
  let blocks := if a.positions.isEmpty then min a.warps.length ((List.range 4).countP (room (a.warps.headD 1)))
    else (a.warps.zip a.positions).countP fun x => room x.1 x.2
  let scratch := ((List.range 4).map fun p => Config.scratchBytes - ((s.coreBlocks (core p)).map Block.scratch).sum).sum
  let places := ((List.range 16).map fun i => 8 - (s.pipeWarps (core (i / 4)) (i % 4)).length).sum
  [4 - blocks, 4 * Config.scratchBytes - scratch, 128 - places, cl]

end Sys2Proof.Machine
end

