-- ==== Sys2Proof/Machine/Phase.lean ====
section
/-! DEFINITION. The end of warps, blocks and gangs (R185, R203, R261), barriers (R268 to R270), PHASE and the milliner (R204, R209 to
R211, R216, R272, R273). -/

namespace Sys2Proof.Machine

open Sys2Proof

/-! ## The end of warps, blocks and gangs -/

/-- A warp ends when its last slice has ended and what it issued has finished (R185, R383). -/
def State.warpEnded (s : State) (w : Warp) : Bool :=
  w.liveSlices.isEmpty && w.parked.isEmpty && w.flights.isEmpty && !s.hasProducts w.core w.slot && !s.hasAccess w.core w.slot

/-- Removes the warps that have ended, with their products' records. -/
def State.endWarps (s : State) : State :=
  (s.warps.filter s.warpEnded).foldl (fun s w =>
    (s.dropWarp w.core w.slot).modEng fun e => { e with products := e.products.filter fun p => !(p.core = w.core && p.slot = w.slot) }) s

/-- BUSY clears once no gang of the context is still to be saved (R415). -/
def State.clearBusy (s : State) (ctx : Nat) : State :=
  if s.sched.gangs.any fun g => g.ctx = ctx && (g.phaseStop || g.status = .stopping) then s
  else s.modCtx ctx fun c => { c with busy := false }

/-- Whether a block has ended: its warps, the copies it registered or receives, and its products (R261). -/
def State.blockEnded (s : State) (g : Gang) (b : Block) : Bool :=
  !(s.warps.any fun w => w.gang = g.id && w.pos = b.pos) &&
  !(s.eng.copies.any fun c => c.gang = g.id && (c.pos = b.pos || (c.scratch && c.receivers.contains (b.core % 4))))

/-- Removes a gang. -/
def State.dropGang (s : State) (id : Nat) : State :=
  (s.modSched fun k => { k with gangs := k.gangs.filter fun g => g.id ≠ id }).modEng fun e =>
    { e with bandFlags := e.bandFlags.filter fun x => x.gang ≠ id }

/-- Ends the blocks of a gang that have ended, each with BLOCK_END, and the gang with its last block (R203, R261). -/
def State.endBlocks (s : State) (id : Nat) : State :=
  match s.gang? id with
  | none => s
  | some g =>
    if !g.onCores then s
    else
      let ended := g.blocks.filter (s.blockEnded g)
      if ended.isEmpty then s
      else if s.traceHeld g.die g.ctx 0x04 g.lossless ended.length then s.noteHold g.die g.ctx 0x04 ended.length
      else
        let s := ended.foldl (fun s b =>
          (s.emitBlock g 0x04 b.lin b.core).modGang id fun g => { g with blocks := g.blocks.filter fun x => x.pos ≠ b.pos }) s
        if ended.length < g.blocks.length then s
        else (s.dropGang id).clearBusy g.ctx

/-! ## Barriers (R268 to R270) -/

/-- What a whole warp waits at: a barrier or PHASE, at which all its live slices stand. -/
def Warp.waitsAt (w : Warp) : Option Wait :=
  match w.liveSlices with
  | [] => none
  | i :: rest =>
    if w.halted || w.entry.isSome then none
    else match (w.slice i).wait with
      | .barrier b n => if rest.all fun j => (w.slice j).wait = .barrier b n then some (.barrier b n) else none
      | .phase f => if rest.all fun j => (w.slice j).wait = .phase f then some (.phase f) else none
      | _ => none

/-- Whether a warp has arrived at a barrier: it waits there, and nothing it issued is parked (R269). -/
def Warp.arrivedAt (w : Warp) (x : Wait) : Bool := w.waitsAt = some x && w.parked.isEmpty

/-- The warps of a gang that have not ended; of one block when `pos` is given. -/
def State.gangWarps (s : State) (id : Nat) (pos : Option Nat := none) : List Warp :=
  s.warps.filter fun w => w.gang = id && pos.all (· = w.pos) && !w.liveSlices.isEmpty

/-- A warp departs from the barrier at which it waits. -/
def Warp.depart (w : Warp) : Warp :=
  w.mapSlices fun _ sl => match sl.wait with | .barrier _ _ => if sl.live then { sl with pc := nextPc sl.pc, wait := .run } else sl | _ => sl

/-- Lets a list of warps depart; at BARH each core's L1 is invalidated (R269). -/
def State.departAll (s : State) (ws : List Warp) (wide : Bool) : State :=
  ws.foldl (fun s w => (if wide then s.l1Flush w.core else s).modWarp w.core w.slot Warp.depart) s

/-- Completes the barriers of a gang whose participants have all arrived. -/
def State.resolveBarriers (s : State) (g : Gang) : State :=
  let try_ := fun (s : State) (pos : Option Nat) (n : Nat) =>
    let ws := s.gangWarps g.id pos
    if !ws.isEmpty && ws.all fun w => w.arrivedAt (.barrier pos.isNone n) then s.departAll ws pos.isNone else s
  let s := g.blocks.foldl (fun s b => (List.range 16).foldl (fun s n => try_ s (some b.pos) n) s) s
  (List.range 16).foldl (fun s n => try_ s none n) s

/-- Whether every warp of a gang stands at a PHASE and none has ended (R204). -/
def State.phaseArrived (s : State) (g : Gang) : Bool :=
  let ws := s.gangWarps g.id
  ws.length = shapeGang g.shape * shapeWarps g.shape && ws.all fun w => match w.waitsAt with | some (.phase _) => true | _ => false

/-- A gang all of whose live warps wait at barriers or PHASE of which none can complete: each enters handler mode (R270). -/
def State.gangDeadlock (s : State) (g : Gang) : State :=
  let ws := s.gangWarps g.id
  if ws.isEmpty || !(ws.all fun w => w.waitsAt.isSome && w.parked.isEmpty) || s.phaseArrived g then s
  else ws.foldl (fun s w =>
    let pc := (w.slice (keyOf w.liveSlices)).pc
    s.raiseRecs w.core w.slot [{ code := 0x01, sub := 0x22, lanes := w.liveLanes, pc := pc }] pc) s

/-! ## PHASE (R204, R273) -/

/-- The operands of a PHASE as a warp's registers give them (R272): PC, n, m and b. -/
def phaseOperands (w : Warp) (f : FormX) : DWord × Nat × Nat × Nat :=
  let sc := fun (x : BitVec 10) => match operand x with | .s n => (w.getS n).toNat | o => narrow false (constBits 1 o)
  let pc := match operand f.s1 with | .s n => w.getS64 n | _ => 0
  (pc, sc f.s2, sc f.s3, sc f.s4)

/-- Whether everything that a gang's warps issued has finished (R273). -/
def State.gangQuiet (s : State) (g : Gang) : Bool :=
  ((s.gangWarps g.id).all fun w => w.parked.isEmpty && !s.hasProducts w.core w.slot) && !s.eng.copies.any fun c => c.gang = g.id

/-- What a block carries of its scratchpad: its first `n` bytes with tags and poison. -/
def State.carryImage (s : State) (b : Block) (n : Nat) : BlockImage :=
  let lo := 32 * b.line 0
  { pos := b.pos
    lines := (List.range (n / 128)).map fun i => (s.store.line (b.line i), s.store.tag (b.line i))
    poison := (s.store.poison.filter fun c => lo ≤ c.1 && c.1 < lo + n / 4).map fun c => (c.1 - lo, c.2)
    fields := s.blockFields b n }

/-- The record that a completed PHASE writes (R204, R205, R273). -/
def State.phaseRecord (s : State) (g : Gang) (f : FormX) : PhaseRec :=
  let ws := s.gangWarps g.id
  let first := ws.find? fun w => w.pos = 0 && w.idx = 0
  let (pc, n, m, b) := match first with | some w => phaseOperands w f | none => (0, 0, 0, 0)
  { ctx := g.ctx, die := g.die, sq := f.xf.toNat / 256, pc := pc, param := g.param, launch := g.launch, first := g.first, shape := g.shape
    scratch := g.scratch, nv := n, ns := m, nb := b, triggered := g.triggered, spawned := g.spawned, phase := (g.phase + 1) % 2 ^ 32
    chain := g.chain, prio := g.prio
    carries := ws.map fun w => { pos := w.pos, idx := w.idx, v := w.v.take n, k := w.k.take n, s := w.s.take m, q := w.q }
    images := g.blocks.map fun x => s.carryImage x b
    positions := g.blocks.map fun x => x.core % 4
    grid := g.grid, age := g.age, order := s.sched.nextOrder, preempted := g.phaseStop || g.status = .stopping, pool := g.pool
    poolAt := g.poolAt, lossless := g.lossless }

/-- A ring of a context on a die as the milliner sees it (R210, R365). -/
structure RingView where
  index : Nat
  fill  : Nat
  low   : Nat
  high  : Nat
  usq   : Nat
  dsq   : Nat
deriving DecidableEq, Repr

/-- A counter less another (R365). -/
def ctrSub (a b : Nat) : Nat := (a + 2 ^ 32 - b) % 2 ^ 32

/-- The fill of the ring at a header as the milliner reads it for a gang: a commit or free of another gang that nothing has ordered before the
decision is seen or not, and where one is not, neither are those after it (R210, log entry 1). -/
def State.ringFill (s : State) (g : Gang) (hdr : Nat) : Nat :=
  let racing := s.caches.ringOps.filter fun x =>
    hdr ≤ x.key && x.key < hdr + 64 && x.gang ≠ g.id && !g.blocks.any fun b => x.seen.contains b.core
  let unseen := racing.drop (Config.pick s.free (90000 + hdr) % (racing.length + 1))
  let counter := fun (off : Nat) => ((unseen.find? fun x => x.key = hdr + off).map RingOp.old).getD (s.store.read (hdr + off) 4)
  ctrSub (counter 0x14) (counter 0x10)

/-- The rings of a gang's context on its die in ascending index. -/
def State.ringViews (s : State) (g : Gang) : List RingView :=
  let die := g.die
  let tab := ((s.ctx? g.ctx).map Context.rings).getD []
  (List.range 64).filterMap fun i => (tab.find? fun r => r.1 = die && r.2.1 = i).map fun r =>
    let rd := fun (o n : Nat) => s.store.read (r.2.2 + o) n
    { index := i, fill := s.ringFill g r.2.2, low := rd 0x0C 2, high := rd 0x0E 2, usq := rd 0x18 1, dsq := rd 0x19 1 }

/-- The milliner's candidates: stage queue, rule and ring index (R211). -/
def State.candidates (s : State) (g : Gang) : List (Nat × Nat × Nat) :=
  let rs := s.ringViews g
  ((rs.filter fun r => r.high ≤ r.fill).map fun r => (r.dsq, 1, r.index)) ++
  ((rs.filter fun r => r.fill ≤ r.low).map fun r => (r.usq, 2, r.index)) ++ [(g.sq, 3, 0)] ++
  ((List.range 64).filter fun q => s.sched.queued.any fun r => r.ctx = g.ctx && r.die = g.die && r.sq = q && r.launch = g.launch).map fun q => (q, 0, 0)

/-- The milliner's decision for the room of a gang that ended by PHASE; `g` is the gang as it ended (R209, R211). -/
def State.milliner (s : State) (g : Gang) : State :=
  if g.launch.isNone then s
  else match (s.candidates g).find? fun c => (s.sqHead? g.ctx g.die c.1).isSome with
    | none => s
    | some (sq, rule, ring) =>
      if sq ≠ g.sq && s.traceHeld g.die g.ctx 0x13 g.lossless then s.noteHold g.die g.ctx 0x13 1 else
      let s := s.bump
      let s := if sq = g.sq then s else
        s.emit g.die 213 0 g.ctx 0x13 (ring * 2 ^ 14 + rule * 2 ^ 12 + sq * 2 ^ 6 + g.sq % 64) none g.lossless
      match s.sqHead? g.ctx g.die sq with
      | none => s
      | some r =>
        let s := s.noteStartHold (.rec_ r)
        let kept := (s.reservation g.die).any fun x => x.1 = g.cluster && x.2 ≠ r.order
        let plan := if kept || s.startHeld (.rec_ r) || !s.ctxRoom r.ask || (s.coopWaits r.die).any (r.prio < ·) then none
          else s.clusterFit r.ask g.cluster (g.blocks.map fun b => b.core % 4)
        match plan with
        | some plan => s.startRec r g.cluster plan
        | none => s.modSched fun k =>
            { k with queued := k.queued.map fun x => if x.order = r.order then { x with sentBack := k.sendBack } else x
                     sendBack := k.sendBack + 1 }

/-- Completes a gang's PHASE once every warp has arrived and what they issued has finished (R204, R216, R273). -/
def State.tryPhase (s : State) (id : Nat) : State :=
  match s.gang? id with
  | none => s
  | some g =>
    let f? := (s.gangWarps id).findSome? fun w => if w.pos = 0 && w.idx = 0 then (match w.waitsAt with | some (.phase f) => some f | _ => none) else none
    match f? with
    | none => s
    | some f =>
      if !g.onCores || !s.phaseArrived g || !s.gangQuiet g then s
      else if s.traceHeld g.die g.ctx 0x05 g.lossless then s.noteHold g.die g.ctx 0x05 1
      else
        let r := s.phaseRecord g f
        let s := (s.layRecord r).modSched fun k => { k with queued := k.queued ++ [r], nextOrder := k.nextOrder + 1 }
        let s := s.emitPhase g 0x05 r.sq r.phase 0
        let s := { s with warps := s.warps.filter fun w => w.gang ≠ id }
        let s := s.modEng fun e => { e with products := e.products.filter fun p => p.gang ≠ id }
        let s := (s.dropGang id).clearBusy g.ctx
        if r.preempted then s.emitPreempt g 0x0E 0 g.core0 else s.milliner g

/-! ## What follows from any completion -/

/-- What a gang's state entails. -/
def State.sweepGang (s : State) (id : Nat) : State :=
  match s.gang? id with
  | none => s
  | some g =>
    if !g.onCores then s
    else ((s.resolveBarriers g).gangDeadlock g |>.tryPhase id).endBlocks id

/-- Ends what has ended, completes the barriers and phases that can complete. -/
def State.sweep (s : State) : State :=
  let s := s.endWarps
  (s.sched.gangs.map Gang.id).foldl State.sweepGang s

/-- PLACEMENT_ROUND (R201). -/
def execPlacementRound (die : Nat) (s : State) : Host.Outcome State Fault Refusal := .next (s.placementRound die).sweep.settle

/-- PLACEMENT_RESERVE_TIMEOUT (R201): the first waiting gang has been passed over for 65,536 cycles. -/
def execPlacementReserveTimeout (die : Nat) (s : State) : Host.Outcome State Fault Refusal :=
  match s.firstWaiting die with
  | none => .next s
  | some x =>
    if (s.reservation die).isSome || !(x.passedAt.any fun t => t + 65536 ≤ (s.die die).clock) then .next s
    else
      let best := (List.range Config.clustersPerDie).foldl (fun (b : Option (List Nat × Nat)) cl =>
        let k := s.roomKey x.ask cl
        match b with | some y => if keyLe y.1 k then b else some (k, cl) | none => some (k, cl)) none
      .next (s.modDie die fun d => { d with reserved := best.map fun b => (b.2, x.order) })

end Sys2Proof.Machine
end

