-- ==== Sys2Proof/Machine/Admit.lean ====
section
/-! DEFINITION. The admission of launches (R192, R194, R196, R198, R199) and the event vector, whose changes release them (R191). -/

namespace Sys2Proof.Machine

open Sys2Proof

/-! ## Launch records and command queues -/

/-- Fields of a launch record. -/
def launchShape (v : Nat) : Word := BitVec.ofNat 32 (natBits v (8 * 0x1C) 32)
def launchScratch (v : Nat) : Nat := natBits v (8 * 0x20) 32
def launchGrid (v : Nat) : Nat × Nat × Nat := (natBits v (8 * 0x10) 32, natBits v (8 * 0x14) 32, natBits v (8 * 0x18) 32)
def launchBlocks (v : Nat) : Nat := (launchGrid v).1 * (launchGrid v).2.1 * (launchGrid v).2.2
def launchFirst (v die : Nat) : Nat := natBits v (8 * (0x30 + 8 * die)) 32
def launchPhased (v : Nat) : Bool := (launchFlags v).testBit 1
def launchLossless (v : Nat) : Bool := (launchFlags v).testBit 2
def launchSq (v : Nat) : Nat := launchFlags v / 256 % 64
def launchSet (v : Nat) : BitVec 256 := BitVec.ofNat 256 (natBits v (8 * 0x70) 256)

/-- A context's command queue. -/
def State.queue? (s : State) (ctx idx : Nat) : Option CmdQueue := (s.ctx? ctx).bind fun c => c.queues.find? fun q => q.idx = idx

/-- Changes a command queue. -/
def State.modQueue (s : State) (ctx idx : Nat) (f : CmdQueue → CmdQueue) : State :=
  s.modCtx ctx fun c => { c with queues := c.queues.map fun q => if q.idx = idx then f q else q }

/-- A field of a queue's header as the hub last wrote it (R194). -/
def CmdQueue.field (q : CmdQueue) (ctx off v : Nat) : DevField :=
  { obj := 128 * q.tailPa, kind := .queue, ctx := ctx, key := 128 * q.tailPa + off, n := 4, val := v % 2 ^ 32 }

/-- The hub's write of a field of a queue's header (R194). -/
def State.putHeader (s : State) (ctx : Nat) (q : CmdQueue) (off v : Nat) : State :=
  let f := q.field ctx off v
  let s := s.modEng fun e => { e with fields := e.fields.filter fun x => x.key ≠ f.key }
  ((s.deviceWrite ctx (q.hdr + off) 4 f.val).getD s).noteFields [f]

/-! ## Admission -/

/-- First blocks of a launch's gangs on a die, ascending. -/
def launchGangs (v die : Nat) : List Nat :=
  let g := shapeGang (launchShape v)
  (List.range (launchCount v die / g)).map fun i => launchFirst v die + g * i

/-- A gang of a launch as it waits for placement. -/
def launchGang (ctx id v die first age order gid : Nat) : Gang :=
  { id := gid, ctx := ctx, launch := some id, first := first, die := die, grid := launchGrid v, shape := launchShape v, scratch := launchScratch v
    pc := BitVec.ofNat 64 v, param := BitVec.ofNat 64 (v / 2 ^ 64), prio := launchPrio v, age := age, order := order
    lossless := launchLossless v }

/-- The header-only record of a gang of a PHASED launch (R205). -/
def launchRec (ctx id v die first age order : Nat) : PhaseRec :=
  { ctx := ctx, die := die, sq := launchSq v, pc := BitVec.ofNat 64 v, param := BitVec.ofNat 64 (v / 2 ^ 64), launch := some id, first := first
    shape := launchShape v, scratch := launchScratch v, prio := launchPrio v, grid := launchGrid v, age := age, order := order
    lossless := launchLossless v }

/-- Enters a launch's gangs, or their records, into the placement orders; what entered, with its die. -/
def State.enterGangs (s : State) (ctx id v age : Nat) : State × List (Nat × Item) :=
  ((List.range 4).flatMap fun d => (launchGangs v d).map fun f => (d, f)).foldl (fun r x =>
    let (s, l) := r
    let o := s.sched.nextOrder
    if launchPhased v then
      let q := launchRec ctx id v x.1 x.2 age o
      (s.modSched fun k => { k with queued := k.queued ++ [q], nextOrder := o + 1 }, l ++ [(x.1, Item.rec_ q)])
    else
      let g := launchGang ctx id v x.1 x.2 age o s.sched.nextGang
      (s.modSched fun k => { k with gangs := k.gangs ++ [g], nextGang := k.nextGang + 1, nextOrder := o + 1 }, l ++ [(x.1, Item.gang g)]))
    (s, [])

/-- Places every gang of a COOP launch at once (R199); none when one finds no room. -/
def State.placeCoop (s : State) (items : List (Nat × Item)) : Option State :=
  items.foldl (fun o x => o.bind fun s =>
    let kept := (s.reservation x.1).map Prod.fst
    if s.startHeld x.2 || (s.coopWaits x.1).any (x.2.prio < ·) then none
    else (s.fit x.2.ask none kept).map fun p => s.startItem x.2 p.1 p.2) (some s)

/-- The launch id after `n` (R196). -/
def nextLaunchId (n : Nat) : Nat := if n = 0xFFFFFE then 1 else n + 1

/-- Admits a held launch (R196 step 4, R198). -/
def State.launchHead (s : State) (ctx : Nat) (q : CmdQueue) (h : HeldLaunch) : Option State :=
  let v := h.data.toNat
  let id := s.hub.nextLaunch
  let age := s.sched.nextAge
  let head := (q.head + 1) % 2 ^ 32
  let ll := launchLossless v
  let s := (s.modQueue ctx q.idx fun q => { q with held := none, fired := true, head := head }).putHeader ctx q 0x10 head
  let s := s.modHub fun k => { k with nextLaunch := nextLaunchId id }
  let s := s.modSched fun k => { k with
    nextAge := age + 1
    launches := k.launches ++ [{ id := id, ctx := ctx, queue := q.idx, set := launchSet v, record := h.va, lossless := ll, age := age }] }
  let s := s.emit hubDie 215 q.idx ctx 0x01 id (traceBody h.va q.idx) ll
  let (s, items) := s.enterGangs ctx id v age
  if launchCoop v then s.placeCoop items else some s

/-- Admits the launch that a queue holds, if its WAIT bits are set and nothing else holds it (R192, R196, R415, R446). -/
def State.tryAdmit (s : State) (ctx queue : Nat) : State :=
  match s.ctx? ctx, s.queue? ctx queue with
  | some c, some q =>
    (match q.held with
    | none => s
    | some h =>
      let v := h.data.toNat
      if c.hold || c.killed || launchWait v &&& ~~~c.events ≠ 0 then s
      else if s.traceHeld hubDie ctx 0x01 (launchLossless v) then s.noteHold hubDie ctx 0x01 1
      else (s.launchHead ctx q h).getD s)
  | _, _ => s

/-- The command processor's look at every head launch of a context, after a change that sets a bit (R192). -/
def State.admitHeads (s : State) (ctx : Nat) : State :=
  (((s.ctx? ctx).map fun c => c.queues.map CmdQueue.idx).getD []).foldl (fun s q => s.tryAdmit ctx q) s

/-! ## The event vector (R191) -/

/-- Changes a context's event vector, unless the context has ended; the head launches are looked at again (R192). -/
def State.changeEvents (s : State) (ctx : Nat) (f : BitVec 256 → BitVec 256) : State :=
  (s.modCtx ctx fun c => if c.killed then c else { c with events := f c.events }).admitHeads ctx

end Sys2Proof.Machine
end

