-- ==== Sys2Proof/Machine/Engine.lean ====
section
/-! DEFINITION. The copy and transform engine: XCOPY (R345 to R351), what a chunk is made of (R347 to R350, R473), its reading and
writing, spilling and loss (R352, R361 to R363), its landing (R352, R356, R482), and engine reset (R364). -/

namespace Sys2Proof.Machine

open Sys2Proof

/-! ## What a chunk is made of -/

/-- What the engine must read: 4-byte words by their address divided by 4, and the tags of lines. -/
structure Needs where
  words : List Nat := []
  tags  : List Nat := []
deriving DecidableEq, Repr

/-- Adds the words that hold `n` bits at bit address `a`. -/
def Needs.bits (l : Needs) (a n : Nat) : Needs :=
  { l with words := l.words ++ ((List.range ((a + n - 1) / 32 + 1 - a / 32)).map (a / 32 + ·)).filter fun w => !l.words.contains w }

/-- Adds a block's scale. -/
def Needs.scale (l : Needs) : ScaleAt → Needs
  | .tag x _ => if l.tags.contains x then l else { l with tags := l.tags ++ [x] }
  | .byte a => l.bits (8 * a) 8

/-- What has been read. -/
structure Source where
  words : List (Nat × Nat) := []
  tags  : List (Nat × TagWord) := []

/-- `n` bits at bit address `a`. -/
def Source.bits (f : Source) (a n : Nat) : Nat :=
  let w := fun (i : Nat) => (f.words.lookup i).getD 0
  (w (a / 32) + w (a / 32 + 1) * 2 ^ 32) / 2 ^ (a % 32) % 2 ^ n

/-- A block's scale. -/
def Source.scale (f : Source) : ScaleAt → Nat
  | .tag x t => (((f.tags.lookup x).getD 0).extractLsb' (8 * t) 8).toNat
  | .byte a => f.bits (8 * a) 8

/-- The indices of the box in the block of 32 that index `i` belongs to. -/
def Geometry.blockOf (g : Geometry) (i : List Nat) : List (List Nat) :=
  let b := idx i 0 / 32 * 32
  (List.range 32).filterMap fun j => if b + j < idx g.src.box 0 then some ((b + j) :: i.tail) else none

/-- The source address of an index's element, in bits. -/
def Geometry.from_ (g : Geometry) (i : List Nat) : Nat := g.src.bitAddr (g.sOf i)

/-- What the element of an index is made from. -/
def Geometry.elemNeeds (g : Geometry) (l : Needs) (i : List Nat) : Needs :=
  if g.xop = 7 then (g.blockOf i).foldl (fun l j => l.bits (g.from_ j) g.src.bits) l
  else
    let l := l.bits (g.from_ i) g.src.bits
    if g.xop = 8 then l.scale (g.src.scaleAt (g.sOf i)) else l

/-- What the scale of the block that an index begins is made from. -/
def Geometry.scaleNeeds (g : Geometry) (l : Needs) (i : List Nat) : Needs :=
  if g.xop = 7 then g.elemNeeds l i else l.scale (g.src.scaleAt (g.sOf i))

/-- The indices that write in a chunk: whether their element lies in it, and whether the scale of the block they begin does. -/
def Geometry.partsIn (g : Geometry) (k : Nat) : List (List Nat × Bool × Bool) :=
  (boxIndices g.src.box).filterMap fun i =>
    let e : Bool := chunkOf (g.dst.bitAddr (g.dOf i) / 8) = k
    let z : Bool := g.scales && idx i 0 % 32 = 0 && (g.dst.scaleAt (g.dOf i)).chunk = k
    if e || z then some (i, e, z) else none

/-- What a chunk is made from. -/
def Geometry.chunkNeeds (g : Geometry) (k : Nat) : Needs :=
  (g.partsIn k).foldl (fun l x =>
    let l := if x.2.1 then g.elemNeeds l x.1 else l
    if x.2.2 then g.scaleNeeds l x.1 else l) {}

/-- The rounding environment of QUANT and DEQUANT (R350): DYN is the rounding of MODE at issue. -/
def Copy.fenv (c : Copy) : FEnv :=
  let w := { c.agentWarp with mode := c.mode &&& copyModeMask }
  w.fenv (w.rounding (BitVec.ofNat 3 c.rnd) false) 0 32

/-- The quantised block of an index (R80, R81, R316, R350): a block that the box cuts short holds the elements that are there. That DAZ acts on
FP32 sources only is R81's reading (log entry 52). -/
def Copy.quantised (c : Copy) (f : Source) (i : List Nat) : QBlock :=
  let g := c.geometry
  quantBlock g.dst.ty c.fenv (if g.dst.quant = 1 then .srch else .cur)
    ((g.blockOf i).map fun j => (fdecode (fmtOf g.src.ty) (c.fenv.daz && g.src.ty = 8) (f.bits (g.from_ j) g.src.bits), 0))

/-- An element as it is written, with the flags it raises (R70, R82, R348). -/
def Copy.element (c : Copy) (f : Source) (i : List Nat) : FRes :=
  let g := c.geometry
  let x := f.bits (g.from_ i) g.src.bits
  if g.xop = 7 then (c.quantised f i).elems.getD (idx i 0 % 32) (0, 0)
  else if g.xop = 8 then dequantElem g.src.ty g.dst.ty c.fenv (f.scale (g.src.scaleAt (g.sOf i))) x
  else (if g.dst.ty = 0x0E || g.dst.ty = 0x0F then x % 64 else x, 0)

/-- A block's scale as it is written, with the flags of the block. -/
def Copy.scaleOut (c : Copy) (f : Source) (i : List Nat) : FRes :=
  let g := c.geometry
  if g.xop = 7 then ((c.quantised f i).code, (c.quantised f i).flags) else (f.scale (g.src.scaleAt (g.sOf i)), 0)

/-- Puts `n` bits at bit `o` of a chunk. -/
def ChunkData.put (d : ChunkData) (o n v : Nat) : ChunkData :=
  let m : BitVec 4096 := BitVec.ofNat 4096 (2 ^ n - 1) <<< o
  { d with data := (d.data &&& ~~~m) ||| (BitVec.ofNat 4096 (v % 2 ^ n) <<< o), mask := d.mask ||| m }

/-- Puts tag byte `t` of a chunk's 32. -/
def ChunkData.putTag (d : ChunkData) (t v : Nat) : ChunkData :=
  let m : BitVec 256 := (0xFF : BitVec 256) <<< (8 * t)
  { d with tags := (d.tags &&& ~~~m) ||| (BitVec.ofNat 256 (v % 256) <<< (8 * t)), tmask := d.tmask ||| (1 <<< t) }

/-- What a copy writes in a chunk; an element for whose number in it `kept` holds keeps its prior value (R353). -/
def Copy.chunkData (c : Copy) (f : Source) (k : Nat) (kept : Nat → Bool := fun _ => false) : ChunkData :=
  let g := c.geometry
  ((g.partsIn k).zipIdx).foldl (fun d y =>
    let x := y.1
    let d := if x.2.1 && !(kept y.2) then
        let r := c.element f x.1
        { d.put (g.dst.bitAddr (g.dOf x.1) - 4096 * k) g.dst.bits r.1 with flags := d.flags ||| r.2 }
      else d
    if x.2.2 then
      let r := c.scaleOut f x.1
      let d := { d with flags := d.flags ||| r.2 }
      match g.dst.scaleAt (g.dOf x.1) with
      | .tag l t => d.putTag (8 * (l % 4) + t) r.1
      | .byte a => d.put (8 * a - 4096 * k) 8 r.1
    else d) {}

/-! ## Reading -/

/-- How a chunk's reading or writing ends. -/
inductive Moved
  | data (s : State) (d : ChunkData)      -- read
  | done (s : State)                      -- written
  | wait (s : State)                      -- an answer is outstanding, or the access is tried again
  | page (s : State) (f : LaneFault)      -- a page faults
  | lost (s : State) (f : LaneFault)      -- the chunk is lost

/-- The agent of a chunk. -/
def Copy.agent (c : Copy) (k : Nat) : Agent :=
  { core := c.core, slot := c.slot, hood := 0, ctx := c.ctx, pc := c.pc, copy := c.id, chunk := k, gang := c.gang, pos := c.pos,
    idx := c.widx, ch := c.ch }

/-- The frames of a global byte range, page by page, as a walk finds them now: first byte and number. -/
def State.frames (s : State) (ctx lo hi : Nat) : List (Nat × Nat) :=
  (pagesOf lo (hi - lo)).filterMap fun va =>
    match (s.walk none ctx va .read).1 with
    | .ok lf => some (s.relayPa (pteFrame lf.entry + va % 2 ^ levelShift lf.level), min (hi - va) (2 ^ 16 - va % 2 ^ 16))
    | .error _ => none

/-- The storage of a copy's source range that its destination range reaches through another mapping, which its checks do not see (R353). -/
def State.aliased (s : State) (c : Copy) : List (Nat × Nat) :=
  let g := c.geometry
  let src := bothBounds (boundOf g.src g.sources)
  if canonical (BitVec.ofNat 64 src.1) && canonical (BitVec.ofNat 64 c.lo) then
    (s.frames c.ctx src.1 (src.2 + 1)).filter fun x => (s.frames c.ctx c.lo c.hi).any fun y => x.1 < y.1 + y.2 && y.1 < x.1 + x.2
  else []

/-- Which elements of a chunk, by their number in it, keep their prior value: any whose own bytes alias the source (R353, log entry 1). -/
def State.keptElement (s : State) (c : Copy) (k : Nat) : Nat → Bool :=
  match s.aliased c with
  | [] => fun _ => false
  | l =>
    let g := c.geometry
    fun i => Config.pick s.free (2 ^ 50 + (c.id * 2 ^ 60 + k) * 2 ^ 12 + i) % 2 = 1 && ((g.partsIn k)[i]?).any fun x =>
      let a := g.dst.bitAddr (g.dOf x.1)
      (s.frames c.ctx (a / 8) ((a + g.dst.bits + 7) / 8)).any fun y => l.any fun z => z.1 < y.1 + y.2 && y.1 < z.1 + z.2

/-- Resolves the pieces that an engine accesses: windows against the issuer, then translation, then the attribute checks. -/
def State.engineResolve (s : State) (c : Copy) (acc : AccType) (addrs : List (Nat × Nat × Nat)) : Except Moved (State × List Piece) :=
  let w := c.agentWarp
  let (ps, bad) := addrs.foldl (fun (r : List Piece × List LaneFault) x =>
    match s.classify w { lp := false } 0 (BitVec.ofNat 64 x.2.1) x.2.2 x.1 with
    | .error e => (r.1, r.2 ++ [{ lane := x.1, cause := e, va := x.2.1 }])
    | .ok l => (r.1 ++ l, r.2)) ([], [])
  match bad with
  | b :: _ => .error (.lost s b)
  | [] =>
    if s.missHeld w { n := 4, acc := acc } ps then .error (.wait s)
    else match s.entryHeld w { n := 4, acc := acc } ps false with
    | some l => .error (.wait (s.askBack l))
    | none => match s.translateAll w { n := 4, acc := acc } ps with
    | (s, _, b :: _) => .error (.page s b)
    | (s, ps, []) =>
      if ps.any fun p => p.outside && s.relayWaits w.ctx p.va p.at then
        .error (.wait (ps.foldl (fun s p => if p.outside then s.noteRelayHold w.ctx p.va p.at else s) s))
      else match ps.findSome? fun p => (s.postFault (dieOfCore c.core) .other acc.use p p.at).map fun x => ({ lane := p.lane, cause := x, va := p.va } : LaneFault) with
      | some b => .error (.lost s b)
      | none => .ok (s.relayAll w ps)

/-- Reads what a chunk is made from. A tag is asked for as a piece of no bytes, in lane 1. -/
def State.readChunk (s : State) (c : Copy) (k : Nat) : Moved :=
  let need := c.geometry.chunkNeeds k
  match s.engineResolve c .read (need.words.map (fun w => (0, 4 * w, 4)) ++ need.tags.map fun l => (1, 128 * l, 0)) with
  | .error m => m
  | .ok (s, ps) =>
    let a := c.agent k
    match gateFold ps s fun s p => s.gateRead { a with via := p.from_ } p.attr p.at p.va p.n (lineMask ps (p.at / 128)) with
    | .wait s => .wait s
    | .again s => .wait s
    | .ready s =>
      let (s, f, bad) := ps.foldl (fun (r : State × Source × Option LaneFault) p =>
        let (s, v, e) := r.1.fetchPiece a c.agentWarp p c.ch false
        let l := p.at / 128
        let e := if p.lane = 1 && s.store.tagPoisoned l then (s.store.lineSubcode l).map fun x => ((0x17, x) : Cause) else e
        let f := if p.lane = 1 then { r.2.1 with tags := (p.va / 128, if s.tagged l then s.store.tag l else 0) :: r.2.1.tags }
          else { r.2.1 with words := (p.va / 4, v) :: r.2.1.words }
        (s, f, if r.2.2.isSome then r.2.2 else e.map fun x => { lane := 0, cause := x, va := p.va })) (s, {}, (s.timedOut a ps).head?)
      let s := s.dropAnswers a
      match bad with
      | some b => .lost s b
      | none => .data s (c.chunkData f k (s.keptElement c k))

/-! ## Writing -/

/-- The bytes of which a mask of bits holds any. -/
def bytesOf (m : LineData) : BitVec 128 :=
  (List.range 128).foldl (fun a i => if LineData.byte m i ≠ 0 then a ||| ((1 : BitVec 128) <<< i) else a) 0

/-- Line `j` of a chunk: data, mask of its bits, tag and mask of its tag's bits. -/
def ChunkData.line (d : ChunkData) (j : Nat) : LineData × LineData × TagWord × TagWord :=
  let t := (List.range 8).foldl (fun (a : TagWord) i => if d.tmask.getLsbD (8 * j + i) then a ||| ((0xFF : TagWord) <<< (8 * i)) else a) 0
  (d.data.extractLsb' (1024 * j) 1024, d.mask.extractLsb' (1024 * j) 1024, d.tags.extractLsb' (64 * j) 64, t)

/-- The lines of a chunk in which it writes. -/
def ChunkData.lines (d : ChunkData) : List Nat := (List.range 4).filter fun j => (d.line j).2.1 ≠ 0 || (d.line j).2.2.2 ≠ 0

/-- A line of the engine's at its storage point, tagged lines merged in one step (R40, R59, R71, R349). -/
def State.engineLine (s : State) (r : Layout) (l depth : Nat) (x : LineData × LineData × TagWord × TagWord) : State :=
  let old := s.store.line l
  let d := (old &&& ~~~x.2.1) ||| (x.1 &&& x.2.1)
  if r.tagged && s.tagged l then
    let used : TagWord := BitVec.ofNat 64 (256 ^ blocksPerLine r.ty r.tight - 1)
    s.writeTagged l (if r.tight then d &&& BitVec.ofNat 1024 (2 ^ 960 - 1) else d)
      (((s.store.tag l &&& ~~~x.2.2.2) ||| (x.2.2.1 &&& x.2.2.2)) &&& used) depth
  else if x.2.1 = 0 then s
  else s.writeLine l (bytesOf x.2.1) d depth

/-- The bytes of a chunk's line: first byte and number. -/
def lineSpan (m : LineData) : Nat × Nat :=
  let b := (List.range 128).filter fun i => LineData.byte m i ≠ 0
  match b.head?, b.getLast? with | some x, some y => (x, y + 1 - x) | _, _ => (0, 1)

/-- Writes one resolved line of a chunk outside scratchpad. -/
def State.engineStore (s : State) (c : Copy) (a : Agent) (p : Piece) (x : LineData × LineData × TagWord × TagWord) : State :=
  let l := p.at / 128
  match s.storeTo p with
  | .pod => s.postPod { a with via := p.from_ } l p.va (bytesOf x.2.1) x.1
  | .uc => (List.range 128).foldl (fun s i =>
      if (bytesOf x.2.1).getLsbD i then s.say (.cxlIoWrite (hostPa (128 * l + i)) (LineData.byte x.1 i).toNat 1) else s) s
  | _ =>
    let s := if p.va < 2 ^ 56 || 0xFF * 2 ^ 56 ≤ p.va then s.l1Inval c.core c.ctx (p.va / 128) else s
    ((s.touch (dieOfCore c.core) l c.ch .write).engineLine (Layout.ofRec c.drec) l (s.depthOf c.agentWarp) x).hostThrough (dieOfCore c.core) l

/-- Writes a chunk: at every receiver's scratchpad, or at its home. -/
def State.writeChunk (s : State) (c : Copy) (k : Nat) (d : ChunkData) : Moved :=
  let r := Layout.ofRec c.drec
  if c.scratch then
    .done ((c.receivers.filterMap (s.copyBlock? c)).foldl (fun s b =>
      d.lines.foldl (fun s j =>
        s.engineLine r (scratchKey b.core (b.base + (512 * k + 128 * j) % 2 ^ 19) / 128) (s.depthOf c.agentWarp) (d.line j)) s) s)
  else
    let addrs := d.lines.map fun j => let e := lineSpan (d.line j).2.1; (j, 512 * k + 128 * j + e.1, e.2)
    match s.engineResolve c .write addrs with
    | .error m => m
    | .ok (s, ps) =>
      let a := c.agent k
      let pods := ps.countP fun p => s.storeTo p = .pod
      match (gateFold ps s fun s p => s.gateWrite { a with via := p.from_ } p.attr p.at p.va .write).andThen fun s =>
          if s.podRoom c.core pods then .ready s else .again s with
      | .wait s => .wait s
      | .again s => .wait s
      | .ready s =>
        match s.timedOut a ps with
        | b :: _ => .lost (s.dropAnswers a) b
        | [] => .done ((ps.foldl (fun s p => s.engineStore c a p (d.line p.lane)) s).dropAnswers a)

/-! ## Steps of a copy -/

/-- A record of the engine (R361 to R363, R403). -/
def State.engineRecord (s : State) (c : Copy) (f : Cause) (va : Nat) (resum : Bool) : State :=
  s.writeBatch c.ctx (.engine c.core c.slot) [{ code := f.1, sub := f.2, pc := c.pc, va := BitVec.ofNat 64 va, resum := resum }]

/-- The number that a context's next batch takes. -/
def State.batchOf (s : State) (ctx : Nat) : Nat := ((s.ctx? ctx).map Context.batch).getD 1

/-- A chunk is lost (R363). -/
def State.loseChunk (s : State) (c : Copy) (k : Nat) (f : LaneFault) : State :=
  (s.engineRecord c f.cause (recordVa f.cause f.va).toNat false).modCopy c.id fun c => { c with lostChunks := c.lostChunks ++ [k] }

/-- A chunk has been written and is on its way. -/
def State.wroteChunk (s : State) (c : Copy) (k flags : Nat) : State :=
  s.modCopy c.id fun c => { c with written := c.written ++ [k], flags := if flags = 0 then c.flags else c.flags ++ [(k, flags)] }

/-- Replays a spilled chunk (R361): a page that still faults writes no new record. -/
def State.replaySpill (s : State) (c : Copy) (x : Spill) : State :=
  let drop := fun (s : State) => (s.freeSpill c 1).modCopy c.id fun c => { c with spilled := c.spilled.filter fun y => y.chunk ≠ x.chunk }
  match s.writeChunk c x.chunk x.data with
  | .done s => (drop s).wroteChunk c x.chunk x.data.flags
  | .lost s f => (drop s).loseChunk c x.chunk f
  | .page s _ => s.modCopy c.id fun c => { c with spilled := c.spilled.map fun y => if y.chunk = x.chunk then { y with ready := false } else y }
  | .wait s => s
  | .data s _ => s

/-- Writes a chunk that has been read; a page that faults diverts it to the spill buffer, or stops the copy when that is full
(R361). -/
def State.deliverChunk (s : State) (c : Copy) (k : Nat) (d : ChunkData) : State :=
  match s.writeChunk c k d with
  | .done s => s.wroteChunk c k d.flags
  | .lost s f => s.loseChunk c k f
  | .page s f =>
    let die := dieOfCore c.core
    if Config.spillBytes < s.spillOf die + 512 then s.modCopy c.id fun c => { c with heldFull := true }
    else
      let b := s.batchOf c.ctx
      ((s.engineRecord c f.cause f.va true).setSpill die (s.spillOf die + 512)).modCopy c.id fun c =>
        { c with batch := b, spilled := c.spilled ++ [{ chunk := k, batch := b, va := f.va, data := d }] }
  | .wait s => s
  | .data s _ => s

/-- Reads and writes a chunk; a source page that faults stops the copy (R362), with a record but where it is the chunk of a retry (R102). -/
def State.stepChunk (s : State) (c : Copy) (k : Nat) : State :=
  match s.readChunk c k with
  | .data s d => (s.modCopy c.id fun c => { c with quiet := none }).deliverChunk c k d
  | .lost s f => s.loseChunk c k f
  | .page s f =>
    if c.quiet = some k then s.modCopy c.id fun c => { c with heldSrc := true, heldVa := f.va }
    else
      let b := s.batchOf c.ctx
      (s.engineRecord c f.cause f.va true).modCopy c.id fun c => { c with heldSrc := true, heldVa := f.va, batch := b }
  | .wait s => s
  | .done s => s

/-- Whether lossless trace holds a copy (R446). -/
def State.copyHeld (s : State) (c : Copy) (code : Nat) : Bool := s.traceHeld (dieOfCore c.core) c.ctx code c.lossless

/-- COPY_ISSUE (R437). -/
def State.traceCopy (s : State) (c : Copy) : State :=
  if c.traced || s.copyHeld c 0x09 then s
  else
    (s.emit (dieOfCore c.core) (c.core % Config.coresPerDie) 8 c.ctx 0x09 c.number
      (traceBody (c.handles % 2 ^ 32 + c.xop % 256 * 2 ^ 32 + c.mcast % 256 * 2 ^ 40 + (c.arr.map Prod.snd).sum % 2 ^ 16 * 2 ^ 48)
        ((c.arr.map Prod.snd).sum / 2 ^ 16)) c.lossless).modCopy c.id fun c => { c with traced := true }

/-- CHUNK_PROCESS (R347, R352, R361, R362). -/
def execChunkProcess (id : Nat) (s : State) : Host.Outcome State Fault Refusal :=
  match s.copy? id with
  | none => .next s
  | some c =>
    if !c.taken || c.heldSave then .next s
    else if s.copyHeld c 0x09 then .next (s.noteHold (dieOfCore c.core) c.ctx 0x09 1)
    else
      let s := s.traceCopy c
      match c.spilled.find? fun x => x.ready with
      | some x => .next (s.replaySpill c x).settle
      | none =>
        if c.heldSrc || c.heldFull then .next s
        else match c.nextChunk with
          | none => .next s
          | some k => .next (s.stepChunk c k).settle

/-- Whether every chunk of a copy has landed at every receiver. -/
def Copy.finished (c : Copy) : Bool := c.arr.all fun x => c.receivers.all fun p => c.landed.contains (p, x.1)

/-- A copy retires once every chunk has been counted (R352). -/
def State.retireCopy (s : State) (id : Nat) : State :=
  match s.copy? id with
  | none => s
  | some c =>
    if !c.finished then s
    else
      (s.emit (dieOfCore c.core) (c.core % Config.coresPerDie) 8 c.ctx 0x0A c.number none c.lossless).modEng fun e =>
        { e with copies := e.copies.filter fun x => x.id ≠ id }

/-- A chunk's arrival at a receiver's band (R352, R356, R359, R363, R482). -/
def State.countChunk (s : State) (c : Copy) (b : Block) (pos k : Nat) : State :=
  let key := scratchKey b.core (b.base + c.band)
  let old := s.band key
  if old.magic ≠ bandMagic then s.engineRecord c (0x22, 0x01) (0xFE10000000000000 + pos * 2 ^ 20 + c.band) false
  else
    let fl := (c.flags.filter fun x => x.1 = k).foldl (fun a x => a ||| x.2) 0
    let s := if fl = 0 then s else s.modEng fun e =>
      { e with bandFlags := e.bandFlags ++ [{ gang := c.gang, pos := c.pos, widx := c.widx, bpos := b.pos, band := c.band, flags := fl }] }
    s.putBand c.ctx key old (old.arrive ((c.arr.lookup k).getD 0) (if c.scratch then some (512 * k % 2 ^ 19) else none) (c.lostChunks.contains k))
      (s.depthOf c.agentWarp)

/-- CHUNK_LAND (R352): a written or lost chunk is counted at a receiver. -/
def execChunkLand (id k pos : Nat) (s : State) : Host.Outcome State Fault Refusal :=
  match s.copy? id with
  | none => .next s
  | some c =>
    let sent := c.written.contains k || c.lostChunks.contains k
    let acked := !(s.eng.pend.any fun o => o.write && o.copy = id && o.chunk = k)
    if !c.taken || c.heldSave || !sent || !acked || !c.receivers.contains pos || c.landed.contains (pos, k) ||
        !(c.arr.any fun x => x.1 = k) then .next s
    else if s.copyHeld c 0x0A then .next (s.noteHold (dieOfCore c.core) c.ctx 0x0A 1)
    else match s.copyBlock? c pos with
      | none => .next s
      | some b =>
        let s := (s.countChunk c b pos k).modCopy id fun c => { c with landed := c.landed ++ [(pos, k)] }
        .next ((s.retireCopy id).retryAgain).sweep.settle

/-- SPILL_SPACE_FREED (R361). -/
def execSpillSpaceFreed (die : Nat) (s : State) : Host.Outcome State Fault Refusal :=
  if Config.spillBytes < s.spillOf die + 512 then .next s
  else .next (s.modEng fun e => { e with copies := e.copies.map fun c => if dieOfCore c.core = die then { c with heldFull := false } else c })

/-- Who a writer is: the management owner (R453, R454). -/
def State.isOwner (s : State) (w : Writer) : Bool := match w with | .master m => m ≠ 0 && m = s.hub.holder | .warpOf _ => false

/-- The management owner or the system context (R453). -/
def State.mayWrite (s : State) (w : Writer) : Bool :=
  s.isOwner w || match w with | .master _ => false | .warpOf x => (s.ctx? x).any Context.system

/-- A write that its writer may not make changes nothing but a master's DENIED (R453, R454). -/
def State.refuse (s : State) (w : Writer) : State :=
  match w with
  | .master m => s.modHub fun h => { h with denied := h.denied ||| (if m < 4 then (1 : BitVec 4) <<< m else 0) }
  | .warpOf _ => s

/-- ENGINE_RESET (R364): the copies that the engine of a core holds are abandoned between writes. -/
def execEngineReset (w : Writer) (core : Nat) (s : State) : Host.Outcome State Fault Refusal :=
  if !s.isOwner w then .next (s.refuse w)
  else
    let mine := s.eng.copies.filter fun c => c.core = core && c.taken && !c.heldSave
    let s := mine.foldl (fun s c => s.freeSpill c c.spilled.length) s
    .next ((s.modEng fun e => { e with copies := e.copies.filter fun c => !(c.core = core && c.taken && !c.heldSave)
                                       pend := e.pend.filter fun o => o.write || !(mine.any fun c => c.id = o.copy) }).retryAgain).sweep.settle

/-! ## XCOPY -/

/-- Five scalar registers from a field. -/
def Issue.five (c : Issue) (f : BitVec 10) : List Nat := (List.range 5).map fun i => (c.w.getS (regNum f + i)).toNat

/-- Counts a copy of a core: its number, and the counter gone on (R437). -/
def State.countCopy (s : State) (core : Nat) : Nat × State :=
  let n := ((s.eng.counts.find? fun x => x.core = core).map CoreCount.copies).getD 0
  let next := fun (x : CoreCount) => { x with copies := (n + 1) % 2 ^ 24 }
  let l := s.eng.counts
  let l := if l.any fun x => x.core = core then l.map fun x => if x.core = core then next x else x else next { core := core } :: l
  (n, s.modEng fun e => { e with counts := l })

/-- The copy that an XCOPY makes from its operands and the plan its checks found. -/
def Issue.newCopy (c : Issue) (f : FormX) (src dst : BitVec 1024) (h : Nat) (p : CopyPlan) (number : Nat) : Copy :=
  let xop := f.xf.toNat / 512
  { id := c.s.eng.nextCopy, core := c.w.core, slot := c.w.slot, widx := c.w.idx, gang := c.w.gang, pos := c.w.pos, ctx := c.w.ctx
    srec := src, drec := dst, sc := c.five f.s2, dc := c.five f.s3, xop := xop, mcast := f.xf.toNat / 32 % 16
    rnd := f.hdr.rnd.toNat
    ch := f.hdr.ch.toNat, band := c.scalar f.s4 false 1, pc := c.pc, mode := c.w.mode, number := number, handles := h
    lossless := (c.s.gang? c.w.gang).any Gang.lossless
    receivers := p.receivers, scratch := p.scratch, lo := p.lo, hi := p.hi, arr := p.arr }

/-- XCOPY (R345, R346): its checks, then the engine takes the copy, or the hood waits until it can. -/
def Issue.xcopy (c : Issue) (f : FormX) : Res :=
  if c.idle then .next c.s
  else
    let h := c.scalar f.s1 false 1
    match c.layouts.lookup (h % 65536), c.layouts.lookup (h / 65536) with
    | some src, some dst =>
      let g : Geometry := ⟨Layout.ofRec src, Layout.ofRec dst, f.xf.toNat / 512, c.five f.s2, c.five f.s3⟩
      (match c.s.checkCopy c.w g (f.xf.toNat / 32 % 16) (c.scalar f.s4 false 1) with
      | .error x => c.badHood x
      | .ok p =>
        let (n, s) := c.s.countCopy c.w.core
        let k := c.newCopy f src dst h p n
        let room := s.copyRoom k
        let s := s.modEng fun e => { e with copies := e.copies ++ [{ k with taken := room }], nextCopy := e.nextCopy + 1 }
        let s := ({ c with s := s }.put fun w => w.putScalar c.lanes f.d false (p.arr.map Prod.snd).sum).traceCopy k
        if room then .next s else .hold (s.modWarp c.w.core c.w.slot fun w => w.waitHood c.hood (.copy k.id)))
    | _, _ => c.badHood (0x20, 0x01)

/-- XCOPY (R345). -/
def execXcopy (f : FormX) (s : State) : Host.Outcome State Fault Refusal := issue 0x109 (.x f) s fun c => c.xcopy f

/-- XCOPY_ACCEPT (R346): the engine takes the copy for which a hood waits. -/
def execXcopyAccept (h : HoodRef) (s : State) : Host.Outcome State Fault Refusal :=
  match s.warp? h.core h.slot with
  | none => .next s
  | some w =>
    let sl := w.slice (keyOf (w.hoodSlices h.hood))
    match sl.wait with
    | .copy id =>
      match s.copy? id with
      | none => .next s
      | some c =>
        if !s.copyRoom c then .next s
        else
          let s := s.modCopy id fun c => { c with taken := true }
          .next ((s.modWarp h.core h.slot fun w => (w.moveHood h.hood (nextPc sl.pc)).countWindows h.hood).tryEntry h.core h.slot).sweep.settle
    | _ => .next s

end Sys2Proof.Machine
end

