-- ==== Sys2Proof/Machine/Upset.lean ====
section
/-! DEFINITION. Errors in the storage arrays (R56 to R58, R148): an HBM4E line with its check bytes, what the codes correct and what they
poison, and errors in the words of a warp's state that an instruction reads. `State.upsets` holds the errors that have struck and are not
yet met. -/

namespace Sys2Proof.Machine

open Sys2Proof

/-! ## A line with its metadata (R56, R57, R148) -/

/-- The DIR byte of a line (R148). -/
def State.dirByte (s : State) (l : Nat) : Byte :=
  match s.dir? l with
  | none => 0
  | some e => BitVec.ofNat 8 ((if e.owned then 128 else 64) + (e.dies.map fun d => 4 * 2 ^ d).sum)

/-- The errors that stand in the symbols of an HBM4E line. -/
def State.lineErrors (s : State) (l : Nat) : List (Nat × Byte) :=
  s.upsets.flatMap fun u => match u with | .hbm m e => if m = l then e else [] | _ => []

/-- The 144 symbols that the memory holds of an HBM4E line (R56, R57): its data, TAG, DIR and seven check bytes, with the errors that have
struck it. Without one they agree (log entry 41). -/
def State.lineSymbols (s : State) (l : Nat) : List Byte :=
  let d := s.store.line l
  let t := s.store.tag l
  let ecc := Config.eccCheck d t (s.dirByte l)
  ((List.range 144).map fun i =>
    let b : Byte := if i < 128 then d.extractLsb' (8 * i) 8 else if i < 136 then t.extractLsb' (8 * (i - 128)) 8
      else if i = 136 then s.dirByte l else ecc.extractLsb' (8 * (i - 137)) 8
    (s.lineErrors l).foldl (fun b e => if e.1 = i then b ^^^ e.2 else b) b)

/-- Symbols in error: those of the 144 that do not read as they were written. -/
def wrongSymbols (e : List (Nat × Byte)) : Nat :=
  (List.range 144).countP fun i => (e.foldl (fun b x => if x.1 = i then b ^^^ x.2 else b) (0 : Byte)) ≠ 0

/-- Two errors at one place as one: the code sees both. -/
def Upset.join : Upset → Upset → Option Upset
  | .hbm l a, .hbm k b => if l = k then some (.hbm l (a ++ b)) else none
  | .l2 d l w a, .l2 e k x b => if d = e && l = k && w = x then some (.l2 d l w (a ++ b)) else none
  | .scratch l w a, .scratch k x b => if l = k && w = x then some (.scratch l w (a ++ b)) else none
  | .warp c n w a, .warp d m x b => if c = d && n = m && w = x then some (.warp c n w (a ++ b)) else none
  | _, _ => none

/-- Adds an error to those that wait, of which no two are at one place. -/
def addUpset : List Upset → Upset → List Upset
  | [], u => [u]
  | x :: l, u => match x.join u with | some y => y :: l | none => x :: addUpset l u

/-! ## Errors in memory arrays (R57) -/

/-- An uncorrectable word, or tag, of a line is poison with the subcode of its array (R57, R59). -/
def State.poisonPart (s : State) (l : Nat) (word : Option Nat) (sub : Nat) : State :=
  s.modStore fun m => match word with
    | some w => m.setWordPoison (32 * l + w % 32) sub
    | none => m.poisonLine l (sub + 8)

/-- Whether a die's L2 array holds a line: cached there, or resident in its carve-out. -/
def State.inArray (s : State) (die l : Nat) : Bool :=
  (s.l2? die l).isSome || match s.region (128 * l) with | .aperture d _ => d = die | _ => false

/-- Whether a copy of a line stands in some die's L2, so that its memory waits to be read (log entry 45). -/
def State.shaded (s : State) (l : Nat) : Bool := s.coh.l2.any fun x => x.line = l

/-- Whether the home's L2 holds a line dirty, so that its memory is written before it is read. -/
def State.replaced (s : State) (home l : Nat) : Bool := (s.l2? home l).any L2Line.dirty

/-- Meets one error of a memory array: corrected and counted, or poison. An error in a line that a dirty copy at the home replaces, or in an
array that does not hold the line, is never met; one behind another copy, whose data are sound, waits. A line whose DIR byte is bad has
no copy recorded from then on (log entry 58). -/
def State.meetUpset (s : State) (u : Upset) : State :=
  match u with
  | .hbm l e =>
    match s.homeOf l with
    | none => s
    | some d =>
      if s.replaced d l || wrongSymbols e = 0 then s
      else if s.shaded l then { s with upsets := s.upsets ++ [u] }
      else if wrongSymbols e ≤ 3 then s.countSoft d 1 else s.modStore fun m => m.poisonLine l 1
  | .l2 d l w _ => if !s.inArray d l || u.bits.isEmpty then s else if u.double then s.poisonPart l w 2 else s.countSoft d 1
  | .scratch l w _ =>
    if !isScratch l || u.bits.isEmpty then s else if u.double then s.poisonPart l w 3
    else s.countSoft (dieOfCore ((128 * l - scratchKeys) / Config.scratchBytes)) 1
  | .dir l raw =>
    let st := raw.toNat / 64
    let dies := (List.range 4).filter fun d => raw.getLsbD (2 + d)
    if st = 3 || (st = 2 && dies.length ≠ 1) then (s.modStore fun m => m.poisonLine l 1).modCoh fun c => { c with dir := dirSet c.dir l false [] }
    else s.modCoh fun c => { c with dir := dirSet c.dir l (st = 2) (if st = 0 then [] else dies) }
  | .warp c w _ _ | .frame c w => if (s.warp? c w).isSome then { s with upsets := s.upsets ++ [u] } else s

/-- A directory entry that no home makes: OWNED by other than one die (R148). -/
def DirEntry.bad (e : DirEntry) : Bool := e.owned && e.dies.length ≠ 1

/-- Before a step, the errors that have struck the memory arrays are met (log entry 45), those of one place as one (R57), and a line whose
directory entry is bad is poisoned (R148). -/
def State.meetUpsets (s : State) : State :=
  let s := (s.coh.dir.filter DirEntry.bad).foldl (fun s e =>
    (s.modStore fun m => m.poisonLine e.line 1).modCoh fun c => { c with dir := dirSet c.dir e.line false [] }) s
  if s.upsets.isEmpty then s else (s.upsets.foldl addUpset []).foldl State.meetUpset { s with upsets := [] }

/-! ## Errors in a warp's state (R58) -/

/-- The registers that an instruction reads: its sources, with the k registers of a line store's and of VDQNT's, RET's link, the spans of a
product. -/
def sourceRegs (w : Warp) (opc : Nat) (f : Form) : List (Cls × Nat) :=
  let l := ((fieldUses opc f).filter fun x => match x.2 with | .reg p => !p.dst | _ => true).flatMap fieldRegs
  if opc = 0x0C5 || opc = 0x096 then l ++ kOf l
  else if opc = 0x005 then l ++ linkRegs
  else if opc = 0x141 || opc = 0x144 then l ++ reachRegs w opc f
  else l

/-- Whether an instruction of a hood reads a word of its warp's state: the PCs of its slices, the grouping, MODE, its guards, the activity
mask, its operands in active lanes, what of a k or q destination it writes in part, and MSHAPE for a product (log entry 45). -/
def readsWord (w : Warp) (h : Nat) (opc : Nat) (f : Form) (act : LaneMask) (x : WarpWord) : Bool :=
  let regs := sourceRegs w opc f
  let all : Bool := opc = 0x00F
  match x with
  | .v n l => act.getLsbD l && regs.contains (.v, n)
  | .k n _ => regs.contains (.k, n) || (opc ≠ 0x0C4 && (destRegs opc f).contains (.k, n))
  | .s n => 125 ≤ n || regs.contains (.s, n)
  | .q n i => n = f.hdr.gai.toNat || n = f.hdr.gbi.toNat || regs.contains (.q, n) ||
      ((destRegs opc f).contains (.q, n) && act.extractLsb' (32 * i) 32 ≠ BitVec.allOnes 32)
  | .slicePc i => (w.hoodSlices h).contains i
  | .grouping | .mode => true
  | .mshape => all || 0x140 ≤ opc
  | .flags | .tvec => all
  | .log _ => false

/-- The errors that a hood's instruction meets in what it reads: none when one is uncorrectable (R58). -/
def State.readWords (s : State) (w : Warp) (h : Nat) (word : BitVec 96) : Option State :=
  if s.upsets.isEmpty then some s
  else match wordForm word with
    | none => some s
    | some (opc, f) =>
      s.checkWords w.core w.slot (readsWord w h opc f (w.activeIn (w.hoodLanes h) f.hdr))

end Sys2Proof.Machine
end

