-- ==== Sys2Proof/Machine/Select.lean ====
section
/-! DEFINITION. Issue selection (R186, R217), what follows an issue (R237), and the placing of a word where the next step fetches it. -/

namespace Sys2Proof.Machine

open Sys2Proof

/-- A warp that may issue: resident, not halted, not entering a handler, not stopped (R186, R216, R393). -/
def Warp.mayIssue (w : Warp) : Bool := !w.halted && w.entry.isNone && (!w.stopping || w.handler)

/-- A hood all of whose slices are running (R175). -/
def Warp.running (w : Warp) (h : Nat) : Bool :=
  let l := w.hoodSlices h
  !l.isEmpty && !w.returning.any (· ≠ h) && l.all fun i => (w.slice i).wait = .run

/-- PRIO of a warp's gang. -/
def State.prioOf (s : State) (w : Warp) : Nat := ((s.gang? w.gang).map Gang.prio).getD 0

/-- Batts of a warp: its live slices by hood and beat (R175). -/
def Warp.batts (w : Warp) : Nat := ((w.liveSlices.map fun i => ((w.slice i).hood, i / 8)).dedup).length

/-- Batts of the pipe a warp is on (R186). -/
def State.pipeBatts (s : State) (w : Warp) : Nat :=
  ((s.warps.filter fun x => x.core = w.core && x.slot / 8 = w.slot / 8).map Warp.batts).sum

/-- The pipe of a warp. -/
def Warp.pipe (w : Warp) : Nat := 4 * w.core + w.slot / 8

/-- Issue cycles that a pipe has run (log entry 5). -/
def State.pipeCycles (s : State) (p : Nat) : Nat := (s.cycles.lookup p).getD 0

/-- A hood that may issue and was not held back at its last try (R186). -/
def Warp.eligible (w : Warp) (h : Nat) : Bool := w.mayIssue && w.running h && !(w.slice h).held

/-- Notes since when each hood of the device has been eligible without issuing (R217, key 1). -/
def State.noteReady (s : State) : State :=
  { s with warps := s.warps.map fun w =>
      w.mapSlices fun _ sl => { sl with ready := if w.eligible sl.hood && !s.startUntaken w.gang then some (sl.ready.getD (s.pipeCycles w.pipe)) else none } }

/-- Keys 1 to 5 of R217 as one list, smaller first. -/
def State.issueKey (s : State) (w : Warp) (h : Nat) : List Nat :=
  let last := (w.slice h).last
  let since := (w.slice h).ready.getD (s.pipeCycles w.pipe)
  let starved : Bool := 4 * s.pipeBatts w ≤ s.pipeCycles w.pipe - since
  [if starved then 0 else 1, if starved then since else 0, if w.handler then 0 else 1, 7 - s.prioOf w, last, w.slot, h]

/-- Lexicographic order of keys. -/
def keyLess : List Nat → List Nat → Bool
  | a :: l, b :: r => if a = b then keyLess l r else a < b
  | _, _ => false

/-- The hoods that issue selection may choose, with their pipes and keys. -/
def State.pipeHoods (s : State) : List (Nat × List Nat × HoodRef) :=
  s.warps.flatMap fun w =>
    if w.mayIssue && !s.startUntaken w.gang then (w.hoods.filter w.running).map fun h => (w.pipe, s.issueKey w h, HoodRef.mk w.core w.slot h) else []

/-- Pipes of the device. -/
def allPipes : Nat := 4 * Config.dies * Config.coresPerDie

/-- The pipe whose turn is next among those with a hood to choose (log entry 5). -/
def State.nextTurn (s : State) : Option Nat :=
  (s.pipeHoods.map Prod.fst).foldl (fun b p => match b with
    | none => some p
    | some q => if (p + allPipes - s.turn) % allPipes < (q + allPipes - s.turn) % allPipes then some p else some q) none

/-- The hoods of a pipe in the order in which R217 chooses among them. -/
def State.choices (s : State) (p : Nat) : List HoodRef :=
  (((s.pipeHoods.filter fun x => x.1 = p).insertionSort fun a b => !keyLess b.2.1 a.2.1).map fun x => x.2.2)

/-- Ends the YIELDs whose other hoods have issued or are no longer eligible (R266): the hood's time since it issued starts again. -/
def State.wakeYields (s : State) : State :=
  let eligible := fun (h : HoodRef) => (s.warp? h.core h.slot).any fun w => w.eligible h.hood
  { s with warps := s.warps.map fun w => if w.slices.any (fun sl => match sl.wait with | .yield _ => true | _ => false) then
      w.mapSlices fun _ sl => match sl.wait with
        | .yield l => if l.any eligible then sl else { sl with wait := .run, last := s.pipeCycles w.pipe }
        | _ => sl
    else w }

/-- Whether the hood that `cur` names has been held back (R186). -/
def State.curHeld (s : State) : Bool :=
  (s.warp? s.cur.core s.cur.slot).any fun w => (w.hoodSlices s.cur.hood).any fun i => (w.slice i).held

/-- Whether an instruction issues once in each of its hood's batts, and not once for the hood (R176): the vector, lane and scale instructions,
vector loads, stores and atomics, the line instructions, SRGET of a lane number. -/
def perBatt (opc : Nat) (f : Form) : Bool :=
  (0x040 ≤ opc && opc ≤ 0x097 && !(0x091 ≤ opc && opc ≤ 0x092)) || opc = 0x0C2 || opc = 0x0C3 || opc = 0x0C4 || opc = 0x0C5 || opc = 0x0C6 ||
    opc = 0x0C7 || (0x0E0 ≤ opc && opc ≤ 0x0ED) || opc = 0x143 ||
    match f with
    | .a g => (opc = 0x091 || opc = 0x092) && g.sub = 2
    | .i g => opc = 0x00F && match operand g.d with | .v _ => true | _ => false
    | _ => false

/-- Counts an issue of a word by the hood that `cur` names, whose warp was `before`: its pipe runs a cycle, or one for each of its batts
(R176, R217; R266). -/
def State.countIssue (s : State) (before : Warp) (word : BitVec 96) : State :=
  let p := before.pipe
  let batts := (((before.hoodSlices s.cur.hood).map fun i => i / 8).dedup).length
  let now := s.pipeCycles p + if (wordForm word).any fun x => perBatt x.1 x.2 then batts else 1
  let mine := before.hoodSlices s.cur.hood
  let mark := fun (sl : Slice) => match sl.wait with
    | .yield l => { sl with wait := .yield (l.filter (· ≠ s.cur)) }
    | _ => sl
  { s with
    cycles := (p, now) :: s.cycles.filter fun x => x.1 ≠ p
    turn := (p + 1) % allPipes
    warps := s.warps.map fun w =>
      if w.core = s.cur.core && w.slot = s.cur.slot then
        w.mapSlices fun i sl => if mine.contains i then { sl with last := now, ready := none } else mark sl
      else if w.slices.any (fun sl => match sl.wait with | .yield _ => true | _ => false) then w.mapSlices fun _ sl => mark sl else w }

/-! ## Pairs (R237) -/

/-- Unit classes of R237; none for an instruction that does not co-issue. -/
inductive UnitClass
  | scalar | vector | sfu | lane | memory | engine
deriving DecidableEq, Repr

/-- The unit class of an opcode. -/
def unitClass (opc : Nat) : Option UnitClass :=
  if 0x020 ≤ opc && opc ≤ 0x039 then some .scalar
  else if (0x068 ≤ opc && opc ≤ 0x06A) || (0x06C ≤ opc && opc ≤ 0x070) then some .sfu
  else if (0x040 ≤ opc && opc ≤ 0x059) || (0x060 ≤ opc && opc ≤ 0x075) || (0x090 ≤ opc && opc ≤ 0x094) || opc = 0x096 || opc = 0x097 then some .vector
  else if 0x080 ≤ opc && opc ≤ 0x084 then some .lane
  else if 0x098 ≤ opc && opc ≤ 0x09A || (0x100 ≤ opc && opc ≤ 0x10D) then some .engine
  else if opc = 0x0C4 || opc = 0x0C5 then none
  else if 0x0C0 ≤ opc && opc ≤ 0x0FD then some .memory
  else none

/-- Whether two words issue in one cycle. -/
def coIssue (a b : BitVec 96) : Bool :=
  match unitClass (decodeOpc a), unitClass (decodeOpc b) with
  | some x, some y => x ≠ y
  | _, _ => false

/-- After slot i of a pair: a window of one instruction over every register it wrote (R237); where the two co-issue, the second slot goes
with the same choice of R217. A slot that waits opens its window when it has completed. `s` is the state in which it issued. -/
def State.openPair (after s : State) (before : Warp) (cur : HoodRef) (a b : BitVec 96) : State :=
  match wordForm a, after.warp? cur.core cur.slot with
  | some (opc, f), some w =>
    let (v, c) := s.issueFor before cur.hood opc f
    if (w.slice (keyOf (w.hoodSlices cur.hood))).pc = nextPc c.pc && w.handler = before.handler then
      let s := after.modWarp cur.core cur.slot fun w => { w with windows := w.windows ++ [c.pairWindow v (!w.pendingAt c.pc)] }
      if coIssue a b then { s with agenda := .second cur :: s.agenda } else s
    else after.modWarp cur.core cur.slot fun w => w.mapSlices fun _ sl =>
      if sl.hood = cur.hood then { sl with wait := sl.wait.paired c.pc } else sl
  | _, _ => after

/-- The fault of a word that no row of the table names (R238). -/
def State.decodeFault (s : State) (w : Warp) (r : Reject) : State :=
  let h := s.cur.hood
  let c := r.cause (s.envOf w)
  let pc := (w.slice (keyOf (w.hoodSlices h))).pc
  s.raiseRecs w.core w.slot [{ code := c.1, sub := c.2, lanes := w.hoodLanes h, pc := pc }] pc

/-! ## Placing a word (State.withFetchWord) -/

/-- The context, tables, gang and warp that the placed word's fetch needs. -/
def placeContext : Context := { slot := 0, id := 0, system := true, ptroot := 0x1000 }

/-- The code page's VA and frame. -/
def placeVa : Nat := 0x10000

/-- The fetch line that holds a word in slot 0, with even parity and every TGT bit set (R218). -/
def placeLine (w : BitVec 96) : BitVec 512 :=
  let word := 0x1F * 2 ^ 27
  let word := word + (if parity (word / 64) 26 then 32 else 0) + (if parity w.toNat 96 then 1 else 0)
  BitVec.ofNat 512 (w.toNat + word * 2 ^ 480)

/-- The entries of the page tables: each table's entry for the code page. -/
def placeTables : List (Nat × Nat) :=
  [(0x1000, 0x2001), (0x2000, 0x3001), (0x3000, 0x4001), (0x4000, 0x5001), (0x5008, 0x10000 + 0x643)]

/-- The warp that fetches the placed word. -/
def placeWarp : Warp :=
  { core := 0, slot := 0, gang := 0, pos := 0, idx := 0, ctx := 0, vrc := 256, src := 128
    v := List.replicate 256 0, k := List.replicate 256 0
    s := List.replicate 125 0 ++ [0xFFFFFFFF, 0xFFFFFFFF, 0xFFFFFFFF], q := BitVec.allOnes 96 :: List.replicate 15 0
    slices := List.replicate 24 { pc := BitVec.ofNat 64 placeVa } }

/-- The gang of that warp: one block. -/
def placeGang : Gang :=
  { id := 0, ctx := 0, launch := none, first := 0, die := 0, status := .resident,
    blocks := [{ pos := 0, lin := 0, core := 0, scratch := 0x10000, rings := List.replicate 32 {} }] }

/-- A state whose next step fetches and runs the word (log entry 15). -/
def State.placeWord (s : State) (w : BitVec 96) : State :=
  let store := placeTables.foldl (fun m e => m.write e.1 8 e.2) s.store
  { s with
    store := store.write placeVa 64 (placeLine w).toNat
    caches := { s.caches with
      tlb := s.caches.tlb.filter fun e => !(e.cluster = 0 && e.ctx = 0)
      walks := s.caches.walks.filter fun e => !(e.cluster = 0 && e.ctx = 0)
      icache := s.caches.icache.filter fun e => !(e.core = 0 && e.ctx = 0) }
    eng := { s.eng with stubs := [] }
    dies := s.dies.modify 0 fun d => { d with present := true }
    contexts := placeContext :: s.contexts.filter fun c => c.id ≠ 0
    sched := { s.sched with gangs := placeGang :: s.sched.gangs.filter fun g => g.id ≠ 0 }
    warps := placeWarp :: s.warps.filter fun x => !(x.core = 0 && x.slot = 0)
    hub := { s.hub with tripped := false, timebaseLost := false }
    agenda := .issue ⟨0, 0, 0⟩ :: s.agenda }

end Sys2Proof.Machine
end

