-- ==== Sys2Proof/Machine/Control.lean ====
section
/-! DEFINITION. Control and barrier instructions (R178 to R185, R260 to R273). -/

namespace Sys2Proof.Machine

open Sys2Proof

/-- Issues an instruction whose completion may end warps, blocks, barriers or phases. -/
def issueSweep (opc : Nat) (f : Form) (s : State) (body : Issue → Res) : Host.Outcome State Fault Refusal :=
  match issue opc f s body with
  | .next t => .next t.sweep.settle
  | r => r

/-- NOP (R261). -/
def execNop (f : FormA) (s : State) : Host.Outcome State Fault Refusal := issue 0x000 (.a f) s fun c => .next c.s

/-! ## EXIT (R185) -/

/-- The slices of a list that EXIT ends: dormant, or holding a lane of the active set. -/
def Issue.ending (c : Issue) : List Nat := (c.w.hoodSlices c.hood).filter fun i => c.w.dormant i || c.act &&& sliceLanes i ≠ 0

/-- Ends slices: no longer live, their mask bits clear. -/
def Warp.endSlices (w : Warp) (l : List Nat) : Warp :=
  let m := w.mask &&& ~~~(lanesOfSlices l)
  let w := w.mapSlices fun i sl => if l.contains i then { sl with live := false, wait := .run } else sl
  { w with s := ((w.s.set 125 (m.extractLsb' 0 32)).set 126 (m.extractLsb' 32 32)).set 127 (m.extractLsb' 64 32) }

/-- EXIT (R185). -/
def Issue.exit (c : Issue) : Res :=
  let ending := c.ending
  let rest := (c.w.hoodSlices c.hood).filter fun i => !ending.contains i
  .jump ((c.put fun w => (w.endSlices ending).formHood rest (nextPc c.pc)).resolveFelt c.w.core c.w.slot)

/-- EXIT (R185, R261). -/
def execExit (f : FormA) (s : State) : Host.Outcome State Fault Refusal := issueSweep 0x001 (.a f) s fun c => c.exit

/-! ## Branches (R178, R179, R262, R263) -/

/-- Sends slices to a checked target, each list as one hood, and the others to the next instruction as one hood. -/
def Warp.transfer (w : Warp) (hood : Nat) (go : List (List Nat × DWord)) (next : DWord) : Warp :=
  let gone := go.flatMap Prod.fst
  let rest := (w.hoodSlices hood).filter fun i => !gone.contains i
  go.foldl (fun w x => w.formHood x.1 x.2) (if rest.isEmpty then w else w.formHood rest next)

/-- What stands against the first target that is not legal, with the target. -/
def Issue.barred (c : Issue) (go : List (List Nat × DWord)) : State × Option (Bar × DWord) :=
  go.foldl (fun (r : State × Option (Bar × DWord)) x =>
    match r.2 with
    | some _ => r
    | none =>
      match r.1.targetFault c.w.core c.w.ctx x.2 with
      | (s, some e) => (s, some (e, x.2))
      | (s, none) => (s, none)) (c.s, none)

/-- The state in which a transfer waits because the fetch of a target's line does (R150, R450). -/
def Issue.targetHeld (c : Issue) (go : List (List Nat × DWord)) : Option State :=
  go.findSome? fun x => if (pcFault x.2).isSome then none else c.s.fetchHeld c.w.core c.w.ctx (x.2.toNat / 64)

/-- Transfers groups of slices, each to its target, when every target is legal (R221 to R223). Where the fetch of a target's line faults the
hood waits at the transferring instruction for that line (R105, log entry 14). -/
def Issue.branch (c : Issue) (go : List (List Nat × DWord)) (g : Warp → Warp) : Res :=
  if go.any fun x => c.s.fetchWaits c.w.core c.w.ctx (x.2.toNat / 64) then .stall
  else match c.targetHeld go with
  | some s => .again s
  | none => match c.barred go with
    | (s, some (.fault e, target)) => .fault s [c.record e c.lanes target]
    | (s, some (.fetch f, target)) =>
      .hold (s.stopFetch c.w (fun i => (c.w.slice i).live && (c.w.slice i).hood = c.hood) c.act (target.toNat / 64) f)
    | (s, none) => .jump (s.modWarp c.w.core c.w.slot fun w => (g w).transfer c.hood go (nextPc c.pc))

/-- The slices of the hood that take a conditional branch, as one group. -/
def Issue.takers (c : Issue) (f : FormB) : List (List Nat × DWord) :=
  let l := (c.w.hoodSlices c.hood).filter (c.takes f.bmode.toNat (c.qreg f.c))
  if l.isEmpty then [] else [(l, branchTarget c.pc f.off)]

/-- BRA (R262). -/
def execBra (f : FormB) (s : State) : Host.Outcome State Fault Refusal :=
  issue 0x002 (.b f) s fun c => c.branch (c.takers f) id

/-- CALL (R262): the link is written when a slice takes the branch. -/
def execCall (f : FormB) (s : State) : Host.Outcome State Fault Refusal :=
  issue 0x004 (.b f) s fun c =>
    let go := c.takers f
    c.branch go fun w => if go.isEmpty then w else w.setS64 c.lanes 122 (branchTarget c.pc 1)

/-- The slices of the hood with an active lane. -/
def Issue.activeSlices (c : Issue) : List Nat := (c.w.hoodSlices c.hood).filter fun i => c.act &&& sliceLanes i ≠ 0

/-- A uniform indirect transfer of every slice with an active lane. -/
def Issue.jumpTo (c : Issue) (target : DWord) : Res :=
  c.branch (if c.activeSlices.isEmpty then [] else [(c.activeSlices, target)]) id

/-- The target of a slice's batt under a vector pair: that of the batt's lowest active lane (R180). -/
def Issue.battTarget (c : Issue) (f : FormB) (i : Nat) : DWord :=
  let lanes := c.act &&& ((BitVec.allOnes 96 >>> 64) <<< (32 * (i / 8)))
  BitVec.ofNat 64 (c.vector f.c true 3 ((LaneMask.lowest lanes).getD 0))

/-- BRX (R180, R263). -/
def execBrx (f : FormB) (s : State) : Host.Outcome State Fault Refusal :=
  issue 0x003 (.b f) s fun c =>
    match operand f.c with
    | .v _ => c.branch ((groupBy c.activeSlices (c.battTarget f)).map fun l => (l, c.battTarget f (keyOf l))) id
    | _ => c.jumpTo (BitVec.ofNat 64 (c.scalar f.c true 3))

/-- RET (R263). -/
def execRet (f : FormA) (s : State) : Host.Outcome State Fault Refusal :=
  issue 0x005 (.a f) s fun c => c.jumpTo (c.w.getS64 122)

/-! ## FELT, YIELD, SLEEP -/

/-- FELT (R181, R265). -/
def execFelt (f : FormI) (s : State) : Host.Outcome State Fault Refusal :=
  issueSweep 0x006 (.i f) s fun c => .hold ((c.put fun w => w.waitHood c.hood (.felt f.imm)).resolveFelt c.w.core c.w.slot)

/-- The hoods of the pipe, other than the issuing one, that are eligible (R266). -/
def Issue.otherHoods (c : Issue) : List HoodRef :=
  (c.s.pipeWarps c.w.core (c.w.slot / 8)).flatMap fun w =>
    if w.mayIssue then (w.hoods.filter fun h => w.eligible h && !(w.slot = c.w.slot && h = c.hood)).map fun h => ⟨w.core, w.slot, h⟩ else []

/-- YIELD (R266). -/
def execYield (f : FormA) (s : State) : Host.Outcome State Fault Refusal :=
  issue 0x007 (.a f) s fun c =>
    match c.otherHoods with
    | [] => .next c.s
    | l => .jump (c.put fun w => (w.moveHood c.hood (nextPc c.pc)).waitHood c.hood (.yield l))

/-- SLEEP (R267). -/
def execSleep (f : FormI) (s : State) : Host.Outcome State Fault Refusal :=
  issue 0x009 (.i f) s fun c =>
    let d := (f.imm.toNat + if f.s1 = 0x1FF then 0 else c.scalar f.s1 false 1) % 2 ^ 32
    if d = 0 then .next c.s
    else .jump (c.put fun w =>
      (w.moveHood c.hood (nextPc c.pc)).waitHood c.hood (.sleep ((c.s.die (dieOfCore c.w.core)).clock + d)))

/-- SLEEP_EXPIRY (R267): the hood's count has run out. -/
def execSleepExpiry (h : HoodRef) (s : State) : Host.Outcome State Fault Refusal :=
  .next ((s.modWarp h.core h.slot fun w => w.mapSlices fun _ sl =>
    match sl.wait with
    | .sleep t => if sl.hood = h.hood && t ≤ (s.die (dieOfCore h.core)).clock then { sl with wait := .run } else sl
    | _ => sl).tryEntry h.core h.slot).settle

/-! ## BAR, BARH, PHASE -/

/-- Makes the whole warp wait. -/
def Warp.waitAll (w : Warp) (x : Wait) : Warp := w.mapSlices fun _ sl => if sl.live then { sl with wait := x } else sl

/-- BAR (R268). -/
def execBar (f : FormI) (s : State) : Host.Outcome State Fault Refusal :=
  issueSweep 0x00A (.i f) s fun c => c.collective fun c => .hold (c.put fun w => (w.waitAll (.barrier false f.imm.toNat)).closeWindows)

/-- BARH (R268). -/
def execBarh (f : FormI) (s : State) : Host.Outcome State Fault Refusal :=
  issueSweep 0x00B (.i f) s fun c => c.collective fun c => .hold (c.put fun w => (w.waitAll (.barrier true f.imm.toNat)).closeWindows)

/-- Whether PHASE's operands stand within their limits (R272). -/
def Issue.phaseLimits (c : Issue) (f : FormX) : Bool :=
  let (_, n, m, b) := phaseOperands c.w f
  n ≤ c.w.vrc && m ≤ min c.w.src 122 && b % 128 = 0 && b ≤ ((c.s.blockOf? c.w).map Block.scratch).getD 0

/-- PHASE (R204, R272): the warp arrives. -/
def execPhase (f : FormX) (s : State) : Host.Outcome State Fault Refusal :=
  issueSweep 0x008 (.x f) s fun c => c.collective fun c =>
    if !((c.s.gang? c.w.gang).any Gang.phased) then c.badHood (0x01, 0x21)
    else if c.w.pos = 0 && c.w.idx = 0 && !c.phaseLimits f then c.badHood (0x03, 0x10)
    else .hold (c.put fun w => (w.waitAll (.phase f)).closeWindows)

end Sys2Proof.Machine
end

