-- ==== Sys2Proof/Machine/Ring.lean ====
section
/-! DEFINITION. Stage rings (R210, R365 to R370) and SPAWN (R371, R492), and the returns of BANDW, WAITV and the ring waits. -/

namespace Sys2Proof.Machine

open Sys2Proof

/-! ## Ring headers (R365) -/

/-- A ring header. -/
structure Ring where
  base  : Nat
  esz   : Nat
  depth : Nat
  low   : Nat
  high  : Nat
  head  : Nat
  tail  : Nat
  usq   : Nat
  dsq   : Nat
  flags : Nat
  rsv   : Nat
  acq   : Nat
  pad   : Nat
deriving DecidableEq, Repr

/-- A header from its 64 bytes. -/
def Ring.ofNat (v : Nat) : Ring :=
  { base := natBits v 0 64, esz := natBits v 64 16, depth := natBits v 80 16, low := natBits v 96 16, high := natBits v 112 16
    head := natBits v 128 32, tail := natBits v 160 32, usq := natBits v 192 8, dsq := natBits v 200 8, flags := natBits v 208 16
    rsv := natBits v 224 32, acq := natBits v 256 32, pad := natBits v 288 224 }

/-- Whether LIVE is set. -/
def Ring.live (r : Ring) : Bool := r.flags.testBit 0

/-- Bytes of a slot. -/
def Ring.slotBytes (r : Ring) : Nat := (if r.esz = 0 then 4096 else r.esz) * 16

/-- The address of slot `i`. -/
def Ring.slot (r : Ring) (i : Nat) : Nat := (r.base + i % max 1 r.depth * r.slotBytes) % 2 ^ 64

/-- The index in `n` slots from `lo` whose slot address is `a`. -/
def Ring.find (r : Ring) (lo n a : Nat) : Option Nat :=
  ((List.range (min n r.depth)).find? fun j => r.slot ((lo + j) % 2 ^ 32) = a).map fun j => (lo + j) % 2 ^ 32

/-- The first byte after the slot array that its half or window allows; none for a BASE that is neither. -/
def ringLimit (base : Nat) : Option Nat :=
  if canonical (BitVec.ofNat 64 base) then some (if base < 2 ^ 56 then 2 ^ 56 else 2 ^ 64)
  else if windowStray base then none
  else match base / 2 ^ 52 with
    | 0xFE0 | 0xFE1 => some ((base / 2 ^ 19 + 1) * 2 ^ 19)
    | 0xFE2 => some ((base / 2 ^ 28 + 1) * 2 ^ 28)
    | _ => none

/-- Status −2 (R367): a field outside its limits, a reserved field nonzero, or an array that wraps. -/
def Ring.bad (r : Ring) : Bool :=
  let sq := fun (n : Nat) => 63 < n && n ≠ 0xFF
  r.base % 16 ≠ 0 || r.depth < 2 || 1024 < r.depth || r.high ≤ r.low || r.depth < r.high || sq r.usq || sq r.dsq ||
  natBits r.flags 1 7 ≠ 0 || natBits r.flags 14 2 ≠ 0 || r.pad ≠ 0 ||
  match ringLimit r.base with | none => true | some e => e < r.base + r.depth * r.slotBytes

/-! ## Operations -/

/-- A ring operation: its header's address (R366), then `k` with the storage key and the header. -/
def Issue.ringOp (c : Issue) (f : FormM) (k : Nat → Ring → Res) : Res :=
  if c.idle then .next c.s
  else match c.objectKey f 64 64 5 with
    | .error r => .fault c.s [r]
    | .ok key =>
      if c.s.scoreHolds true key 64 then .stall
      else k key (Ring.ofNat (c.s.store.read key 64))

/-- Writes a device-written field of a header (R365). -/
def Issue.ringPut (c : Issue) (key off n v : Nat) : Issue :=
  let f : DevField := { obj := key, kind := .ring, ctx := c.w.ctx, key := key + off, n := n, val := v }
  { c with s := (c.s.putField f (c.s.depthOf c.w)).noteFields [f] }

/-- Notes that a warp has moved a counter of a header, which held `old` (R210). -/
def State.noteRing (s : State) (w : Warp) (key old : Nat) : State :=
  s.modCaches fun c => { c with ringOps :=
    (c.ringOps.map fun x => if x.key = key then { x with seen := w.core :: x.seen } else x) ++ [{ key := key, old := old, gang := w.gang }] }

/-- Forgets the notes on a header. -/
def State.dropRingOps (s : State) (key : Nat) : State :=
  s.modCaches fun c => { c with ringOps := c.ringOps.filter fun x => !(key ≤ x.key && x.key < key + 64) }

/-- Moves a counter of a header from `old` on by one slot, which changes the ring's fill (R210, R368, R369). -/
def Issue.ringMove (c : Issue) (key off old : Nat) : State := (c.ringPut key off 4 ((old + 1) % 2 ^ 32)).s.noteRing c.w (key + off) old

/-- The hood waits at its ring instruction. -/
def Issue.ringWait (c : Issue) (x : InFlight → Wait) : Res :=
  .hold (c.s.modWarp c.w.core c.w.slot fun w => w.waitHood c.hood (x (c.inFlight [])))

/-- Ring indices of a context in use on a die. -/
def State.ringIndices (s : State) (ctx die : Nat) : List Nat :=
  (((s.ctx? ctx).map Context.rings).getD []).filterMap fun r => if r.1 = die then some r.2.1 else none

/-- QINIT.init (R367). -/
def Issue.qinit (c : Issue) (f : FormM) : Res :=
  c.ringOp f fun key r =>
    let done := fun (c : Issue) (st : Nat) => Res.next (c.put fun w => w.putScalar c.lanes f.d false st)
    let die := dieOfCore c.w.core
    if r.live then done c (2 ^ 32 - 3)
    else if r.bad then done c (2 ^ 32 - 2)
    else match (List.range 64).find? fun i => !(c.s.ringIndices c.w.ctx die).contains i with
      | none => done c (2 ^ 32 - 1)
      | some i =>
        let c := ((((c.ringPut key 0x1A 2 (1 + i * 256)).ringPut key 0x10 4 0).ringPut key 0x14 4 0).ringPut key 0x1C 4 0).ringPut key 0x20 4 0
        done { c with s := (c.s.dropRingOps key).modCtx c.w.ctx fun k => { k with rings := (die, i, key) :: k.rings } } i

/-- QINIT.fini (R367). -/
def Issue.qfini (c : Issue) (f : FormM) : Res :=
  c.ringOp f fun key r =>
    let done := fun (c : Issue) (st : Nat) => Res.next (c.put fun w => w.putScalar c.lanes f.d false st)
    if !r.live then done c (2 ^ 32 - 3)
    else
      let c := c.ringPut key 0x1A 2 (r.flags / 2 * 2)
      done { c with s := ((c.s.dropFields key 64).dropRingOps key).modCtx c.w.ctx fun k =>
        { k with rings := k.rings.filter fun x => !(x.1 = dieOfCore c.w.core && x.2.1 = r.flags / 256 % 64) } } 0

/-- Writes the q result in every lane of the active set (R368). -/
def Issue.ringQ (f : FormM) (c : Issue) (x : Bool) (w : Warp) : Warp :=
  if f.s = 0x1FF then w else w.setQ (regNum f.s) c.act (if x then BitVec.allOnes 96 else 0)

/-- Takes slot `i`: D and the q result. -/
def Issue.ringTake (c : Issue) (f : FormM) (r : Ring) (i : Nat) : State :=
  c.put fun w => Issue.ringQ f c true (w.putScalar c.lanes f.d true (r.slot i))

/-- QPUT.resv (R368): an acquire at the ring's scope when it takes a slot (R492). -/
def Issue.qresv (c : Issue) (f : FormM) : Res :=
  c.ringOp f fun key r =>
    if !r.live then c.badHood (0x23, 0x01)
    else if ctrSub r.rsv r.head < r.depth then 
      .next (c.acquired true 1 ((c.ringPut key 0x1C 4 ((r.rsv + 1) % 2 ^ 32)).ringTake f r r.rsv))
    else if f.s = 0x1FF then c.ringWait .ringResv
    else .next (c.put (Issue.ringQ f c false))

/-- QPUT.commit (R368): slots are published in the order in which they were reserved. -/
def Issue.qcommit (c : Issue) (f : FormM) : Res :=
  c.ringOp f fun key r =>
    if !r.live then c.badHood (0x23, 0x01)
    else match r.find r.tail (ctrSub r.rsv r.tail) (c.scalar f.s true 3) with
      | none => c.badHood (0x23, 0x02)
      | some i => if i = r.tail then .next (c.ringMove key 0x14 i) else c.ringWait .ringCommit

/-- QGET.acq (R369): an acquire at the ring's scope when it takes a slot. -/
def Issue.qacq (c : Issue) (f : FormM) : Res :=
  c.ringOp f fun key r =>
    if !r.live then c.badHood (0x23, 0x01)
    else if 0 < ctrSub r.tail r.acq then
      .next (c.acquired true 1 ((c.ringPut key 0x20 4 ((r.acq + 1) % 2 ^ 32)).ringTake f r r.acq))
    else if f.s = 0x1FF then c.ringWait .ringAcq
    else .next (c.put (Issue.ringQ f c false))

/-- QGET.free (R369). -/
def Issue.qfree (c : Issue) (f : FormM) : Res :=
  c.ringOp f fun key r =>
    if !r.live then c.badHood (0x23, 0x01)
    else match r.find r.head (ctrSub r.acq r.head) (c.scalar f.s true 3) with
      | none => c.badHood (0x23, 0x03)
      | some i => if i = r.head then .next (c.ringMove key 0x10 i) else c.ringWait .ringFree

/-- QINIT.init (R367). -/
def execQinitInit (f : FormM) (s : State) : Host.Outcome State Fault Refusal := issue 0x10A (.m f) s fun c => c.qinit f
/-- QINIT.fini (R367). -/
def execQinitFini (f : FormM) (s : State) : Host.Outcome State Fault Refusal := issue 0x10A (.m f) s fun c => c.qfini f
/-- QPUT.resv (R368). -/
def execQputResv (f : FormM) (s : State) : Host.Outcome State Fault Refusal := issue 0x10B (.m f) s fun c => c.qresv f
/-- QPUT.commit (R368). -/
def execQputCommit (f : FormM) (s : State) : Host.Outcome State Fault Refusal := issue 0x10B (.m f) s fun c => c.qcommit f
/-- QGET.acq (R369). -/
def execQgetAcq (f : FormM) (s : State) : Host.Outcome State Fault Refusal := issue 0x10C (.m f) s fun c => c.qacq f
/-- QGET.free (R369). -/
def execQgetFree (f : FormM) (s : State) : Host.Outcome State Fault Refusal := issue 0x10C (.m f) s fun c => c.qfree f

/-! ## Returns -/

/-- The hood that a return names, when it waits as `p` says. -/
def State.waits (s : State) (h : HoodRef) (p : Wait → Bool) : Bool :=
  (s.warp? h.core h.slot).any fun w => !(w.hoodSlices h.hood).isEmpty && p (w.slice (keyOf (w.hoodSlices h.hood))).wait

/-- A hood that waits at a ring instruction performs it again. -/
def State.ringAgain (s : State) (h : HoodRef) : State :=
  match s.keptIssue h.core h.slot h.hood with
  | some ({ opc := 0x10B, form := .m f, .. }, _) | some ({ opc := 0x10C, form := .m f, .. }, _) =>
    (match s.keptIssue h.core h.slot h.hood with
    | some (c, w) =>
      let r := if c.opc = 0x10B then (if f.ord = 0 then c.qresv f else c.qcommit f) else if f.ord = 1 then c.qacq f else c.qfree f
      c.finish w r
    | none => s)
  | _ => s

/-- A ring wait's event. -/
def State.ringRetry (s : State) (h : HoodRef) (p : Wait → Bool) : State :=
  if s.waits h p then (s.ringAgain h).settle else s

/-- QPUT_RESV_RETRY (R368). -/
def execQputResvRetry (h : HoodRef) (s : State) : Host.Outcome State Fault Refusal :=
  .next (s.ringRetry h fun x => match x with | .ringResv _ => true | _ => false)
/-- QPUT_COMMIT_PUBLISH (R368). -/
def execQputCommitPublish (h : HoodRef) (s : State) : Host.Outcome State Fault Refusal :=
  .next (s.ringRetry h fun x => match x with | .ringCommit _ => true | _ => false)
/-- QGET_ACQ_RETRY (R369). -/
def execQgetAcqRetry (h : HoodRef) (s : State) : Host.Outcome State Fault Refusal :=
  .next (s.ringRetry h fun x => match x with | .ringAcq _ => true | _ => false)
/-- QGET_FREE_RELEASE (R369). -/
def execQgetFreeRelease (h : HoodRef) (s : State) : Host.Outcome State Fault Refusal :=
  .next (s.ringRetry h fun x => match x with | .ringFree _ => true | _ => false)

/-- BANDW_RETURN (R357): the band is read again. -/
def execBandwReturn (h : HoodRef) (s : State) : Host.Outcome State Fault Refusal :=
  .next (if s.waits h fun x => match x with | .band _ => true | _ => false then (s.goOn h.core h.slot h.hood).settle else s)

/-- Whether a log entry is a WAITV that reads again. -/
def LogEntry.rereads (e : LogEntry) : Bool := e.again && decodeOpc e.insn = 0x0CA

/-- WAITV_RETURN (R335): the location is read again, by the WAITV at which the hood stands, by those inside whose windows it has gone on, or,
where there is neither, by those of its warp that have been retried from the operand log. -/
def execWaitvReturn (h : HoodRef) (s : State) : Host.Outcome State Fault Refusal :=
  let aloft := (s.warp? h.core h.slot).any fun w => w.flights.any fun x => x.hood = h.hood && x.value
  .next (if aloft || s.waits h fun x => match x with | .value _ => true | _ => false then (s.goOn h.core h.slot h.hood Flight.value).settle
    else if (s.warp? h.core h.slot).any fun w => w.parked.any fun x => x.2.rereads then
      ((s.retryWarp h.core h.slot LogEntry.rereads).tryEntry h.core h.slot).settle
    else s)

/-! ## SPAWN -/

/-- The record that a SPAWN queues (R205, R371): its KIND is spawned, a triggered issuer's too. -/
def Gang.spawn (g : Gang) (pc param : DWord) (sq order : Nat) : PhaseRec :=
  { ctx := g.ctx, die := g.die, sq := sq, pc := pc, param := param, launch := g.launch, first := g.first, shape := g.shape
    scratch := g.scratch, spawned := true, phase := (g.phaseReg + 1) % 2 ^ 32, chain := g.chain, prio := g.prio
    grid := g.grid, age := g.age, order := order, pool := headerRecord, lossless := g.lossless }

/-- SPAWN (R371): it takes place behind the warp's parked accesses (R126). -/
def Issue.spawn (c : Issue) (f : FormA) : Res :=
  if c.idle then .next c.s
  else match c.s.gang? c.w.gang with
    | none => .next c.s
    | some g =>
      let sq := c.scalar f.s3 false 1
      if !(g.phased || g.triggered) then c.badHood (0x01, 0x21)
      else if 63 < sq then c.badHood (0x03, 0x10)
      else if !c.w.parked.isEmpty then .stall
      else if !c.s.poolRoom g.ctx g.die headerRecord then c.done fun w => w.putScalar c.lanes f.d false (2 ^ 32 - 1)
      else
        let param : DWord := if f.s2 = 0x1FF then 0 else BitVec.ofNat 64 (c.scalar f.s2 true 3)
        let r := { g.spawn (BitVec.ofNat 64 (c.scalar f.s1 true 3)) param sq c.s.sched.nextOrder with
                   poolAt := c.s.poolTake g.ctx g.die headerRecord }
        let s := (c.s.layRecord r).modSched fun k => { k with queued := k.queued ++ [r], nextOrder := k.nextOrder + 1 }
        .next ({ c with s := s }.put fun w => w.putScalar c.lanes f.d false 0)

/-- SPAWN (R371). -/
def execSpawn (f : FormA) (s : State) : Host.Outcome State Fault Refusal := issue 0x10D (.a f) s fun c => c.spawn f

end Sys2Proof.Machine
end

