-- ==== Sys2Proof/Machine/System.lean ====
section
/-! DEFINITION. System, trap, event and trace instructions (R388 to R400): SRGET, SRSET, TRAP, BKPT, TRET, EVSET, EVWAIT, TRACE, TRCTL. -/

namespace Sys2Proof.Machine

open Sys2Proof

/-! ## Special registers (R390 to R392) -/

/-- Whether a special register is 64 bits wide (R390). -/
def wideSpecial (n : Nat) : Bool := n = 0x0C || n = 0x0D || n = 0x10 || n = 0x1D

/-- What a scalar special register reads (R390): placement is that of the moment, and a triggered phase has no block coordinates. -/
def State.special (s : State) (w : Warp) (n : Nat) : Nat :=
  let die := dieOfCore w.core
  let g := (s.gang? w.gang).getD { id := w.gang, ctx := w.ctx, launch := none, first := 0, die := die }
  let lin := ((s.blockOf? w).map Block.lin).getD 0
  let gx := max 1 g.grid.1
  let gy := max 1 g.grid.2.1
  let untriggered := fun (x : Nat) => if g.triggered then 0 else x
  match n with
  | 0x02 => w.idx
  | 0x03 => untriggered (lin % gx)
  | 0x04 => untriggered (lin / gx % gy)
  | 0x05 => untriggered (lin / (gx * gy))
  | 0x06 => untriggered lin
  | 0x07 => untriggered (lin / max 1 (shapeGang g.shape))
  | 0x08 => w.core % Config.coresPerDie
  | 0x09 => w.core % Config.coresPerDie / 4
  | 0x0A => die
  | 0x0B => w.ctx
  | 0x0C => (s.die die).clock
  | 0x0D => (s.die die).ns
  | 0x0E => w.mode.toNat
  | 0x0F => w.flags.toNat
  | 0x10 => w.tvec.toNat
  | 0x11 => g.phaseReg
  | 0x1C => if w.handler then 1 else 0
  | 0x1D => ((s.ctx? w.ctx).map fun c => c.warpSlot w.frameSlot).getD 0
  | _ =>
    if 0x12 ≤ n && n ≤ 0x15 then (g.trig.getD (n - 0x12) 0).toNat
    else if 0x16 ≤ n && n ≤ 0x1B then (s.hub.deadPeers.extractLsb' (32 * (n - 0x16)) 32).toNat else 0

/-- Whether a BANDW of a warp has issued and not completed. -/
def Warp.bandwOut (w : Warp) : Bool :=
  (w.liveSlices.any fun i => match (w.slice i).wait with | .band _ => true | _ => false) || w.parked.any fun x => decodeOpc x.2.insn = 0x103

/-- SRGET (R391): FLAGS are read once every BANDW the warp has issued has completed (R78). -/
def Issue.srget (c : Issue) (f : FormI) : Res :=
  let n := f.imm.toNat
  if n = 0x0F && !c.idle && c.w.bandwOut then .stall
  else if n = 0x00 then c.done fun w => w.putVector c.act f.d false id
  else if n = 0x01 then c.done fun w => w.putVector c.act f.d false (· / 4)
  else if c.idle then .next c.s
  else
    let v := c.s.special c.w n
    c.done fun w => (w.putScalar c.lanes f.d (wideSpecial n) v).putVector c.act f.d (wideSpecial n) fun _ => v

/-- Whether R75 refuses a value of MODE. -/
def badMode (v : Word) : Bool := v &&& 0xFFFFE000 ≠ 0 || v &&& 7 = 0 || v &&& 7 = 7

/-- SRSET (R392). -/
def Issue.srset (c : Issue) (f : FormI) : Res :=
  let n := f.imm.toNat
  let v := c.scalar f.s1 (wideSpecial n) 1
  let x : Word := BitVec.ofNat 32 v
  if c.idle then .next c.s
  else if n = 0x0E then (if badMode x then c.badHood (0x03, 0x12) else c.done fun w => { w with mode := x })
  else if n = 0x0F then c.done fun w => { w with flags := x &&& 0xFF }
  else if n = 0x10 then c.done fun w => { w with tvec := BitVec.ofNat 64 v }
  else .next (c.s.modHub fun h =>
    { h with deadPeers := h.deadPeers &&& ~~~((x.setWidth 192 : BitVec 192) <<< (32 * (n - 0x16))) })

/-- SRGET (R391). -/
def execSrget (f : FormI) (s : State) : Host.Outcome State Fault Refusal := issue 0x00F (.i f) s fun c => c.srget f
/-- SRSET (R392). -/
def execSrset (f : FormI) (s : State) : Host.Outcome State Fault Refusal := issue 0x010 (.i f) s fun c => c.srset f

/-! ## TRAP, BKPT, TRET (R393 to R396) -/

/-- TRAP (R394): it completes, and the warp enters handler mode; its slices resume after it. -/
def execTrap (f : FormI) (s : State) : Host.Outcome State Fault Refusal :=
  issue 0x00C (.i f) s fun c => if c.idle then .next c.s else .trap c.s [c.record (0x38, f.imm.toNat % 256) c.act]

/-- BKPT (R394): its slices resume at it. -/
def execBkpt (f : FormI) (s : State) : Host.Outcome State Fault Refusal :=
  issue 0x00E (.i f) s fun c => if c.idle then .next c.s else c.bad (0x39, f.imm.toNat % 256)

/-- TRET when a pre-emption waits for it (R396): the frame, as the handler left it, becomes the saved state. -/
def State.returnStopped (s : State) (w : Warp) : State :=
  let base := ((s.ctx? w.ctx).map fun c => c.warpSlot w.frameSlot).getD 0
  match (s.deviceWrite w.ctx (base + 6) 1 0x10 true).bind fun s => s.deviceWrite w.ctx (base + 8) 8 0 true with
  | none => s.lose w.ctx w.core w.slot 0x01
  | some s => s.modWarp w.core w.slot fun w => { w with handler := false, frameDone := true, returning := none, windows := [] }

/-- TRET's reload (R395, R412): then failed batches take effect, and every parked instruction is retried (R102). -/
def State.returnReload (s : State) (w : Warp) : State :=
  let base := ((s.ctx? w.ctx).map fun c => c.warpSlot w.frameSlot).getD 0
  if !s.frameReadable w.ctx base (frameBytes w.vrc) then s.lose w.ctx w.core w.slot 0x04
  else
    let s := s.setWarp { (w.reload (s.frameRead w.ctx base) w.isLive) with failed := [] }
    (s.failWarp w.core w.slot w.failed.contains).retryWarp w.core w.slot fun _ => true

/-- TRET (R395): the other hoods stop, and it takes effect once what the handler issued has been performed. -/
def Issue.tret (c : Issue) : Res :=
  match c.s.warp? c.w.core c.w.slot with
  | none => .next c.s
  | some w =>
    if !w.drained || !w.parked.isEmpty || c.s.hasAccess w.core w.slot then .hold (c.put fun w => { w with returning := some c.hood })
    else .jump (if w.stopping then c.s.returnStopped w else c.s.returnReload w)

/-- TRET (R395, R396). -/
def execTret (f : FormA) (s : State) : Host.Outcome State Fault Refusal := issueSweep 0x00D (.a f) s fun c => c.tret

/-! ## Events (R397, R398) -/

/-- EVSET (R397): `.set` is a release at `.dev`; D receives the bit as it was. -/
def Issue.evset (c : Issue) (d : BitVec 10) (bit : Nat) (val : Bool) : Res :=
  if c.idle then .next c.s
  else if 255 < bit then c.badHood (0x03, 0x10)
  else if val && !c.w.parked.isEmpty then .stall
  else
    let old := (c.s.ctx? c.w.ctx).any fun k => k.events.getLsbD bit
    let m : BitVec 256 := (1 : BitVec 256) <<< bit
    let s := c.s.changeEvents c.w.ctx fun e => if val then e ||| m else e &&& ~~~m
    .next ({ c with s := s }.put fun w => w.putScalar c.lanes d false (if old then 1 else 0))

/-- EVWAIT (R398): it returns with an acquire at `.dev`, or waits. -/
def Issue.evwait (c : Issue) (bit : Nat) (val : Bool) : Res :=
  if c.idle then .next c.s
  else if 255 < bit then c.badHood (0x03, 0x10)
  else if ((c.s.ctx? c.w.ctx).any fun k => k.events.getLsbD bit) = val then .next (c.s.l1Flush c.w.core)
  else .hold (c.put fun w => w.waitHood c.hood (.event bit val))

/-- EVSET of a bit in a register (R397). -/
def execEvset (f : FormA) (s : State) : Host.Outcome State Fault Refusal :=
  issue 0x014 (.a f) s fun c => c.evset f.d (c.scalar f.s1 false 1) (f.sub = 0)
/-- EVSET of an immediate bit (R397). -/
def execEvsetImm (f : FormI) (s : State) : Host.Outcome State Fault Refusal :=
  issue 0x014 (.i f) s fun c => c.evset f.d f.imm.toNat (f.sub = 0)
/-- EVWAIT on a bit in a register (R398). -/
def execEvwait (f : FormA) (s : State) : Host.Outcome State Fault Refusal :=
  issue 0x015 (.a f) s fun c => c.evwait (c.scalar f.s1 false 1) (f.sub = 0)
/-- EVWAIT on an immediate bit (R398). -/
def execEvwaitImm (f : FormI) (s : State) : Host.Outcome State Fault Refusal :=
  issue 0x015 (.i f) s fun c => c.evwait f.imm.toNat (f.sub = 0)

/-- EVWAIT_RETURN (R398): the awaited value stands. -/
def execEvwaitReturn (h : HoodRef) (s : State) : Host.Outcome State Fault Refusal :=
  match s.warp? h.core h.slot with
  | none => .next s
  | some w =>
    let sl := w.slice (keyOf (w.hoodSlices h.hood))
    match sl.wait with
    | .event bit val =>
      if (w.hoodSlices h.hood).isEmpty || ((s.ctx? w.ctx).any fun k => k.events.getLsbD bit) ≠ val then .next s
      else .next ((s.l1Flush h.core).modWarp h.core h.slot fun w => (w.moveHood h.hood (nextPc sl.pc)).countWindows h.hood)
    | _ => .next s

/-! ## Trace (R399, R400) -/

/-- TRACE (R399): nothing when the context's own mask drops USER; under lossless mode the hood stalls until the record is accepted (R446). -/
def Issue.trace (c : Issue) (v : Nat) : Res :=
  let die := dieOfCore c.w.core
  let lossless := (c.s.gang? c.w.gang).any Gang.lossless
  if c.idle || !(c.s.ctx? c.w.ctx).any fun k => k.typeMask.getLsbD 0x14 then .next c.s
  else if c.s.traceHeld die c.w.ctx 0x14 lossless then .again (c.s.noteHold die c.w.ctx 0x14 1)
  else .next (c.s.emit die (c.w.core % Config.coresPerDie) (c.w.slot / 8) c.w.ctx 0x14 v none lossless (some c.w.identity))

/-- TRACE of a register (R399). -/
def execTrace (f : FormA) (s : State) : Host.Outcome State Fault Refusal := issue 0x012 (.a f) s fun c => c.trace (c.scalar f.s1 false 1)
/-- TRACE of an immediate (R399). -/
def execTraceImm (f : FormI) (s : State) : Host.Outcome State Fault Refusal := issue 0x012 (.i f) s fun c => c.trace f.imm.toNat

/-- TRCTL.set (R400): the context's type mask, its old value to D. -/
def Issue.trctl (c : Issue) (f : FormA) : Res :=
  let v : Word := BitVec.ofNat 32 (c.scalar f.s1 false 1)
  if c.idle then .next c.s
  else if v &&& 0xFF000001 ≠ 0 then c.badHood (0x03, 0x10)
  else
    let old := ((c.s.ctx? c.w.ctx).map fun k => k.typeMask.toNat).getD 0
    .next ({ c with s := c.s.modCtx c.w.ctx fun k => { k with typeMask := v } }.put fun w => w.putScalar c.lanes f.d false old)

/-- TRCTL.set (R400). -/
def execTrctlSet (f : FormA) (s : State) : Host.Outcome State Fault Refusal := issue 0x013 (.a f) s fun c => c.trctl f

/-- TRCTL.flush (R400): no record that the warp has emitted, wherever it was, is still on its way to the context's buffer. -/
def execTrctlFlush (f : FormA) (s : State) : Host.Outcome State Fault Refusal :=
  issue 0x013 (.a f) s fun c =>
    if !c.idle && c.s.staged.any fun r => r.warp = some c.w.identity && r.takers.contains c.w.ctx then .stall else .next c.s

end Sys2Proof.Machine
end

