-- ==== Sys2Proof/Machine/Migrate.lean ====
section
/-! DEFINITION. Migration (R108 to R115): requests, copy passes, cut-over, stubs and their reclamation; MIGR and MIGR.swap (R401);
TFENCE's acknowledgements (R99). -/

namespace Sys2Proof.Machine

open Sys2Proof

/-! ## Moving lines -/

/-- Entries of sparse data moved from `n` keys at `src` to those at `dst`, whose own entries go. -/
def moveKeys {β : Type} (m : List (Nat × β)) (src dst n : Nat) : List (Nat × β) :=
  (m.filter fun c => c.1 < dst) ++ ((m.filter fun c => src ≤ c.1 && c.1 < src + n).map fun c => (dst + (c.1 - src), c.2)) ++
    m.filter fun c => dst + n ≤ c.1

/-- Copies `n` bytes of whole lines with their tags and poison (R59, R109). -/
def Store.copyRange (m : Store) (src dst n : Nat) : Store :=
  { m with mem := moveKeys m.mem src dst n, tags := moveKeys m.tags (src / 128) (dst / 128) (n / 128)
           poison := moveKeys m.poison (src / 4) (dst / 4) (n / 4) }

/-- Exchanges `n` bytes of whole lines at two places (R115); `tmp` is storage that nothing else uses. -/
def Store.swapRange (m : Store) (a b n : Nat) : Store :=
  let tmp := 2 ^ 60
  let m := ((m.copyRange a tmp n).copyRange b a n).copyRange tmp b n
  { m with mem := m.mem.filter fun c => c.1 < tmp
           tags := m.tags.filter fun c => c.1 < tmp / 128
           poison := m.poison.filter fun c => c.1 < tmp / 4 }

/-- Copies lines to a frame of the pod as writes that nothing waits for (R434). -/
def State.copyToPod (s : State) (src dst n : Nat) : State :=
  match s.region dst with
  | .pod t off =>
    (List.range (n / 128)).foldl (fun s i =>
      let die := (s.homeOf (src / 128)).getD 0
      s.say (.podRequest (stationOf die t (off + 128 * i)) 0 t (dst / 128 + i) true (s.store.line (src / 128 + i)) (BitVec.allOnes 128))) s
  | _ => s

/-- Copies `n` bytes of a migrating page. -/
def State.moveLines (s : State) (src dst n : Nat) : State :=
  match s.region dst with
  | .pod _ _ => s.copyToPod src dst n
  | _ => s.modStore fun m => m.copyRange src dst n

/-! ## Requests (R108) -/

/-- Status codes of R108. -/
def migOk : Nat := 0
def migBusy : Nat := 1
def migPinned : Nat := 2
def migSize : Nat := 3
def migNoStub : Nat := 4
def migNoWatch : Nat := 5
def migInvalid : Nat := 6
def migDead : Nat := 7

/-- A page to be moved: its context, address, leaf and destination frame. -/
structure Move1 where
  ctx  : Nat
  va   : Nat
  leaf : Leaf
  dest : Nat
deriving DecidableEq, Repr

/-- Page size and current frame. -/
def Move1.size (m : Move1) : Nat := 2 ^ levelShift m.leaf.level
def Move1.frame (m : Move1) : Nat := pteFrame m.leaf.entry
/-- VA[56:16] of the page. -/
def Move1.vpn (m : Move1) : Nat := m.va / m.size * m.size % 2 ^ 57 / 2 ^ 16

/-- The leaf of a page, if its context lives and the entry is a valid leaf. -/
def State.pageLeaf (s : State) (ctx va : Nat) : Option Leaf :=
  if !canonical (BitVec.ofNat 64 va) || !(s.ctx? ctx).any (fun c => !c.killed) then none
  else match (s.walk none ctx va .read).1 with | .ok l => some l | .error _ => none

/-- Whether the destination fits the page's attribute, and the frame can leave a stub (INVALID otherwise). -/
def State.moveValid (s : State) (m : Move1) : Bool :=
  attrFits (pteAttr m.leaf.entry) (s.region m.dest) && match s.region m.frame with | .hbm _ => true | _ => false

/-- Live stubs of a page. -/
def State.pageStubs (s : State) (m : Move1) : List Stub := s.eng.stubs.filter fun t => t.ctx = m.ctx && t.vpn = m.vpn

/-- Whether a pod peer that holds either frame is marked dead. -/
def State.moveDead (s : State) (m : Move1) : Bool :=
  [m.frame, m.dest].any fun f => match s.region f with | .pod t _ => t < 192 && s.hub.deadPeers.getLsbD t | _ => false

/-- A die's stubs in use: those that are live, and those that moves accepted and not yet cut over will install. -/
def State.stubsOn (s : State) (die : Nat) : Nat :=
  let at_ := fun (frame : Nat) => if s.homeOf (frame / 128) = some die then 1 else 0
  (s.eng.stubs.countP fun t => t.die = die) +
    (s.eng.migs.map fun m => if m.cut then 0 else at_ m.oldFrame + if m.swap.isSome then at_ m.newFrame else 0).sum

/-- Whether the old home has no stub for a page of a request (R108, R110, R162). -/
def State.stubsFull (s : State) (ms : List (Option Move1)) (m : Move1) : Bool :=
  match s.homeOf (m.frame / 128) with
  | some d => !(s.hasCap d 3) || Config.stubEntries < s.stubsOn d + ms.countP fun x => x.any fun y => s.homeOf (y.frame / 128) = some d
  | none => false

/-- Whether a watch has a line of a frame. -/
def WatchEntry.inFrame (w : WatchEntry) (frame size : Nat) : Bool := w.lines.any fun p => frame ≤ 128 * p.2 && 128 * p.2 < frame + size

/-- Whether the watch entries on the page fit the new home's table: each takes a place there unless its watch has one already. -/
def State.watchFits (s : State) (m : Move1) : Bool :=
  match s.homeOf (m.dest / 128) with
  | none => !s.sched.watches.any fun w => w.inFrame m.frame m.size
  | some d =>
    let coming := s.sched.watches.countP fun w => w.inFrame m.frame m.size && !(s.sched.watches.any fun x => x.is w.ctx w.id d)
    coming = 0 || (s.hasCap d 2 && s.watchesOn d + coming ≤ Config.watchEntries)

/-- The first check of R108 that fails, each made for every page before the next. -/
def State.moveStatus (s : State) (ms : List (Option Move1)) : Nat :=
  let all := fun (p : Move1 → Bool) => ms.all fun m => m.any p
  let sizes := ms.filterMap fun m => m.map Move1.size
  if Config.migQueueFull s.eng.migs.length then migBusy
  else if !all s.moveValid then migInvalid
  else if !(all fun m => m.leaf.level ≠ 2 && m.dest % m.size = 0) || sizes.any (· ≠ sizes.headD 0) then migSize
  else if !(all fun m => !ptePin m.leaf.entry) then migPinned
  else if !(all fun m => !pteMig m.leaf.entry && (s.pageStubs m).length < 2) then migBusy
  else if !(all fun m => !s.moveDead m) then migDead
  else if !(all fun m => !s.stubsFull ms m) then migNoStub
  else if !(all fun m => s.watchFits m) then migNoWatch
  else migOk

/-- Sets or changes a page's leaf entry at its home. -/
def State.putLeaf (s : State) (pa : Nat) (f : Nat → Nat) : State :=
  let at_ := s.relayPa pa
  s.writeKey at_ 8 (f (s.store.read at_ 8)) 1

/-- Sets MIG in a page's leaf entry, once the host holds its line no longer (R450). -/
def State.markMig (s : State) (pa : Nat) : State := s.hubWrite { key := s.relayPa pa, n := 8, val := 0x800, depth := 1, sets := true }

/-- Copies a page to a frame but for the lines of the frame that the host holds, which it is asked to give up (R109, R450). -/
def State.copyFrame (s : State) (src dst n : Nat) : State :=
  if (s.hostLines dst n).isEmpty then s.moveLines src dst n
  else (List.range (n / 128)).foldl (fun t i =>
    if s.hub.snoop.contains (dst / 128 + i) then t else t.moveLines (src + 128 * i) (dst + 128 * i) 128) (s.askSpan dst n)

/-- Makes every remote copy of a frame's lines invalid (R109: TRACK). -/
def State.recallFrame (s : State) (frame size : Nat) : State :=
  (s.coh.dir.filter fun e => frame ≤ 128 * e.line && 128 * e.line < frame + size).foldl (fun s e => s.recallAll e.line) s

/-- A request is accepted: TRACK, and the first pass of COPY (R109, R115). Lines of the destination that the host holds are asked back, and
copied in a later pass (R450). -/
def State.startMove (s : State) (p : Move1) (q : Option Move1) (requester : Option (Nat × Nat)) (d : BitVec 10) : State :=
  let m : Migration :=
    { id := s.eng.nextMig, ctxP := p.ctx, vaP := p.va / p.size * p.size, ptePa := p.leaf.pa, oldFrame := p.frame, newFrame := p.dest
      size := p.size, swap := q.map fun q => (q.ctx, q.va / q.size * q.size, q.leaf.pa), passes := 1, requester := requester, d := d }
  let mark := fun (s : State) (x : Move1) => (s.markMig x.leaf.pa).recallFrame x.frame x.size
  let s := mark s p
  let m := { m with dirty := if q.isSome then [] else (s.hostLines p.dest p.size).map fun l => p.frame / 128 + (l - p.dest / 128) }
  let s := match q with | some q => mark s q | none => s.copyFrame p.frame p.dest p.size
  s.modEng fun e => { e with migs := e.migs ++ [m], nextMig := e.nextMig + 1 }

/-- The pages of a request. -/
def State.movePages (s : State) (ctxP vaP dest : Nat) : List (Option Move1) :=
  [(s.pageLeaf ctxP vaP).map fun l => { ctx := ctxP, va := vaP, leaf := l, dest := dest }]

/-- The pages of a swap, each with the other's frame for its destination. -/
def State.swapPages (s : State) (ctxP vaP ctxQ vaQ : Nat) : List (Option Move1) :=
  match s.pageLeaf ctxP vaP, s.pageLeaf ctxQ vaQ with
  | some a, some b =>
    [some { ctx := ctxP, va := vaP, leaf := a, dest := pteFrame b.entry }, some { ctx := ctxQ, va := vaQ, leaf := b, dest := pteFrame a.entry }]
  | _, _ => [none, none]

/-- Takes a request, or gives the status that refuses it. -/
def State.requestMove (s : State) (ms : List (Option Move1)) (requester : Option (Nat × Nat)) (d : BitVec 10) : State × Option Nat :=
  let st := s.moveStatus ms
  if st ≠ migOk then (s, some st)
  else match ms with
    | [some p] => (s.startMove p none requester d, none)
    | [some p, some q] => (s.startMove p (some q) requester d, none)
    | _ => (s, some migInvalid)

/-- MIGR and MIGR.swap (R401): the hood waits for the status. The address of a page may be no window's (R26). -/
def Issue.migr (c : Issue) (f : FormA) (swap : Bool) : Res :=
  if c.idle then .next c.s
  else if !c.w.parked.isEmpty then .stall
  else
    let p := c.scalar f.s1 true 3
    let q := c.scalar f.s2 true 3
    let window := fun (va : Nat) => match c.s.classify c.w { sp := false, ds := false, lp := false } 0 (BitVec.ofNat 64 va) 1 c.lane with
      | .error x => if x.1 = 0x15 then some (x, va) else none
      | .ok _ => none
    match (if swap then [p, q] else [p]).findSome? window with
    | some (x, va) => .fault c.s [c.record x ((1 : LaneMask) <<< c.lane) (BitVec.ofNat 64 va)]
    | none =>
    let cp := c.scalar f.s3 false 1
    let ms := if swap then c.s.swapPages cp p (c.scalar f.s4 false 1) q else c.s.movePages cp p q
    match c.s.requestMove ms (some (c.w.core, c.w.slot)) f.d with
    | (s, some st) => .next (({ c with s := s }.put fun w => w.putScalar c.lanes f.d false st).l1Flush c.w.core)
    | (s, none) => .hold (s.modWarp c.w.core c.w.slot fun w => w.waitHood c.hood (.migration c.s.eng.nextMig))

/-- MIGR (R401). -/
def execMigr (f : FormA) (s : State) : Host.Outcome State Fault Refusal := issue 0x011 (.a f) s fun c => c.migr f false
/-- MIGR.swap (R115, R401). -/
def execMigrSwap (f : FormA) (s : State) : Host.Outcome State Fault Refusal := issue 0x011 (.a f) s fun c => c.migr f true

/-- MIGRATION_REQUEST_HOST (R108). -/
def execMigrationRequestHost (ctx va dest : Nat) (s : State) : Host.Outcome State Fault Refusal :=
  match s.requestMove (s.movePages ctx va dest) none 0x1FF with
  | (s, some st) => .next (s.say (.migStatus st))
  | (s, none) => .next s.settle

/-! ## Copying and cut-over (R109, R110, R114, R115) -/

/-- Gives a watch entry another home: a trigger of it on its way, or queued, stays its own. -/
def State.rehome (s : State) (w : WatchEntry) (home : Nat) (lines : List (Nat × Nat)) : State :=
  let own := fun (r : PhaseRec) => if r.ctx = w.ctx && r.watch = some (w.id, w.home) then { r with watch := some (w.id, home) } else r
  (s.modWatch w.ctx w.id w.home fun x => { x with home := home, lines := lines }).modSched fun k =>
    { k with queued := k.queued.map own, triggers := k.triggers.map own }

/-- The lines of a watch entry that `f` moves go to their new home (R109): within one die to the same entry; to another die with the entry
when all of it goes, else to the watch's entry there, a new one if it has none (log entry 49). -/
def State.moveWatch (s : State) (f : Nat → Nat) (w : WatchEntry) : State :=
  let gone := w.lines.filter fun p => f p.2 ≠ p.2
  let come := gone.map fun p => (p.1, f p.2)
  match come with
  | [] => s
  | p :: _ =>
    let home := (s.homeOf p.2).getD w.home
    let left := fun (x : WatchEntry) => x.lines.filter fun p => !gone.contains p
    match s.sched.watches.find? fun x => x.is w.ctx w.id w.home with
    | none => s
    | some x =>
      if home = w.home then s.modWatch w.ctx w.id home fun x => { x with lines := left x ++ come }
      else if s.sched.watches.any fun y => y.is w.ctx w.id home then
        let s := s.modWatch w.ctx w.id home fun y => { y with lines := y.lines ++ come }
        if (left x).isEmpty then s.freeWatches [x] else s.modWatch w.ctx w.id w.home fun x => { x with lines := left x }
      else if (left x).isEmpty then s.rehome x home come
      else (s.modWatch w.ctx w.id w.home fun x => { x with lines := left x }).modSched fun k => { k with watches := k.watches ++
        [{ x with home := home, lines := come, state := if x.state = .disabled then .disabled else .armed, count := 0, window := 0, sent := false }] }

/-- Where a move, or an exchange, of `n` bytes of whole lines takes a line. -/
def movedLine (a b n : Nat) (swap : Bool) (l : Nat) : Nat :=
  if a ≤ 128 * l && 128 * l < a + n then b / 128 + (l - a / 128)
  else if swap && b ≤ 128 * l && 128 * l < b + n then a / 128 + (l - b / 128) else l

/-- Watches, command queues, device-written fields, releases (R134) and changes of page-table entries (R98) in moved frames go to their new
lines. -/
def State.moveWatches (s : State) (f : Nat → Nat) : State :=
  let key := fun (k : Nat) => 128 * f (k / 128) + k % 128
  let s := (s.sched.watches.foldl (fun s w => s.moveWatch f w) s).modEng fun e =>
    { e with fields := e.fields.map fun x => { x with obj := key x.obj, key := key x.key }
             releases := e.releases.map fun x => { x with key := key x.key } }
  let s := s.modHub fun h => { h with late := h.late.map fun x => { x with key := key x.key } }
  let s := s.modCaches fun k => { k with ptes := k.ptes.map fun x => { x with pa := key x.pa } }
  { s with contexts := s.contexts.map fun c => { c with queues := c.queues.map fun q => { q with tailPa := f q.tailPa } } }

/-- Installs the stub of a page that has moved, and points its older stub at the newest frame (R110, R114). -/
def State.addStub (s : State) (ctx va old new size gen : Nat) (swap : Bool) : State :=
  let vpn := va % 2 ^ 57 / 2 ^ 16
  let older := s.eng.stubs.any fun t => t.ctx = ctx && t.vpn = vpn
  let pod : Bool := match s.region new with | .pod _ _ => true | _ => false
  let x : Stub := { die := (s.homeOf (old / 128)).getD 0, oldFrame := old, newFrame := new, gen := gen, size := size, swap := swap
                    chain := if older then 2 else 1, ctx := ctx, vpn := vpn, pod := pod }
  s.modEng fun e => { e with stubs := (e.stubs.map fun t =>
    if t.ctx = ctx && t.vpn = vpn then { t with newFrame := new, gen := gen, chain := 2 } else t) ++ [x] }

/-- Points a leaf at its new frame with MIG clear; A and D stay. -/
def State.cutLeaf (s : State) (pa new : Nat) : State :=
  s.putLeaf pa fun e => (e - e / 2 ^ 16 % 2 ^ 36 * 2 ^ 16 - (if e.testBit 11 then 2048 else 0)) + new

/-- Whether one of two frames is on another device. -/
def State.podMove (s : State) (m : Migration) : Bool :=
  [m.oldFrame, m.newFrame].any fun f => match s.region f with | .pod _ _ => true | _ => false

/-- Starts the TFENCE of a cut-over over one page: at `.dev`, or at `.pod` when a frame is on another device (R109). -/
def State.cutFence (s : State) (m : Migration) (id ctx va : Nat) : State :=
  let cl := s.clustersIn 0 (if s.podMove m then 4 else 3)
  s.startFence { id := id, ctx := ctx, all := false, lo := va, hi := va + m.size, clusters := cl, scope := cl, hood := none }

/-- MIGRATE_CUTOVER (R437). -/
def State.traceCut (s : State) (ctx gen old new : Nat) : State := s.emit hubDie 214 0 ctx 0x10 gen (traceBody old new)

/-- The L1 lines of frames that move leave every core, whatever address they were read under: a line of another alias would be stale (R93,
R139). -/
def State.dropFrames (s : State) (m : Migration) : State :=
  let hits := fun (pa : Nat) => (m.oldFrame ≤ 128 * pa && 128 * pa < m.oldFrame + m.size) ||
    (m.swap.isSome && m.newFrame ≤ 128 * pa && 128 * pa < m.newFrame + m.size)
  s.l1Keep fun x => !hits x.pa

/-- CUT (R109, R115): its steps are one, since no access comes between them. -/
def State.cutOver (s : State) (m : Migration) : State :=
  let gen := (s.hub.gen + 1) % 2 ^ 32
  let tf := s.eng.nextTf
  let s := ((s.dropFrames m).modHub fun h => { h with gen := gen }).modEng fun e =>
    { e with nextTf := tf + 1, migs := e.migs.map fun x => if x.id = m.id then { x with cut := true, dirty := [], gen := gen, tf := tf } else x }
  match m.swap with
  | none =>
    let s := m.dirty.foldl (fun s l => s.moveLines (128 * l) (m.newFrame + (128 * l - m.oldFrame)) 128) s
    let s := ((s.recallFrame m.newFrame m.size).addStub m.ctxP m.vaP m.oldFrame m.newFrame m.size gen false).moveWatches
      (movedLine m.oldFrame m.newFrame m.size false)
    ((s.cutLeaf m.ptePa m.newFrame).cutFence m tf m.ctxP m.vaP).traceCut m.ctxP gen m.oldFrame m.newFrame
  | some (ctxQ, vaQ, pteQ) =>
    let s := s.modStore fun k => k.swapRange m.oldFrame m.newFrame m.size
    let s := (s.addStub m.ctxP m.vaP m.oldFrame m.newFrame m.size gen true).addStub ctxQ vaQ m.newFrame m.oldFrame m.size gen true
    let s := s.moveWatches (movedLine m.oldFrame m.newFrame m.size true)
    let s := (s.cutLeaf m.ptePa m.newFrame).cutLeaf pteQ m.oldFrame
    let s := (s.cutFence m tf m.ctxP m.vaP).cutFence m tf ctxQ vaQ
    (s.traceCut m.ctxP gen m.oldFrame m.newFrame).traceCut ctxQ gen m.newFrame m.oldFrame

/-- The storage that a migration's next copy pass or its cut-over writes: the new frame, of a swap both, and the leaf entries (R450). -/
def State.moveSpans (s : State) (m : Migration) : List (Nat × Nat) :=
  [(m.newFrame, m.size), (s.relayPa m.ptePa, 8)] ++ (m.swap.map fun q => [(m.oldFrame, m.size), (s.relayPa q.2.2, 8)]).getD []

/-- MIGRATION_COPY_PASS_DONE (R109): four passes in all; lines of a swap are exchanged at the cut. Neither goes on while the host holds a line
that it would write, or a write of the device's waits for the host (R450). -/
def execMigrationCopyPassDone (id : Nat) (s : State) : Host.Outcome State Fault Refusal :=
  match s.eng.migs.find? fun m => m.id = id && !m.cut with
  | none => .next s
  | some m =>
    if !s.hub.late.isEmpty || (s.moveSpans m).any fun x => !(s.hostLines x.1 x.2).isEmpty then
      .next ((s.moveSpans m).foldl (fun s x => s.askSpan x.1 x.2) s)
    else if !m.dirty.isEmpty && m.passes < 4 then
      let s := if m.swap.isSome then s else m.dirty.foldl (fun s l => s.moveLines (128 * l) (m.newFrame + (128 * l - m.oldFrame)) 128) s
      .next (s.modEng fun e => { e with migs := e.migs.map fun x => if x.id = id then { x with dirty := [], passes := x.passes + 1 } else x })
    else .next (s.cutOver m).settle

/-- Gives a MIGR its status, with an acquire at `.dev` (R401). -/
def State.answerMove (s : State) (m : Migration) (st : Nat) : State :=
  match m.requester with
  | none => s.say (.migStatus st)
  | some (core, slot) =>
    match s.warp? core slot with
    | none => s
    | some w =>
      match w.liveSlices.find? fun i => (w.slice i).wait = .migration m.id with
      | none => s
      | some i =>
        let h := (w.slice i).hood
        ((s.l1Flush core).modWarp core slot fun w =>
          ((w.putScalar (w.hoodLanes h) m.d false st).moveHood h (nextPc (w.slice i).pc)).countWindows h).tryEntry core slot

/-- MIGRATION_STUBBED (R109): the cut-over's TFENCE is complete. -/
def execMigrationStubbed (id : Nat) (s : State) : Host.Outcome State Fault Refusal :=
  match s.eng.migs.find? fun m => m.id = id && m.cut with
  | none => .next s
  | some m =>
    if s.eng.tfences.any fun t => t.id = m.tf then .next s
    else
      let mine := fun (t : Stub) => t.due = 0 && ((t.oldFrame = m.oldFrame && t.ctx = m.ctxP && t.swap = m.swap.isSome) ||
        m.swap.any fun q => t.oldFrame = m.newFrame && t.ctx = q.1 && t.swap)
      let s := s.modEng fun e =>
        { e with migs := e.migs.filter fun x => x.id ≠ id
                 stubs := e.stubs.map fun t => if mine t then { t with due := (s.die t.die).tick + 4096 } else t }
      .next (s.answerMove m migOk).sweep.settle

/-- Whether an issued access still waits, or a fill is on its way, under a translation to a frame (R113). -/
def State.frameUsed (s : State) (t : Stub) : Bool :=
  let hits := fun (k : Nat) => t.oldFrame ≤ k && k < t.oldFrame + t.size
  (s.caches.fills.any fun f => hits (128 * f.pa)) ||
    s.warps.any fun w => w.awaited.any fun p => hits p.at || p.from_.any fun f => hits f.1

/-- Whether no cluster of this device has a translation of a stub's page to its old frame, a drain record or an unanswered access (R113). -/
def State.stubClean (s : State) (t : Stub) : Bool :=
  t.relays = 0 &&
  !(s.caches.tlb.any fun e => e.frame < t.oldFrame + t.size && t.oldFrame < e.frame + e.size &&
      (!t.swap || (e.ctx = t.ctx && e.vpn * e.size % 2 ^ 57 / 2 ^ 16 = t.vpn))) &&
  !(s.caches.drains.any fun r => r.oldFrame = t.oldFrame) &&
  !(s.eng.pend.any fun o => !o.answered && (o.line :: o.old.toList).any fun l => t.oldFrame ≤ 128 * l && 128 * l < t.oldFrame + t.size) &&
  !(s.coh.outs.any fun o => t.oldFrame ≤ 128 * o.line && 128 * o.line < t.oldFrame + t.size) && !s.frameUsed t

/-- The other devices that an attempt asks, where the move was one over the pod (R434). -/
def State.reclaimPeers (s : State) (t : Stub) : List Nat := if t.pod then s.podPeers else []

/-- A failed attempt is made again 4,096 ticks later (R113). -/
def State.reclaimLater (s : State) (t : Stub) : State :=
  let later := fun (x : Stub) => if x.same t then { x with due := (s.die t.die).tick + 4096, asked := none } else x
  s.modEng fun e => { e with stubs := e.stubs.map later }

/-- A peer answers a reclamation message: it holds nothing of the old frame, or the attempt has failed (R113, R434). -/
def State.peerReclaimed (s : State) (peer id : Nat) (ok : Bool) : State :=
  match s.eng.stubs.find? fun t => t.gen = id && t.asked.any fun l => l.contains peer with
  | none => s
  | some t =>
    let said := fun (x : Stub) => if x.same t then { x with asked := x.asked.map fun l => l.filter (· ≠ peer) } else x
    if ok then s.modEng fun e => { e with stubs := e.stubs.map said } else s.reclaimLater t

/-- STUB_RECLAIM_ATTEMPT (R113): the clusters of this device must be clean and, of a move over the pod, every live peer must have acknowledged
(R434). -/
def execStubReclaimAttempt (die oldFrame : Nat) (s : State) : Host.Outcome State Fault Refusal :=
  match s.eng.stubs.find? fun t => t.die = die && t.oldFrame = oldFrame && t.due ≠ 0 && t.due ≤ (s.die die).tick with
  | none => .next s
  | some t =>
    if !s.stubClean t then .next (s.reclaimLater t)
    else
      let peers := t.asked.getD (s.reclaimPeers t)
      if peers.isEmpty then
        .next ((s.modEng fun e => { e with stubs := e.stubs.filter fun x => !(x.same t) }).emit hubDie 214 0 t.ctx 0x12 t.gen
          (traceBody t.oldFrame 0))
      else if t.asked.isSome then .next s
      else
        .next (peers.foldl (fun s p => s.say (.podReclaim p t.gen t.ctx t.oldFrame t.size))
          (s.modEng fun e => { e with stubs := e.stubs.map fun x => if x.same t then { x with asked := some peers } else x }))

/-! ## TFENCE (R99) -/

/-- Lets the hood of a completed TFENCE go on. -/
def State.endFence (s : State) (h : HoodRef) (id : Nat) : State :=
  match s.warp? h.core h.slot with
  | none => s
  | some w =>
    match w.liveSlices.find? fun i => (w.slice i).wait = .tfence id with
    | none => s
    | some i =>
      let k := (w.slice i).hood
      (s.modWarp h.core h.slot fun w => (w.moveHood k (nextPc (w.slice i).pc)).countWindows k).tryEntry h.core h.slot

/-- A cluster, or another device of the pod (`podCluster`), acknowledges a TFENCE; the last acknowledgement completes it: walks read the
entries of its range as they stand (R98), and what is parked on the range is retried (R102). -/
def State.acknowledge (s : State) (id cluster : Nat) : State :=
  let mine := s.eng.tfences.filter fun t => t.id = id
  let s := s.modEng fun e => { e with tfences := e.tfences.map fun t => if t.id = id then { t with clusters := t.clusters.filter (· ≠ cluster) } else t }
  if mine.isEmpty || (s.eng.tfences.any fun t => t.id = id && !t.clusters.isEmpty) then s
  else
    let s := s.modEng fun e => { e with tfences := e.tfences.filter fun t => t.id ≠ id }
    let s := mine.foldl (fun s t => (s.orderPtes t).retryRange t.ctx t.lo t.hi t.scope) s
    let s := mine.foldl (fun s t => match t.peer with | some p => s.say (.podAck p.1 2 p.2 true) | none => s) s
    mine.foldl (fun s t => match t.hood with | some h => s.endFence h id | none => s) s

/-- TFENCE_ACKNOWLEDGE (R99): a cluster invalidates, and acknowledges once what it issued under those entries has been accepted. -/
def execTfenceAcknowledge (id cluster : Nat) (s : State) : Host.Outcome State Fault Refusal :=
  let mine := s.eng.tfences.filter fun t => t.id = id
  if !mine.any (fun t => t.clusters.contains cluster) then .next s
  else
    let s := mine.foldl (fun s t => s.shootCluster cluster t.ctx t.lo t.hi) s
    if mine.any (fun t => s.accessing cluster t.ctx t.lo t.hi) then .next s else .next (s.acknowledge id cluster).sweep.settle

end Sys2Proof.Machine
end

