-- ==== Sys2Proof/Machine/Respond.lean ====
section
/-! DEFINITION. What comes about in the cores' caches and logs: fault responses (R102, R103), instruction-cache fills (R219), the register
scrub (R58), and the walks and fills of prefetches (R51, R52, R90, R96). -/

namespace Sys2Proof.Machine

open Sys2Proof

/-- FAULT_RESPONSE_RETRY (R102, R103). -/
def execFaultResponseRetry (w : Writer) (ctx batch : Nat) (s : State) : Host.Outcome State Fault Refusal :=
  if !s.mayWrite w then .next (s.refuse w) else .next (s.retryBatch ctx batch).sweep.settle

/-- FAIL of a copy's batch (R363): its spilled chunks, or the chunk at whose source it stopped, are lost. -/
def Copy.failed (c : Copy) (batch : Nat) : Copy :=
  let gone := c.spilled.filter fun x => x.batch = batch
  let stuck := if c.heldSrc && c.batch = batch then c.nextChunk.toList else []
  { c with spilled := c.spilled.filter fun x => x.batch ≠ batch
           lostChunks := c.lostChunks ++ gone.map Spill.chunk ++ stuck
           heldSrc := c.heldSrc && stuck.isEmpty }

/-- FAIL of a context's copies for a batch. -/
def State.failCopies (s : State) (ctx batch : Nat) : State :=
  (s.eng.copies.filter fun c => c.ctx = ctx).foldl (fun s c =>
    (s.freeSpill c (c.spilled.countP fun x => x.batch = batch)).modCopy c.id fun c => c.failed batch) s

/-- FAIL of a batch (R102, R363, R417): warps on the device enter handler mode; those that are saved when they resume, and those in
handler mode at their TRET (log entry 30). -/
def State.failBatch (s : State) (ctx batch : Nat) : State :=
  let s := s.failCopies ctx batch
  let s := s.modSched fun k => { k with gangs := k.gangs.map fun g =>
    if g.ctx = ctx && (g.status = .saved || s.warps.any fun w => w.gang = g.id && w.frameDone) then { g with failed := g.failed ++ [batch] } else g }
  s.warps.foldl (fun s w =>
    if w.ctx ≠ ctx || w.frameDone then s
    else
      let s := if w.handler then s.modWarp w.core w.slot fun w => { w with failed := w.failed ++ [batch] } else s
      s.failWarp w.core w.slot (· = batch)) s

/-- FAULT_RESPONSE_FAIL (R102, R103). -/
def execFaultResponseFail (w : Writer) (ctx batch : Nat) (s : State) : Host.Outcome State Fault Refusal :=
  if !s.mayWrite w then .next (s.refuse w) else .next (s.failBatch ctx batch).sweep.settle

/-- ICACHE_FILL (R219): a line is filled; the bits in which the line and its refetched copy differ from memory are the event's. One that must
wait has no effect yet (R112, R150, R450). -/
def execIcacheFill (core ctx lineVa : Nat) (flip1 flip2 : BitVec 512) (s : State) : Host.Outcome State Fault Refusal :=
  match if s.draining (clusterOfCore core) ctx (64 * lineVa) then (none, true) else s.lineHeld core ctx (64 * lineVa) .exec with
  | (some l, _) => .next (s.askBack l)
  | (none, true) => .next s
  | (none, false) =>
  match s.translate (clusterOfCore core) ctx (64 * lineVa) .exec with
  | (s, .error _) => .next s
  | (s, .ok x) =>
    let (s, pa) := s.relay (clusterOfCore core) ctx (64 * lineVa) x.pa
    let d := BitVec.ofNat 512 (s.store.read pa 64)
    .next ((s.touch (dieOfCore core) (pa / 128) 0 .read).icacheFill core ctx lineVa (d ^^^ flip1) (d ^^^ flip2)).1

/-- The scrub reads a warp's words: it corrects and counts what it can, and else the context is lost (R58). -/
def State.scrubWarp (s : State) (core slot : Nat) : State :=
  match s.warp? core slot with
  | none => s
  | some w => (s.checkWords core slot fun _ => true).getD (s.lose w.ctx core slot 0x02)

/-- REGISTER_SCRUB (R58): the errors that have struck the warps of a core, and one that the event itself brings. -/
def execRegisterScrub (core : Nat) (err : Option RegisterError) (s : State) : Host.Outcome State Fault Refusal :=
  let s := match err with
    | some (.uncorrectable slot) => (match s.warp? core slot with | some w => s.lose w.ctx core slot 0x02 | none => s)
    | some .corrected => s.countSoft (dieOfCore core) 1
    | _ => s
  .next ((s.warps.filter fun w => w.core = core).foldl (fun s w => s.scrubWarp core w.slot) s).sweep.settle

/-- A prefetch whose walk has ended asks for its line; one that faults is dropped (R96, R328). -/
def State.walked (s : State) (cluster ctx : Nat) (w : MissWait) : State :=
  match s.translate cluster ctx (128 * w.line) .read with
  | (s, .error _) => s
  | (s, .ok x) => (s.useAlias cluster ctx (128 * w.line) x).askFill w.core ctx w.line x w.prio

/-- PAGE_WALK (R4, R90, R96): one of the walks that a cluster's walker performs ends, for all that waits for it; which of them ends first
is free (log entry 1). -/
def execPageWalk (cluster : Nat) (s : State) : Host.Outcome State Fault Refusal :=
  let mine := (s.caches.misses.filter fun m => m.cluster = cluster && !s.draining cluster m.ctx (2 ^ 16 * m.page)).take Config.concurrentWalks
  match mine[Config.pick s.free (2 ^ 41 + cluster) % mine.length]? with
  | none => .next s
  | some m =>
    match s.leafHeld cluster m.ctx (2 ^ 16 * m.page) .read with
    | some l => .next (s.askBack l)
    | none =>
    let s := (s.modCaches fun c => { c with misses := c.misses.erase m }).bump
    .next ((m.waits.foldl (fun s w => s.walked cluster m.ctx w) s).retryAgain).settle

/-- FILL_RETURN (R51, R52): a fill returns with the line as it stands, from where it has moved to meanwhile (R111, R139), and is installed
with its poison (R59) unless an invalidation has overtaken it; L2 takes it under `.na` too (R328). It waits at the line's home as any access
does (R145, R150, R446, R450). -/
def execFillReturn (idx : Nat) (s : State) : Host.Outcome State Fault Refusal :=
  match s.caches.fills[idx]? with
  | none => .next s
  | some f =>
    let at_ := ((s.stubFor (128 * f.pa) f.ctx (128 * f.va)).elim (128 * f.pa) fun t => t.newFrame + (128 * f.pa - t.oldFrame)) / 128
    if s.relayWaits f.ctx (128 * f.va) (128 * f.pa) then .next (s.noteRelayHold f.ctx (128 * f.va) (128 * f.pa))
    else if s.lineBusy at_ || (s.lineQueued at_ && !s.servedHere (dieOfCore f.core) at_ .read) then .next s
    else if f.toL2 && s.hostBlocks (dieOfCore f.core) at_ .read then .next (s.askBack at_) else
    let s := s.modCaches fun c => { c with fills := c.fills.eraseIdx idx }
    let (s, pa) := s.relay (clusterOfCore f.core) f.ctx (128 * f.va) (128 * f.pa)
    let l := pa / 128
    let s := if f.toL2 then s.touch (dieOfCore f.core) l (if f.prio = 3 && (s.l2? (dieOfCore f.core) l).isNone then 0 else f.prio) .read else s
    if f.toL1 && !f.cancelled then
      .next (s.l1Fill { core := f.core, ctx := f.ctx, va := f.va, pa := l, data := s.store.line l, tag := s.store.tag l,
                        poison := s.store.linePoison l } f.prio)
    else .next s

end Sys2Proof.Machine
end

