-- ==== Sys2Proof/Machine/Launch.lean ====
section
/-! DEFINITION. Launches and command queues (R188 to R199), the event registers (R191) and the triggers on their way (R206, R212, R214). -/

namespace Sys2Proof.Machine

open Sys2Proof

/-! ## What the command processors read -/

/-- Reads `n` bytes at a context's virtual address for a command processor; what stands outside the device is free
(`Config.outsideByte`). None on a fault or on poison. -/
def State.hubRead (s : State) (ctx va n : Nat) : Option Nat :=
  match s.deviceRead ctx va n with
  | some v => some v
  | none =>
    match s.translateBare ctx va .read with
    | .error _ => none
    | .ok (x, _) =>
      let outside := (List.range n).foldl (fun a i => a + (Config.outsideByte (s.free * 2 ^ 64 + x.pa + i)).toNat * 256 ^ i) 0
      match s.region x.pa with
      | .host => some outside
      | .pod t _ => if !s.hub.podIdv || t = s.hub.podDevid || (t < 192 && s.hub.deadPeers.getLsbD t) then none else some outside
      | _ => none

/-! ## The launch record (R188, R190) -/

/-- Subcode 0x02. -/
def launchReserved (v : Nat) : Bool :=
  shapeReserved (launchShape v) || launchFlags v / 2 ^ 6 % 4 ≠ 0 || launchFlags v / 2 ^ 14 ≠ 0 ||
    natBits v (8 * 0x28) 64 ≠ 0 || natBits v (8 * 0x90) 896 ≠ 0

/-- Subcode 0x06. -/
def launchGridBad (v : Nat) : Bool :=
  launchBlocks v = 0 || 2 ^ 32 ≤ launchBlocks v || launchBlocks v % shapeGang (launchShape v) ≠ 0

/-- Whether the sub-grids of DIESPLIT, taken in order of FIRST, follow one another from block 0 to the last. -/
def splitCovers (v : Nat) : Bool :=
  let parts := ((List.range 4).filter fun d => launchCount v d ≠ 0).map fun d => (launchFirst v d, launchCount v d)
  let sorted := parts.insertionSort fun a b => a.1 ≤ b.1
  sorted.foldl (fun (a : Option Nat) p => a.bind fun e => if p.1 = e then some (e + p.2) else none) (some 0) = some (launchBlocks v)

/-- Subcode 0x07. -/
def State.splitBad (s : State) (v : Nat) : Bool :=
  let g := shapeGang (launchShape v)
  !splitCovers v ||
    (List.range 4).any fun d => launchFirst v d % g ≠ 0 || launchCount v d % g ≠ 0 || (launchCount v d ≠ 0 && !s.present d)

/-- Blocks of one shape that an empty core takes (R200). -/
def emptyCoreBlocks (shape : Word) (scratch : Nat) : Nat :=
  let byWarps := 4 * min 8 (1024 / shapeVrc shape) / shapeWarps shape
  let n := min 8 byWarps
  if scratch = 0 then n else min n (Config.scratchBytes / scratch)

/-- Subcode 0x08: the launch cannot be co-resident on empty cores, or its context has too few slots or too small a phase pool for it
(R199, R200, R409). -/
def Context.coopBad (c : Context) (v : Nat) : Bool :=
  let shape := launchShape v
  let warps := launchBlocks v * shapeWarps shape
  c.wslots < warps || c.bslots < launchBlocks v || (c.lpSize ≠ 0 && c.lpSlots < warps) ||
    (List.range 4).any fun d =>
      Config.coresPerDie * emptyCoreBlocks shape (launchScratch v) < launchCount v d ||
        (launchPhased v && c.poolSize.getD d 0 * 0x10000 < launchCount v d / shapeGang shape * largestRecord shape (launchScratch v))

/-- The checks of R190 on a record's copy: the first that fails gives the subcode. -/
def State.launchFault (s : State) (c : Context) (v : Nat) : Option Nat :=
  if launchReserved v then some 0x02
  else if natBits v 0 6 ≠ 0 then some 0x03
  else if shapeBad (launchShape v) then some 0x04
  else if scratchBad (launchScratch v) then some 0x05
  else if launchGridBad v then some 0x06
  else if s.splitBad v then some 0x07
  else if launchCoop v && c.coopBad v then some 0x08
  else if !launchPhased v && launchSq v ≠ 0 then some 0x09
  else none

/-! ## Command queues (R194 to R197) -/

/-- LAUNCH_INVALID (R190, R196). -/
def State.launchInvalid (s : State) (ctx idx sub va : Nat) : State :=
  s.writeBatch ctx (.queue idx) [{ code := 0x25, sub := sub, va := BitVec.ofNat 64 va }]

/-- Counts a rejected entry (R196, step 2). -/
def State.rejectEntry (s : State) (ctx : Nat) (q : CmdQueue) (sub va : Nat) : State :=
  let head := (q.head + 1) % 2 ^ 32
  let rej := (q.rejected + 1) % 2 ^ 32
  let s := s.modQueue ctx q.idx fun q => { q with head := head, rejected := rej }
  ((s.putHeader ctx q 0x18 rej).putHeader ctx q 0x10 head).launchInvalid ctx q.idx sub va

/-- Reads and checks one entry (R190, R196): its record held, and admitted at once if nothing holds it (R192), or the entry rejected. -/
def State.takeEntry (s : State) (c : Context) (q : CmdQueue) (base size : Nat) : State :=
  let ent := (base + 8 * (q.head % size)) % 2 ^ 64
  match s.hubRead c.id ent 8 with
  | none => s.rejectEntry c.id q 0x01 ent
  | some va =>
    let s := s.markPages c.id ent 8 false
    if va % 256 ≠ 0 then s.rejectEntry c.id q 0x01 va
    else match s.hubRead c.id va 256 with
      | none => s.rejectEntry c.id q 0x01 va
      | some v =>
        let s := s.markPages c.id va 256 false
        match s.launchFault c v with
        | some sub => s.rejectEntry c.id q sub va
        | none => (s.modQueue c.id q.idx fun q => { q with held := some { va := va, data := BitVec.ofNat 2048 v } }).tryAdmit c.id q.idx

/-- Takes entries until one is held or none is left (R196). -/
def State.takeEntries (s : State) (ctx idx base size : Nat) : Nat → State
  | 0 => s
  | n + 1 =>
    match s.ctx? ctx, s.queue? ctx idx with
    | some c, some q => if q.held.isSome then s else (s.takeEntry c q base size).takeEntries ctx idx base size n
    | _, _ => s

/-- Whether a queue's fired command processor has work. -/
def Context.fires (c : Context) (q : CmdQueue) : Bool := q.fired && !q.stopped && q.held.isNone && !c.killed

/-- The queue served next (R197): contexts in turn from the one after the last served, a context's queues by ascending index;
one turn serves one queue (log entry 66). -/
def State.nextQueue (s : State) : Option (Nat × Nat) :=
  let all := s.contexts.flatMap fun c => (c.queues.filter c.fires).map fun q => (c.id, q.idx)
  let turn := fun (x : Nat × Nat) => [(x.1 + 2 ^ 16 - (s.hub.rrCtx + 1) % 2 ^ 16) % 2 ^ 16, x.2]
  all.foldl (fun b x => match b with | some y => if keyLess (turn x) (turn y) then some x else b | none => some x) none

/-- COMMAND_PROCESSOR_FIRE (R196, R197). A header that cannot be read ends the firing with no effect (log entry 65). -/
def execCommandProcessorFire (ctx queue : Nat) (s : State) : Host.Outcome State Fault Refusal :=
  if s.nextQueue ≠ some (ctx, queue) then .next s
  else match s.queue? ctx queue with
    | none => .next s
    | some q =>
      let s := ((s.modHub fun h => { h with rrCtx := ctx }).modQueue ctx queue fun q => { q with fired := false }).bump
      match s.deviceRead ctx q.hdr 128 with
      | none => .next s
      | some h =>
        let s := s.markPages ctx q.hdr 128 false
        let size := natBits h 64 32
        let n := ctrSub (natBits h 512 32) q.head
        if n = 0 then .next s
        else if size < n then
          let s := (s.modQueue ctx queue fun q => { q with stopped := true }).putHeader ctx q 0x0C (1 + 0x0A * 256)
          .next (s.launchInvalid ctx queue 0x0A q.hdr).settle
        else .next (s.takeEntries ctx queue (natBits h 0 64) size n).sweep.settle

/-- QUEUE_REGISTER (R195): a header that is not in HBM4E behind a NORMAL page registers nothing. The hub's counts start from the header's words,
and STATUS is cleared where the queue was stopped (log entry 64). -/
def State.registerQueue (s : State) (ctx idx hdr : Nat) : State :=
  match s.ctx? ctx, s.translateBare ctx hdr .read with
  | some c, .ok (x, _) =>
    match s.region (s.relayPa x.pa) with
    | .hbm home =>
      if 8 ≤ idx || hdr % 128 ≠ 0 || c.killed then s
      else
        let tail := hdr + 0x40
        let s := s.modSched fun k => { k with watches := k.watches.filter fun w => !(w.ctx = ctx && w.queue = some idx) }
        let s := (s.queue? ctx idx).elim s fun q => s.dropFields (128 * q.tailPa) 128
        if Config.watchEntries ≤ s.watchesOn home then
          let s := s.modCtx ctx fun c => { c with queues := c.queues.filter fun q => q.idx ≠ idx }
          s.writeBatch ctx (.agent home (144 + sliceOf (s.relayPa x.pa / 128))) [{ code := 0x31, sub := 0x01, va := BitVec.ofNat 64 tail }]
        else
          let s := s.markPages ctx hdr 128 false
          let l := s.relayPa x.pa / 128
          let rd := fun (o : Nat) => (s.deviceRead ctx (hdr + o) 4).getD 0
          let q : CmdQueue := { idx := idx, hdr := hdr, tailPa := l, head := rd 0x10, retired := rd 0x14, rejected := rd 0x18 }
          let was := (s.queue? ctx idx).any CmdQueue.stopped
          let s := s.modCtx ctx fun c => { c with queues := c.queues.filter (fun q => q.idx ≠ idx) ++ [q] }
          let s := s.noteFields ([(0x0C, rd 0x0C), (0x10, q.head), (0x14, q.retired), (0x18, q.rejected)].map fun x => q.field ctx x.1 x.2)
          let s := if was then s.putHeader ctx q 0x0C 0 else s
          s.installWatch { ctx := ctx, id := 4096 + idx, lines := [(hdr / 128, l)], home := home, queue := some idx }
    | _ => s
  | _, _ => s

/-- QUEUE_REGISTER (R195). -/
def execQueueRegister (w : Writer) (ctx idx hdr : Nat) (s : State) : Host.Outcome State Fault Refusal :=
  if !s.mayWrite w then .next (s.refuse w) else .next (s.registerQueue ctx idx hdr).settle

/-! ## Admission (R192, R196, R198, R199) -/

/-- LAUNCH_ADMIT (R192, R196, R415, R446): a head launch that something else than its WAIT bits has held is looked at again. -/
def execLaunchAdmit (ctx queue : Nat) (s : State) : Host.Outcome State Fault Refusal := .next (s.tryAdmit ctx queue).sweep.settle

/-! ## Retirement (R193) -/

/-- Whether a launch still has a gang, a record that is queued, or a pod write that its target has not acknowledged (R126, R141). -/
def State.launchAlive (s : State) (l : Launch) : Bool :=
  (s.eng.pend.any fun o => o.write && o.launch = some l.id) || (s.sched.gangs.any fun g => g.launch = some l.id) || s.sched.queued.any fun r => r.launch = some l.id

/-- LAUNCH_RETIRE (R193, R451). -/
def execLaunchRetire (id : Nat) (s : State) : Host.Outcome State Fault Refusal :=
  match s.sched.launches.find? fun l => l.id = id with
  | none => .next s
  | some l =>
    if s.launchAlive l then .next s
    else
      let s := s.modSched fun k => { k with launches := k.launches.filter fun x => x.id ≠ id }
      let s := s.modCtx l.ctx fun c => { c with events := c.events ||| l.set }
      let s :=
        match s.ctx? l.ctx, s.queue? l.ctx l.queue with
        | some c, some q =>
          let n := (q.retired + 1) % 2 ^ 32
          let s := (s.modQueue l.ctx l.queue fun q => { q with retired := n }).putHeader l.ctx q 0x14 n
          if c.irqen then s.say (.msi (8 + c.slot)) else s
        | _, _ => s
      .next ((s.emit hubDie 215 l.queue l.ctx 0x02 id none l.lossless).admitHeads l.ctx).sweep.settle

/-! ## Event registers (R191) -/

/-- EVENT_SET_REGISTER (R191). -/
def execEventSetRegister (w : Writer) (ctx : Nat) (mask : BitVec 256) (s : State) : Host.Outcome State Fault Refusal :=
  if !s.mayWrite w then .next (s.refuse w) else .next (s.changeEvents ctx (· ||| mask)).sweep.settle

/-- EVENT_CLEAR_REGISTER (R191). -/
def execEventClearRegister (w : Writer) (ctx : Nat) (mask : BitVec 256) (s : State) : Host.Outcome State Fault Refusal :=
  if !s.mayWrite w then .next (s.refuse w) else .next (s.changeEvents ctx (· &&& ~~~mask)).sweep.settle

/-! ## Triggers (R206, R212, R214) -/

/-- A trigger record is queued at its target and takes 64 bytes of the pool (R206). -/
def State.queueTrigger (s : State) (r : PhaseRec) : State :=
  let q := { r with pool := headerRecord, poolAt := s.poolTake r.ctx r.die headerRecord, passedAt := none, order := s.sched.nextOrder }
  let s := (s.layRecord q).modSched fun k => { k with
    triggers := k.triggers.filter fun x => x.order ≠ r.order
    queued := k.queued ++ [q], nextOrder := k.nextOrder + 1 }
  match r.watch with
  | some x => s.modWatch r.ctx x.1 x.2 fun w => { w with sent := true }
  | none => s

/-- Whether lossless trace holds back the note of a trigger at the home slices of its watch (R446). -/
def State.noteHeld (s : State) (r : PhaseRec) : Bool :=
  r.watch.any fun x => s.sched.watches.any fun w => w.is r.ctx x.1 x.2 && s.traceHeld w.home r.ctx 0x07 true

/-- Notes that hold (R447). -/
def State.noteTrigHold (s : State) (r : PhaseRec) : State :=
  (r.watch.elim [] fun x => s.sched.watches.filter fun w => w.is r.ctx x.1 x.2).foldl (fun s w => s.noteHeldAt w.home r.ctx 0x07 true) s

/-- TRIGNOTE (R212): the oldest note on its way to a die arrives; with the pool full its record waits at the home slice. -/
def execTrignote (die : Nat) (s : State) : Host.Outcome State Fault Refusal :=
  match s.sched.triggers.find? fun r => r.die = die && r.passedAt.isNone with
  | none => .next s
  | some r =>
    if s.noteHeld r then .next (s.noteTrigHold r)
    else if s.poolRoom r.ctx die headerRecord then .next (s.queueTrigger r)
    else .next (s.modSched fun k => { k with triggers := k.triggers.map fun x =>
      if x.order = r.order then { x with passedAt := some (s.die die).clock } else x })

/-- TRIGGER_POOL_RELEASE (R212). -/
def execTriggerPoolRelease (die : Nat) (s : State) : Host.Outcome State Fault Refusal :=
  match s.sched.triggers.find? fun r => r.die = die && r.passedAt.isSome && s.poolRoom r.ctx die headerRecord with
  | none => .next s
  | some r => .next (s.queueTrigger r)

/-- Starts the budget window that the time base has reached (R214). -/
def State.rollWindow (s : State) : State :=
  let now := s.hub.ns / 1000000
  if now = s.sched.windowStart then s
  else s.modSched fun k => { k with windowStart := now, watches := k.watches.map fun w => { w with window := 0 } }

/-- TRIGGER_WINDOW_ROLLOVER (R214). -/
def execTriggerWindowRollover (s : State) : Host.Outcome State Fault Refusal := .next s.rollWindow

end Sys2Proof.Machine
end

