-- ==== Sys2Proof/Machine/Matrix.lean ====
section
/-! DEFINITION. Matrix instructions (R373 to R386): MSHAPE, MMA, DMMA, MMAW, MZERO, MFENCE, and the unit's start and completion of a
product. -/

namespace Sys2Proof.Machine

open Sys2Proof

/-! ## MSHAPE -/

/-- MSHAPE (R375). -/
def Issue.mshape (c : Issue) (f : FormA) : Res :=
  let v := BitVec.ofNat 64 (c.scalar f.s1 true 2)
  if v &&& ~~~mshapeMask ≠ 0 then c.badHood (0x03, 0x10) else c.done fun w => { w with mshape := v }

/-! ## The checks of MMA and DMMA (R379) -/

/-- The greatest K of a type (R373). -/
def kLimit (ty : Nat) : Nat := if isHalf ty then 256 else if ty = 0x10 then 1024 else 512

/-- The product that an MMA or DMMA describes, before it is accepted. -/
def Issue.product (c : Issue) (f : FormX) (double : Bool) : Product :=
  let sh := c.w.mshape
  let opt := fun (x : BitVec 10) (d : Nat) => if x = 0x1FF then d else c.scalar x false 1
  let e := if shAty sh = 9 then 8 else 4
  let row := (shK sh * e + 15) / 16 * 16
  { core := c.w.core, slot := c.w.slot, gang := c.w.gang, number := 0, double := double, acc := f.xf.getLsbD 13, mshape := sh
    d := regNum f.d
    a := if double then c.scalar f.s1 false 1 else regNum f.s1
    b := c.scalar f.s2 false 1
    sa := if double then opt f.s3 row else 0
    sb := if double then opt f.s4 row else opt f.s3 (colBytes (shBty sh) (shK sh))
    rows := c.act &&& BitVec.ofNat 96 (2 ^ shM sh - 1)
    lossless := (c.s.gang? c.w.gang).any Gang.lossless }

/-- Whether the pair of types is allowed. -/
def Product.typesOk (p : Product) : Bool :=
  let a := shAty p.mshape
  let b := shBty p.mshape
  let mx := fun (t : Nat) => 0x0C ≤ t && t ≤ 0x10
  if p.double then a = b && (a = 8 || a = 9) else (mx a && mx b) || (a = b && isHalf a)

/-- The first check of R379 that fails. -/
def Product.fault? (p : Product) (vrc scratch : Nat) : Option Cause :=
  let m := shM p.mshape
  let n := shN p.mshape
  let k := shK p.mshape
  let unit := if p.double then 16 else 128
  let width := if p.double then k * p.elem else colBytes (shBty p.mshape) k
  let ra : Bool := p.double && 0 < m && 0 < k
  let rb : Bool := 0 < n && 0 < k
  if !p.typesOk then some (0x24, 0x01)
  else if 96 < m || (if p.pair then 32 else 64) < n then some (0x24, 0x02)
  else if k % (if p.double then 8 else 32) ≠ 0 || (if p.double then 256 else min (kLimit (shAty p.mshape)) (kLimit (shBty p.mshape))) < k then
    some (0x24, 0x03)
  else if (p.aSpan ++ p.dSpan).any (fun r => vrc ≤ r) || p.aSpan.any p.dSpan.contains || (p.pair && !p.dSpan.isEmpty && p.d % 2 = 1) then
    some (0x24, 0x04)
  else if (ra && (p.sa % unit ≠ 0 || p.sa < width)) || (rb && (p.sb % unit ≠ 0 || p.sb < width)) then some (0x24, 0x05)
  else if (ra && p.a % unit ≠ 0) || (rb && p.b % unit ≠ 0) then some (0x13, 0x04)
  else if (ra && scratch < p.a + (m - 1) * p.sa + width) || (rb && scratch < p.b + (n - 1) * p.sb + width) then some (0x15, 0x02)
  else none

/-- Products of a core, and of a warp, that have not completed. -/
def State.openProducts (s : State) (core : Nat) (slot : Option Nat) : List Product :=
  s.eng.products.filter fun p => p.core = core && slot.all (· = p.slot) && !p.done

/-- Counts a product of a core: its number, and the counter gone on (R437). -/
def State.countProduct (s : State) (core : Nat) : Nat × State :=
  let n := ((s.eng.counts.find? fun x => x.core = core).map CoreCount.products).getD 0
  let next := fun (x : CoreCount) => { x with products := (n + 1) % 2 ^ 16 }
  let l := s.eng.counts
  let l := if l.any fun x => x.core = core then l.map fun x => if x.core = core then next x else x else next { core := core } :: l
  (n, s.modEng fun e => { e with counts := l })

/-- MMA_ISSUE and MMA_DONE (R437). -/
def State.traceProduct (s : State) (p : Product) (ctx code : Nat) : State :=
  s.emit (dieOfCore p.core) (p.core % Config.coresPerDie) 9 ctx code (p.number + p.slot * 2 ^ 16) none p.lossless

/-- MMA and DMMA (R379, R382): the unit accepts the product, or the warp waits while it is full. -/
def Issue.matrix (c : Issue) (f : FormX) (double : Bool) : Res :=
  let p := c.product f double
  match p.fault? c.w.vrc (((c.s.blockOf? c.w).map Block.scratch).getD 0) with
  | some x => c.badHood x
  | none =>
    if 16 ≤ (c.s.openProducts p.core none).length || 8 ≤ (c.s.openProducts p.core (some p.slot)).length then .stall
    else
      let (n, s) := c.s.countProduct p.core
      let p := { p with number := n, at_ := c.s.free, fences := (List.range 24).map fun i => (c.w.slice i).fence
                        fence := c.w.liveSlices.foldl (fun a i => min a (c.w.slice i).fence) (c.s.free + 1) }
      .next ((s.modEng fun e => { e with products := e.products ++ [p] }).traceProduct p c.w.ctx 0x0B)

/-! ## The unit -/

/-- Whether a product must wait for an earlier one of its warp (R382). -/
def Product.waitsFor (p : Product) (q : Product) : Bool :=
  q.slot = p.slot && (p.aSpan ++ p.dSpan).any q.dSpan.contains

/-- MMA_START (R382): the oldest product that has not started finds its accumulators. -/
def execMmaStart (core : Nat) (s : State) : Host.Outcome State Fault Refusal :=
  let open_ := s.openProducts core none
  match open_.find? fun p => !p.started with
  | none => .next s
  | some p =>
    let w? := s.warp? p.core p.slot
    let ctx := (w?.map Warp.ctx).getD 0
    if open_.any fun q => q.started && p.waitsFor q then .next s
    else if s.traceHeld (dieOfCore core) ctx 0x0B p.lossless then .next (s.noteHold (dieOfCore core) ctx 0x0B 1)
    else if s.traceHeld (dieOfCore core) ctx 0x0C p.lossless then .next (s.noteHold (dieOfCore core) ctx 0x0C 1)
    else
      let regs := match w? with | some w => p.dSpan.map fun r => (r, p.found w r, (0 : KReg)) | none => []
      .next (s.modEng fun e => { e with products := e.products.map fun q =>
        if q.core = core && q.slot = p.slot && q.number = p.number && !q.done then { q with started := true, regs := regs } else q })

/-- What element (i, n) of D ends as, with its flags: the product's result; where the warp has written the values `ws` since the product was
accepted, that result, one of them, or what the steps after any number of them make of one (R380, R386). The flags are those of every step
that the unit performs. -/
def Product.result (p : Product) (free : Nat) (ws : List Nat) (i n : Nat) : FRes :=
  let k := Config.pick free (40000 + 96 * n + i) % (1 + ws.length * (p.steps + 2))
  if k = 0 then p.run i n (p.acc0 i n) 0 p.steps
  else
    let x := ws.getD ((k - 1) / (p.steps + 2)) 0
    let j := (k - 1) % (p.steps + 2)
    if j = 0 then (x, (p.run i n (p.acc0 i n) 0 p.steps).2)
    else
      let r := p.run i n x (j - 1) (p.steps - (j - 1))
      (r.1, (p.run i n (p.acc0 i n) 0 (j - 1)).2 ||| r.2)

/-- MMA_COMPLETE (R380 to R382): the oldest product of a core completes, when it has started. When poison has reached an element, the
record of its MMAW names every computed row. -/
def execMmaComplete (core : Nat) (s : State) : Host.Outcome State Fault Refusal :=
  match (s.openProducts core none).head? with
  | none => .next s
  | some p =>
    match s.warp? p.core p.slot with
    | none => .next s
    | some w =>
      if !p.started then .next s
      else
        let q := s.readProduct p w
        let rows := LaneMask.lanes p.rows
        let tab := (List.range (if q.dSpan.isEmpty then 0 else shN p.mshape)).map fun n => rows.map fun i => (i, q.result s.free (q.writes w i n) i n)
        let el := fun (i n : Nat) => ((tab.getD n []).lookup i).getD (0, 0)
        let flags := tab.foldl (fun a l => l.foldl (fun a x => a ||| x.2.2) a) 0
        let bad := rows.any fun i => (List.range (shN p.mshape)).any fun n => q.poisoned i n
        let s := s.modWarp p.core p.slot fun w =>
          Warp.notePast w (q.putD w fun i n => (el i n).1) s.free p.rows (p.dSpan.map fun r => (.v, r)) true
        let s := s.modEng fun e => { e with products := e.products.map fun x =>
          if x.core = core && x.slot = p.slot && x.number = p.number && !x.done then
            { x with done := true, regs := [], lines := [], flags := flags, poison := if bad then p.rows else 0 } else x }
        .next ((s.bump.traceProduct p w.ctx 0x0C).tryEntry p.core p.slot).sweep.settle

/-! ## MMAW -/

/-- Reports the completed products of a warp: their flags, and the rows that poison reached; they are accounted for (R383). -/
def State.reportProducts (s : State) (core slot : Nat) : State × LaneMask :=
  let mine := s.eng.products.filter fun p => p.core = core && p.slot = slot && p.done
  let s := s.modEng fun e => { e with products := e.products.filter fun p => !(p.core = core && p.slot = slot && p.done) }
  (s.modWarp core slot fun w => w.orFlags (mine.foldl (fun a p => a ||| p.flags) 0), mine.foldl (fun a p => a ||| p.poison) 0)

/-- MMAW (R380, R383). -/
def Issue.mmaw (c : Issue) (f : FormA) : Res :=
  let n := c.scalar f.s1 false 1
  if 7 < n then c.badHood (0x03, 0x10)
  else if n < (c.s.openProducts c.w.core (some c.w.slot)).length then
    .hold (c.put fun w => (w.mapSlices fun _ sl => if sl.live then { sl with wait := .products n } else sl).closeWindows)
  else
    let (s, bad) := c.s.reportProducts c.w.core c.w.slot
    if bad = 0 then .next s else .fault s [c.record (0x17, 0x03) bad]

/-- MMAW_RETURN (R383). -/
def execMmawReturn (core slot : Nat) (s : State) : Host.Outcome State Fault Refusal :=
  match s.warp? core slot with
  | none => .next s
  | some w =>
    let sl := w.slice (keyOf w.liveSlices)
    match sl.wait with
    | .products n =>
      if n < (s.openProducts core (some slot)).length then .next s
      else
        let (s, bad) := s.reportProducts core slot
        if bad = 0 then
          .next (s.modWarp core slot fun w => w.mapSlices fun _ sl =>
            match sl.wait with | .products _ => if sl.live then { sl with pc := nextPc sl.pc, wait := .run } else sl | _ => sl)
        else
          .next ((s.modWarp core slot fun w => w.mapSlices fun _ sl =>
            match sl.wait with | .products _ => { sl with wait := .run } | _ => sl).raiseRecs core slot
              [{ code := 0x17, sub := 0x03, lanes := bad, pc := sl.pc }] sl.pc).settle
    | _ => .next s

/-! ## MZERO and MFENCE -/

/-- MZERO (R385). -/
def Issue.mzero (c : Issue) (f : FormA) : Res :=
  let wide : Bool := f.ty = 9
  let lim := if wide then 32 else 64
  let v := c.scalar f.s1 false 1
  let n := (if v = 0 then lim else v) * if wide then 2 else 1
  let group := (List.range n).map (regNum f.d + ·)
  if c.idle then .next c.s
  else if lim < v then c.badHood (0x03, 0x10)
  else if c.w.vrc < regNum f.d + n then c.badHood (0x03, 0x01)
  else if (c.s.openProducts c.w.core (some c.w.slot)).any fun p => p.dSpan.any group.contains then .stall
  else c.done fun w => group.foldl (fun w r => w.setV r c.act fun _ => 0) w

/-- MFENCE (R384): the hood goes on once nothing that it issued is parked; what it has written is ordered before every later product (R136,
log entry 53). -/
def Issue.mfence (c : Issue) : Res :=
  if c.w.parked.any fun x => x.2.lanes &&& c.lanes ≠ 0 then .stall
  else c.done fun w =>
    let w := (w.closeHoodWindows c.hood).fenced (fun i => (w.slice i).live && (w.slice i).hood = c.hood) (c.s.free + 1)
    if (c.s.openProducts w.core (some w.slot)).isEmpty then w.prunePast else w

/-- MSHAPE (R375). -/
def execMshape (f : FormA) (s : State) : Host.Outcome State Fault Refusal := issue 0x140 (.a f) s fun c => c.collective fun c => c.mshape f
/-- MMA (R379, R380). -/
def execMma (f : FormX) (s : State) : Host.Outcome State Fault Refusal := issue 0x141 (.x f) s fun c => c.collective fun c => c.matrix f false
/-- DMMA (R379, R381). -/
def execDmma (f : FormX) (s : State) : Host.Outcome State Fault Refusal := issue 0x144 (.x f) s fun c => c.collective fun c => c.matrix f true
/-- MMAW (R383). -/
def execMmaw (f : FormA) (s : State) : Host.Outcome State Fault Refusal := issue 0x142 (.a f) s fun c => c.collective fun c => c.mmaw f
/-- MZERO (R385). -/
def execMzero (f : FormA) (s : State) : Host.Outcome State Fault Refusal := issue 0x143 (.a f) s fun c => c.mzero f
/-- MFENCE (R384). -/
def execMfence (f : FormA) (s : State) : Host.Outcome State Fault Refusal := issue 0x145 (.a f) s fun c => c.mfence

end Sys2Proof.Machine
end

