-- ==== Sys2Proof/Machine/Preempt.lean ====
section
/-! DEFINITION. Pre-emption and kill (R216, R414 to R417, R419): writes of PREEMPT, and the saving of a gang that stops at an instruction
boundary. -/

namespace Sys2Proof.Machine

open Sys2Proof

/-! ## PREEMPT (R415) -/

/-- What a GO does to a gang: at an instruction boundary every hood stops; at a phase boundary the gang stops at its next PHASE, as
does one whose warps have all arrived there (R216). -/
def State.stopGang (s : State) (id : Nat) (kind : Bool) : State :=
  match s.gang? id with
  | none => s
  | some g =>
    if kind && !s.phaseArrived g then
      let s := s.modGang id fun g => { g with status := .stopping, phaseStop := false }
      { s with warps := s.warps.map fun w => if w.gang = id then { w with stopping := true } else w }
    else s.modGang id fun g => { g with phaseStop := true }

/-- The gangs to which a GO applies: those on cores, of a PHASED launch or triggered when the kind is the phase boundary; while BUSY,
only those that an instruction-boundary GO takes from a phase-boundary one. -/
def State.goGangs (s : State) (c : Context) (kind : Bool) : List Nat :=
  (s.sched.gangs.filter fun g => g.ctx = c.id && g.status = .resident &&
    if c.busy then kind && g.phaseStop else kind || g.phased).map Gang.id

/-- Writes KIND and HOLD; a head launch that only HOLD kept back is admitted (R192). -/
def State.writeHold (s : State) (ctx : Nat) (hold kind : Bool) : State :=
  let t := s.modCtx ctx fun c => { c with hold := hold, kind := kind }
  if hold then t else t.admitHeads ctx

/-- PREEMPT_GO (R216, R415). -/
def execPreemptGo (w : Writer) (ctx : Nat) (kind hold : Bool) (s : State) : Host.Outcome State Fault Refusal :=
  if !s.mayWrite w then .next (s.refuse w)
  else match s.ctx? ctx with
    | none => .next s
    | some c =>
      let gs := s.goGangs c kind
      let s := s.writeHold ctx hold kind
      let s := if gs.isEmpty then s else s.modCtx ctx fun c => { c with busy := true }
      .next ((gs.foldl (fun s id => s.stopGang id kind) s).clearBusy ctx).sweep.settle

/-- PREEMPT_KILL (R415, R419). -/
def execPreemptKill (w : Writer) (ctx : Nat) (s : State) : Host.Outcome State Fault Refusal :=
  if !s.mayWrite w then .next (s.refuse w) else .next (s.kill ctx false).sweep.settle

/-- PREEMPT_HOLD_WRITE (R415). -/
def execPreemptHoldWrite (w : Writer) (ctx : Nat) (hold kind : Bool) (s : State) : Host.Outcome State Fault Refusal :=
  if !s.mayWrite w then .next (s.refuse w) else .next (s.writeHold ctx hold kind).settle

/-! ## The saving of a gang (R414, R416) -/

/-- Whether everything a warp issued has completed or parked, so that its frame can be written. An XCOPY for which the engine has no
room counts as not issued. -/
def State.warpAtRest (s : State) (w : Warp) : Bool :=
  !w.handler && w.entry.isNone && w.returning.isNone && !s.hasAccess w.core w.slot && !s.hasProducts w.core w.slot &&
    (w.flights.all Flight.value) && w.liveSlices.all fun i => match (w.slice i).wait with
      | .copy id => !(s.copy? id).any fun c => s.copyRoom c
      | x => !x.inFlight

/-- Whether a copy has gone as far as the faults that stop it allow (R361, R362, R414). -/
def State.copyAtRest (s : State) (c : Copy) : Bool :=
  let sent := c.written ++ c.lostChunks
  !c.taken ||
    ((c.heldSrc || c.heldFull || c.nextChunk.isNone) && !(c.spilled.any Spill.ready) &&
      (sent.all fun k => !(c.arr.any fun x => x.1 = k) || c.receivers.all fun p => c.landed.contains (p, k)) &&
      !s.eng.pend.any fun o => o.copy = c.id && !o.answered)

/-- Whether a gang that stops has drained (R416 step 2). -/
def State.gangAtRest (s : State) (g : Gang) : Bool :=
  ((s.warps.filter fun w => w.gang = g.id).all s.warpAtRest) && (s.eng.copies.filter fun c => c.gang = g.id).all s.copyAtRest

/-- Drains the matrix unit for a gang's warps: flags go to FLAGS, and poison that reached a product raises its fault first (R383,
R417). -/
def State.drainProducts (s : State) (id : Nat) : State :=
  (s.warps.filter fun w => w.gang = id).foldl (fun s w =>
    let (t, bad) := s.reportProducts w.core w.slot
    if w.frameDone then { t with warps := s.warps }
    else if bad = 0 then t
    else
      let pc := (w.slice (keyOf w.liveSlices)).pc
      t.raiseRecs w.core w.slot [{ code := 0x17, sub := 0x03, lanes := bad, pc := pc }] pc) s

/-- How a block's warps are noted while it is saved. -/
def savedWarps (ws : List Warp) : List (Nat × Nat × Nat) :=
  ws.map fun w => (w.idx, w.frameSlot, w.liveSlices.foldl (fun a i => a + 2 ^ i) (if w.halted then 2 ^ 24 else 0))

/-- Notes in each block of a gang the warps it is saved with, and what the device has written in its objects. -/
def State.noteSaved (s : State) (id : Nat) : State :=
  s.modGang id fun g => { g with blocks := g.blocks.map fun b =>
    let ws := (s.warps.filter fun w => w.gang = id && w.pos = b.pos).insertionSort fun a b => a.idx ≤ b.idx
    { b with saved := savedWarps ws, lpSlots := ws.map Warp.lpSlot, fields := s.blockFields b b.scratch } }

/-- Writes every warp frame, then every block frame (R416 step 3); where one cannot be written, the core, the warp slot and the subcode
with which the context is lost (R420). -/
def State.writeFrames (s : State) (id : Nat) : Except (Nat × Nat × Nat) State :=
  let o : Except (Nat × Nat × Nat) State := (s.warps.filter fun w => w.gang = id && !w.frameDone).foldl (fun o w =>
    o.bind fun s => (s.writeFrame w 0x10 0).mapError fun sub => (w.core, w.slot, sub)) (.ok s)
  (o.map fun s => s.noteSaved id).bind fun s =>
    match s.gang? id with
    | none => .ok s
    | some g => g.blocks.foldl (fun o b => o.bind fun s => (s.writeBlockFrame g b).elim (.error (b.core, (((s.warps.find? fun w => w.gang = id && w.pos = b.pos).map Warp.slot).getD 0), 0x01)) .ok) (.ok s)

/-- Releases a saved gang's cores: its warps leave, its copies are held, those the engine had not taken are issued again later. -/
def State.releaseGang (s : State) (id : Nat) : State :=
  let mine := (s.eng.copies.filter fun c => c.gang = id).map Copy.id
  let s := { s with warps := s.warps.filter fun w => w.gang ≠ id }
  let s := s.modEng fun e => { e with
    copies := (e.copies.filter fun c => c.gang ≠ id || c.taken).map fun c => if c.gang = id then { c with heldSave := true, heldFull := false } else c
    pend := e.pend.filter fun o => !mine.contains o.copy }
  s.modGang id fun g => { g with status := .saved, phaseStop := false }

/-- PREEMPT_SAVE_COMPLETE (R414, R416). -/
def execPreemptSaveComplete (gang : Nat) (s : State) : Host.Outcome State Fault Refusal :=
  match s.gang? gang with
  | none => .next s
  | some g =>
    if g.status ≠ .stopping || !s.gangAtRest g then .next s
    else
      let s := s.drainProducts gang
      if !s.gangAtRest g then .next s.settle
      else match s.writeFrames gang with
        | .error x => .next (s.lose g.ctx x.1 x.2.1 x.2.2).sweep.settle
        | .ok s => .next (((s.releaseGang gang).clearBusy g.ctx).emitPreempt g 0x0E 1 g.core0).sweep.settle

end Sys2Proof.Machine
end

