-- ==== Sys2Proof/Machine/Coesk.lean ====
section
/-! DEFINITION. Coesk messages (R145 to R156, R159): requests at their homes, forwards and invalidations at caching dies, responses,
relays and redirects (R111, R112), timers, and links. An access of an instruction performs its whole transaction in one step (log entry
5); the messages here are those of transactions taken message by message. -/

namespace Sys2Proof.Machine

open Sys2Proof

/-! ## Headers (R146) -/

/-- A header slot: fields that a message does not use are zero. -/
def coeskHeader (clean : Bool) (vpn ctx line txn dst src op : Nat) : BitVec 128 :=
  BitVec.ofNat 128 (op % 32 + src % 8 * 2 ^ 5 + dst % 8 * 2 ^ 8 + txn % 2 ^ 12 * 2 ^ 11 + line % 2 ^ 45 * 2 ^ 23 + ctx % 2 ^ 16 * 2 ^ 68 +
    vpn % 2 ^ 41 * 2 ^ 84 + if clean then 2 ^ 125 else 0)

/-- OP of a request (R147). -/
def CoeskOp.code : CoeskOp → Nat
  | .rds => 0 | .rdx => 1 | .rdnc => 2 | .upgr => 3
  | .write (.atomic _) _ => 6
  | .write _ _ => 5

/-- The header of a request to a home; of WrLine, which has no operation here, that of code 4. -/
def requestHeader (m : CoeskReq) (dst op : Nat) (clean : Bool) : BitVec 128 := coeskHeader clean m.vpn m.ctx m.line m.txn dst m.src op

/-- Whether a request fits its header's fields and comes from an agent of the package (R146): a compute die or the front die, since a
Tusum 4M has no memory die. -/
def requestFits (m : CoeskReq) : Bool :=
  m.src ≤ hubDie && m.txn < 2 ^ 12 && m.line < 2 ^ 45 && m.ctx < 2 ^ 16 && m.vpn < 2 ^ 41 && m.cluster < Config.clustersPerDie

/-- The code of a grant (R147). -/
def grantCode : Grant → Nat | .none => 0 | .s => 1 | .e => 2 | .wt => 3

/-- A header slot of which [63:0] carry a line's tag, or a redirect's frame and GEN: what the fields there would hold stands in the slot
beside it. The frame is given in 64 KiB pages below GEN (log entry 56). -/
def payloadHeader (low : BitVec 64) : BitVec 128 := low.setWidth 128

/-- The frame and GEN of a redirect, as [63:0] hold them. -/
def redirectLow (r : RedirectMsg) : BitVec 64 := BitVec.ofNat 64 (r.newFrame / 2 ^ 16 % 2 ^ 32 + r.gen % 2 ^ 32 * 2 ^ 32)

/-- The header of a message on its way, its source and, of a Data, its line's tag given; of an Ack the line field holds GRANT and KEEP. -/
def CoeskMsg.header (m : CoeskMsg) (src : Nat) (tag : TagWord := 0) : BitVec 128 :=
  match m with
  | .inv m => coeskHeader false 0 0 m.line m.txn m.die src 7
  | .fwds m => coeskHeader false 0 0 m.line m.txn m.die src 8
  | .fwdx m => coeskHeader false 0 0 m.line m.txn m.die src 9
  | .ack m => coeskHeader false 0 0 (grantCode m.grant + if m.keep then 4 else 0) m.txn m.die src 10
  | .data _ => payloadHeader tag
  | .redirect r => payloadHeader (redirectLow r)

/-- The DAT routing slot that goes with a Data or a Redirect: the fields which its header has no room for, placed as a header places them; of
a Data the line field holds GRANT and POISON, of a Redirect the old frame's first line. -/
def CoeskMsg.routing (m : CoeskMsg) (src : Nat) : Option (BitVec 128) :=
  match m with
  | .data m => some (coeskHeader false 0 0 (grantCode m.grant + if m.poison then 8 else 0) m.txn m.die src 11)
  | .redirect r => some (coeskHeader false r.vpn r.ctx (r.oldFrame / 128) 0 (r.cluster / Config.clustersPerDie) src 13)
  | _ => none

/-- The header of an EVT message, which uses no field but the agents and OP: TrigNote 0x0E, TimeSync 0x0F, Trace 0x10, Cfg 0x11 (R147). -/
def eventHeader (dst src op : Nat) : BitVec 128 := coeskHeader false 0 0 0 0 dst src op

/-! ## Channels (R145) -/

/-- The tick counter of a compute die, or of the hub. -/
def State.tickOf (s : State) (die : Nat) : Nat := if die = hubDie then s.hub.tick else (s.die die).tick

/-- The channel of a message on its way: virtual channel, source and destination die. -/
def State.channel (s : State) : CoeskMsg → Nat × Nat × Nat
  | .inv m | .fwds m | .fwdx m => (1, (s.homeOf m.line).getD hubDie, m.die)
  | .ack m => (2, m.src, m.die)
  | .data m => (3, m.src, m.die)
  | .redirect r => (2, (s.homeOf (r.newFrame / 128)).getD hubDie, r.cluster / Config.clustersPerDie)

/-- Whether a message holds a buffer on every link of its route: one of the first of its virtual channel there, as many as credits have been
advertised (R145). A link for which no Cfg has given credits does not hold it back (log entry 5). -/
def State.buffered (s : State) (m : CoeskMsg) : Bool :=
  let ch := s.channel m
  (s.linksOf ch.2.1 ch.2.2).all fun l =>
    (s.hub.credits.find? fun x => x.1 = l && x.2.1 = ch.1).all fun x =>
      (s.coh.msgs.takeWhile (· ≠ m)).countP (fun y => (s.channel y).1 = ch.1 && (s.linksOf (s.channel y).2.1 (s.channel y).2.2).contains l) < x.2.2

/-- Whether a message is the next of its channel: each virtual channel is first-in first-out from one die to another, and a message needs a
credit on every link. -/
def State.arrives (s : State) (m : CoeskMsg) : Bool :=
  (s.coh.msgs.find? fun x => s.channel x = s.channel m) = some m && s.buffered m

/-- Takes a message that arrives off its channel. -/
def State.takeMsg (s : State) (m : CoeskMsg) : State := s.modCoh fun c => { c with msgs := c.msgs.erase m }

/-- Sends a message, unless its route goes over a link that is down. -/
def State.sendMsg (s : State) (m : CoeskMsg) : State :=
  let ch := s.channel m
  if s.pathDown ch.2.1 ch.2.2 then s else s.modCoh fun c => { c with msgs := c.msgs ++ [m] }

/-- Adds a request to those that have no final response yet. -/
def State.addOut (s : State) (o : CoeskOut) : State := s.modCoh fun c => { c with outs := c.outs ++ [o] }

/-- Changes a request, named by its requester and transaction. -/
def State.modOut (s : State) (o : CoeskOut) (f : CoeskOut → CoeskOut) : State :=
  s.modCoh fun c => { c with outs := c.outs.map fun x => if x.die = o.die && x.txn = o.txn then f x else x }

/-- Ends the drain records whose accesses have all been answered (R112). -/
def State.pruneDrains (s : State) : State :=
  s.modCaches fun c => { c with drains := c.drains.filter fun r => s.unanswered r.cluster r.oldFrame r.size }

/-- Changes a stub's count of relays in flight (R113). -/
def State.countRelay (s : State) (t : Stub) (f : Nat → Nat) : State :=
  s.modEng fun e => { e with stubs := e.stubs.map fun x => if x.same t then { x with relays := f x.relays } else x }

/-- A relayed request is no longer in flight: its answer has left the new home, or will not come (R113). -/
def State.endRelay (s : State) (o : CoeskOut) : State :=
  match o.relayed with
  | some t => (s.countRelay t (· - 1)).modOut o fun x => { x with relayed := none }
  | none => s

/-- Drops a request whose final response has arrived, or that has timed out. -/
def State.endOut (s : State) (o : CoeskOut) : State :=
  ((s.endRelay ((s.coh.outs.find? fun x => x.die = o.die && x.txn = o.txn).getD o)).modCoh fun c =>
    { c with outs := c.outs.filter fun x => !(x.die = o.die && x.txn = o.txn) }).pruneDrains

/-! ## At the home (R150) -/

/-- An atomic performed at the home slice (R153): the old value and the new contents; none when it meets poison. -/
def State.homeAtomic (s : State) (l : Nat) (r : AtomicReq) (depth : Nat) : State × Option Nat :=
  let k := 128 * l + r.offset
  match s.store.poisonAt k r.width with
  | some _ => (s, none)
  | none =>
    let old := s.store.read k r.width
    (s.writeIn k r.width (atomicNew r.op r.width r.signed old r.v1.toNat r.v2.toNat) depth, some old)

/-- Whether an atomic request is one that the fabric carries: a defined operation on an aligned 4 or 8 bytes of the line. -/
def soundAtomic (r : AtomicReq) : Bool :=
  r.op ≤ 13 && (r.width = 4 || (r.width = 8 && r.op ≤ 9)) && r.offset % r.width = 0 && r.offset + r.width ≤ 128

/-- What a request has the home do; `depth` is the depth its write gives to triggers (R214). -/
def State.performAt (s : State) (l : Nat) (k : RelayKind) (depth : Nat) : State :=
  match k with
  | .read => s
  | .write d m => s.writeLine l m d depth
  | .atomic r => (s.homeAtomic l r depth).1

/-- The response that ends a request. -/
def State.finalMsg (s : State) (o : CoeskOut) : CoeskMsg :=
  let r : CoeskResp := { die := o.die, src := o.target, txn := o.txn, line := o.line, grant := o.grant
                         poison := o.data && (s.store.poisonAt (128 * o.line) 128).isSome }
  if o.data then .data r else .ack r

/-- The answer to a request leaves its home, with the Redirect of a relayed one (R111); an owner may have sent the data itself. -/
def State.answerOut (s : State) (o : CoeskOut) : State :=
  let s := match o.relayed with
    | some t =>
      if hubDie ≤ o.die then s
      else s.sendMsg (.redirect { cluster := Config.clustersPerDie * o.die + o.cluster, ctx := o.ctx, vpn := o.vpn, oldFrame := t.oldFrame,
                                  newFrame := t.newFrame, gen := t.gen })
    | none => s
  (if o.direct then s else s.sendMsg (s.finalMsg o)).endRelay o

/-- A home that has the Acks of a request performs it and answers. -/
def State.completeOut (s : State) (o : CoeskOut) : State :=
  let s := s.performAt o.line o.kind o.depth
  let s := if o.retake then s.countTransfer o.target o.line none else s
  s.answerOut o

/-- Serves a request at its home: snoops go out first, the directory takes its next state. -/
def State.serve (s : State) (o : CoeskOut) (snoops : List CoeskMsg) (owned : Bool) (dies : List Nat) : State :=
  let o := { o with pending := snoops.length }
  let s := (snoops.foldl State.sendMsg (s.addOut o)).modCoh fun c => { c with dir := dirSet c.dir o.line owned dies }
  if snoops.isEmpty then s.completeOut o else s

/-- The request as its home notes it. -/
def State.outOf (s : State) (m : CoeskReq) (home : Nat) : CoeskOut :=
  { die := m.src, txn := m.txn, line := m.line, target := home, cluster := m.cluster, ctx := m.ctx, vpn := m.vpn
    since := s.tickOf m.src, kept := s.tickOf home, depth := m.depth }

/-- Whether a new request finds a buffer on every link of its route: requests that wait at their homes hold theirs (R145). -/
def State.reqRoom (s : State) (src dst : Nat) : Bool :=
  (s.linksOf src dst).all fun l => (s.hub.credits.find? fun x => x.1 = l && x.2.1 = 0).all fun x =>
    s.coh.outs.countP (fun o => o.queued.isSome && (s.linksOf o.die o.target).contains l) < x.2.2

/-- Whether an agent can send a request to a line of another die's at all: the request fits its header, its transaction is new, the requester
still sends requests there (R159), and the links of the route have room for it (R145). -/
def State.canSend (s : State) (m : CoeskReq) (home : Nat) : Bool :=
  requestFits m && (hubDie ≤ m.src || s.present m.src) && (s.routeFault m.src (128 * m.line)).isNone &&
    !(s.coh.outs.any fun o => o.die = m.src && o.txn = m.txn) && s.reqRoom m.src home

/-- Whether a request can be made, and its line has a home on another die; with its home. -/
def State.madeHome (s : State) (m : CoeskReq) : Option Nat :=
  match s.homeOf m.line with
  | none => none
  | some home => if home = m.src || !s.canSend m home then none else some home

/-- Whether a request must wait at the home of its line: for an earlier transaction on the line, or behind one that waits (R150, R485). -/
def State.behind (s : State) (o : CoeskOut) : Bool :=
  s.lineBusy o.line || (s.coh.outs.takeWhile (· ≠ o)).any fun x => x.queued.isSome && x.line = o.line

/-- Whether a request can be made and its home serves it at once, itself (R150, R111); with its home. -/
def State.requestHome (s : State) (m : CoeskReq) : Option Nat :=
  match s.madeHome m with
  | none => none
  | some home =>
    if s.behind (s.outOf m home) || (s.stubFor (128 * m.line) m.ctx (m.vpn * 2 ^ 16)).isSome then none else some home

/-- Invalidations to a list of dies. -/
def invAll (o : CoeskOut) (dies : List Nat) : List CoeskMsg := dies.map fun d => .inv { die := d, req := o.die, txn := o.txn, line := o.line }
/-- FwdS to a list of owners. -/
def fwdsAll (o : CoeskOut) (dies : List Nat) : List CoeskMsg := dies.map fun d => .fwds { die := d, req := o.die, txn := o.txn, line := o.line }
/-- FwdX to a list of owners. -/
def fwdxAll (o : CoeskOut) (dies : List Nat) : List CoeskMsg := dies.map fun d => .fwdx { die := d, req := o.die, txn := o.txn, line := o.line }

/-- Whether a die's L2 holds a line. -/
def State.holds (s : State) (die l : Nat) : Bool := (s.l2? die l).isSome

/-- RdS at the home. -/
def State.serveRdS (s : State) (o : CoeskOut) : State :=
  let wt := s.wtOnly o.line
  match s.dir? o.line with
  | none => if wt then s.serve { o with grant := .wt } [] false [o.die] else s.serve { o with grant := .e } [] true [o.die]
  | some e =>
    let rest := e.dies.filter (· ≠ o.die)
    s.serve { o with grant := if wt then .wt else .s } (if e.owned then fwdsAll o rest else []) false (o.die :: rest)

/-- RdX, or Upgr when `held` says that the requester's copy may be granted without data, at the home: no exclusive copy of a line under
R149. Two rows that R150's table does not have: an Upgr of a line that is UNCACHED or OWNED is served as RdX, and RdX of an OWNED line under R149
is served as RdS with a WT grant (log entry 63). -/
def State.serveRdX (s : State) (o : CoeskOut) (held : Bool) : State :=
  let wt := s.wtOnly o.line
  match s.dir? o.line with
  | none => if wt then s.serve { o with grant := .wt } [] false [o.die] else s.serve { o with grant := .e } [] true [o.die]
  | some e =>
    let rest := e.dies.filter (· ≠ o.die)
    if wt && !e.owned then s.serve { o with grant := .wt, data := false } [] false e.dies
    else if wt then s.serve { o with grant := .wt } (fwdsAll o rest) false (o.die :: rest)
    else if e.owned then s.serve { o with grant := .e } (fwdxAll o rest) true [o.die]
    else s.serve { o with grant := .e, data := !(held && e.dies.contains o.die) } (invAll o rest) true [o.die]

/-- RdNC at the home. -/
def State.serveRdNC (s : State) (o : CoeskOut) : State :=
  match s.dir? o.line with
  | some e => if e.owned then s.serve o (fwdsAll o e.dies) false e.dies else s.serve o [] false e.dies
  | none => s.serve o [] false []

/-- WrPart and AtomHome at the home. -/
def State.serveWrite (s : State) (o : CoeskOut) (k : RelayKind) (data : Bool) : State :=
  let o := { o with kind := k, data := data }
  match s.dir? o.line with
  | none => s.serve o [] false []
  | some e =>
    if e.owned then s.serve { o with retake := true } (fwdxAll o e.dies) false []
    else
      let keep := e.dies.contains o.die && s.holds o.die o.line
      s.serve { o with keep := keep } (invAll o (e.dies.filter (· ≠ o.die))) false (if keep then [o.die] else [])

/-- A request as its home serves it. -/
def State.serveOp (s : State) (o : CoeskOut) (op : CoeskOp) : State :=
  let o := { o with asked := op }
  match op with
  | .rds => s.serveRdS o
  | .rdx => s.serveRdX o false
  | .upgr => s.serveRdX o true
  | .rdnc => s.serveRdNC o
  | .write k data => s.serveWrite o k data

/-! ## Requests that wait, and relays (R111, R145, R150) -/

/-- How a request uses its line. -/
def CoeskOp.use : CoeskOp → Use_ | .rds | .rdnc => .read | _ => .write

/-- Whether the host must first give a line up for a request (R450): what writes it, or would be granted it OWNED. -/
def State.hostHolds (s : State) (o : CoeskOut) (op : CoeskOp) : Bool :=
  s.hub.snoop.contains o.line && (op.use ≠ .read || (op = .rds && (s.dir? o.line).isNone && !s.wtOnly o.line))

/-- A relay to a frame on another device goes as a pod request from the old home's station (R434). -/
def State.relayToPod (s : State) (t : Stub) (op : CoeskOp) (l : Nat) : State :=
  match s.region (128 * l) with
  | .pod peer off =>
    let st := stationOf t.die peer off
    let txn := s.eng.nextPend
    let s := s.modEng fun e => { e with nextPend := e.nextPend + 1 }
    s.say (match op with
      | .write (.write d m) _ => .podRequest st txn peer l true d m
      | .write (.atomic r) _ => .podAtomic st txn peer l r
      | _ => .podRequest st txn peer l false 0 (BitVec.allOnes 128))
  | _ => s

/-- Where a stub takes a line. -/
def Stub.moved (t : Stub) (l : Nat) : Nat := (t.newFrame + (128 * l - t.oldFrame)) / 128

/-- A stub relays a request: it is in flight until its answer leaves the new home (R113, R485), and its REDIRECT is traced there (R437). -/
def State.startRelay (s : State) (o : CoeskOut) (t : Stub) (home : Nat) : State :=
  let s := s.countRelay t (· + 1)
  if hubDie ≤ o.die then s
  else s.emit home (144 + sliceOf (t.moved o.line)) 0 o.ctx 0x11 t.gen (traceBody t.oldFrame (o.die + o.cluster * 256)) true

/-- The request as the new home has it. -/
def CoeskOut.atNew (o : CoeskOut) (t : Stub) (home : Nat) : CoeskOut := { o with line := t.moved o.line, target := home, relayed := some t }

/-- A request whose frame is now another device's (R434): it goes on to the pod, and its answer comes back by way of the old home; a peer that
is marked dead fails it. -/
def State.relayOut (s : State) (o : CoeskOut) (t : Stub) (op : CoeskOp) : State :=
  let l := t.moved o.line
  match s.region (128 * l) with
  | .pod peer _ =>
    if peer < 192 && s.hub.deadPeers.getLsbD peer then s.writeBatch o.ctx (.agent t.die (s.linkUnit t.die o.die)) [{ code := 0x16, sub := 0x01 }]
    else
      let data := match op with | .write _ d => d | _ => true
      ((s.startRelay o t t.die).addOut { o with asked := op, relayed := some t, podTxn := some s.eng.nextPend, data := data }).relayToPod t op l
  | _ => s

/-- A request at its home: where its frame has moved, it goes on to the new home (R111), which performs it; it waits at the home for an
earlier transaction, for the host, for a relay credit, or for trace (R145, R150, R446, R450, R485). -/
def State.arrive (s : State) (o : CoeskOut) (op : CoeskOp) : State :=
  let wait := fun (s : State) => s.addOut { o with queued := some op }
  match s.stubFor (128 * o.line) o.ctx (o.vpn * 2 ^ 16) with
  | none =>
    if s.behind o then wait s
    else if s.hostHolds o op then wait (s.askBack o.line)
    else s.serveOp o op
  | some t =>
    match s.homeOf (t.moved o.line) with
    | none => if s.behind o then wait s else s.relayOut o t op
    | some home =>
      let moved := o.atNew t home
      if s.behind o || s.behind moved then wait s
      else if s.hostHolds moved op then wait (s.askBack moved.line)
      else if s.relayHeld t.die home || s.traceHeld home o.ctx 0x11 true then wait (s.noteHeldAt home o.ctx 0x11 true)
      else (s.startRelay o t home).serveOp moved op

/-- Serves the requests that wait at their homes, in order of arrival, as far as they can be served (R150, R155); one that must wait on may ask
the host for its line (R463). -/
def State.serveQueued (s : State) : State :=
  s.coh.outs.foldl (fun s o =>
    match o.queued with
    | none => s
    | some op =>
      let rest := s.modCoh fun c => { c with outs := c.outs.filter fun x => !(x.die = o.die && x.txn = o.txn) }
      let t := rest.arrive { o with queued := none } op
      if s.behind o then s
      else if t.coh.outs.any fun x => x.die = o.die && x.txn = o.txn && x.queued.isSome then { s with hub := t.hub, out := t.out } else t) s

/-- Makes a request: over a link that is down it is lost, else it comes to its home. -/
def State.request (s : State) (m : CoeskReq) (op : CoeskOp) : State :=
  match s.madeHome m with
  | none => s
  | some home => if s.pathDown m.src home then s.addOut { s.outOf m home with lost := true } else s.arrive (s.outOf m home) op

/-- RDS (R150). -/
def execRds (m : CoeskReq) (s : State) : Host.Outcome State Fault Refusal :=
  if m.src = hubDie || s.holds m.src m.line then .next s else .next (s.request m .rds)

/-- RDX (R150). -/
def execRdx (m : CoeskReq) (s : State) : Host.Outcome State Fault Refusal :=
  if m.src = hubDie || s.holds m.src m.line then .next s else .next (s.request m .rdx)

/-- RDNC (R150). -/
def execRdnc (m : CoeskReq) (s : State) : Host.Outcome State Fault Refusal :=
  if m.src ≠ hubDie && s.holds m.src m.line then .next s else .next (s.request m .rdnc)

/-- UPGR (R149, R150): the requester holds the line S, and not under WT. -/
def execUpgr (m : CoeskReq) (s : State) : Host.Outcome State Fault Refusal :=
  if (s.l2? m.src m.line).all fun x => x.st ≠ .s || x.wt then .next s else .next (s.request m .upgr)

/-- WRLINE (R150, R151): an owner writes its line back. The data are the line's already; its Ack ends the transaction. Over a link that is down
the message is lost, and the home still has the die for its owner. -/
def execWrline (m : CoeskReq) (clean : Bool) (s : State) : Host.Outcome State Fault Refusal :=
  match s.l2? m.src m.line, s.madeHome m with
  | some x, some home =>
    if x.st = .s || clean ≠ (x.st = .e) then .next s
    else
      let o := { s.outOf m home with data := false }
      .next (if s.pathDown m.src home then (s.l2Drop x.die x.line).addOut { o with lost := true } else ((s.l2Evict x).addOut o).completeOut o)
  | _, _ => .next s

/-- WRPART (R150). -/
def execWrpart (m : CoeskReq) (data : LineData) (mask : BitVec 128) (s : State) : Host.Outcome State Fault Refusal :=
  if (s.l2? m.src m.line).any fun x => x.st ≠ .s then .next s
  else .next (s.request m (.write (.write data mask) false)).settle

/-- ATOMHOME (R150, R153). -/
def execAtomhome (m : CoeskReq) (op : AtomicReq) (s : State) : Host.Outcome State Fault Refusal :=
  if (s.l2? m.src m.line).any (fun x => x.st ≠ .s) || !soundAtomic op then .next s
  else .next (s.request m (.write (.atomic op) true)).settle

/-! ## At a caching die (R151) -/

/-- An Ack, or data, to the home of a snooped line. -/
def State.answerHome (s : State) (m : CoeskSnoop) (data : Bool) : State :=
  let r : CoeskResp := { die := (s.homeOf m.line).getD hubDie, src := m.die, txn := m.txn, line := m.line
                         poison := data && (s.store.poisonAt (128 * m.line) 128).isSome }
  s.sendMsg (if data then .data r else .ack r)

/-- The request that a snoop serves. -/
def State.snooped (s : State) (m : CoeskSnoop) : Option CoeskOut := s.coh.outs.find? fun o => o.die = m.req && o.txn = m.txn

/-- The owner sends the line to the requester of a read. -/
def State.sendOwned (s : State) (m : CoeskSnoop) : State :=
  match s.snooped m with
  | some o => if o.kind = .read then (s.modOut o fun o => { o with direct := true }).sendMsg (s.finalMsg { o with target := m.die }) else s
  | none => s

/-- INV (R151). -/
def execInv (m : CoeskSnoop) (s : State) : Host.Outcome State Fault Refusal :=
  if !s.arrives (.inv m) then .next s
  else .next (((s.takeMsg (.inv m)).l2Drop m.die m.line).answerHome m false).retryAgain.settle

/-- FWDS (R151): an owner supplies the line and keeps S; the home has the data of a dirty line, and of one read without a grant (R150). -/
def execFwds (m : CoeskSnoop) (s : State) : Host.Outcome State Fault Refusal :=
  if !s.arrives (.fwds m) then .next s
  else
    let t := s.takeMsg (.fwds m)
    match s.l2? m.die m.line with
    | some x =>
      if x.st = .s then .next ((t.l2Drop m.die m.line).answerHome m false)
      else
        let t := t.modCoh fun c => { c with l2 := c.l2.map fun y => if y.die = m.die && y.line = m.line then { y with st := .s, dirty := false } else y }
        .next ((t.sendOwned m).answerHome m (x.st = .m || (t.snooped m).any fun o => o.grant = .none))
    | none => .next (t.answerHome m false)

/-- FWDX (R151): an owner supplies the line, to a requester that takes it or to the home, and gives it up. -/
def execFwdx (m : CoeskSnoop) (s : State) : Host.Outcome State Fault Refusal :=
  if !s.arrives (.fwdx m) then .next s
  else
    let t := (s.takeMsg (.fwdx m)).l2Drop m.die m.line
    match s.l2? m.die m.line with
    | some x => if x.st = .s then .next (t.answerHome m false) else .next ((t.sendOwned m).answerHome m ((t.snooped m).any fun o => o.kind ≠ .read))
    | none => .next (t.answerHome m false)

/-! ## Responses (R147) -/

/-- A response that a home has been owed arrives; with the last one it completes the request. One whose frame has been moved meanwhile, the
lines locked under it, goes on to the new home as a relay (R109, R485, R489). -/
def State.homeAnswered (s : State) (line txn : Nat) : State :=
  match s.coh.outs.find? fun o => o.line = line && o.txn = txn && 0 < o.pending with
  | none => s
  | some o =>
    let s := s.modOut o fun o => { o with pending := o.pending - 1 }
    if o.pending ≠ 1 then s
    else if (s.stubFor (128 * o.line) o.ctx (o.vpn * 2 ^ 16)).isSome then
      (s.endOut o).arrive { o with grant := .none, kind := .read, data := true, pending := 0, direct := false, keep := false, retake := false } o.asked
    else s.completeOut { o with pending := 0 }

/-- The final response: the requester's L2 takes the grant (R149 to R151), unless the home has recalled it meanwhile, and a grant of ownership
counts (R156). An Ack WT makes of a copy that is there a WT one. -/
def State.granted (s : State) (o : CoeskOut) (g : Grant) (data : Bool) : State :=
  let s := s.endOut o
  let listed := (s.dir? o.line).any fun e => e.dies.contains o.die
  match g with
  | .none => s
  | .wt => if (data && listed) || s.holds o.die o.line then s.l2Use o.die o.line 0 .s true false else s
  | .s => if listed then s.l2Use o.die o.line 0 .s false false else s
  | .e => if (data || s.holds o.die o.line) && (s.dir? o.line).any (fun e => e.owned && e.dies.contains o.die) then
      (s.l2Use o.die o.line 0 .e false false).countTransfer o.target o.line (some o.die) else s

/-- What a response brings about: it is the final one of its transaction, or one that the home is owed. -/
def State.respond (s : State) (m : CoeskResp) (data : Bool) : State :=
  match s.coh.outs.find? fun o => o.die = m.die && o.txn = m.txn && o.line = m.line with
  | some o => s.granted o m.grant data
  | none => s.homeAnswered m.line m.txn

/-- What can go on once a message has arrived: requests that wait at their homes, then instructions (R150, R155). -/
def State.resume (s : State) : State := s.serveQueued.retryAgain

/-- ACK (R147, R159): a completion, or a KEEP that restarts the requester's timer. -/
def execAck (m : CoeskResp) (s : State) : Host.Outcome State Fault Refusal :=
  if !s.arrives (.ack m) then .next s
  else
    let t := s.takeMsg (.ack m)
    if m.keep then
      .next (t.modCoh fun c => { c with outs := c.outs.map fun o => if o.die = m.die && o.txn = m.txn then { o with since := t.tickOf m.die } else o })
    else .next (t.respond m false).resume.settle

/-- DATA (R147). -/
def execData (m : CoeskResp) (s : State) : Host.Outcome State Fault Refusal :=
  if !s.arrives (.data m) then .next s else .next ((s.takeMsg (.data m)).respond m true).resume.settle

/-! ## Relays and redirects (R111, R112) -/

/-- RELAY (R111, R446): a request that meets a stub at its home, which may be the requester's own die, is sent on, and the new home performs it
and answers with a Redirect. One that has to wait at the old home, for the line, the host, a relay credit or trace, is one of its requests. -/
def execRelay (m : CoeskReq) (kind : RelayKind) (s : State) : Host.Outcome State Fault Refusal :=
  let op : CoeskOp := match kind with | .read => .rdnc | .write _ _ => .write kind false | .atomic _ => .write kind true
  let ok := match kind with | .atomic r => soundAtomic r | _ => true
  match s.stubFor (128 * m.line) m.ctx (m.vpn * 2 ^ 16), s.homeOf m.line with
  | some _, some old =>
    if !ok || hubDie ≤ m.src || !s.canSend m old then .next s
    else if s.pathDown m.src old then .next (s.addOut { s.outOf m old with lost := true })
    else .next (s.arrive (s.outOf m old) op).settle
  | _, _ => .next s

/-- REDIRECT (R111, R112): the cluster's entry follows, and accesses to the page wait while earlier ones to the old frame are
unanswered. -/
def execRedirect (r : RedirectMsg) (s : State) : Host.Outcome State Fault Refusal :=
  if !s.arrives (.redirect r) then .next s
  else
    let s := (s.takeMsg (.redirect r)).applyRedirect r
    let size := ((s.eng.stubs.find? fun t => t.oldFrame = r.oldFrame).map Stub.size).getD (2 ^ 16)
    .next ((s.addDrain { cluster := r.cluster, ctx := r.ctx, vpn := r.vpn, oldFrame := r.oldFrame, size := size }).pruneDrains.serveQueued)

/-! ## Timers and links (R143, R147, R156, R159) -/

/-- KEEP_TIMER (R159): a home at which a request waits sends Ack with KEEP every 2,048 ticks. -/
def execKeepTimer (die txn : Nat) (s : State) : Host.Outcome State Fault Refusal :=
  match s.coh.outs.find? fun o => o.die = die && o.txn = txn with
  | none => .next s
  | some o =>
    let now := s.tickOf o.target
    if o.lost || o.queued.isNone || now < o.kept + 2048 then .next s
    else .next ((s.modOut o fun o => { o with kept := now }).sendMsg
      (.ack { die := o.die, src := o.target, txn := o.txn, line := o.line, keep := true }))

/-- An answered or failed access of a warp lets its hood, or its parked instruction, go on once all its requests are (R427). -/
def State.goOnFor (s : State) (o : Outstanding) : State :=
  if o.copy ≠ 0 || o.write then s
  else
    let a : Agent := { core := o.core, slot := o.slot, hood := o.hood, ctx := o.ctx, pc := o.pc, gang := o.gang, pos := o.pos, idx := o.idx }
    if !s.allAnswered a then s
    else if logHood 0 ≤ o.hood then (s.retryEntry o.core o.slot (o.hood - logHood 0)).tryEntry o.core o.slot
    else (s.goOn o.core o.slot o.hood fun x => x.x.pc = o.pc).tryEntry o.core o.slot

/-- Answers an outstanding access. -/
def State.answerAccess (s : State) (o : Outstanding) (f : Outstanding → Outstanding) : State :=
  (s.modEng fun e => { e with pend := e.pend.map fun x => if x.txn = o.txn then { f x with answered := true } else x }).goOnFor o

/-- The requester die, or the hub, sends no more requests to a target (R159). -/
def State.dropTarget (s : State) (die target : Nat) : State :=
  if die = hubDie then s.modHub fun h => if h.dropped.contains target then h else { h with dropped := target :: h.dropped }
  else s.modDie die fun d => if d.dropped.contains target then d else { d with dropped := target :: d.dropped }

/-- CROSS_DIE_TIMEOUT (R159): the instruction that waits fails with TIMEOUT, and its die sends nothing more to that target. The VC in the
subcode is the request's, REQ (log entry 57). A transaction taken message by message has no instruction of the model behind it: its record is
one without a warp (log entry 5). -/
def execCrossDieTimeout (die txn : Nat) (s : State) : Host.Outcome State Fault Refusal :=
  let now := s.tickOf die
  match s.eng.pend.find? fun o => o.kind = .coesk && o.die = die && o.txn = txn && !o.answered && o.since + 5000 ≤ now with
  | some o => .next ((s.dropTarget die o.target).answerAccess o fun o => { o with fail := some (0x41, 8 * o.target) }).sweep.settle
  | none =>
    match s.coh.outs.find? fun o => o.die = die && o.txn = txn && o.since + 5000 ≤ now with
    | some o => .next (((s.endOut o).dropTarget die o.target).writeBatch o.ctx (.agent die (s.linkUnit die o.target)) [{ code := 0x41, sub := 8 * o.target }]).resume.sweep.settle
    | none => .next s

/-- HOME_EXECUTE_EXPIRY (R156): the mode ends, and the line's count restarts. -/
def execHomeExecuteExpiry (line : Nat) (s : State) : Host.Outcome State Fault Refusal :=
  match s.homeExec? line, s.homeOf line with
  | some e, some home =>
    if e.until_ = 0 || (s.die home).clock < e.until_ then .next s
    else .next (s.modCoh fun c => { c with home := c.home.filter fun x => x.line ≠ line })
  | _, _ => .next s

/-- The transaction that a message belongs to, by its requester and number, if it belongs to one. -/
def CoeskMsg.ofTxn (m : CoeskMsg) (o : CoeskOut) : Bool :=
  match m with
  | .inv x | .fwds x | .fwdx x => x.req = o.die && x.txn = o.txn
  | .ack x | .data x => x.line = o.line && x.txn = o.txn
  | .redirect _ => false

/-- COESK_RESERVED_OP (R147): the message is discarded and counted; the transaction it belonged to, the oldest of its number (log entry 5),
then comes to no end and times out. -/
def execCoeskReservedOp (link op txn : Nat) (s : State) : Host.Outcome State Fault Refusal :=
  if op < 0x12 || 0x1F < op || 4096 ≤ txn then .next s
  else
    let n := (s.hub.protoErr.lookup link).getD 0
    let t := s.modHub fun h => { h with protoErr := (link, n + 1) :: h.protoErr.filter fun p => p.1 ≠ link }
    match s.coh.outs.find? fun o => o.txn = txn with
    | none => .next t
    | some o => .next ((t.modCoh fun c => { c with msgs := c.msgs.filter fun m => !m.ofTxn o }).modOut o fun x => { x with lost := true, queued := none })

/-- LINK_DECLARED_DOWN (R143): what is under way over the link is lost, and so is every later message. -/
def execLinkDeclaredDown (a b : Nat) (s : State) : Host.Outcome State Fault Refusal :=
  if a = b || hubDie < a || hubDie < b || s.linkDown a b then .next s
  else
    let s := s.modHub fun h => { h with linksDown := (a, b) :: h.linksDown }
    .next (s.modCoh fun c => { c with msgs := c.msgs.filter fun m => !(s.pathDown (s.channel m).2.1 (s.channel m).2.2) })

end Sys2Proof.Machine
end

