-- ==== Sys2Proof/Machine/Attach.lean ====
section
/-! DEFINITION. Host attachment (R141, R152, R449, R450): CXL.mem accesses of the host, its snoops of HOST-COH lines, and its answers to
the device's requests. -/

namespace Sys2Proof.Machine

open Sys2Proof

/-- Entries of the hub's snoop filter (R450). -/
def snoopEntries : Nat := 2 ^ 20

/-- The home of a line of host-managed device memory: the HBM4E range (R449). -/
def State.hdmHome (s : State) (l : Nat) : Option Nat := match s.region (128 * l) with | .hbm d => some d | _ => none

/-- The device PA of a host access of CXL.mem: none outside the decoder's 1 TiB, or while bring-up has not trained the link or stands in recovery
(R449, R458, R460). -/
def State.hdmPa? (s : State) (pa : Nat) : Option Nat :=
  if 8 ≤ s.hub.boot && !s.hub.bootFail && s.hub.decoder ≤ pa && pa < s.hub.decoder + 2 ^ 40 then some (s.relayPa ((pa - s.hub.decoder) / 64 * 64)) else none

/-- CXL_MEM_READ (R450): 64 bytes, no tag. The host may keep the line, so the filter notes it; a full filter first gives up its least
recently used line. -/
def execCxlMemRead (pa : Nat) (s : State) : Host.Outcome State Fault Refusal :=
  match (s.hdmPa? pa).filter fun a => (s.hdmHome (a / 128)).isSome with
  | none => .next s
  | some a =>
    let l := a / 128
    if s.lineBusy l || s.lineQueued l || s.hub.hostWait.contains l then .next s
    else if !s.hub.snoop.contains l && snoopEntries ≤ s.hub.snoop.length then .next ((s.hub.snoop.getLast?.map s.askBack).getD s)
    else
      let s := (s.homeRead l).modHub fun h => { h with snoop := l :: h.snoop.filter (· ≠ l) }
      .next (s.say (.cxlData pa (BitVec.ofNat 512 (s.store.read a 64)) (s.store.poisonAt a 64).isSome))

/-- CXL_MEM_WRITE (R38, R141, R214): performed at the home slice, tags untouched, compared by watches at trigger depth 1. -/
def execCxlMemWrite (pa : Nat) (data : BitVec 512) (be : BitVec 64) (s : State) : Host.Outcome State Fault Refusal :=
  match (s.hdmPa? pa).bind fun a => (s.hdmHome (a / 128)).map fun h => (a, h) with
  | none => .next s
  | some (a, home) =>
    let l := a / 128
    if s.lineBusy l || s.lineQueued l then .next s
    else
      let o := a % 128
      .next ((s.homeWrite home l none).writeLine l (be.setWidth 128 <<< o) (data.setWidth 1024 <<< (8 * o)) 1).settle

/-- H2D_SNOOP (R152, R449): the dies' copies of a HOST-COH line are given up, or kept shared; a modified one is answered with data. The host names
the line by its own address. -/
def execH2dSnoop (pa : Nat) (inv : Bool) (s : State) : Host.Outcome State Fault Refusal :=
  let l := (0x1000000000000 + pa) / 128
  match s.region (128 * l) with
  | .host =>
    let mine := s.coh.l2.filter fun x => x.line = l
    let dirty := mine.any fun x => x.st = .m
    let s := mine.foldl (fun s x => if inv then s.l2Drop x.die l else s.l2SetState x.die l .s) s
    .next (s.say (.snoopResp pa dirty (if dirty then s.store.line l else 0)))
  | _ => .next s

/-- BACK_INVALIDATE_RESPONSE (R450): the host no longer holds the line, and what waited for it proceeds: the writes of the device's own agents,
then requests and instructions. -/
def execBackInvalidateResponse (hline : Nat) (s : State) : Host.Outcome State Fault Refusal :=
  let line := hline - s.hub.decoder / 128
  if !s.hub.hostWait.contains line then .next s
  else
    let s := s.modHub fun h => { h with hostWait := h.hostWait.filter (· ≠ line), snoop := h.snoop.filter (· ≠ line) }
    .next ((State.flushLate s.hub.late s).enterWritten.resume).sweep.settle

/-- H2D_RESPONSE (R152): the requester's L2 takes the line in the state granted, under the hints of what asked for it (R60), with the host's
data unless the device holds newer; an access with `.na` is served without it (R62). -/
def execH2dResponse (die hline : Nat) (owned : Bool) (data : LineData) (s : State) : Host.Outcome State Fault Refusal :=
  let line := 0x1000000000000 / 128 + hline
  let mine := s.eng.pend.filter fun o => o.kind = .hostCoh && o.die = die && o.line = line && !o.answered && (owned || o.mask = 0)
  if mine.isEmpty then .next s
  else
    let s := if s.coh.l2.any fun x => x.line = line then s else s.modStore fun m => m.putLine line (BitVec.allOnes 128) data
    let s := (mine.filter fun o => o.ch ≠ 3).foldl (fun s o => s.l2Use die line o.ch (if owned then .e else .s) false false) s
    let s := s.modEng fun e => { e with pend := e.pend.filterMap fun o =>
      if (mine.any fun x => x.txn = o.txn) then (if o.ch = 3 then some { o with answered := true } else none) else some o }
    .next (mine.foldl State.goOnFor s).sweep.settle

/-- CXL_IO_COMPLETION (R141): the data of a HOST-UC read. -/
def execCxlIoCompletion (txn : Nat) (data : DWord) (s : State) : Host.Outcome State Fault Refusal :=
  match s.eng.pend.find? fun o => o.txn = txn && o.kind = .hostUc && !o.answered with
  | none => .next s
  | some o => .next (s.answerAccess o fun o => { o with data64 := data }).sweep.settle

end Sys2Proof.Machine
end

