-- ==== Sys2Proof/Machine/Clock.lean ====
section
/-! DEFINITION. Time: reference ticks, TimeSync, the discipline of the hub's counter (R157, R158, R438), the loss of the time base (R160),
and the core clocks under power and heat (R461, R462). -/

namespace Sys2Proof.Machine

open Sys2Proof

/-- Whether every die's clock has stopped (R160, R462). -/
def State.halted (s : State) : Bool := s.hub.tripped || s.hub.timebaseLost

/-- Nanoseconds of one reference tick: 10, less while the counter is held, one more or less while an offset is slewed, at most once in
200 ticks (500 ppm); when, within that limit, is free (R438). -/
def State.tickNs (s : State) : Int × Hub :=
  let h := s.hub
  if 0 < h.held then ((10 - min 10 h.held : Nat), { h with held := h.held - 10 })
  else if h.slew ≠ 0 && h.tick % 200 = 199 && Config.pick s.free h.tick % 2 = 1 then
    let d : Int := if h.slew < 0 then -1 else 1
    (10 + d, { h with slew := h.slew - d })
  else (10, h)

/-- Whether the reference tick reaches a die: over its hub bundle, from when that has trained (R157). -/
def DieRegs.clocked (d : DieRegs) : Bool := d.present || d.tmHub ≠ 0

/-- A die's counters one tick on (R157, R390, R461). -/
def DieRegs.ticked (d : DieRegs) (ns : Nat) : DieRegs :=
  if d.clocked then { d with tick := d.tick + 1, ns := d.ns + ns, clock := d.clock + d.freq / 100 } else d

/-- A die's nanosecond counter stepped forward with the hub's (R438). -/
def DieRegs.stepped (d : DieRegs) (n : Nat) : DieRegs := if d.clocked then { d with ns := d.ns + n } else d

/-- Ten nanoseconds of the hub's own oscillator, on which leases count (R455). -/
def Hub.oscillated (h : Hub) : Hub := { h with osc := h.osc + 1, lease := if (h.osc + 1) % 100 = 0 then h.lease - 1 else h.lease }

/-- REFERENCE_TICK (R157, R390, R438, R455, R461): every counter that the tick drives advances, and the hub's own oscillator with it, which
goes on when the clocks have stopped (log entry 33); the errors that strike storage meanwhile are those that `Config.struck` names (R57, R58,
log entry 45). -/
def execReferenceTick (s : State) : Host.Outcome State Fault Refusal :=
  if s.halted then .next (s.modHub Hub.oscillated)
  else
    let r := s.tickNs
    let ns := r.1.toNat
    let h := { r.2 with tick := r.2.tick + 1, ns := r.2.ns + ns }.oscillated
    .next { s with hub := h, free := s.free + 1, upsets := s.upsets ++ Config.struck h.tick, dies := s.dies.map fun (d : DieRegs) => d.ticked ns }.rollWindow

/-- TIMESYNC_SEND (R158): every 1,024 ticks the hub sends its counters to each die. -/
def execTimesyncSend (s : State) : Host.Outcome State Fault Refusal :=
  let h := s.hub
  if s.halted || h.tick % 1024 ≠ 0 || h.syncAt = h.tick then .next s
  else
    let ds := (List.range 4).filter s.present
    .next (ds.foldl (fun s d => s.say (.timeSync d h.tick h.ns))
      (s.modHub fun h => { h with syncAt := h.tick, syncs := h.syncs ++ ds.map fun d => (d, h.tick, h.ns) }))

/-- TIMESYNC (R158): a die aligns its counters to the edge that the message names. EVT is first-in first-out (R145), so the oldest arrives, and
none before the Cfg message with the topology table, which is sent before it (R161). -/
def execTimesync (die tick ns : Nat) (s : State) : Host.Outcome State Fault Refusal :=
  if (s.hub.syncs.find? fun x => x.1 = die) ≠ some (die, tick, ns) || (s.present die && !(s.die die).topo) then .next s
  else
    let h := s.hub
    .next ((s.modHub fun h => { h with syncs := h.syncs.erase (die, tick, ns) }).modDie die fun d =>
      { d with tick := tick + (h.tick - tick), ns := max d.ns (ns + (h.ns - ns)) })

/-- TIMEBASE_STEP (R437, R438). -/
def State.traceStep (s : State) (backward : Bool) (n : Nat) : State :=
  s.emit hubDie 216 0 0xFFFF 0x16 ((if backward then 2 ^ 23 else 0) + min n (2 ^ 23 - 1))

/-- Whether TBCFG names a source that disciplines the counter: 1PPS (0) or PTM (1); any other value leaves it free running (R438, log entry
69). -/
def Hub.disciplined (h : Hub) : Bool := h.tbsource < 2

/-- TIMEBASE_SOURCE_UPDATE (R438): the source that TBCFG names gives an offset; one of at most 1 ms is slewed, a larger one steps the counters or holds them. -/
def execTimebaseSourceUpdate (offset : Int) (s : State) : Host.Outcome State Fault Refusal :=
  if s.halted || !s.hub.disciplined then .next s
  else if offset.natAbs ≤ 1000000 then .next (s.modHub fun h => { h with slew := offset })
  else if 0 < offset then
    let n := offset.toNat
    let s := s.modHub fun h => { h with ns := h.ns + n, slew := 0, held := 0 }
    .next ({ s with dies := s.dies.map fun (d : DieRegs) => d.stepped n }.rollWindow.traceStep false n)
  else .next ((s.modHub fun h => { h with held := offset.natAbs, slew := 0 }).traceStep true offset.natAbs)

/-- TIMEBASE_WATCHDOG (R160): every live context receives TIMEBASE_LOST, and every die stops. -/
def execTimebaseWatchdog (s : State) : Host.Outcome State Fault Refusal :=
  if s.halted then .next s
  else
    let live := (s.contexts.filter fun c => !c.killed).map Context.id
    .next (live.foldl (fun s c => s.writeBatch c (.agent hubDie 216) [{ code := 0x42, sub := 0x00 }])
      (s.modHub fun h => { h with timebaseLost := true })).settle

/-- POWER_LIMIT_STEP (R461): 100 MHz down to 600 MHz, or back. -/
def execPowerLimitStep (die : Nat) (lower : Bool) (s : State) : Host.Outcome State Fault Refusal :=
  .next (s.modDie die fun d => { d with freq := if lower then max 600 (d.freq - 100) else min 1200 (d.freq + 100) })

/-- THERMAL_TRIP (R451, R462). -/
def execThermalTrip (s : State) : Host.Outcome State Fault Refusal :=
  .next (((s.modHub fun h => { h with tripped := true }).say .thermalTrip).say (.msi 0))

end Sys2Proof.Machine
end

