-- ==== Sys2Proof/Machine/Drain.lean ====
section
/-! DEFINITION. Trace buffers (R441 to R447): the drain, the fall-back of lossless mode, and the writes of TRCHDR and TRCCFG. -/

namespace Sys2Proof.Machine

open Sys2Proof

/-! ## Records and rings (R435, R441) -/

/-- A record's bytes. -/
def TraceRec.value (r : TraceRec) : Nat :=
  r.time % 2 ^ 64 + r.source % 2 ^ 16 * 2 ^ 64 + r.ctx % 2 ^ 16 * 2 ^ 80 + (r.code + if r.body.isSome then 128 else 0) * 2 ^ 96 +
    r.payload % 2 ^ 24 * 2 ^ 104 + ((r.body.map BitVec.toNat).getD 0) * 2 ^ 128

/-- The OVERFLOW record that a buffer owes (R437, R445, R447). -/
def State.overflowRec (s : State) (c : Context) : TraceRec :=
  { die := hubDie, time := s.hub.ns, source := sourceOf hubDie 217 0, ctx := c.id, code := 0x15
    payload := (if c.fellBack then 2 ^ 23 else 0) + min c.overflow (2 ^ 23 - 1) }

/-- Bytes of a record. -/
def TraceRec.size (r : TraceRec) : Nat := if r.body.isSome then 32 else 16

/-- Bytes that a record needs, with the OVERFLOW before it. -/
def Context.needFor (c : Context) (r : TraceRec) : Nat := r.size + if c.owesOverflow then 16 else 0

/-- Whether a record fits; none when HEAD cannot be read (R441, R445). -/
def State.traceFits (s : State) (c : Context) (r : TraceRec) : Option Bool :=
  (s.deviceRead c.id (c.trchdr + 0x10) 4).map fun head => (c.trcTail + c.needFor r + 2 ^ 32 - head) % 2 ^ 32 ≤ c.trcSize

/-- Appends a record to a ring. -/
def State.appendRec (s : State) (c : Context) (tail : Nat) (r : TraceRec) : Option State :=
  (List.range (r.size / 16)).foldl (fun o i => o.bind fun s =>
    State.ringWrite s c.id (c.trcBase + (tail + 16 * i) % c.trcSize) 16 (r.value / 2 ^ (128 * i)) true) (some s)

/-- Writes a record, its OVERFLOW first when one is owed, then TAIL (R441, R445). -/
def State.writeTrace (s : State) (c : Context) (r : TraceRec) : Option State :=
  let o := if c.owesOverflow then s.appendRec c c.trcTail (s.overflowRec c) else some s
  let t := c.trcTail + if c.owesOverflow then 16 else 0
  let tail := (t + r.size) % 2 ^ 32
  (o.bind fun s => s.appendRec c t r).bind fun s =>
    (s.tailWrite c.id (c.trchdr + 0x40) tail).map fun s =>
      s.modCtx c.id fun c => { c with trcTail := tail, overflow := 0, fellBack := false }

/-! ## Drops and fall-back (R445, R447) -/

/-- A buffer's lossless mode falls back to lossy (R447). -/
def State.fallBack (s : State) (id : Nat) : State :=
  s.modCtx id fun c => { c with fallback := true, fellBack := true, holds := [] }

/-- The mode after a fault of the drain's: lossless mode falls back (R447). -/
def State.drainFell (s : State) (c : Context) : State := if c.ll && !c.fallback then s.fallBack c.id else s

/-- Adds a buffer's drops to DROPPED; where that cannot be written they go uncounted, and lossless mode falls back (R445, R447). -/
def State.countDrops (s : State) (id : Nat) : State :=
  match s.ctx? id with
  | none => s
  | some c =>
    if c.dropPend = 0 then s
    else
      let s := s.modCtx id fun c => { c with dropPend := 0 }
      match (s.deviceRead id (c.trchdr + 0x0C) 4).bind fun d => s.tailWrite id (c.trchdr + 0x0C) (min (d + c.dropPend) 0xFFFFFFFF) with
      | some t => t
      | none => s.drainFell c

/-- A record that a buffer loses. -/
def State.loseRec (s : State) (id : Nat) : State := (s.modCtx id Context.countDrop).countDrops id

/-- A record lost to a fault of the drain's. -/
def State.drainFault (s : State) (c : Context) : State := (s.drainFell c).loseRec c.id

/-- Delivers a record to one buffer, if it is still enabled (R443). -/
def State.deliverOne (s : State) (r : TraceRec) (id : Nat) : State :=
  match (s.countDrops id).ctx? id with
  | none => s
  | some c =>
    let s := s.countDrops id
    if !c.en then s
    else
      let s := s.markPages id (c.trchdr + 0x10) 4 false
      match s.traceFits c r with
      | none => s.drainFault c
      | some false => s.loseRec id
      | some true => (s.writeTrace c r).getD (s.drainFault c)

/-- Delivers a record to one buffer; an OVERFLOW written before it goes to the buffers that take every context's records as well (R443). -/
def State.deliver (s : State) (r : TraceRec) (id : Nat) : State :=
  let owed := (((s.countDrops id).ctx? id).filter fun c => c.owesOverflow && c.en).map s.overflowRec
  let t := s.deliverOne r id
  match owed with
  | some o =>
    if (t.ctx? id).any Context.owesOverflow then t
    else ((t.contexts.filter fun c => c.allctx && c.en && c.id ≠ id).map Context.id).foldl (fun t k => t.deliverOne o k) t
  | none => t

/-- Whether a record must wait for a buffer: it takes the record losslessly and has no room. -/
def State.recWaits (s : State) (r : TraceRec) (id : Nat) : Bool :=
  (s.ctx? id).any fun c => c.losslessNow && r.lossless && s.traceFits c r = some false

/-- What the drain does next for a die: the place of a record that has reached it, and a buffer that it goes to, such that it need not wait
there and none of its unit goes there before it (R440). No buffer waits for another's (R448). -/
def State.nextRec (s : State) (die : Nat) : Option (Nat × Nat) :=
  (s.staged.zipIdx.foldl (fun (a : Option (Nat × Nat) × List (Nat × Nat)) x =>
    let r := x.1
    if a.1.isSome || r.die ≠ die then a
    else
      match r.takers.find? fun id => (die = hubDie || r.sent) && !a.2.contains (r.source / 16, id) && !s.recWaits r id with
      | some id => (some (x.2, id), a.2)
      | none => (none, a.2 ++ r.takers.map fun id => (r.source / 16, id))) (none, [])).1

/-- A die's next record for EVT: the oldest of its collector that has not been sent (R145). -/
def State.unsent (s : State) (die : Nat) : Option Nat :=
  (s.staged.findIdx? fun r => r.die = die && !r.sent).filter fun i => (s.staged.take i).countP (fun r => r.die = die) < Config.traceStaging

/-- COESK_TRACE (R145): a die's next staged record reaches the drain over EVT. -/
def execCoeskTrace (die : Nat) (s : State) : Host.Outcome State Fault Refusal :=
  match s.unsent die with
  | none => .next s
  | some i => if die = hubDie then .next s else .next { s with staged := s.staged.modify i fun r => { r with sent := true } }

/-- A record that one of its buffers has had, or lost: it leaves its collector with the last of them. -/
def State.takenBy (s : State) (i id : Nat) : State :=
  { s with staged := (s.staged.modify i fun r => { r with takers := r.takers.filter (· ≠ id) }).filter fun r => !r.takers.isEmpty }

/-- TRACE_DRAIN_WRITE (R441, R445). -/
def execTraceDrainWrite (die : Nat) (s : State) : Host.Outcome State Fault Refusal :=
  match (s.nextRec die).bind fun x => s.staged[x.1]?.map fun r => (r, x) with
  | none => .next s.sweep.settle
  | some (r, i, id) => .next (((s.takenBy i id).deliver r id).retryAgain.sweep.settle)

/-- LOSSLESS_FALLBACK (R447). -/
def execLosslessFallback (ctx : Nat) (s : State) : Host.Outcome State Fault Refusal :=
  match s.ctx? ctx with
  | none => .next s
  | some c =>
    if c.llwait = 0 || !c.holds.any fun h => h.since + c.llwait * 1000000 ≤ s.hub.ns then .next s
    else .next (s.fallBack ctx).retryAgain.sweep.settle

/-! ## TRCHDR and TRCCFG (R442) -/

/-- TRCHDR_WRITE. -/
def execTrchdrWrite (w : Writer) (ctx : Nat) (val : BitVec 64) (s : State) : Host.Outcome State Fault Refusal :=
  if !s.mayWrite w then .next (s.refuse w)
  else .next (s.modCtx ctx fun c => if c.en || val.toNat % 128 ≠ 0 then { c with cfgerr := true } else { c with trchdr := val.toNat })

/-- The header as EN's change from 0 to 1 reads it: BASE, SIZE and TAIL; none when it faults or breaks the limits of R441, of which one is
that it lies in HBM4E. -/
def State.traceHeader (s : State) (c : Context) : Option (Nat × Nat × Nat) :=
  match s.deviceRead c.id c.trchdr 128, s.translateBare c.id c.trchdr .read with
  | none, _ | _, .error _ => none
  | some h, .ok (x, _) =>
    let base := natBits h 0 64
    let size := natBits h 64 32
    let ok := base % 4096 = 0 && (List.range 19).any (fun k => size = 2 ^ (12 + k)) && natBits h 128 32 % 16 = 0 &&
      (match s.region (s.relayPa x.pa) with | .hbm _ => true | _ => false)
    if ok then some (base, size, natBits h 512 32) else none

/-- TRCCFG_WRITE. -/
def execTrccfgWrite (w : Writer) (ctx : Nat) (val : BitVec 32) (s : State) : Host.Outcome State Fault Refusal :=
  match s.ctx? ctx with
  | none => .next s
  | some c =>
    let en := val.getLsbD 0
    let all := val.getLsbD 3
    let hdr := if en && !c.en then s.traceHeader c else some (c.trcBase, c.trcSize, c.trcTail)
    if !s.mayWrite w then .next (s.refuse w)
    else if all && !c.system then .next (s.modCtx ctx fun c => { c with cfgerr := true })
    else
      let s := if en && !c.en then s.markPages ctx c.trchdr 128 false else s
      match hdr with
      | none => .next (s.modCtx ctx fun c => { c with cfgerr := true })
      | some (base, size, tail) =>
        .next ((s.modCtx ctx fun c =>
          { c with en := en, ll := val.getLsbD 2, allctx := all, llwait := val.toNat / 2 ^ 24, trcBase := base, trcSize := size, trcTail := tail
                   fallback := c.fallback && !val.getLsbD 7, cfgerr := c.cfgerr && !val.getLsbD 8
                   holds := if en then c.holds else [] }).retryAgain.sweep.settle)

end Sys2Proof.Machine
end

