-- ==== Sys2Proof/Machine/Pod.lean ====
section
/-! DEFINITION. The scale-up fabric (R421 to R433): stations, PODCFG, the device as target, answers, acknowledgements, trims and
time-outs. -/

namespace Sys2Proof.Machine

open Sys2Proof

/-! ## Stations (R421, R422) -/

/-- Changes a station. -/
def State.modStation (s : State) (st : Nat) (f : Station → Station) : State := { s with stations := s.stations.modify st f }

/-- A station goes down: UP clears, and the system queue receives its TIMEOUT (R405, R408, R421). -/
def State.stationDown (s : State) (st : Nat) : State :=
  if !(s.stations.getD st {}).up then s
  else
    let s := s.modStation st fun t => { t with up := false, downev := true, lanes := 0 }
    match s.sysCtx? with
    | some c => s.writeBatch c.id (.station st) [{ code := 0x41, sub := 0x80 + st }] true
    | none => s

/-- STATION_LINK_DOWN (R421). -/
def execStationLinkDown (st : Nat) (s : State) : Host.Outcome State Fault Refusal := .next (s.stationDown st).settle

/-- STATION_RETRAIN (R421, R422). -/
def execStationRetrain (w : Writer) (st : Nat) (s : State) : Host.Outcome State Fault Refusal :=
  if !s.isOwner w then .next (s.refuse w)
  else .next (s.modStation st fun t => { t with retraining := true })

/-- STATION_TRAINED (R421, R422): a station trains at four lanes. -/
def execStationTrained (st : Nat) (s : State) : Host.Outcome State Fault Refusal :=
  .next (s.modStation st fun t => if t.retraining then { t with up := true, lanes := 4, retraining := false } else t)

/-! ## PODCFG and the dead-peer bits (R424, R433) -/

/-- PODCFG_WRITE (R424). -/
def execPodcfgWrite (w : Writer) (val : BitVec 64) (s : State) : Host.Outcome State Fault Refusal :=
  if !s.isOwner w then .next (s.refuse w)
  else
    let tout := val.toNat % 2 ^ 17
    let dev := val.toNat / 2 ^ 32 % 256
    if 192 ≤ dev || tout < 10 || 100000 < tout || (s.hub.podIdv && dev ≠ s.hub.podDevid) then .next (s.modHub fun h => { h with podErr := true })
    else .next (s.modHub fun h =>
      { h with podIdv := val.getLsbD 40, podDevid := dev, podTout := tout, podErr := h.podErr && !val.getLsbD 31 })

/-- DEAD_PEER_CLEAR_MMIO (R433). -/
def execDeadPeerClearMmio (w : Writer) (mask : BitVec 192) (s : State) : Host.Outcome State Fault Refusal :=
  if !s.isOwner w then .next (s.refuse w) else .next (s.modHub fun h => { h with deadPeers := h.deadPeers &&& ~~~mask })

/-! ## The device as target (R430) -/

/-- Source, pod offset and whether the request keeps within one line and asks what the fabric carries. -/
def podHead : UalinkReq → Nat × Nat × Bool
  | .read src off len => (src, off, 1 ≤ len && off % 128 + len ≤ 128)
  | .write src off _ _ => (src, off, true)
  | .atomic src off op => (src, off, soundAtomic op && op.op ≤ 9)

/-- Performs an arriving request on a line of this device, at its home, and answers; an atomic as one of the die that holds the station
(R430). -/
def State.performPod (s : State) (st l home : Nat) (r : UalinkReq) : State :=
  match r with
  | .read src off len =>
    let a : PodResp := if (s.store.poisonAt (128 * l + off % 128) len).isSome then .poisoned else .data (s.store.line l)
    (s.homeRead l).say (.podAnswer st src a)
  | .write src _ d be => ((s.homeWrite home l none).writeLine l be d 1).say (.podWriteDone st src)
  | .atomic src _ op =>
    match (s.homeWrite home l (if st / 5 = home then none else some (st / 5))).homeAtomic l op 1 with
    | (s, some old) => s.say (.podAnswer st src (.data (BitVec.ofNat 1024 old)))
    | (s, none) => s.say (.podAnswer st src .poisoned)

/-- Whether a request writes its line. -/
def podUse : UalinkReq → Use_ | .read _ _ _ => .read | _ => .write

/-- An arriving request whose frame has moved to another device goes on there from the old home's station (R111, R434); a peer that is
marked dead gives an error. -/
def State.forwardPod (s : State) (st old l : Nat) (r : UalinkReq) : State :=
  let src := (podHead r).1
  match s.region (128 * l), s.homeOf old with
  | .pod peer off, some die =>
    if peer < 192 && s.hub.deadPeers.getLsbD peer then s.say (.podAnswer st src .error)
    else
      let way := stationOf die peer off
      let o : Outstanding := { txn := 0, die := die, core := Config.coresPerDie * die, slot := 255, hood := 0, ctx := 0xFFFF, pc := 0, station := way
                               target := peer, line := l, since := (s.die die).tick, old := some old, reply := some (st, src) }
      let txn := s.eng.nextPend
      match r with
      | .read _ off len =>
        let m := byteMask (off % 128) len
        (s.addRequest { o with mask := m }).say (.podRequest way txn peer l false 0 m)
      | .write _ _ d be => (s.addRequest { o with data := d, mask := be, write := true }).say (.podRequest way txn peer l true d be)
      | .atomic _ _ op => (s.addRequest { o with op := some op }).say (.podAtomic way txn peer l op)
  | _, _ => s.say (.podAnswer st src .error)

/-- A pod request that went on for another device is answered to it. -/
def State.answerPeer (s : State) (o : Outstanding) (r : Option PodResp) : State :=
  let s := s.modEng fun e => { e with pend := e.pend.filter fun x => x.txn ≠ o.txn }
  match o.reply, r with
  | some x, some a => s.say (.podAnswer x.1 x.2 a)
  | some x, none => s.say (.podWriteDone x.1 x.2)
  | none, _ => s

/-! ## The control window (R434, log entry 55) -/

/-- The first pod offset of the control window, which no pod address reaches (R30). -/
def controlWindow : Nat := 2 ^ 43

/-- Whether a cluster of this device holds a translation, a drain record or an unanswered access to a frame of a peer's (R113). -/
def State.holdsFrame (s : State) (frame size : Nat) : Bool :=
  let hits := fun (a : Nat) => frame ≤ a && a < frame + size
  (s.caches.tlb.any fun e => e.frame < frame + size && frame < e.frame + e.size) ||
    (s.caches.drains.any fun r => hits r.oldFrame) || s.eng.pend.any fun o => !o.answered && hits (128 * o.line)

/-- A write into the control window: 1 a TFENCE of the sender's, 2 its acknowledgement, 3 a reclamation message about a frame of the sender's, 4
its answer; with a number, a context and two operands. -/
def State.controlWrite (s : State) (src : Nat) (d : LineData) : State :=
  let v := d.toNat
  let id := natBits v 32 32
  let ctx := natBits v 16 16
  let lo := natBits v 64 64
  let hi := natBits v 128 64
  match natBits v 0 16 with
  | 1 =>
    let tf := s.eng.nextTf
    let op : TFenceOp := { id := tf, ctx := ctx, all := false, lo := lo, hi := hi, clusters := s.allClusters, scope := s.allClusters, hood := none
                           peer := some (src, id) }
    (s.modEng fun e => { e with nextTf := tf + 1 }).startFence op
  | 2 => s.acknowledge id (podCluster src)
  | 3 => s.say (.podAck src 4 id !(s.holdsFrame (0x8000000000000 + src * 2 ^ 43 + lo) hi))
  | 4 => s.peerReclaimed src id (lo ≠ 0)
  | _ => s

/-- UALINK_REQUEST_ARRIVAL (R424, R430, R434, R450): it waits behind a transaction on its line, and for the host to give the line up. -/
def execUalinkRequestArrival (st : Nat) (r : UalinkReq) (s : State) : Host.Outcome State Fault Refusal :=
  let h := podHead r
  let old := h.2.1 % 2 ^ 43 / 128
  let l := s.relayPa (h.2.1 % 2 ^ 43) / 128
  if !(s.stations.getD st {}).up then .next s
  else if !s.hub.podIdv || !h.2.2 then .next (s.say (.podAnswer st h.1 .error))
  else if controlWindow ≤ h.2.1 then
    match r with
    | .write src _ d _ => .next ((s.controlWrite src d).say (.podWriteDone st src)).sweep.settle
    | _ => .next (s.say (.podAnswer st h.1 .error))
  else match s.homeOf l with
    | none => .next (if l = old then s.say (.podAnswer st h.1 .error) else s.forwardPod st old l r)
    | some home =>
      if s.lineBusy l || s.lineQueued l then .next s
      else if s.hostBlocks home l (podUse r) then .next (s.askBack l)
      else .next (s.performPod st l home r).settle

/-! ## The device's own requests (R427 to R432) -/

/-- An outstanding pod request. -/
def State.podPend? (s : State) (txn : Nat) : Option Outstanding := s.eng.pend.find? fun o => o.txn = txn && o.kind = .pod && !o.answered

/-- Frees a posted write's entry; what waited for it is tried again (R428). -/
def State.freeWrite (s : State) (txn : Nat) : State :=
  let s := s.dropWrite txn
  ((if s.hub.late.isEmpty then s else (State.flushLate s.hub.late s).enterWritten).pruneDrains).retryAgain.sweep

/-- A posted write whose target has answered with an error (R30, R107): a copy's chunk is lost with its record (R363), and a warp's store
parks, at once or when it can; a write of the hub's own is lost. -/
def State.failWrite (s : State) (o : Outstanding) : State :=
  match s.copy? o.copy with
  | some c => (if c.lostChunks.contains o.chunk then s else s.loseChunk c o.chunk { lane := 0, cause := (0x18, 0x02), va := o.va }).freeWrite o.txn
  | none =>
    if o.core = hubCore then s.freeWrite o.txn
    else (s.modEng fun e => { e with pend := e.pend.map fun x =>
      if x.txn = o.txn then { x with answered := true, fail := some (0x18, 0x02) } else x }).retryAgain.sweep

/-- The request between dies that a stub has sent on under a pod transaction (R434). -/
def State.podOut? (s : State) (txn : Nat) : Option CoeskOut := s.coh.outs.find? fun o => o.podTxn = some txn

/-- POD_RESPONSE (R30, R59, R427, R430). -/
def execPodResponse (txn : Nat) (r : PodResp) (s : State) : Host.Outcome State Fault Refusal :=
  match s.podPend? txn with
  | none => .next (match s.podOut? txn with | some o => (s.answerOut o).resume.sweep.settle | none => s)
  | some o =>
    if o.reply.isSome then .next (s.answerPeer o (some r)).settle
    else if o.write then (match r with | .error => .next (s.failWrite o).settle | _ => .next s)
    else
      let s := s.answerAccess o fun o => match r with
        | .data d => { o with data := d, data64 := d.setWidth 64 }
        | .poisoned => { o with fail := some (0x17, 0x04) }
        | .error => { o with fail := some (0x18, 0x02) }
      .next s.pruneDrains.sweep.settle

/-- POD_WRITE_ACK (R428). -/
def execPodWriteAck (txn : Nat) (s : State) : Host.Outcome State Fault Refusal :=
  match s.podPend? txn with
  | some o => if o.write then .next (if o.reply.isSome then s.answerPeer o none else s.freeWrite txn).settle else .next s
  | none => .next (match s.podOut? txn with | some o => (s.answerOut o).resume.sweep.settle | none => s)

/-- Sends an outstanding request again. -/
def State.resend (s : State) (o : Outstanding) : State :=
  match o.op with
  | none => s.say (.podRequest o.station o.txn o.target o.line o.write o.data o.mask)
  | some x => s.say (.podAtomic o.station o.txn o.target o.line x)

/-- Restarts a request's time-out (R431). -/
def State.restart (s : State) (o : Outstanding) : State :=
  s.modEng fun e => { e with pend := e.pend.map fun x => if x.txn = o.txn then { x with since := (s.die x.die).tick } else x }

/-- TRIMMED_HEADER (R431): every notice counts. The header of an atomic as the target has it is a write's, which was not performed; that of its
response stands for an atomic that was, and sends nothing again. -/
def execTrimmedHeader (st : Nat) (k : TrimKind) (s : State) : Host.Outcome State Fault Refusal :=
  let t := s.modStation st fun t => { t with trims := min 0xFFFF (t.trims + 1) }
  match k with
  | .asTarget src => .next (t.say (.podResend st src))
  | .ownWrite txn => .next (match s.podPend? txn with
    | some o => if o.write || o.op.isSome then (t.restart o).resend o else t
    | none => t)
  | .readResponse txn => .next (match s.podPend? txn with
    | some o => if o.write then t else if o.op.isSome then t.restart o else (t.restart o).resend o
    | none => t)

/-- A pod request fails with a TIMEOUT (R432): an instruction with the subcode `sub`, a posted write with the next one, in a record
without a warp. -/
def State.failPod (s : State) (o : Outstanding) (sub : Nat) : State :=
  if o.reply.isSome then s.answerPeer o (some .error)
  else if o.write then
    (s.writeBatch o.ctx (.station o.station) [{ code := 0x41, sub := sub + 1, pc := o.pc, va := BitVec.ofNat 64 o.va }]).freeWrite o.txn
  else (s.answerAccess o fun o => { o with fail := some (0x41, sub) }).pruneDrains.sweep

/-- POD_PORT_DOWN (R432). -/
def execPodPortDown (txn : Nat) (s : State) : Host.Outcome State Fault Refusal :=
  match s.podPend? txn with
  | some o => .next (s.failPod o 0x42).settle
  | none => .next s

/-- Marks a peer dead (R433); no TFENCE and no reclamation waits for it any longer (R434). -/
def State.markDead (s : State) (o : Outstanding) : State :=
  let s := (s.modHub fun h => { h with deadPeers := h.deadPeers ||| ((1 : BitVec 192) <<< o.target) }).emit o.die 208 (o.station % 5) o.ctx 0x17 o.target
  let s := s.modEng fun e => { e with stubs := e.stubs.map fun t => { t with asked := t.asked.map fun l => l.filter (· ≠ o.target) } }
  ((s.eng.tfences.filter fun t => t.clusters.contains (podCluster o.target)).map TFenceOp.id).dedup.foldl
    (fun s id => s.acknowledge id (podCluster o.target)) s

/-- POD_TIMEOUT (R432, R433): the request fails, and its peer is marked dead or its memory node's station goes down. -/
def execPodTimeout (txn : Nat) (s : State) : Host.Outcome State Fault Refusal :=
  match s.podPend? txn with
  | none => .next s
  | some o =>
    if (s.die o.die).tick < o.since + s.hub.podTout * 1000 then .next s
    else
      let s := s.failPod o 0x40
      .next (if o.target < 192 then s.markDead o else s.stationDown (o.target - 192)).settle

end Sys2Proof.Machine
end

