-- ==== Sys2Proof/Machine/Manage.lean ====
section
/-! DEFINITION. Management: ownership and its leases (R454, R455), the carve-out (R47, R48), contexts (R24, R456, R457), attestation and
firmware commands (R458, R459). -/

namespace Sys2Proof.Machine

open Sys2Proof

/-! ## Ownership (R454, R455) -/

/-- A lease: 3 s, in µs. -/
def leaseStart : Nat := 3000000

/-- The 10 ms election window, in units of the hub's oscillator. -/
def electionTicks : Nat := 1000000

/-- A master becomes the holder. -/
def State.giveTo (s : State) (m prio : Nat) : State :=
  (s.modHub fun h => { h with holder := m, hprio := prio, lease := leaseStart, elect := false, claims := [],
                              boot := if h.boot = 8 then 9 else h.boot }).say (.msi 0)

/-- Nobody holds the device. -/
def State.giveUp (s : State) : State := (s.modHub fun h => { h with holder := 0, hprio := 0, lease := 0 }).say (.msi 0)

/-- The winner among claims: the highest priority, and of equals the lower master code. -/
def winner : List (Nat × Nat) → Option (Nat × Nat)
  | [] => none
  | c :: l => match winner l with
    | some d => if d.2 < c.2 || (d.2 = c.2 && c.1 < d.1) then some c else some d
    | none => some c

/-- Whether a master can reach the device's configuration: step 7 of bring-up is done (R460). -/
def State.reachable (s : State) (m : Nat) : Bool := 1 ≤ m && m ≤ 3 && 8 ≤ s.hub.boot && !s.hub.bootFail

/-- CLAIM (R455): while there is no holder it opens or enters an election window. -/
def execClaim (master prio : Nat) (s : State) : Host.Outcome State Fault Refusal :=
  if !s.reachable master then .next s
  else if s.hub.holder ≠ 0 || 15 < prio then .next (s.refuse (.master master))
  else .next (s.modHub fun h =>
    { h with elect := true, electAt := if h.elect then h.electAt else h.osc, claims := h.claims ++ [(master, prio)] })

/-- CLAIM_BEAT (R455). -/
def execClaimBeat (master : Nat) (s : State) : Host.Outcome State Fault Refusal :=
  if !s.reachable master then .next s
  else if !s.isOwner (.master master) then .next (s.refuse (.master master))
  else .next (s.modHub fun h => { h with lease := leaseStart })

/-- CLAIM_RELEASE (R455): to a named successor, or to nobody. -/
def execClaimRelease (master nextHolder : Nat) (s : State) : Host.Outcome State Fault Refusal :=
  if !s.reachable master then .next s
  else if !s.isOwner (.master master) || 3 < nextHolder then .next (s.refuse (.master master))
  else
    let s := s.modHub fun h => { h with succ := nextHolder }
    .next (if nextHolder = 0 || nextHolder = master then s.giveUp else s.giveTo nextHolder 0)

/-- ELECTION_CLOSE (R455): 10 ms after the window opened, by the hub's oscillator (log entry 33). -/
def execElectionClose (s : State) : Host.Outcome State Fault Refusal :=
  if !s.hub.elect || s.hub.osc < s.hub.electAt + electionTicks then .next s
  else match winner s.hub.claims with
    | some c => .next (s.giveTo c.1 c.2)
    | none => .next (s.modHub fun h => { h with elect := false })

/-- LEASE_LAPSE (R455): when the lease has run out (log entry 33). -/
def execLeaseLapse (s : State) : Host.Outcome State Fault Refusal :=
  if s.hub.holder = 0 || s.hub.lease ≠ 0 then .next s else .next s.giveUp

/-! ## The carve-out (R47, R48) -/

/-- Whether a die may take a carve-out of `n` units (R48): no context but the system context has die scratch there, and its region fits; not
while a change is under way (log entry 50). -/
def State.carveFits (s : State) (die n : Nat) : Bool :=
  n ≤ 4 && !(s.die die).busy &&
    s.contexts.all fun c => c.dsSize.getD die 0 = 0 || (c.system && c.dsOff.getD die 0 + c.dsSize.getD die 0 ≤ n * 1024)

/-- L2CFG_WRITE (R47, R48). -/
def execL2cfgWrite (w : Writer) (die : Nat) (val : Word) (s : State) : Host.Outcome State Fault Refusal :=
  if !s.isOwner w then .next (s.refuse w)
  else
    let n := val.toNat % 8
    let s := s.modDie die fun d => { d with cfgerr := d.cfgerr && !val.getLsbD 4 }
    if n = (s.die die).carve then .next s
    else if s.carveFits die n then .next (s.modDie die fun d => { d with busy := true, carveTo := n })
    else .next (s.modDie die fun d => { d with cfgerr := true })

/-- Evicts the lines of a die's L2 for which its ways no longer have room, the least recently used of each set first (log entry 50). -/
def State.trimL2 (s : State) (die : Nat) : State :=
  let l := s.coh.l2
  let gone := (List.range l.length).filterMap fun i =>
    l[i]?.bind fun x =>
      let same := fun (y : L2Line) => y.die = die && sliceOf y.line = sliceOf x.line && l2Set y.line = l2Set x.line
      if x.die = die && s.cacheWays die ≤ (l.take i).countP same then some x else none
  gone.foldl State.l2Evict s

/-- CARVE_CHANGE_DONE (R48): the added ways are zeroed, data and tags. -/
def execCarveChangeDone (die : Nat) (s : State) : Host.Outcome State Fault Refusal :=
  let d := s.die die
  if !d.busy then .next s
  else
    let s := (s.modDie die fun d => { d with busy := false, carve := d.carveTo }).trimL2 die
    .next { s with store := s.store.wipe (apertureBase die + d.carve * 0x4000000) ((d.carveTo - d.carve) * 0x4000000) }

/-! ## Contexts (R24, R456, R457) -/

/-- A field of a descriptor. -/
def CtxSlot.field (c : CtxSlot) (off n : Nat) : Nat :=
  let v := c.desc.foldr (fun (w : Word) a => w.toNat + 2 ^ 32 * a) 0
  natBits v (8 * off) (8 * n)

/-- The context that a descriptor describes. -/
def CtxSlot.context (c : CtxSlot) : Context :=
  let four := fun (off : Nat) => (List.range 4).map fun d => c.field (off + 2 * d) 2
  { slot := c.slot
    id := c.field 0x04 2
    system := (c.desc.getD 0 0).getLsbD 4
    irqen := (c.desc.getD 0 0).getLsbD 5
    ptroot := c.field 0x08 8
    lpBase := c.field 0x10 8
    lpSize := c.field 0x18 4
    lpSlots := c.field 0x1C 4
    dsOff := four 0x20
    dsSize := four 0x28
    saveBase := c.field 0x30 8
    wslots := c.field 0x38 4
    bslots := c.field 0x3C 4
    fqhdr := c.field 0x40 8
    poolOff := four 0x48
    poolSize := four 0x50 }

/-- Whether a 64-bit number is a canonical address. -/
def canonicalNat (a : Nat) : Bool := canonical (BitVec.ofNat 64 a)

/-- The window descriptor's own limits (R24). -/
def Context.lpBad (c : Context) : Bool :=
  let half := if c.lpBase < 2 ^ 63 then 2 ^ 56 else 2 ^ 64
  !canonicalNat c.lpBase || c.lpBase % 128 ≠ 0 || c.lpSize % 4096 ≠ 0 || 2 ^ 24 < c.lpSize || 32768 < c.lpSlots ||
    (c.lpSize ≠ 0 && c.lpSlots = 0) || half < c.lpBase + c.lpSlots * 96 * c.lpSize

/-- Whether two regions, given by start and size, share a unit. -/
def regionsMeet (a n b m : Nat) : Bool := n ≠ 0 && m ≠ 0 && a < b + m && b < a + n

/-- Whether a die-scratch region is refused (R24); one of size zero names no byte and is not (log entry 50). -/
def State.dsBad (s : State) (c : Context) (d : Nat) : Bool :=
  let a := c.dsOff.getD d 0
  let n := c.dsSize.getD d 0
  n ≠ 0 && (0x1000 < n || (s.die d).carve * 1024 < a + n ||
    s.contexts.any fun o => regionsMeet a n (o.dsOff.getD d 0) (o.dsSize.getD d 0))

/-- Whether a pool lies outside its die-scratch region (R206). -/
def Context.poolBad (c : Context) (d : Nat) : Bool :=
  c.poolSize.getD d 0 ≠ 0 && c.dsSize.getD d 0 < c.poolOff.getD d 0 + c.poolSize.getD d 0

/-- Reserved bits of a descriptor (R456). -/
def CtxSlot.reservedBad (x : CtxSlot) : Bool :=
  (x.desc.getD 0 0).toNat &&& 0xFF00FEC0 ≠ 0 || x.field 0x06 2 ≠ 0 || x.field 0x58 40 ≠ 0

/-- STATUS of a create command (R457). -/
def State.createStatus (s : State) (x : CtxSlot) : Nat :=
  let c := x.context
  if x.valid then 1
  else if c.id = 0xFFFF || (s.ctx? c.id).isSome then 2
  else if c.system = s.sysCtx?.isSome then 3
  else if c.lpBad || (List.range 4).any (s.dsBad c) then 4
  else if c.ptroot % 4096 ≠ 0 || !(match s.region c.ptroot with | .hbm _ => true | _ => false) then 5
  else if x.reservedBad || (List.range 4).any c.poolBad then 6
  else if !canonicalNat c.saveBase || c.saveBase % 65536 ≠ 0 || 18432 < c.wslots || 4608 < c.bslots then 7
  else if !canonicalNat c.fqhdr || c.fqhdr % 128 ≠ 0 then 8
  else if s.dies.any DieRegs.busy then 9
  else 0

/-- Changes a context slot. -/
def State.modSlot (s : State) (n : Nat) (f : CtxSlot → CtxSlot) : State :=
  { s with slots := s.slots.map fun x => if x.slot = n then f x else x }

/-- Zeroes a context's die-scratch regions (R49). -/
def State.wipeScratch (s : State) (c : Context) : State :=
  { s with store := (List.range 4).foldl (fun m d =>
      m.wipe (apertureBase d + c.dsOff.getD d 0 * 65536) (c.dsSize.getD d 0 * 65536)) s.store }

/-- The create command (R457). -/
def State.create (s : State) (x : CtxSlot) : State :=
  let st := s.createStatus x
  if st ≠ 0 then s.modSlot x.slot fun y => { y with status := st }
  else
    let s := (s.wipeScratch x.context).modSlot x.slot fun y => { y with status := 0, valid := true }
    { s with contexts := s.contexts ++ [x.context] }

/-- CONTEXT_CREATE (R457). -/
def execContextCreate (w : Writer) (slot : Nat) (s : State) : Host.Outcome State Fault Refusal :=
  if !s.mayWrite w then .next (s.refuse w)
  else match s.slots.find? fun x => x.slot = slot with
    | some x => .next (s.create x)
    | none => .next s

/-- The destroy command (R419, R457). -/
def State.destroy (s : State) (slot : Nat) : State :=
  match s.slotCtx? slot with
  | none => s
  | some c =>
    let s := (s.kill c.id false).sweep
    let s := { s with contexts := s.contexts.filter fun o => o.id ≠ c.id,
                      store := { s.store with owner := s.store.owner.filter fun o => o.2 ≠ c.id + 1 } }
    s.modSlot slot fun y => { y with valid := false }

/-- CONTEXT_DESTROY (R457). -/
def execContextDestroy (w : Writer) (slot : Nat) (s : State) : Host.Outcome State Fault Refusal :=
  if !s.mayWrite w then .next (s.refuse w) else .next (s.destroy slot).settle

/-! ## Attestation (R459) -/

/-- The measurement of an index: the boot ROM, the firmware stages that run, the dies, the security versions and revocations (R459). -/
def Hub.measurement (h : Hub) (index : Nat) : BitVec 256 :=
  if index = 1 then Config.romDigest
  else if index = 6 then BitVec.ofNat 256 (h.discovered.foldl (fun a d => a * 2 ^ 64 + d.2.ident.toNat) 0)
  else if index = 7 then BitVec.ofNat 256 (h.minVersion.foldl (fun a v => a * 2 ^ 32 + v) h.revoked.toNat)
  else (h.measured.lookup (index - 1)).getD 0

/-- Answers an SPDM command: every master, owner or not. -/
def State.attest (s : State) (master cmd : Nat) (a : SpdmAnswer) : State := if s.reachable master then s.say (.spdm master cmd a) else s

/-- GET_VERSION (R459): SPDM 1.2. -/
def execGetVersion (master : Nat) (s : State) : Host.Outcome State Fault Refusal := .next (s.attest master 1 (.version 1 2))

/-- GET_CAPABILITIES (R459). -/
def execGetCapabilities (master : Nat) (s : State) : Host.Outcome State Fault Refusal := .next (s.attest master 2 (.content (Config.spdmContent 2 0 0)))

/-- NEGOTIATE_ALGORITHMS (R459): the vendor-defined identifier of Falcon-1024 with SHAKE256. -/
def execNegotiateAlgorithms (master : Nat) (s : State) : Host.Outcome State Fault Refusal := 
  .next (s.attest master 3 (.falcon1024Shake256 (Config.spdmContent 3 0 0)))

/-- GET_DIGESTS (R459). -/
def execGetDigests (master : Nat) (s : State) : Host.Outcome State Fault Refusal := .next (s.attest master 4 (.content (Config.spdmContent 4 0 0)))

/-- GET_CERTIFICATE (R459). -/
def execGetCertificate (master slot : Nat) (s : State) : Host.Outcome State Fault Refusal := 
  .next (s.attest master 5 (.content (Config.spdmContent 5 slot 0)))

/-- CHALLENGE (R459). -/
def execChallenge (master : Nat) (nonce : BitVec 256) (s : State) : Host.Outcome State Fault Refusal :=
  .next (s.attest master 6 (.content (Config.spdmContent 6 0 nonce)))

/-- GET_MEASUREMENTS (R459): indices 1 to 7. -/
def execGetMeasurements (master index : Nat) (s : State) : Host.Outcome State Fault Refusal :=
  .next (if 1 ≤ index && index ≤ 7 then
    s.attest master 7 (.measurement index (s.hub.measurement index) (Config.spdmContent 7 index (s.hub.measurement index))) else s)

/-! ## Firmware (R458) -/

/-- FIRMWARE_REVOCATION_COMMAND (R458): signed, from the owner; revocation and minimum versions only rise. -/
def execFirmwareRevocationCommand (c : RevocationCmd) (s : State) : Host.Outcome State Fault Refusal :=
  if !s.isOwner (.master c.master) then .next (s.refuse (.master c.master))
  else if !c.signatureOk then .next s
  else .next (s.modHub fun h =>
    { h with revoked := h.revoked ||| c.revoke
             minVersion := (List.range 4).map fun i => max (h.minVersion.getD i 0) (c.minVersion.getD i 0) })

end Sys2Proof.Machine
end

