-- ==== Sys2Proof/Machine/Bring.lean ====
section
/-! DEFINITION. Reset and bring-up (R460): firmware stages (R458), training (R143), discovery (R161), the zeroing of HBM4E (R56), the CXL
link and stations (R421), and the first election (R455). -/

namespace Sys2Proof.Machine

open Sys2Proof

/-- Step `n` begins (R460). -/
def State.beginStep (s : State) (n : Nat) : State := s.modHub fun h => { h with boot := n, bootFail := false, recovery := none }

/-- The step in BOOTSTAT failed; `stage` is the firmware stage for which the mailbox accepts an image (R458, R460). -/
def State.failStep (s : State) (stage : Option Nat) : State := s.modHub fun h => { h with bootFail := true, recovery := stage }

/-- Whether the ROM accepts an image for a stage: its signature, its key and its security version (R458). -/
def Hub.accepts (h : Hub) (img : FirmwareImage) : Bool :=
  img.signatureOk && (img.key.any fun i => i < 4 && !h.revoked.getLsbD i) && h.minVersion.getD (img.stage - 1) 0 ≤ img.version

/-- Whether a firmware stage verifies: its image is the stage's own, and the ROM accepts it (R458). -/
def Hub.stageOk (h : Hub) (stage : Nat) : Bool := (h.bring.stages[stage - 1]?).any fun img => img.stage = stage && h.accepts img

/-- A verified stage runs, and is measured (R458, R459). -/
def State.runStage (s : State) (stage : Nat) : State :=
  match s.hub.bring.stages[stage - 1]? with
  | some img => s.modHub fun h => { h with measured := h.measured.filter (fun m => m.1 ≠ stage) ++ [(stage, img.digest)] }
  | none => s

/-- Step 8 (R455): the election's claims, or the wait for them. -/
def State.bring8 (s : State) : State :=
  let s := s.beginStep 8
  match winner (s.hub.bring.election.filter fun c => 1 ≤ c.1 && c.1 ≤ 3 && c.2 ≤ 15) with
  | some c => s.giveTo c.1 c.2
  | none => s

/-- Step 7: the CXL link, then the stations, at four lanes or not at all (R422). -/
def State.bring7 (s : State) : State :=
  let s := s.beginStep 7
  if !s.hub.bring.cxlTrained then s.failStep none
  else (s.hub.bring.stations.foldl (fun s t => s.modStation t fun x => { x with up := true, lanes := 4 }) s).bring8

/-- Step 6: stages 2 to 4, each run only once verified. -/
def State.bring6 (s : State) : State :=
  let s := s.beginStep 6
  let t := ([2, 3, 4].takeWhile s.hub.stageOk).foldl State.runStage s
  match [2, 3, 4].find? fun k => !s.hub.stageOk k with
  | some k => t.failStep (some k)
  | none => t.bring7

/-- Step 5: every line of HBM4E holds zero data and a zero tag (R56). -/
def State.bring5 (s : State) : State :=
  let s := s.beginStep 5
  if s.hub.bring.hbmOk then { s with store := {} }.bring6 else s.failStep none

/-- Whether two dies reach each other in at most two hops: directly, through a neighbour, or over both their hub bundles (R163). -/
def State.reaches (s : State) (i j : Nat) : Bool :=
  i = j || (s.routeOf i j).1 ≠ hubDie || ((s.die i).tmHub ≠ 0 && (s.die j).tmHub ≠ 0)

/-- Discovery ends: the dies found stand in the topology table; a die left out makes the package degraded. No compute die, or two that
cannot reach each other, fails discovery (R161). -/
def State.closeDiscovery (s : State) : State :=
  let found := fun (d : Nat) => (s.hub.discovered.lookup d).isSome
  let s := { s with dies := s.dies.mapIdx fun i (d : DieRegs) => { d with present := found i } }
  let s := s.modHub fun h => { h with closed := true, degraded := !(List.range 4).all found }
  let dies := (List.range 4).filter found
  if !dies.isEmpty && dies.all fun i => dies.all (s.reaches i) then s else s.failStep none

/-- READY once every die has acknowledged (R161). -/
def State.readyIfAll (s : State) : State :=
  if s.hub.closed && !s.hub.ready && !s.hub.bootFail && s.dies.all (fun d => !d.present || d.topoAck)
  then (s.modHub fun h => { h with ready := true }).bring5 else s

/-- A DISCOVER record found through a hub port whose bundle trained: a class that is not a compute die is left out, and so is a second die
that claims the front role, which is the hub's (R161, R162). -/
def State.takeDiscover (s : State) (port : Nat) (r : DiscoverRec) : State :=
  if port < 4 && (s.die port).tmHub ≠ 0 && r.cls = 0 && !r.caps.getLsbD 4 && (s.hub.discovered.lookup port).isNone then
    s.modHub fun h => { h with discovered := h.discovered ++ [(port, r)] }
  else s

/-- Step 4. With no records supplied it goes on by DISCOVER_RECORD, DISCOVERY_TIMEOUT and CFG. -/
def State.bring4 (s : State) : State :=
  let s := s.beginStep 4
  let l := s.hub.bring.discover
  if l.isEmpty then s
  else
    let s := (List.range 4).foldl (fun s p => match l.getD p none with | some r => s.takeDiscover p r | none => s) s
    let s := s.closeDiscovery
    { s with dies := s.dies.map fun (d : DieRegs) => { d with topo := d.present, topoAck := d.present } }.readyIfAll

/-- Step 3: the modules of each die's bundles that trained (R143); a die that the reference tick reaches from now on starts at the hub's
counters (R157, R439). -/
def State.bring3 (s : State) : State :=
  let s := s.beginStep 3
  let l := s.hub.bring.trained
  { s with dies := s.dies.mapIdx fun i (d : DieRegs) =>
      let t := l.getD i (0, 0, 0)
      { d with tick := s.hub.tick, ns := s.hub.ns, tmHub := min 4 t.1, tmLow := min 12 t.2.1, tmHigh := min 12 t.2.2 } }.bring4

/-- Step 2: the ROM verifies and runs stage 1. -/
def State.bring2 (s : State) : State :=
  let s := s.beginStep 2
  if s.hub.stageOk 1 then (s.runStage 1).bring3 else s.failStep (some 1)

/-- The device after reset, with what is fused and what lies outside it kept. -/
def State.released (s : State) (b : BringUp) : State :=
  { State.reset with
    agenda := s.agenda
    out := s.out
    free := s.free
    hub := { bring := b, revoked := s.hub.revoked, minVersion := s.hub.minVersion } }

/-- RESET (R460). -/
def execReset (b : BringUp) (s : State) : Host.Outcome State Fault Refusal := .next (s.released b).bring2

/-- Reference ticks of the 100 ms within which a die must send its DISCOVER record. -/
def discoveryTicks : Nat := 10000000

/-- DISCOVER_RECORD (R161): within 100 ms of reset. -/
def execDiscoverRecord (port : Nat) (r : DiscoverRec) (s : State) : Host.Outcome State Fault Refusal :=
  if s.hub.boot ≠ 4 || s.hub.closed || s.hub.bootFail || discoveryTicks ≤ s.hub.tick then .next s
  else
    let s := s.takeDiscover port r
    .next (if s.hub.discovered.length = 4 then s.closeDiscovery else s)

/-- DISCOVERY_TIMEOUT (R161): 100 ms after reset, in reference ticks. -/
def execDiscoveryTimeout (s : State) : Host.Outcome State Fault Refusal :=
  if s.hub.boot ≠ 4 || s.hub.closed || s.hub.bootFail || s.hub.tick < discoveryTicks then .next s else .next s.closeDiscovery

/-- CFG (R145, R161): credits, the topology table, its acknowledgement, or configuration, of which the manual names no effect. -/
def execCfg (c : CfgMsg) (s : State) : Host.Outcome State Fault Refusal :=
  match c with
  | .credits link vc count =>
    .next (s.modHub fun h => { h with credits := h.credits.filter (fun x => (x.1, x.2.1) ≠ (link, vc)) ++ [(link, vc, count)] })
  | .topology die =>
    if s.hub.closed && !s.hub.ready && s.present die then .next (s.modDie die fun d => { d with topo := true }) else .next s
  | .acknowledge die =>
    if (s.die die).topo then .next (s.modDie die fun d => { d with topoAck := true }).readyIfAll else .next s
  | .config _ => .next s  -- behind the die's TimeSync messages, as all of EVT is; its arrival changes nothing

/-- RECOVERY_IMAGE (R458): an image for the failed stage lets bring-up go on from there. -/
def execRecoveryImage (img : FirmwareImage) (s : State) : Host.Outcome State Fault Refusal :=
  if s.hub.recovery ≠ some img.stage || !s.hub.accepts img then .next s
  else
    let s := s.modHub fun h => { h with
      bring := { h.bring with stages := (List.range 4).map fun i =>
        if i + 1 = img.stage then img else h.bring.stages.getD i { stage := 0, signatureOk := false } } }
    .next (if img.stage = 1 then s.bring2 else s.bring6)

end Sys2Proof.Machine
end

