-- ==== Sys2Proof/Machine/Sfu.lean ====
section
/-! DEFINITION. The SFU results of R84 and R85: exact values rounded toward zero. The transcendental ones are formed in fixed
point with 640 fraction bits, far below the gap between any of these values and a boundary of the precision kept (log entry 12). -/

namespace Sys2Proof.Machine

open Sys2Proof

/-- Fraction bits of the fixed-point working values. -/
def fixW : Nat := 640
/-- ⌊ln 2 × 2^640⌋. -/
def ln2Fix : Nat := 0xb17217f7d1cf79abc9e3b39803f2f6af40f343267298b62d8a0d175b8baafa2be7b876206debac98559552fb4afa1b10ed2eae35c138214427573b291169b8253e96ca16224ae8c51acbda11317c387e
/-- ⌊π / 2 × 2^640⌋. -/
def halfPiFix : Nat := 0x1921fb54442d18469898cc51701b839a252049c1114cf98e804177d4c76273644a29410f31c6809bbdf2a33679a748636605614dbe4be286e9fc26adadaa3848bc90b6aecc4bcfd8de89885d34c6fdad6
/-- ⌊2 / π × 2^800⌋. -/
def twoOverPi : Nat := 0xa2f9836e4e441529fc2757d1f534ddc0db6295993c439041fe5163abdebbc561b7246e3a424dd2e006492eea09d1921cfe1deb1cb129a73ee88235f52ebb4484e99c7026b45f7e413991d639835339f49c845f8bbdf9283b1ff897ffde05980fef2f118b

/-- Product of two fixed-point values. -/
def fixMul (a b : Nat) : Nat := a * b / 2 ^ fixW

/-- Integer square root by trying bits `b`−1 down to 0 above `acc`. -/
def isqrtFrom (n : Nat) : Nat → Nat → Nat
  | 0, acc => acc
  | b + 1, acc =>
    let c := acc + 2 ^ b
    isqrtFrom n b (if c * c ≤ n then c else acc)

/-- ⌊√n⌋ for n below 2^320. -/
def isqrt (n : Nat) : Nat := isqrtFrom n 160 0

/-- Σ yᵏ/k! with its even and odd parts apart: `t` is the term of index `k`. -/
def expTerms (y : Nat) : Nat → Nat → Nat → Nat × Nat → Nat × Nat
  | 0, _, _, r => r
  | n + 1, k, t, (ev, od) =>
    let t' := fixMul t y / (k + 1)
    expTerms y n (k + 1) t' (if k % 2 = 0 then (ev + t, od) else (ev, od + t))

/-- Even and odd parts of the exponential series of y. -/
def expParts (y : Nat) : Nat × Nat := expTerms y 160 0 (2 ^ fixW) (0, 0)

/-- e^y for 0 ≤ y < 1. -/
def expPos (y : Nat) : Nat := let (a, b) := expParts y; a + b

/-- Squares a fixed-point value n times. -/
def fixSquare : Nat → Nat → Nat
  | 0, x => x
  | n + 1, x => fixSquare n (fixMul x x)

/-- e^(−z) for 0 ≤ z < 128. -/
def expNeg (z : Nat) : Nat := let (a, b) := expParts (z / 256); fixSquare 8 (a - b)

/-- Σ (−1)ᵏ terms with index step 2: the terms of sine or cosine; `t` is the term reached, `k` the last factor used. -/
def trigTerms (y2 : Nat) : Nat → Nat → Nat → Nat × Nat → Nat × Nat
  | 0, _, _, r => r
  | n + 1, k, t, (p, m) => trigTerms y2 n (k + 2) (fixMul t y2 / ((k + 1) * (k + 2))) (m, p + t)

/-- sin y for 0 ≤ y ≤ π/2. The sum has an even number of terms, so the parts come back in place. -/
def sinFix (y : Nat) : Nat := let (p, m) := trigTerms (fixMul y y) 80 1 y (0, 0); p - m

/-- cos y for 0 ≤ y ≤ π/2. -/
def cosFix (y : Nat) : Nat := let (p, m) := trigTerms (fixMul y y) 80 0 (2 ^ fixW) (0, 0); p - m

/-- Σ z^(2k+1)/(2k+1). -/
def atanhTerms (z2 : Nat) : Nat → Nat → Nat → Nat → Nat
  | 0, _, _, acc => acc
  | n + 1, k, t, acc => atanhTerms z2 n (k + 2) (fixMul t z2) (acc + t / k)

/-- log2 of a value 2^W ≤ m < 2^(W+1), less W: between 0 and 1. -/
def log2Fix (m : Nat) : Nat :=
  let one := 2 ^ fixW
  let z := (m - one) * one / (m + one)
  2 * atanhTerms (fixMul z z) 220 1 z 0 * one / ln2Fix

/-- FP32 less its lowest fraction bit (R84). -/
def fF32Short : Fmt := { ebits := 8, fbits := 22, bias := 127, sub := true }

/-- An inexact FP32 SFU result m × 2^e, toward zero at the precision kept, then FTZ (R84, R85). -/
def sfuRound (v : FEnv) (s : Bool) (m : Nat) (e : Int) : FRes :=
  let (b, fl) := roundFin fF32Short { v with rm := 2 } s m e true
  (2 * b, fl)

/-- A fixed-point value as a significand and exponent for `sfuRound`. -/
def sfuFix (v : FEnv) (s : Bool) (x : Nat) : FRes := sfuRound v s x (-(fixW : Int))

/-- FRCP (R84, R85). -/
def sfuRcp (F : Fmt) (v : FEnv) (b : Nat) : FRes :=
  match fdecode F v.daz b with
  | .inf s => (fsign F s, 0)
  | .fin s m e =>
    if m = 0 then (finf F s, flDZ)
    else let (q, x, st) := divMag 1 0 m e; roundFin F { v with rm := 2 } s q x st
  | x => nanRes F v [x]

/-- FSQRT (R84, R85). -/
def sfuSqrt (F : Fmt) (v : FEnv) (b : Nat) : FRes :=
  match fdecode F v.daz b with
  | .inf s => if s then invalid F else (finf F false, 0)
  | .fin s m e =>
    if m = 0 then (fsign F s, 0)
    else if s then invalid F
    else
      let k := 260 - Nat.log2 m
      let k := if (e - k) % 2 = 0 then k else k + 1
      let r := isqrt (m * 2 ^ k)
      roundFin F { v with rm := 2 } false r ((e - k) / 2) (r * r ≠ m * 2 ^ k)
  | x => nanRes F v [x]

/-- FRSQ (R84, R85): fraction less its lowest bit. -/
def sfuRsq (F : Fmt) (v : FEnv) (b : Nat) : FRes :=
  match fdecode F v.daz b with
  | .inf s => if s then invalid F else (fsign F false, 0)
  | .fin s m e =>
    if m = 0 then (finf F s, flDZ)
    else if s then invalid F
    else
      let t : Int := (260 + e + Nat.log2 m) / 2
      let n := 2 ^ (2 * t - e).toNat
      let r := isqrt (n / m)
      let (x, fl) := roundFin { F with fbits := F.fbits - 1 } { v with rm := 2 } false r (-t) (r * r * m ≠ n)
      (2 * x, fl)
  | x => nanRes F v [x]

/-- FEXP2 (R84, R85). -/
def sfuExp2 (v : FEnv) (b : Nat) : FRes :=
  match fdecode fF32 v.daz b with
  | .inf s => if s then (0, 0) else (finf fF32 false, 0)
  | .fin s m e =>
    if m = 0 then (floatConst fF32 2, 0)
    else if magGt m e 255 0 then
      if s then sfuRound v false 1 (-400) else sfuRound v false 1 400
    else
      let x : Int := signedAt s m e (-(fixW : Int))
      let n := x / (2 ^ fixW : Nat)
      let f := (x % (2 ^ fixW : Nat)).toNat
      if f = 0 then (let (y, fl) := roundFin fF32Short { v with rm := 2 } false 1 n false; (2 * y, fl))
      else sfuRound v false (expPos (fixMul f ln2Fix)) (n - fixW)
  | x => nanRes fF32 v [x]

/-- FLOG2 (R84, R85). -/
def sfuLog2 (v : FEnv) (b : Nat) : FRes :=
  match fdecode fF32 v.daz b with
  | .inf s => if s then invalid fF32 else (finf fF32 false, 0)
  | .fin s m e =>
    if m = 0 then (finf fF32 true, flDZ)
    else if s then invalid fF32
    else
      let l := Nat.log2 m
      let top : Int := (l : Int) + e
      if m = 2 ^ l then roundFin fF32 { v with rm := 2 } (top < 0) top.natAbs 0 false
      else
        let x : Int := top * (2 ^ fixW : Nat) + log2Fix (m * 2 ^ (fixW - l))
        sfuFix v (x < 0) x.natAbs
  | x => nanRes fF32 v [x]

/-- x mod (π/2) in fixed point, and the quadrant. -/
def trigReduce (m : Nat) (e : Int) : Nat × Nat :=
  let y := m * twoOverPi
  let d := (800 - e).toNat
  let k := y / 2 ^ d
  let r := y % 2 ^ d
  let r := if fixW ≤ d then r / 2 ^ (d - fixW) else r * 2 ^ (fixW - d)
  (k % 4, fixMul r halfPiFix)

/-- FSIN and FCOS (R84, R85): `shift` is 0 for the sine and 1 for the cosine. -/
def sfuTrig (shift : Nat) (v : FEnv) (b : Nat) : FRes :=
  match fdecode fF32 v.daz b with
  | .inf _ => invalid fF32
  | .fin s m e =>
    if m = 0 then (if shift = 0 then (fsign fF32 s, 0) else (floatConst fF32 2, 0))
    else
      let (q, y) := trigReduce m e
      let q' := (q + shift) % 4
      let x := if q' % 2 = 0 then sinFix y else cosFix y
      sfuFix v ((2 ≤ q') != (s && shift = 0)) x
  | x => nanRes fF32 v [x]

/-- FTANH (R84, R85). -/
def sfuTanh (v : FEnv) (b : Nat) : FRes :=
  match fdecode fF32 v.daz b with
  | .inf s => (floatConst fF32 (if s then 6 else 2), 0)
  | .fin s m e =>
    if m = 0 then (fsign fF32 s, 0)
    else if magGt m e 63 0 then sfuFix v s (2 ^ fixW - 1)
    else
      let z := m * 2 ^ (e + 1 + fixW).toNat
      let t := expNeg z
      sfuFix v s ((2 ^ fixW - t) * 2 ^ fixW / (2 ^ fixW + t))
  | x => nanRes fF32 v [x]

end Sys2Proof.Machine
end

