-- ==== Sys2Proof/Machine/Scalar.lean ====
section
/-! DEFINITION. Scalar integer instructions (R248 to R258). -/

namespace Sys2Proof.Machine

open Sys2Proof

/-- Completes a scalar instruction: nothing is performed when the active set is empty (R176, R248). -/
def Issue.scalarDone (c : Issue) (d : BitVec 10) (wide : Bool) (x : Nat) : Res :=
  if c.idle then .next c.s else c.done fun w => w.putScalar c.lanes d wide x

/-- A scalar instruction of two sources of the type. -/
def Issue.sBin (c : Issue) (f : FormA) (g : ElemTy → Nat → Nat → Nat) : Res :=
  let t := f.ty.toNat
  let w := wideTy t
  c.scalarDone f.d w (g (elemTy t) (c.scalar f.s1 w t) (c.scalar f.s2 w t))

/-- The same with IMM32 as the last source (R230). -/
def Issue.sBinI (c : Issue) (f : FormI) (g : ElemTy → Nat → Nat → Nat) : Res :=
  let t := f.ty.toNat
  let w := wideTy t
  c.scalarDone f.d w (g (elemTy t) (c.scalar f.s1 w t) (immBits t f.imm))

/-- A scalar shift: the amount is a single register (R248, R253). -/
def Issue.sShift (c : Issue) (f : FormA) (g : ElemTy → Nat → Nat → Nat) : Res :=
  let t := f.ty.toNat
  let w := wideTy t
  c.scalarDone f.d w (g (elemTy t) (c.scalar f.s1 w t) (c.scalar f.s2 false 0))

/-- A scalar shift by IMM32. -/
def Issue.sShiftI (c : Issue) (f : FormI) (g : ElemTy → Nat → Nat → Nat) : Res :=
  let t := f.ty.toNat
  let w := wideTy t
  c.scalarDone f.d w (g (elemTy t) (c.scalar f.s1 w t) f.imm.toNat)

/-- SAT as a Bool. -/
def satOn (b : BitVec 1) : Bool := b = 1

/-- SMOV (R250). -/
def execSmov (f : FormA) (s : State) : Host.Outcome State Fault Refusal :=
  issue 0x020 (.a f) s fun c =>
    let w := wideTy f.ty.toNat
    c.scalarDone f.d w (c.scalar f.s1 w f.ty.toNat)

/-- SMOVI (R250): IMM32 as R230 reads it, or with `.pc` the branch target. -/
def execSmovi (f : FormI) (s : State) : Host.Outcome State Fault Refusal :=
  issue 0x021 (.i f) s fun c =>
    if f.sub = 1 then c.scalarDone f.d true (branchTarget c.pc f.imm).toNat
    else c.scalarDone f.d (wideTy f.ty.toNat) (immBits f.ty.toNat f.imm)

/-- SMOVIH (R250): the high register of the pair. -/
def execSmovih (f : FormI) (s : State) : Host.Outcome State Fault Refusal :=
  issue 0x022 (.i f) s fun c =>
    if c.idle then .next c.s
    else match operand f.d with
      | .s n => c.done fun w => w.setS c.lanes (n + 1) f.imm
      | _ => .next c.s

/-- SADD (R251). -/
def execSadd (f : FormA) (s : State) : Host.Outcome State Fault Refusal := issue 0x023 (.a f) s fun c => c.sBin f (opAdd (satOn f.sat))
def execSaddImm (f : FormI) (s : State) : Host.Outcome State Fault Refusal := issue 0x023 (.i f) s fun c => c.sBinI f (opAdd (satOn f.sat))
/-- SSUB (R251). -/
def execSsub (f : FormA) (s : State) : Host.Outcome State Fault Refusal := issue 0x024 (.a f) s fun c => c.sBin f (opSub (satOn f.sat))
def execSsubImm (f : FormI) (s : State) : Host.Outcome State Fault Refusal := issue 0x024 (.i f) s fun c => c.sBinI f (opSub (satOn f.sat))
/-- SMUL (R251). -/
def execSmul (f : FormA) (s : State) : Host.Outcome State Fault Refusal := issue 0x025 (.a f) s fun c => c.sBin f (opMul (satOn f.sat))
def execSmulImm (f : FormI) (s : State) : Host.Outcome State Fault Refusal := issue 0x025 (.i f) s fun c => c.sBinI f (opMul (satOn f.sat))
/-- SMULH (R251). -/
def execSmulh (f : FormA) (s : State) : Host.Outcome State Fault Refusal := issue 0x026 (.a f) s fun c => c.sBin f opMulH
def execSmulhImm (f : FormI) (s : State) : Host.Outcome State Fault Refusal := issue 0x026 (.i f) s fun c => c.sBinI f opMulH
/-- SMAD (R251). -/
def execSmad (f : FormA) (s : State) : Host.Outcome State Fault Refusal :=
  issue 0x027 (.a f) s fun c =>
    c.sBin f fun t a b => opMad (satOn f.sat) t a b (c.scalar f.s3 (wideTy f.ty.toNat) f.ty.toNat)
/-- SDIV (R252). -/
def execSdiv (f : FormA) (s : State) : Host.Outcome State Fault Refusal := issue 0x028 (.a f) s fun c => c.sBin f opDiv
def execSdivImm (f : FormI) (s : State) : Host.Outcome State Fault Refusal := issue 0x028 (.i f) s fun c => c.sBinI f opDiv
/-- SREM (R252). -/
def execSrem (f : FormA) (s : State) : Host.Outcome State Fault Refusal := issue 0x029 (.a f) s fun c => c.sBin f opRem
def execSremImm (f : FormI) (s : State) : Host.Outcome State Fault Refusal := issue 0x029 (.i f) s fun c => c.sBinI f opRem
/-- SAND, SOR, SXOR (R253). -/
def execSand (f : FormA) (s : State) : Host.Outcome State Fault Refusal := issue 0x02A (.a f) s fun c => c.sBin f opAnd
def execSandImm (f : FormI) (s : State) : Host.Outcome State Fault Refusal := issue 0x02A (.i f) s fun c => c.sBinI f opAnd
def execSor (f : FormA) (s : State) : Host.Outcome State Fault Refusal := issue 0x02B (.a f) s fun c => c.sBin f opOr
def execSorImm (f : FormI) (s : State) : Host.Outcome State Fault Refusal := issue 0x02B (.i f) s fun c => c.sBinI f opOr
def execSxor (f : FormA) (s : State) : Host.Outcome State Fault Refusal := issue 0x02C (.a f) s fun c => c.sBin f opXor
def execSxorImm (f : FormI) (s : State) : Host.Outcome State Fault Refusal := issue 0x02C (.i f) s fun c => c.sBinI f opXor
/-- SSHL, SSHR, SSRA (R253). -/
def execSshl (f : FormA) (s : State) : Host.Outcome State Fault Refusal := issue 0x02D (.a f) s fun c => c.sShift f opShl
def execSshlImm (f : FormI) (s : State) : Host.Outcome State Fault Refusal := issue 0x02D (.i f) s fun c => c.sShiftI f opShl
def execSshr (f : FormA) (s : State) : Host.Outcome State Fault Refusal := issue 0x02E (.a f) s fun c => c.sShift f opShr
def execSshrImm (f : FormI) (s : State) : Host.Outcome State Fault Refusal := issue 0x02E (.i f) s fun c => c.sShiftI f opShr
def execSsra (f : FormA) (s : State) : Host.Outcome State Fault Refusal := issue 0x02F (.a f) s fun c => c.sShift f opSra
def execSsraImm (f : FormI) (s : State) : Host.Outcome State Fault Refusal := issue 0x02F (.i f) s fun c => c.sShiftI f opSra
/-- SMIN, SMAX (R251). -/
def execSmin (f : FormA) (s : State) : Host.Outcome State Fault Refusal := issue 0x030 (.a f) s fun c => c.sBin f opMin
def execSminImm (f : FormI) (s : State) : Host.Outcome State Fault Refusal := issue 0x030 (.i f) s fun c => c.sBinI f opMin
def execSmax (f : FormA) (s : State) : Host.Outcome State Fault Refusal := issue 0x031 (.a f) s fun c => c.sBin f opMax
def execSmaxImm (f : FormI) (s : State) : Host.Outcome State Fault Refusal := issue 0x031 (.i f) s fun c => c.sBinI f opMax

/-- Writes a compare's result (R254): 1 or 0 to a scalar destination, the bits of the active set to a q destination. -/
def Issue.cmpDone (c : Issue) (d : BitVec 10) (wide r : Bool) : Res :=
  if c.idle then .next c.s
  else match operand d with
    | .q n => c.done fun w => w.setQ n c.act (if r then BitVec.allOnes 96 else 0)
    | _ => c.scalarDone d wide (if r then 1 else 0)

/-- SCMP (R254). -/
def execScmp (f : FormA) (s : State) : Host.Outcome State Fault Refusal :=
  issue 0x032 (.a f) s fun c =>
    let t := f.ty.toNat
    let w := wideTy t
    c.cmpDone f.d w (intCond f.sub.toNat ((elemTy t).val (c.scalar f.s1 w t)) ((elemTy t).val (c.scalar f.s2 w t)))
def execScmpImm (f : FormI) (s : State) : Host.Outcome State Fault Refusal :=
  issue 0x032 (.i f) s fun c =>
    let t := f.ty.toNat
    let w := wideTy t
    c.cmpDone f.d w (intCond f.sub.toNat ((elemTy t).val (c.scalar f.s1 w t)) ((elemTy t).val (immBits t f.imm)))

/-- SSEL (R255). -/
def execSsel (f : FormA) (s : State) : Host.Outcome State Fault Refusal :=
  issue 0x033 (.a f) s fun c => c.sBin f fun _ a b => if c.scalar f.s3 false 0 ≠ 0 then a else b

/-- SCLZ, SPOPC (R255): a single destination. -/
def execSclz (f : FormA) (s : State) : Host.Outcome State Fault Refusal :=
  issue 0x034 (.a f) s fun c =>
    let t := f.ty.toNat
    c.scalarDone f.d false (opClz (elemTy t) (c.scalar f.s1 (wideTy t) t))
def execSpopc (f : FormA) (s : State) : Host.Outcome State Fault Refusal :=
  issue 0x035 (.a f) s fun c =>
    let t := f.ty.toNat
    c.scalarDone f.d false (opPopc (elemTy t) (c.scalar f.s1 (wideTy t) t))

/-- SBFE (R256). -/
def execSbfe (f : FormA) (s : State) : Host.Outcome State Fault Refusal :=
  issue 0x036 (.a f) s fun c =>
    let t := f.ty.toNat
    c.scalarDone f.d (wideTy t)
      (opBfe (elemTy t) (c.scalar f.s1 (wideTy t) t) (c.scalar f.s2 false 0) (c.scalar f.s3 false 0))
def execSbfeImm (f : FormI) (s : State) : Host.Outcome State Fault Refusal :=
  issue 0x036 (.i f) s fun c =>
    let t := f.ty.toNat
    c.scalarDone f.d (wideTy t)
      (opBfe (elemTy t) (c.scalar f.s1 (wideTy t) t) (f.imm.toNat % 256) (f.imm.toNat / 256 % 256))

/-- SBFI (R256). -/
def execSbfi (f : FormA) (s : State) : Host.Outcome State Fault Refusal :=
  issue 0x037 (.a f) s fun c => c.sBin f fun t a b => opBfi t a b (c.scalar f.s3 false 0) (c.scalar f.s4 false 0)

/-- SLEA (R257). -/
def execSlea (f : FormA) (s : State) : Host.Outcome State Fault Refusal :=
  issue 0x038 (.a f) s fun c =>
    c.scalarDone f.d true (opLea (f.ty = 0) (c.scalar f.s1 true 2) (c.scalar f.s2 false f.ty.toNat) f.sub.toNat)

/-- SCVT of a NaN to its own type is a move: a quiet NaN keeps its bits, and a signalling one is quieted with IV. -/
def moveNan (ty b : Nat) : Option FRes :=
  match fdecode (fmtOf ty) false b with
  | .nan _ sig _ fb => some (if sig then (b ||| 2 ^ (fb - 1), flIV) else (b, 0))
  | _ => none

/-- SCVT (R258): flags are charged to the lane that performs it. -/
def execScvt (f : FormA) (s : State) : Host.Outcome State Fault Refusal :=
  issue 0x039 (.a f) s fun c =>
    if c.idle then .next c.s
    else
      let src := f.sub.toNat
      let x := c.scalar f.s1 (wideTy src) src
      let r := ((if src = f.ty.toNat && !(isInt4 src) then moveNan src x else none)).getD
        (convertBits (c.w.fenv (c.w.rounding f.hdr.rnd false) 0 32) src f.ty.toNat (satOn f.sat) x)
      c.doneFlags [(c.lane, r.2)] fun w => w.putScalar c.lanes f.d (wideTy f.ty.toNat) r.1

end Sys2Proof.Machine
end

