-- ==== Sys2Proof/Machine/VectorInt.lean ====
section
/-! DEFINITION. Vector integer instructions (R278 to R283). -/

namespace Sys2Proof.Machine

open Sys2Proof

/-- Completes a vector instruction with the value of each active lane; with no active lane nothing is written (R172, R276). -/
def Issue.vectorDone (c : Issue) (d : BitVec 10) (wide : Bool) (g : Nat → Nat) : Res :=
  c.done fun w => w.putVector c.act d wide g

/-- An operation on each element of a lane. -/
def ElemTy.map2 (t : ElemTy) (g : Nat → Nat → Nat) (a b : Nat) : Nat := t.join fun j => g (t.elem j a) (t.elem j b)

/-- A vector instruction of two sources (R279). -/
def Issue.vBin (c : Issue) (f : FormA) (g : ElemTy → Nat → Nat → Nat) : Res :=
  let ty := f.ty.toNat
  let w := wideTy ty
  let t := elemTy ty
  c.vectorDone f.d w fun l => t.map2 (g t) (c.vector f.s1 w ty l) (c.vector f.s2 w ty l)

/-- The same with IMM32 as the last source. -/
def Issue.vBinI (c : Issue) (f : FormI) (g : ElemTy → Nat → Nat → Nat) : Res :=
  let ty := f.ty.toNat
  let w := wideTy ty
  let t := elemTy ty
  c.vectorDone f.d w fun l => t.map2 (g t) (c.vector f.s1 w ty l) (immBits ty f.imm)

/-- A vector shift: an amount per element, single under a 64-bit type (R274, R279). -/
def Issue.vShift (c : Issue) (f : FormA) (g : ElemTy → Nat → Nat → Nat) : Res :=
  let ty := f.ty.toNat
  let w := wideTy ty
  let t := elemTy ty
  c.vectorDone f.d w fun l => t.map2 (g t) (c.vector f.s1 w ty l) (c.vector f.s2 false ty l)

/-- A vector shift by IMM32. -/
def Issue.vShiftI (c : Issue) (f : FormI) (g : ElemTy → Nat → Nat → Nat) : Res :=
  let ty := f.ty.toNat
  let w := wideTy ty
  let t := elemTy ty
  c.vectorDone f.d w fun l => t.map2 (g t) (c.vector f.s1 w ty l) f.imm.toNat

/-- VMOV (R280). -/
def execVmov (f : FormA) (s : State) : Host.Outcome State Fault Refusal :=
  issue 0x040 (.a f) s fun c =>
    let w := wideTy f.ty.toNat
    c.vectorDone f.d w fun l => c.vector f.s1 w f.ty.toNat l
/-- VMOVI (R280). -/
def execVmovi (f : FormI) (s : State) : Host.Outcome State Fault Refusal :=
  issue 0x041 (.i f) s fun c => c.vectorDone f.d (wideTy f.ty.toNat) fun _ => immBits f.ty.toNat f.imm
/-- VBCST (R280): lane c as it stood before, if it is active. -/
def execVbcst (f : FormA) (s : State) : Host.Outcome State Fault Refusal :=
  issue 0x042 (.a f) s fun c =>
    let w := wideTy f.ty.toNat
    let n := c.scalar f.s2 false 0
    c.vectorDone f.d w fun l => c.vector f.s1 w f.ty.toNat (if n < 96 && c.act.getLsbD n then n else l)
/-- VIDX (R280). -/
def execVidx (f : FormA) (s : State) : Host.Outcome State Fault Refusal :=
  issue 0x043 (.a f) s fun c =>
    let ty := f.ty.toNat
    let w := wideTy ty
    c.vectorDone f.d w fun l => (c.scalar f.s1 w ty + l * c.scalar f.s2 w ty) % 2 ^ (elemTy ty).n

/-- VADD, VSUB, VMUL, VMULH, VMAD (R279). -/
def execVadd (f : FormA) (s : State) : Host.Outcome State Fault Refusal := issue 0x044 (.a f) s fun c => c.vBin f (opAdd (satOn f.sat))
def execVaddImm (f : FormI) (s : State) : Host.Outcome State Fault Refusal := issue 0x044 (.i f) s fun c => c.vBinI f (opAdd (satOn f.sat))
def execVsub (f : FormA) (s : State) : Host.Outcome State Fault Refusal := issue 0x045 (.a f) s fun c => c.vBin f (opSub (satOn f.sat))
def execVsubImm (f : FormI) (s : State) : Host.Outcome State Fault Refusal := issue 0x045 (.i f) s fun c => c.vBinI f (opSub (satOn f.sat))
def execVmul (f : FormA) (s : State) : Host.Outcome State Fault Refusal := issue 0x046 (.a f) s fun c => c.vBin f (opMul (satOn f.sat))
def execVmulImm (f : FormI) (s : State) : Host.Outcome State Fault Refusal := issue 0x046 (.i f) s fun c => c.vBinI f (opMul (satOn f.sat))
def execVmulh (f : FormA) (s : State) : Host.Outcome State Fault Refusal := issue 0x047 (.a f) s fun c => c.vBin f opMulH
def execVmulhImm (f : FormI) (s : State) : Host.Outcome State Fault Refusal := issue 0x047 (.i f) s fun c => c.vBinI f opMulH
def execVmad (f : FormA) (s : State) : Host.Outcome State Fault Refusal :=
  issue 0x048 (.a f) s fun c =>
    let ty := f.ty.toNat
    let w := wideTy ty
    let t := elemTy ty
    c.vectorDone f.d w fun l => t.join fun j =>
      opMad (satOn f.sat) t (t.elem j (c.vector f.s1 w ty l)) (t.elem j (c.vector f.s2 w ty l)) (t.elem j (c.vector f.s3 w ty l))

/-- VAND, VOR, VXOR (R279). -/
def execVand (f : FormA) (s : State) : Host.Outcome State Fault Refusal := issue 0x049 (.a f) s fun c => c.vBin f opAnd
def execVandImm (f : FormI) (s : State) : Host.Outcome State Fault Refusal := issue 0x049 (.i f) s fun c => c.vBinI f opAnd
def execVor (f : FormA) (s : State) : Host.Outcome State Fault Refusal := issue 0x04A (.a f) s fun c => c.vBin f opOr
def execVorImm (f : FormI) (s : State) : Host.Outcome State Fault Refusal := issue 0x04A (.i f) s fun c => c.vBinI f opOr
def execVxor (f : FormA) (s : State) : Host.Outcome State Fault Refusal := issue 0x04B (.a f) s fun c => c.vBin f opXor
def execVxorImm (f : FormI) (s : State) : Host.Outcome State Fault Refusal := issue 0x04B (.i f) s fun c => c.vBinI f opXor

/-- VSHL, VSHR, VSRA (R279). -/
def execVshl (f : FormA) (s : State) : Host.Outcome State Fault Refusal := issue 0x04C (.a f) s fun c => c.vShift f opShl
def execVshlImm (f : FormI) (s : State) : Host.Outcome State Fault Refusal := issue 0x04C (.i f) s fun c => c.vShiftI f opShl
def execVshr (f : FormA) (s : State) : Host.Outcome State Fault Refusal := issue 0x04D (.a f) s fun c => c.vShift f opShr
def execVshrImm (f : FormI) (s : State) : Host.Outcome State Fault Refusal := issue 0x04D (.i f) s fun c => c.vShiftI f opShr
def execVsra (f : FormA) (s : State) : Host.Outcome State Fault Refusal := issue 0x04E (.a f) s fun c => c.vShift f opSra
def execVsraImm (f : FormI) (s : State) : Host.Outcome State Fault Refusal := issue 0x04E (.i f) s fun c => c.vShiftI f opSra

/-- VMIN, VMAX (R279). -/
def execVmin (f : FormA) (s : State) : Host.Outcome State Fault Refusal := issue 0x04F (.a f) s fun c => c.vBin f opMin
def execVminImm (f : FormI) (s : State) : Host.Outcome State Fault Refusal := issue 0x04F (.i f) s fun c => c.vBinI f opMin
def execVmax (f : FormA) (s : State) : Host.Outcome State Fault Refusal := issue 0x050 (.a f) s fun c => c.vBin f opMax
def execVmaxImm (f : FormI) (s : State) : Host.Outcome State Fault Refusal := issue 0x050 (.i f) s fun c => c.vBinI f opMax

/-- VABS (R279). -/
def execVabs (f : FormA) (s : State) : Host.Outcome State Fault Refusal :=
  issue 0x051 (.a f) s fun c =>
    let ty := f.ty.toNat
    let w := wideTy ty
    let t := elemTy ty
    c.vectorDone f.d w fun l => t.join fun j => t.out (satOn f.sat) (t.val (t.elem j (c.vector f.s1 w ty l))).natAbs

/-- Writes a compare's q bits in the active lanes (R281). -/
def Issue.vCmpDone (c : Issue) (d : BitVec 10) (p : Nat → Bool) : Res :=
  c.done fun w => w.setQ (regNum d) c.act (LaneMask.ofFn fun l => c.act.getLsbD l && p l)

/-- VCMP (R281). -/
def execVcmp (f : FormA) (s : State) : Host.Outcome State Fault Refusal :=
  issue 0x052 (.a f) s fun c =>
    let ty := f.ty.toNat
    let w := wideTy ty
    let t := elemTy ty
    c.vCmpDone f.d fun l => intCond f.sub.toNat (t.val (c.vector f.s1 w ty l)) (t.val (c.vector f.s2 w ty l))
def execVcmpImm (f : FormI) (s : State) : Host.Outcome State Fault Refusal :=
  issue 0x052 (.i f) s fun c =>
    let ty := f.ty.toNat
    let w := wideTy ty
    let t := elemTy ty
    c.vCmpDone f.d fun l => intCond f.sub.toNat (t.val (c.vector f.s1 w ty l)) (t.val (immBits ty f.imm))

/-- VSEL (R281). -/
def execVsel (f : FormA) (s : State) : Host.Outcome State Fault Refusal :=
  issue 0x053 (.a f) s fun c =>
    let ty := f.ty.toNat
    let w := wideTy ty
    c.vectorDone f.d w fun l => if (c.qreg f.s3).getLsbD l then c.vector f.s1 w ty l else c.vector f.s2 w ty l

/-- VCLZ, VPOPC (R279): a single destination. -/
def execVclz (f : FormA) (s : State) : Host.Outcome State Fault Refusal :=
  issue 0x054 (.a f) s fun c =>
    let ty := f.ty.toNat
    c.vectorDone f.d false fun l => opClz (elemTy ty) (c.vector f.s1 (wideTy ty) ty l)
def execVpopc (f : FormA) (s : State) : Host.Outcome State Fault Refusal :=
  issue 0x055 (.a f) s fun c =>
    let ty := f.ty.toNat
    c.vectorDone f.d false fun l => opPopc (elemTy ty) (c.vector f.s1 (wideTy ty) ty l)

/-- VBFE (R279). -/
def execVbfe (f : FormA) (s : State) : Host.Outcome State Fault Refusal :=
  issue 0x056 (.a f) s fun c =>
    let ty := f.ty.toNat
    c.vectorDone f.d (wideTy ty) fun l =>
      opBfe (elemTy ty) (c.vector f.s1 (wideTy ty) ty l) (c.vector f.s2 false 0 l) (c.vector f.s3 false 0 l)
def execVbfeImm (f : FormI) (s : State) : Host.Outcome State Fault Refusal :=
  issue 0x056 (.i f) s fun c =>
    let ty := f.ty.toNat
    c.vectorDone f.d (wideTy ty) fun l =>
      opBfe (elemTy ty) (c.vector f.s1 (wideTy ty) ty l) (f.imm.toNat % 256) (f.imm.toNat / 256 % 256)

/-- VBFI (R279). -/
def execVbfi (f : FormA) (s : State) : Host.Outcome State Fault Refusal :=
  issue 0x057 (.a f) s fun c =>
    let ty := f.ty.toNat
    let w := wideTy ty
    c.vectorDone f.d w fun l =>
      opBfi (elemTy ty) (c.vector f.s1 w ty l) (c.vector f.s2 w ty l) (c.vector f.s3 false 0 l) (c.vector f.s4 false 0 l)

/-- VDOT4's exact sum and its narrowing (R282). -/
def opDot4 (signed sat : Bool) (a b x : Nat) : Nat :=
  let t : ElemTy := { n := 32, signed := signed }
  let e : ElemTy := { n := 8, signed := signed, count := 4 }
  t.out sat ((List.range 4).foldl (fun r j => r + e.val (e.elem j a) * e.val (e.elem j b)) (t.val x))

/-- VDOT4 (R282). -/
def execVdot4 (f : FormA) (s : State) : Host.Outcome State Fault Refusal :=
  issue 0x058 (.a f) s fun c =>
    let ty := f.ty.toNat
    let t3 := if ty = 6 then 0 else 1
    c.vectorDone f.d false fun l =>
      opDot4 (ty = 6) (satOn f.sat) (c.vector f.s1 false ty l) (c.vector f.s2 false ty l) (c.vector f.s3 false t3 l)

/-- The rounds of Philox4x32-10 that remain (R283). -/
def philoxRounds : Nat → Nat → Nat → Nat × Nat × Nat × Nat → Nat × Nat × Nat × Nat
  | 0, _, _, c => c
  | n + 1, k0, k1, (c0, c1, c2, c3) =>
    let p0 := 0xD2511F53 * c0
    let p1 := 0xCD9E8D57 * c2
    philoxRounds n ((k0 + 0x9E3779B9) % 2 ^ 32) ((k1 + 0xBB67AE85) % 2 ^ 32)
      (p1 / 2 ^ 32 ^^^ c1 ^^^ k0, p1 % 2 ^ 32, p0 / 2 ^ 32 ^^^ c3 ^^^ k1, p0 % 2 ^ 32)

/-- PHILOX (R283). -/
def execPhilox (f : FormA) (s : State) : Host.Outcome State Fault Refusal :=
  issue 0x059 (.a f) s fun c =>
    let n := regNum f.s1
    let d := regNum f.d
    let key := c.scalar f.s2 true 2
    let r := fun (l : Nat) =>
      let x := fun (j : Nat) => (VReg.lane (c.w.getV (n + j)) l).toNat
      philoxRounds 10 (key % 2 ^ 32) (key / 2 ^ 32) (x 0, x 1, x 2, x 3)
    c.done fun w =>
      (((w.setV d c.act fun l => BitVec.ofNat 32 (r l).1).setV (d + 1) c.act fun l => BitVec.ofNat 32 (r l).2.1).setV
        (d + 2) c.act fun l => BitVec.ofNat 32 (r l).2.2.1).setV (d + 3) c.act fun l => BitVec.ofNat 32 (r l).2.2.2

end Sys2Proof.Machine
end

