-- ==== Sys2Proof/Machine/VectorFloat.lean ====
section
/-! DEFINITION. Vector float instructions (R284 to R290). -/

namespace Sys2Proof.Machine

open Sys2Proof

/-- Elements of a lane of a float type, and bits of one: 2 of 16 for the packed types (R65). -/
def floatShape (ty : Nat) : Nat × Nat := if ty = 10 || ty = 11 then (2, 16) else if ty = 9 then (1, 64) else (1, 32)

/-- A lane's result from its elements' results, `bits` apart. -/
def joinRes (n bits : Nat) (g : Nat → FRes) : FRes :=
  (List.range n).foldl (fun a j => let r := g j; (a.1 + r.1 % 2 ^ bits * 2 ^ (bits * j), a.2 ||| r.2)) (0, 0)

/-- Completes a float instruction with the value and flags of each active lane (R77 to R79). -/
def Issue.floatDone (c : Issue) (d : BitVec 10) (wide : Bool) (g : Nat → FRes) : Res :=
  let rs := (List.range 96).map fun l => if c.act.getLsbD l then g l else (0, 0)
  c.doneFlags ((LaneMask.lanes c.act).map fun l => (l, (rs.getD l (0, 0)).2)) fun w =>
    w.putVector c.act d wide fun l => (rs.getD l (0, 0)).1

/-- Whether a random operand is present (R277). -/
def hasRandom (rand : BitVec 10) : Bool := operand rand ≠ .none

/-- The rounding environment of element `j` of lane `l` (R74): `n` elements per lane of the destination. -/
def Issue.elemEnv (c : Issue) (h : Hdr) (rand : BitVec 10) (n l j : Nat) : FEnv :=
  let w := 32 / n
  let u := if hasRandom rand then c.vector rand false 0 l / 2 ^ (w * j) % 2 ^ w else 0
  c.w.fenv (c.w.rounding h.rnd (hasRandom rand)) u w

/-- A float instruction on each element; `g` gets the environment and the reading of a source's element. -/
def Issue.fRun (c : Issue) (f : FormA) (rand : BitVec 10) (g : Fmt → FEnv → (BitVec 10 → Nat) → FRes) : Res :=
  let ty := f.ty.toNat
  let (n, bits) := floatShape ty
  c.floatDone f.d (wideTy ty) fun l => joinRes n bits fun j =>
    g (fmtOf ty) (c.elemEnv f.hdr rand n l j) fun x => c.vector x (wideTy ty) ty l / 2 ^ (bits * j) % 2 ^ bits

/-- FADD, FSUB, FMUL, FFMA (R285). -/
def execFadd (f : FormA) (s : State) : Host.Outcome State Fault Refusal :=
  issue 0x060 (.a f) s fun c => c.fRun f f.s3 fun F v x => fAdd F v (x f.s1) (x f.s2)
def execFsub (f : FormA) (s : State) : Host.Outcome State Fault Refusal :=
  issue 0x061 (.a f) s fun c => c.fRun f f.s3 fun F v x => fSub F v (x f.s1) (x f.s2)
def execFmul (f : FormA) (s : State) : Host.Outcome State Fault Refusal :=
  issue 0x062 (.a f) s fun c => c.fRun f f.s3 fun F v x => fMul F v (x f.s1) (x f.s2)
def execFfma (f : FormA) (s : State) : Host.Outcome State Fault Refusal :=
  issue 0x063 (.a f) s fun c => c.fRun f f.s4 fun F v x => fFma F v (x f.s1) (x f.s2) (x f.s3)

/-- FMIN, FMAX (R286). -/
def execFmin (f : FormA) (s : State) : Host.Outcome State Fault Refusal :=
  issue 0x064 (.a f) s fun c => c.fRun f 0x1FF fun F v x => fMinMax F v false (x f.s1) (x f.s2)
def execFmax (f : FormA) (s : State) : Host.Outcome State Fault Refusal :=
  issue 0x065 (.a f) s fun c => c.fRun f 0x1FF fun F v x => fMinMax F v true (x f.s1) (x f.s2)

/-- FCMP (R286). -/
def execFcmp (f : FormA) (s : State) : Host.Outcome State Fault Refusal :=
  issue 0x066 (.a f) s fun c =>
    let ty := f.ty.toNat
    let w := wideTy ty
    let rs := (LaneMask.lanes c.act).map fun l =>
      (l, fCompare (fmtOf ty) c.w.fenvRne f.sub.toNat (c.vector f.s1 w ty l) (c.vector f.s2 w ty l))
    c.doneFlags (rs.map fun r => (r.1, r.2.2)) fun w =>
      w.setQ (regNum f.d) c.act (LaneMask.ofLanes ((rs.filter fun r => r.2.1).map Prod.fst))

/-- FCLASS (R286): a single destination, nothing raised. -/
def execFclass (f : FormA) (s : State) : Host.Outcome State Fault Refusal :=
  issue 0x067 (.a f) s fun c =>
    let ty := f.ty.toNat
    let (n, bits) := floatShape ty
    c.vectorDone f.d false fun l =>
      (joinRes n (32 / n) fun j => (fClass (fmtOf ty) (c.vector f.s1 (wideTy ty) ty l / 2 ^ (bits * j) % 2 ^ bits), 0)).1

/-- FRCP, FRSQ, FSQRT (R287). -/
def execFrcp (f : FormA) (s : State) : Host.Outcome State Fault Refusal :=
  issue 0x068 (.a f) s fun c => c.fRun f 0x1FF fun F v x => sfuRcp F v (x f.s1)
def execFrsq (f : FormA) (s : State) : Host.Outcome State Fault Refusal :=
  issue 0x069 (.a f) s fun c => c.fRun f 0x1FF fun F v x => sfuRsq F v (x f.s1)
def execFsqrt (f : FormA) (s : State) : Host.Outcome State Fault Refusal :=
  issue 0x06A (.a f) s fun c => c.fRun f 0x1FF fun F v x => sfuSqrt F v (x f.s1)

/-- FDIV (R285). -/
def execFdiv (f : FormA) (s : State) : Host.Outcome State Fault Refusal :=
  issue 0x06B (.a f) s fun c => c.fRun f f.s3 fun F v x => fDiv F v (x f.s1) (x f.s2)

/-- FEXP2, FLOG2, FSIN, FCOS, FTANH (R287). -/
def execFexp2 (f : FormA) (s : State) : Host.Outcome State Fault Refusal :=
  issue 0x06C (.a f) s fun c => c.fRun f 0x1FF fun _ v x => sfuExp2 v (x f.s1)
def execFlog2 (f : FormA) (s : State) : Host.Outcome State Fault Refusal :=
  issue 0x06D (.a f) s fun c => c.fRun f 0x1FF fun _ v x => sfuLog2 v (x f.s1)
def execFsin (f : FormA) (s : State) : Host.Outcome State Fault Refusal :=
  issue 0x06E (.a f) s fun c => c.fRun f 0x1FF fun _ v x => sfuTrig 0 v (x f.s1)
def execFcos (f : FormA) (s : State) : Host.Outcome State Fault Refusal :=
  issue 0x06F (.a f) s fun c => c.fRun f 0x1FF fun _ v x => sfuTrig 1 v (x f.s1)
def execFtanh (f : FormA) (s : State) : Host.Outcome State Fault Refusal :=
  issue 0x070 (.a f) s fun c => c.fRun f 0x1FF fun _ v x => sfuTanh v (x f.s1)

/-- FCVT's result in one lane (R288): f32 to a packed type takes an element from each of S1 and S2; between packed types each
element is converted; a packed type to f32 takes element 1 with `.hi`. -/
def Issue.cvtLane (c : Issue) (f : FormA) (l : Nat) : FRes :=
  let src := f.sub.toNat
  let dst := f.ty.toNat
  let x := c.vector f.s1 (wideTy src) src l
  if dst = 10 || dst = 11 then
    joinRes 2 16 fun j =>
      let v := c.elemEnv f.hdr f.s3 2 l j
      if src = 8 then fToF fF32 (fmtOf dst) v (if j = 0 then x else c.vector f.s2 false src l)
      else fToF (fmtOf src) (fmtOf dst) v (x / 2 ^ (16 * j) % 2 ^ 16)
  else
    let v := c.elemEnv f.hdr f.s3 1 l 0
    if src = 10 || src = 11 then fToF (fmtOf src) fF32 v (if f.aux.getLsbD 0 then x / 2 ^ 16 % 2 ^ 16 else x % 2 ^ 16)
    else convertBits v src dst false x

/-- FCVT (R288). -/
def execFcvt (f : FormA) (s : State) : Host.Outcome State Fault Refusal :=
  issue 0x071 (.a f) s fun c => c.floatDone f.d (wideTy f.ty.toNat) (c.cvtLane f)

/-- FRINT (R289). -/
def execFrint (f : FormA) (s : State) : Host.Outcome State Fault Refusal :=
  issue 0x072 (.a f) s fun c => c.fRun f f.s2 fun F v x => fRint F v (x f.s1)

/-- FSCALE (R289): one exponent for the lane's elements. -/
def execFscale (f : FormA) (s : State) : Host.Outcome State Fault Refusal :=
  issue 0x073 (.a f) s fun c =>
    let ty := f.ty.toNat
    let (n, bits) := floatShape ty
    c.floatDone f.d (wideTy ty) fun l => joinRes n bits fun j =>
      fScale (fmtOf ty) (c.elemEnv f.hdr f.s3 n l j) (c.vector f.s1 (wideTy ty) ty l / 2 ^ (bits * j) % 2 ^ bits)
        (toInteger true 32 (c.vector f.s2 false 0 l))

/-- One update of an online-softmax pair (R290): m, s and flags. -/
def softmaxUpdate (v : FEnv) (m sum x : Nat) : Nat × Nat × Nat :=
  let dm := fdecode fF32 v.daz m
  let dx := fdecode fF32 v.daz x
  if dm.isNan || dx.isNan then
    let n := nanBits fF32 v [dm, dx]
    (n, n, ivOf [dm, dx])
  else
    let m' := (fMinMax fF32 v true m x).1
    if m' = finf fF32 true then (m', sum, 0)
    else if m' = finf fF32 false then (m', fnan fF32, flIV)
    else
      let a := fSub fF32 v m m'
      let ea := sfuExp2 v a.1
      let b := fSub fF32 v x m'
      let eb := sfuExp2 v b.1
      let p := fMul fF32 v sum ea.1
      let r := fAdd fF32 v p.1 eb.1
      (m', r.1, a.2 ||| ea.2 ||| b.2 ||| eb.2 ||| p.2 ||| r.2)

/-- An online softmax's output (R290). -/
def softmaxFinal (v : FEnv) (m sum x : Nat) : FRes :=
  let a := fSub fF32 v x m
  let e := sfuExp2 v a.1
  let r := fDiv fF32 v e.1 sum
  (r.1, a.2 ||| e.2 ||| r.2)

/-- FSMXU (R290): D is read and written. -/
def execFsmxu (f : FormA) (s : State) : Host.Outcome State Fault Refusal :=
  issue 0x074 (.a f) s fun c =>
    c.floatDone f.d true fun l =>
      let p := c.vector f.d true 0 l
      let r := softmaxUpdate c.w.fenvRne (p % 2 ^ 32) (p / 2 ^ 32) (c.vector f.s1 false 8 l)
      (r.1 + r.2.1 * 2 ^ 32, r.2.2)

/-- FSMXF (R290). -/
def execFsmxf (f : FormA) (s : State) : Host.Outcome State Fault Refusal :=
  issue 0x075 (.a f) s fun c =>
    c.floatDone f.d false fun l =>
      let p := c.vector f.s2 true 0 l
      softmaxFinal c.w.fenvRne (p % 2 ^ 32) (p / 2 ^ 32) (c.vector f.s1 false 8 l)

end Sys2Proof.Machine
end

