-- ==== Sys2Proof/Machine/Lane.lean ====
section
/-! DEFINITION. Lane instructions (R291 to R297). -/

namespace Sys2Proof.Machine

open Sys2Proof

/-- VSHFL's source lane (R292); none outside 0 to 95. -/
def shuffleSource (mode l c : Nat) : Option Nat :=
  let s : Int := match mode with
    | 0 => c
    | 1 => (l : Int) - c
    | 2 => (l : Int) + c
    | _ => (l ^^^ c : Nat)
  if 0 ≤ s && s < 96 then some s.toNat else none

/-- VSHFL (R292). -/
def execVshfl (f : FormA) (s : State) : Host.Outcome State Fault Refusal :=
  issue 0x080 (.a f) s fun c =>
    let ty := f.ty.toNat
    let w := wideTy ty
    let src := fun (l : Nat) =>
      (shuffleSource f.sub.toNat l (c.vector f.s2 false 0 l)).bind fun x => if c.act.getLsbD x then some x else none
    c.done fun a =>
      let a := a.putVector c.act f.d w fun l => c.vector f.s1 w ty ((src l).getD l)
      match operand f.s3 with
      | .q n => a.setQ n c.act (LaneMask.ofFn fun l => c.act.getLsbD l && (src l).isSome)
      | _ => a

/-- The identity of a reduction (R293), as bits. -/
def reduceIdentity (op ty : Nat) : Nat :=
  if ty = 8 || ty = 9 then (match op with | 1 => finf (fmtOf ty) false | 2 => finf (fmtOf ty) true | _ => 0)
  else
    let t := elemTy ty
    match op with
    | 1 => ofInteger t.n t.max
    | 2 => ofInteger t.n t.min
    | 3 => 2 ^ t.n - 1
    | _ => 0

/-- An integer reduction step before it is narrowed. -/
def reduceInt (op : Nat) (t : ElemTy) (a : Int) (b : Nat) : Int :=
  let y := t.val b
  match op with
  | 0 => a + y
  | 1 => if a ≤ y then a else y
  | 2 => if y ≤ a then a else y
  | 3 => ((ofInteger t.n a &&& b : Nat) : Int)
  | 4 => ((ofInteger t.n a ||| b : Nat) : Int)
  | _ => ((ofInteger t.n a ^^^ b : Nat) : Int)

/-- One level of the pairwise tree (R88). -/
def treeLevel (F : Fmt) (v : FEnv) : List FRes → List FRes
  | a :: b :: l => (let r := fAdd F v a.1 b.1; (r.1, a.2 ||| b.2 ||| r.2)) :: treeLevel F v l
  | l => l

/-- The result of VRED over the active lanes (R88, R293): bits and flags. -/
def reduce (op ty : Nat) (sat : Bool) (v : FEnv) (act : LaneMask) (x : Nat → Nat) : FRes :=
  let lanes := LaneMask.lanes act
  match lanes with
  | [] => (reduceIdentity op ty, 0)
  | l0 :: rest =>
    if ty = 8 || ty = 9 then
      let F := fmtOf ty
      if op = 0 then
        let leaves : List FRes := (List.range 128).map fun l => (if l < 96 && act.getLsbD l then x l else 0, 0)
        ((List.range 7).foldl (fun a _ => treeLevel F v a) leaves).headD (0, 0)
      else
        rest.foldl (fun a l => let r := fMinMax F v (op = 2) a.1 (x l); (r.1, a.2 ||| r.2)) (fMinMax F v (op = 2) (x l0) (x l0))
    else
      let t := elemTy ty
      let r := rest.foldl (fun a l => reduceInt op t a (x l)) (t.val (x l0))
      (t.out (op = 0 && sat) r, 0)

/-- A hood of dormant slices cannot wake itself: what it would write to am0 to am2 is dropped (R174). -/
def Warp.asleep (old new : Warp) (lanes : LaneMask) : Warp :=
  if old.mask &&& lanes = 0 then { new with s := new.s.take 125 ++ old.s.drop 125 } else new

/-- VRED (R293). -/
def execVred (f : FormA) (s : State) : Host.Outcome State Fault Refusal :=
  issue 0x081 (.a f) s fun c =>
    let ty := f.ty.toNat
    let w := wideTy ty
    let r := reduce f.sub.toNat ty (satOn f.sat) (c.w.fenv (c.w.rounding f.hdr.rnd false) 0 32) c.act
      fun l => c.vector f.s1 w ty l
    c.doneFlags ((LaneMask.lanes c.act).map fun l => (l, r.2)) fun a =>
      let a := (a.asleep (a.putScalar c.lanes f.d w r.1) c.lanes).putVector c.act f.d w fun _ => r.1
      match operand f.s2 with
      | .q n => a.setQ n c.lanes (if c.idle then BitVec.allOnes 96 else 0)
      | _ => a

/-- The inclusive prefixes of a scan in lane order, each with the flags of its own rounding; the first is the first operand, rounded once, with
DAZ and FTZ (R88, R294). -/
def prefixes (op ty : Nat) (sat : Bool) (v : FEnv) (xs : List Nat) : List FRes :=
  if ty = 8 || ty = 9 then
    let F := fmtOf ty
    ((xs.foldl (fun (a : List FRes) x =>
      (match a with
        | [] => fToF F F v x
        | p :: _ => if op = 0 then fAdd F v p.1 x else fMinMax F v (op = 2) p.1 x) :: a) []).reverse)
  else
    let t := elemTy ty
    ((xs.foldl (fun (a : List Int) x => (match a with | [] => t.val x | p :: _ => reduceInt op t p x) :: a) []).reverse).map
      fun r => (t.out (op = 0 && sat) r, 0)

/-- VSCAN (R294). That the second prefix of an exclusive float scan is the inclusive scan's first, and not the identity combined with the first
operand, is the model's choice (log entry 51). -/
def execVscan (f : FormA) (s : State) : Host.Outcome State Fault Refusal :=
  issue 0x082 (.a f) s fun c =>
    let ty := f.ty.toNat
    let w := wideTy ty
    let op := f.sub.toNat % 8
    let lanes := LaneMask.lanes c.act
    let ps := prefixes op ty (satOn f.sat) (c.w.fenv (c.w.rounding f.hdr.rnd false) 0 32) (lanes.map fun l => c.vector f.s1 w ty l)
    let ps := if 8 ≤ f.sub.toNat then (reduceIdentity op ty, 0) :: ps else ps
    let tab := lanes.zip ps
    c.doneFlags (tab.map fun x => (x.1, x.2.2)) fun a => a.putVector c.act f.d w fun l => ((tab.lookup l).getD (0, 0)).1

/-- VVOTE (R295): a scalar destination is written even when the active set is empty (R276). -/
def execVvote (f : FormA) (s : State) : Host.Outcome State Fault Refusal :=
  issue 0x083 (.a f) s fun c =>
    let bits := c.qreg f.s1 &&& c.act
    match f.sub.toNat with
    | 3 =>
      c.done fun a =>
        match operand f.d with
        | .s n =>
          (List.range 3).foldl (fun a i => a.setS c.lanes (n + i) (bits.extractLsb' (32 * i) 32)) a
        | _ => a
    | 4 => c.done fun a => a.putScalar c.lanes f.d false (LaneMask.lanes bits).length
    | m =>
      let r : Bool := !c.idle && (match m with | 0 => bits ≠ 0 | 1 => bits = c.act | _ => bits = 0)
      c.done fun a =>
        match operand f.d with
        | .q n => a.setQ n c.act (if r then BitVec.allOnes 96 else 0)
        | _ => a.putScalar c.lanes f.d false (if r then 1 else 0)

/-- VCMPR (R296). -/
def execVcmpr (f : FormA) (s : State) : Host.Outcome State Fault Refusal :=
  issue 0x084 (.a f) s fun c =>
    let ty := f.ty.toNat
    let w := wideTy ty
    let sel := LaneMask.lanes (c.act &&& c.qreg f.s2)
    let tab := (LaneMask.lanes c.act).zip sel
    c.done fun a =>
      (a.putVector (LaneMask.ofLanes (tab.map Prod.fst)) f.d w fun l => c.vector f.s1 w ty ((tab.lookup l).getD l)).putScalar
        c.lanes f.s3 false sel.length

end Sys2Proof.Machine
end

