-- ==== Sys2Proof/Machine/Register.lean ====
section
/-! DEFINITION. Writes of the device MMIO set (R452, R453): which writer may write which register, and what the write does. -/

namespace Sys2Proof.Machine

open Sys2Proof

/-- The next state of an outcome, if it is one. -/
def orStay (s : State) (o : Host.Outcome State Fault Refusal) : State := match o with | .next t => t | _ => s

/-- The id of the context in a slot, as an operation on its registers. -/
def State.inSlot (s : State) (slot : Nat) (f : Nat → State) : State :=
  match s.slotCtx? slot with | some c => f c.id | none => s

/-- CLAIM (R454, R455): a write with BEAT or RELEASE set is no claim. -/
def State.writeClaim (s : State) (w : Writer) (v : Nat) : State :=
  match w with
  | .warpOf _ => s
  | .master m =>
    if v / 2 ^ 13 % 2 ^ 19 ≠ 0 then s.refuse w
    else if v.testBit 8 then orStay s (execClaimRelease m (v / 512 % 8) s)
    else if v.testBit 12 then orStay s (execClaimBeat m s)
    else orStay s (execClaim m (v % 16) s)

/-- CTL (R456): SYSTEM, IRQEN and the reserved bits, then the command. A context holds what SYSTEM was when it was created. -/
def State.writeCtl (s : State) (w : Writer) (x : CtxSlot) (v : Nat) : State :=
  let new : Word := BitVec.ofNat 32 v
  let s := s.modSlot x.slot fun y => { y with desc := y.desc.set 0 (new &&& 0xFF00FEF0) }
  let s := s.inSlot x.slot fun c => s.modCtx c fun c => { c with irqen := new.getLsbD 5 }
  if v % 16 = 1 then orStay s (execContextCreate w x.slot s)
  else if v % 16 = 2 then orStay s (execContextDestroy w x.slot s)
  else s

/-- A descriptor word (R456). -/
def State.writeDesc (s : State) (w : Writer) (slot i v : Nat) : State :=
  match s.slots.find? fun x => x.slot = slot with
  | none => s
  | some x =>
    if i = 0 then s.writeCtl w x v
    else if x.valid then s
    else s.modSlot slot fun y => { y with desc := y.desc.set i (BitVec.ofNat 32 v) }

/-- PREEMPT (R415); its reserved bits are ignored (R11). -/
def State.writePreempt (s : State) (w : Writer) (c v : Nat) : State :=
  if v.testBit 4 then
    let t := orStay s (execPreemptKill w c s)
    if s.mayWrite w then t.writeHold c (v.testBit 3) (v.testBit 1) else t
  else if v.testBit 0 then orStay s (execPreemptGo w c (v.testBit 1) (v.testBit 3) s)
  else orStay s (execPreemptHoldWrite w c (v.testBit 3) (v.testBit 1) s)

/-- The fault-response register (R103); its reserved bits are ignored (R11). -/
def State.writeResponse (s : State) (w : Writer) (c v : Nat) : State :=
  if v.testBit 33 then orStay s (execFaultResponseFail w c (v % 2 ^ 32) s)
  else if v.testBit 32 then orStay s (execFaultResponseRetry w c (v % 2 ^ 32) s)
  else s

/-- A register of a context slot, written by a writer that may (R453). -/
def State.writeSlot (s : State) (w : Writer) (r : MmioReg) (v : Nat) : State :=
  match r with
  | .ctxDesc slot i => s.writeDesc w slot i v
  | .preempt slot => s.inSlot slot fun c => s.writePreempt w c v
  | .faultResponse slot => s.inSlot slot fun c => s.writeResponse w c v
  | .eventSet slot i => s.inSlot slot fun c => orStay s (execEventSetRegister w c (BitVec.ofNat 256 (v * 2 ^ (32 * i))) s)
  | .eventClear slot i => s.inSlot slot fun c => orStay s (execEventClearRegister w c (BitVec.ofNat 256 (v * 2 ^ (32 * i))) s)
  | .queueTable slot i => s.inSlot slot fun c => orStay s (execQueueRegister w c i v s)
  | .trchdr slot => s.inSlot slot fun c => orStay s (execTrchdrWrite w c (BitVec.ofNat 64 v) s)
  | .trccfg slot => s.inSlot slot fun c => orStay s (execTrccfgWrite w c (BitVec.ofNat 32 v) s)
  | _ => s

/-- A station's status register (R422). -/
def State.writeStation (s : State) (w : Writer) (st v : Nat) : State :=
  let s := s.modStation st fun t => { t with downev := t.downev && !v.testBit 2 }
  if v.testBit 3 then orStay s (execStationRetrain w st s) else s

/-- A register outside the context slots, written by the owner; a read-only one keeps its value. -/
def State.writeDevice (s : State) (w : Writer) (r : MmioReg) (v : Nat) : State :=
  match r with
  | .tbcfg => s.modHub fun h => { h with tbsource := v % 4 }
  | .owner => s.modHub fun h => { h with denied := h.denied &&& ~~~BitVec.ofNat 4 (v / 2 ^ 16) }
  | .podcfg => orStay s (execPodcfgWrite w (BitVec.ofNat 64 v) s)
  | .l2cfg d => orStay s (execL2cfgWrite w d (BitVec.ofNat 32 v) s)
  | .station st => s.writeStation w st v
  | .deadPeer i => orStay s (execDeadPeerClearMmio w (BitVec.ofNat 192 (v * 2 ^ (32 * i))) s)
  | _ => s

/-- Whether a register belongs to a context slot. -/
def slotReg : MmioReg → Bool
  | .ctxDesc _ _ | .preempt _ | .faultResponse _ | .eventSet _ _ | .eventClear _ _ | .queueTable _ _ | .trchdr _ | .trccfg _ => true
  | _ => false

/-- A write of a register: CLAIM takes every master's, a context slot's registers the system context's and the owner's, the others the
owner's alone; every other write changes nothing but DENIED (R453, R454). -/
def registerWrite (w : Writer) (r : MmioReg) (v : Nat) (s : State) : State :=
  if r = .claim then s.writeClaim w v
  else if slotReg r then (if s.mayWrite w then s.writeSlot w r v else s.refuse w)
  else if s.isOwner w then s.writeDevice w r v
  else s.refuse w

/-- MMIO_WRITE (R453). -/
def execMmioWrite (w : Writer) (reg : MmioReg) (val : DWord) (s : State) : Host.Outcome State Fault Refusal :=
  .next (registerWrite w reg val.toNat s)

end Sys2Proof.Machine
end

