-- ==== Sys2Proof/Machine/Scale.lean ====
section
/-! DEFINITION. Scale register and microscaling instructions (R299 to R318). -/

namespace Sys2Proof.Machine

open Sys2Proof

/-! ## Scale registers -/

/-- A scale register with the bytes for which `p` holds written by `g`. -/
def KReg.write (k : KReg) (p : Nat → Bool) (g : Nat → Byte) : KReg :=
  (List.range 24).foldl (fun a n => if p n then KReg.setByte a n (g n) else a) k

/-- Completes with a k register written byte by byte. -/
def Issue.kDone (c : Issue) (d : BitVec 10) (p : Nat → Bool) (g : Nat → Byte) : Res :=
  c.done fun w => w.putK (regNum d) (KReg.write (w.getK (regNum d)) p g)

/-- KMOV (R302). -/
def execKmov (f : FormA) (s : State) : Host.Outcome State Fault Refusal :=
  issue 0x090 (.a f) s fun c => c.kDone f.d c.kBytes fun n => KReg.byte (c.kreg f.s1) n

/-- Bytes 8j to 8j+7 of a k register (R303). -/
def KReg.tagWord (k : KReg) (j : Nat) : DWord := k.extractLsb' (64 * j) 64

/-- KGET of a byte or tag (R303): an index outside its limits faults when performed (R299). -/
def Issue.kget (c : Issue) (sub : Nat) (d s1 : BitVec 10) (idx : Nat) : Res :=
  if c.idle then .next c.s
  else if sub = 0 then
    (if 24 ≤ idx then c.badHood (0x03, 0x10) else c.scalarDone d false (KReg.byte (c.kreg s1) idx).toNat)
  else if 3 ≤ idx then c.badHood (0x03, 0x10)
  else c.scalarDone d true (KReg.tagWord (c.kreg s1) idx).toNat

/-- KGET (R303). -/
def execKget (f : FormA) (s : State) : Host.Outcome State Fault Refusal :=
  issue 0x091 (.a f) s fun c =>
    if f.sub = 2 then
      c.done fun w => w.putVector c.act f.d false fun l => if l < 24 then (KReg.byte (c.kreg f.s1) l).toNat else 0
    else c.kget f.sub.toNat f.d f.s1 (c.scalar f.s2 false 0)
def execKgetImm (f : FormI) (s : State) : Host.Outcome State Fault Refusal :=
  issue 0x091 (.i f) s fun c => c.kget f.sub.toNat f.d f.s1 f.imm.toNat

/-- KSET of a byte or tag (R304). -/
def Issue.kset (c : Issue) (sub : Nat) (d s1 : BitVec 10) (idx : Nat) : Res :=
  if c.idle then .next c.s
  else if sub = 0 then
    (if 24 ≤ idx then c.badHood (0x03, 0x10)
     else c.kDone d (fun n => n = idx) fun _ => BitVec.ofNat 8 (c.scalar s1 false 0))
  else if 3 ≤ idx then c.badHood (0x03, 0x10)
  else c.kDone d (fun n => n / 8 = idx) fun n => BitVec.ofNat 8 (c.scalar s1 true 0 / 256 ^ (n % 8))

/-- KSET (R304). -/
def execKset (f : FormA) (s : State) : Host.Outcome State Fault Refusal :=
  issue 0x092 (.a f) s fun c =>
    if f.sub = 2 then c.kDone f.d (fun n => c.act.getLsbD n) fun n => BitVec.ofNat 8 (c.vector f.s1 false 0 n)
    else c.kset f.sub.toNat f.d f.s1 (c.scalar f.s2 false 0)
def execKsetImm (f : FormI) (s : State) : Host.Outcome State Fault Refusal :=
  issue 0x092 (.i f) s fun c => c.kset f.sub.toNat f.d f.s1 f.imm.toNat

/-- KFILL (R305). -/
def execKfill (f : FormA) (s : State) : Host.Outcome State Fault Refusal :=
  issue 0x093 (.a f) s fun c =>
    c.kDone f.d c.kBytes fun n => if scaleByte f.ty.toNat n then BitVec.ofNat 8 (c.scalar f.s1 false f.ty.toNat) else 0
def execKfillImm (f : FormI) (s : State) : Host.Outcome State Fault Refusal :=
  issue 0x093 (.i f) s fun c => c.kDone f.d c.kBytes fun n => if scaleByte f.ty.toNat n then f.imm.setWidth 8 else 0

/-- KADD of one byte: the byte and whether it was clamped (R306). -/
def addScale (x : Byte) (d : Int) : Byte × Bool :=
  if x = 0xFF then (0xFF, false)
  else
    let y : Int := x.toNat + d
    (BitVec.ofNat 8 (clampInt 0 0xFE y).toNat, y < 0 || 0xFE < y)

/-- KADD (R306): a clamp's trap names the lanes of the slice the byte is attached to. -/
def Issue.kadd (c : Issue) (ty : Nat) (d s1 : BitVec 10) (delta : Int) : Res :=
  let r := fun (n : Nat) => if scaleByte ty n then addScale (KReg.byte (c.kreg s1) n) delta else (0, false)
  let raised := (List.range 24).flatMap fun n =>
    if c.kBytes n && (r n).2 then (List.range 4).map fun i => (4 * n + i, flMXSAT) else []
  c.doneFlags raised fun w => w.putK (regNum d) (KReg.write (w.getK (regNum d)) c.kBytes fun n => (r n).1)

/-- KADD (R306). -/
def execKadd (f : FormA) (s : State) : Host.Outcome State Fault Refusal :=
  issue 0x094 (.a f) s fun c => c.kadd f.ty.toNat f.d f.s1 (toInteger true 32 (c.scalar f.s2 false 0))
def execKaddImm (f : FormI) (s : State) : Host.Outcome State Fault Refusal :=
  issue 0x094 (.i f) s fun c => c.kadd f.ty.toNat f.d f.s1 (toInteger true 32 f.imm.toNat)

/-! ## Amax rings (R307 to R310) -/

/-- A push (R307). -/
def AmaxRing.push (r : AmaxRing) (x : Word) : AmaxRing :=
  { e := r.e.set r.wp x, wp := (r.wp + 1) % 16, cnt := Nat.min (r.cnt + 1) 16 }

/-- The `i`th newest entry. -/
def AmaxRing.newest (r : AmaxRing) (i : Nat) : Word := r.e.getD ((r.wp + 31 - i) % 16) 0

/-- The high value H (R307): the entries are non-negative, so their bits order them. -/
def AmaxRing.high (r : AmaxRing) : Nat := (List.range r.cnt).foldl (fun m i => Nat.max m (r.newest i).toNat) 0

/-- A ring of the issuing block. -/
def Issue.ring (c : Issue) (n : Nat) : AmaxRing := ((c.s.blockOf? c.w).bind fun b => b.rings[n]?).getD {}

/-- Changes rings of the issuing block. -/
def Issue.modRings (c : Issue) (g : Nat → AmaxRing → AmaxRing) : Issue :=
  { c with s := c.s.modBlockOf c.w fun b => { b with rings := (List.range 32).map fun n => g n (b.rings.getD n {}) } }

/-- |x| as a ring keeps it: none for a NaN (R309). -/
def amaxEntry (daz : Bool) (b : Nat) : Option Nat :=
  match fdecode fF32 daz b with
  | .nan .. => none
  | x => some (if x.isZero then 0 else b % 2 ^ 31)

/-- The largest magnitude of a list of FP32 values, NaN values passed over (R310). -/
def amaxBits (daz : Bool) (l : List Nat) : Nat := l.foldl (fun m x => match amaxEntry daz x with | some y => Nat.max m y | none => m) 0

/-- VAMAX (R310, R299). -/
def execVamax (f : FormA) (s : State) : Host.Outcome State Fault Refusal :=
  issue 0x097 (.a f) s fun c =>
    let n := c.scalar f.s2 false 0
    let ring := c.scalar f.s3 false 0
    if n = 0 || 32 < n then c.badHood (0x03, 0x10)
    else if c.w.vrc < regNum f.s1 + n then c.badHood (0x03, 0x01)
    else if 32 ≤ ring then c.badHood (0x03, 0x10)
    else if c.idle then c.done fun w => w.putScalar c.lanes f.d false 0
    else
      let xs := (List.range n).flatMap fun k => (LaneMask.lanes c.act).map fun l => (VReg.lane (c.w.getV (regNum f.s1 + k)) l).toNat
      let a := amaxBits c.w.daz xs
      let c := c.modRings fun i r => if i = ring then r.push (BitVec.ofNat 32 a) else r
      c.done fun w => w.putScalar c.lanes f.d false a

/-- AMXPUSH (R309). -/
def execAmxpush (f : FormA) (s : State) : Host.Outcome State Fault Refusal :=
  issue 0x098 (.a f) s fun c =>
    let ring := c.scalar f.s2 false 0
    if c.idle then .next c.s
    else if 32 ≤ ring then c.badHood (0x03, 0x10)
    else match amaxEntry c.w.daz (c.scalar f.s1 false 8) with
      | none => .next c.s
      | some x => .next (c.modRings fun i r => if i = ring then r.push (BitVec.ofNat 32 x) else r).s

/-- AMXGET (R309). -/
def execAmxget (f : FormA) (s : State) : Host.Outcome State Fault Refusal :=
  issue 0x099 (.a f) s fun c =>
    let ring := c.scalar f.s1 false 0
    let i := c.scalar f.s2 false 0
    if c.idle then .next c.s
    else if 32 ≤ ring then c.badHood (0x03, 0x10)
    else
      let r := c.ring ring
      match f.sub.toNat with
      | 0 => c.scalarDone f.d false r.high
      | 1 => if 16 ≤ i then c.badHood (0x03, 0x10) else c.scalarDone f.d false (if i < r.cnt then (r.newest i).toNat else 0)
      | _ => c.scalarDone f.d false (r.cnt + r.wp * 256)

/-- Empties the rings of a mask (R309). -/
def Issue.clearRings (c : Issue) (mask : Nat) : Res :=
  if c.idle then .next c.s else .next (c.modRings fun i r => if mask.testBit i then {} else r).s

/-- AMXCLR (R309). -/
def execAmxclr (f : FormA) (s : State) : Host.Outcome State Fault Refusal :=
  issue 0x09A (.a f) s fun c => c.clearRings (c.scalar f.s1 false 0)
def execAmxclrImm (f : FormI) (s : State) : Host.Outcome State Fault Refusal :=
  issue 0x09A (.i f) s fun c => c.clearRings f.imm.toNat

/-! ## VQNT (R311 to R317) -/

/-- The scale mode of XF: 0 `.cur`, 1 `.dly` with its ring's high value, 2 `.srch` (R311, R315). -/
def Issue.scaleMode (c : Issue) (xf : BitVec 14) : ScaleMode :=
  match (xf.toNat / 128) % 4 with
  | 0 => .cur
  | 1 => let r := c.ring (xf.toNat / 2 % 32); .dly (if r.cnt = 0 then none else some r.high)
  | _ => .srch

/-- The random bits of part `j` of an output lane (R74, R312). -/
def Issue.randomPart (c : Issue) (rand : BitVec 10) (ty l j : Nat) : Nat :=
  let w := 32 / perLane ty
  if hasRandom rand then c.vector rand false 0 l / 2 ^ (w * j) % 2 ^ w else 0

/-- The environment of VQNT's roundings. -/
def Issue.quantEnv (c : Issue) (f : FormX) (ty : Nat) : FEnv :=
  c.w.fenv (c.w.rounding f.hdr.rnd (hasRandom f.s3)) 0 (32 / perLane ty)

/-- What VQNT writes: elements by (lane, part) with their codes, scale bytes, and each lane's flags. -/
structure QuantOut where
  elems  : List ((Nat × Nat) × Nat) := []
  scales : List (Nat × Nat) := []
  raised : List (Nat × Nat) := []
deriving DecidableEq, Repr

/-- A register's lane with parts replaced by what VQNT writes there. -/
def QuantOut.lane (q : QuantOut) (ty l : Nat) (old : Word) : Word :=
  let b := slotBits ty
  (q.elems.filter fun e => e.1.1 = l).foldl (fun w e =>
    (w &&& ~~~(BitVec.ofNat 32 ((2 ^ b - 1) * 2 ^ (b * e.1.2)))) ||| BitVec.ofNat 32 (e.2 % 2 ^ b * 2 ^ (b * e.1.2))) old

/-- Writes VQNT's results: the elements, the scale bytes, and zero in the format's unused bytes for which `p` holds. -/
def QuantOut.store (q : QuantOut) (ty d : Nat) (p : Nat → Bool) (w : Warp) : Warp :=
  let v := w.getV d
  let touched := LaneMask.ofLanes (q.elems.map fun e => e.1.1)
  let k := KReg.write (w.getK d) (fun n => !scaleByte ty n && p n) fun _ => 0
  let k := q.scales.foldl (fun k x => KReg.setByte k x.1 (BitVec.ofNat 8 x.2)) k
  (w.setV d touched fun l => q.lane ty l (VReg.lane v l)).putK d k

/-- Block `b` of VQNT.lane (R313): its active elements, from sources `S1 + part`, or nothing when it is not produced. -/
def Issue.quantLaneBlock (c : Issue) (f : FormX) (ty b : Nat) (mode : ScaleMode) (out : QuantOut) : QuantOut :=
  if !c.laneBlockMade ty b then out
  else
    let mine := ((List.range 32).map fun i => regPos ty b i).filter fun p => c.act.getLsbD p.1
    let xs := mine.map fun p =>
      (fdecode fF32 c.w.daz (VReg.lane (c.w.getV (regNum f.s1 + p.2)) p.1).toNat, c.randomPart f.s3 ty p.1 p.2)
    let q := quantBlock ty (c.quantEnv f ty) mode xs
    { elems := out.elems ++ (mine.zip (q.elems.map Prod.fst))
      scales := out.scales ++ [(scalePos ty b, q.code)]
      raised := out.raised ++ ((mine.map Prod.fst).zip (q.elems.map Prod.snd)) ++
        (match mine with | p :: _ => [(p.1, q.flags)] | [] => []) }

/-- VQNT.lane (R313). -/
def execVqntLane (f : FormX) (s : State) : Host.Outcome State Fault Refusal :=
  issue 0x095 (.x f) s fun c =>
    let ty := f.xf.toNat / 512
    let out := (List.range (blocksPerReg ty)).foldl (fun o b => c.quantLaneBlock f ty b (c.scaleMode f.xf) o) {}
    c.doneFlags out.raised (out.store ty (regNum f.d) (beatBytes c.act))

/-- Block position `p` of VQNT.row (R314). -/
def Issue.quantRowBlock (c : Issue) (f : FormX) (ty r p : Nat) (mode : ScaleMode) (out : QuantOut) : QuantOut :=
  if !c.act.getLsbD (r + p) then out
  else
    let els := (List.range 32).map fun i => regPos ty p i
    let xs := (els.zipIdx).map fun x =>
      (fdecode fF32 c.w.daz (VReg.lane (c.w.getV (regNum f.s1 + x.2)) (r + p)).toNat, c.randomPart f.s3 ty x.1.1 x.1.2)
    let q := quantBlock ty (c.quantEnv f ty) mode xs
    { elems := out.elems ++ (els.zip (q.elems.map Prod.fst))
      scales := out.scales ++ [(scalePos ty p, q.code)]
      raised := out.raised ++ [(r + p, q.flags ||| (q.elems.foldl (fun a e => a ||| e.2) 0))] }

/-- VQNT.row (R314): performed once for the warp; a first row outside its limits faults then (R299, R312). -/
def execVqntRow (f : FormX) (s : State) : Host.Outcome State Fault Refusal :=
  issue 0x095 (.x f) s fun c => c.collective fun c =>
    let ty := f.xf.toNat / 512
    let rpr := blocksPerReg ty
    let r := c.scalar f.s2 false 0
    if r % rpr ≠ 0 || 96 - rpr < r then c.badHood (0x03, 0x10)
    else
      let out := (List.range rpr).foldl (fun o p => c.quantRowBlock f ty r p (c.scaleMode f.xf) o) {}
      c.doneFlags out.raised (out.store ty (regNum f.d) fun _ => true)

/-! ## VDQNT (R318) -/

/-- The block of a register that holds part `j` of lane `l`. -/
def blockOfPos (ty l : Nat) : Nat := if ty = 0x10 then 8 * (l / 32) + l % 32 / 4 else 4 * (l / 32) + l % 32 / 8

/-- VDQNT (R318). -/
def execVdqnt (f : FormA) (s : State) : Host.Outcome State Fault Refusal :=
  issue 0x096 (.a f) s fun c =>
    let ty := f.ty.toNat
    let dst := match f.sub.toNat with | 0 => 8 | 1 => 11 | _ => 10
    let per := perLane ty
    let res := fun (l j : Nat) =>
      let x := (VReg.lane (c.w.getV (regNum f.s1)) l).toNat / 2 ^ (slotBits ty * j) % 2 ^ slotBits ty
      let sc := (KReg.byte (c.kreg f.s1) (scalePos ty (blockOfPos ty l))).toNat
      let v := c.elemEnv f.hdr f.s2 (if dst = 8 then 1 else 2) l (if dst = 8 then 0 else j % 2)
      dequantElem ty dst v sc x
    let tab := (List.range 96).map fun l => if c.act.getLsbD l then (List.range per).map fun j => res l j else []
    let el := fun (l j : Nat) => ((tab.getD l []).getD j (0, 0))
    let regs := if dst = 8 then per else per / 2
    c.doneFlags ((LaneMask.lanes c.act).map fun l => (l, (List.range per).foldl (fun a j => a ||| (el l j).2) 0)) fun w =>
      (List.range regs).foldl (fun w i => w.setV (regNum f.d + i) c.act fun l =>
        BitVec.ofNat 32 (if dst = 8 then (el l i).1 else (el l (2 * i)).1 + (el l (2 * i + 1)).1 * 2 ^ 16)) w

end Sys2Proof.Machine
end

