-- ==== Sys2Proof/Machine/Dispatch.lean ====
section
/-! DEFINITION. One arm per constructor of Instr: a direct call of its meaning. -/

namespace Sys2Proof.Machine

open Sys2Proof

/-- Performs one instruction, or one event of the table. -/
def exec (i : Instr) (s : State) : Host.Outcome State Fault Refusal :=
  match i with
  | .nop f => Sys2Proof.Machine.execNop f s
  | .exit f => Sys2Proof.Machine.execExit f s
  | .bra f => Sys2Proof.Machine.execBra f s
  | .brx f => Sys2Proof.Machine.execBrx f s
  | .call f => Sys2Proof.Machine.execCall f s
  | .ret f => Sys2Proof.Machine.execRet f s
  | .felt f => Sys2Proof.Machine.execFelt f s
  | .yield f => Sys2Proof.Machine.execYield f s
  | .phase f => Sys2Proof.Machine.execPhase f s
  | .sleep f => Sys2Proof.Machine.execSleep f s
  | .sleepExpiry h => Sys2Proof.Machine.execSleepExpiry h s
  | .bar f => Sys2Proof.Machine.execBar f s
  | .barh f => Sys2Proof.Machine.execBarh f s
  | .trap f => Sys2Proof.Machine.execTrap f s
  | .bkpt f => Sys2Proof.Machine.execBkpt f s
  | .tret f => Sys2Proof.Machine.execTret f s
  | .srget f => Sys2Proof.Machine.execSrget f s
  | .srset f => Sys2Proof.Machine.execSrset f s
  | .migr f => Sys2Proof.Machine.execMigr f s
  | .migrSwap f => Sys2Proof.Machine.execMigrSwap f s
  | .trace f => Sys2Proof.Machine.execTrace f s
  | .traceImm f => Sys2Proof.Machine.execTraceImm f s
  | .trctlSet f => Sys2Proof.Machine.execTrctlSet f s
  | .trctlFlush f => Sys2Proof.Machine.execTrctlFlush f s
  | .evset f => Sys2Proof.Machine.execEvset f s
  | .evsetImm f => Sys2Proof.Machine.execEvsetImm f s
  | .evwait f => Sys2Proof.Machine.execEvwait f s
  | .evwaitImm f => Sys2Proof.Machine.execEvwaitImm f s
  | .evwaitReturn h => Sys2Proof.Machine.execEvwaitReturn h s
  | .smov f => Sys2Proof.Machine.execSmov f s
  | .smovi f => Sys2Proof.Machine.execSmovi f s
  | .smovih f => Sys2Proof.Machine.execSmovih f s
  | .sadd f => Sys2Proof.Machine.execSadd f s
  | .saddImm f => Sys2Proof.Machine.execSaddImm f s
  | .ssub f => Sys2Proof.Machine.execSsub f s
  | .ssubImm f => Sys2Proof.Machine.execSsubImm f s
  | .smul f => Sys2Proof.Machine.execSmul f s
  | .smulImm f => Sys2Proof.Machine.execSmulImm f s
  | .smulh f => Sys2Proof.Machine.execSmulh f s
  | .smulhImm f => Sys2Proof.Machine.execSmulhImm f s
  | .smad f => Sys2Proof.Machine.execSmad f s
  | .sdiv f => Sys2Proof.Machine.execSdiv f s
  | .sdivImm f => Sys2Proof.Machine.execSdivImm f s
  | .srem f => Sys2Proof.Machine.execSrem f s
  | .sremImm f => Sys2Proof.Machine.execSremImm f s
  | .sand f => Sys2Proof.Machine.execSand f s
  | .sandImm f => Sys2Proof.Machine.execSandImm f s
  | .sor f => Sys2Proof.Machine.execSor f s
  | .sorImm f => Sys2Proof.Machine.execSorImm f s
  | .sxor f => Sys2Proof.Machine.execSxor f s
  | .sxorImm f => Sys2Proof.Machine.execSxorImm f s
  | .sshl f => Sys2Proof.Machine.execSshl f s
  | .sshlImm f => Sys2Proof.Machine.execSshlImm f s
  | .sshr f => Sys2Proof.Machine.execSshr f s
  | .sshrImm f => Sys2Proof.Machine.execSshrImm f s
  | .ssra f => Sys2Proof.Machine.execSsra f s
  | .ssraImm f => Sys2Proof.Machine.execSsraImm f s
  | .smin f => Sys2Proof.Machine.execSmin f s
  | .sminImm f => Sys2Proof.Machine.execSminImm f s
  | .smax f => Sys2Proof.Machine.execSmax f s
  | .smaxImm f => Sys2Proof.Machine.execSmaxImm f s
  | .scmp f => Sys2Proof.Machine.execScmp f s
  | .scmpImm f => Sys2Proof.Machine.execScmpImm f s
  | .ssel f => Sys2Proof.Machine.execSsel f s
  | .sclz f => Sys2Proof.Machine.execSclz f s
  | .spopc f => Sys2Proof.Machine.execSpopc f s
  | .sbfe f => Sys2Proof.Machine.execSbfe f s
  | .sbfeImm f => Sys2Proof.Machine.execSbfeImm f s
  | .sbfi f => Sys2Proof.Machine.execSbfi f s
  | .slea f => Sys2Proof.Machine.execSlea f s
  | .scvt f => Sys2Proof.Machine.execScvt f s
  | .vmov f => Sys2Proof.Machine.execVmov f s
  | .vmovi f => Sys2Proof.Machine.execVmovi f s
  | .vbcst f => Sys2Proof.Machine.execVbcst f s
  | .vidx f => Sys2Proof.Machine.execVidx f s
  | .vadd f => Sys2Proof.Machine.execVadd f s
  | .vaddImm f => Sys2Proof.Machine.execVaddImm f s
  | .vsub f => Sys2Proof.Machine.execVsub f s
  | .vsubImm f => Sys2Proof.Machine.execVsubImm f s
  | .vmul f => Sys2Proof.Machine.execVmul f s
  | .vmulImm f => Sys2Proof.Machine.execVmulImm f s
  | .vmulh f => Sys2Proof.Machine.execVmulh f s
  | .vmulhImm f => Sys2Proof.Machine.execVmulhImm f s
  | .vmad f => Sys2Proof.Machine.execVmad f s
  | .vand f => Sys2Proof.Machine.execVand f s
  | .vandImm f => Sys2Proof.Machine.execVandImm f s
  | .vor f => Sys2Proof.Machine.execVor f s
  | .vorImm f => Sys2Proof.Machine.execVorImm f s
  | .vxor f => Sys2Proof.Machine.execVxor f s
  | .vxorImm f => Sys2Proof.Machine.execVxorImm f s
  | .vshl f => Sys2Proof.Machine.execVshl f s
  | .vshlImm f => Sys2Proof.Machine.execVshlImm f s
  | .vshr f => Sys2Proof.Machine.execVshr f s
  | .vshrImm f => Sys2Proof.Machine.execVshrImm f s
  | .vsra f => Sys2Proof.Machine.execVsra f s
  | .vsraImm f => Sys2Proof.Machine.execVsraImm f s
  | .vmin f => Sys2Proof.Machine.execVmin f s
  | .vminImm f => Sys2Proof.Machine.execVminImm f s
  | .vmax f => Sys2Proof.Machine.execVmax f s
  | .vmaxImm f => Sys2Proof.Machine.execVmaxImm f s
  | .vabs f => Sys2Proof.Machine.execVabs f s
  | .vcmp f => Sys2Proof.Machine.execVcmp f s
  | .vcmpImm f => Sys2Proof.Machine.execVcmpImm f s
  | .vsel f => Sys2Proof.Machine.execVsel f s
  | .vclz f => Sys2Proof.Machine.execVclz f s
  | .vpopc f => Sys2Proof.Machine.execVpopc f s
  | .vbfe f => Sys2Proof.Machine.execVbfe f s
  | .vbfeImm f => Sys2Proof.Machine.execVbfeImm f s
  | .vbfi f => Sys2Proof.Machine.execVbfi f s
  | .vdot4 f => Sys2Proof.Machine.execVdot4 f s
  | .philox f => Sys2Proof.Machine.execPhilox f s
  | .fadd f => Sys2Proof.Machine.execFadd f s
  | .fsub f => Sys2Proof.Machine.execFsub f s
  | .fmul f => Sys2Proof.Machine.execFmul f s
  | .ffma f => Sys2Proof.Machine.execFfma f s
  | .fmin f => Sys2Proof.Machine.execFmin f s
  | .fmax f => Sys2Proof.Machine.execFmax f s
  | .fcmp f => Sys2Proof.Machine.execFcmp f s
  | .fclass f => Sys2Proof.Machine.execFclass f s
  | .frcp f => Sys2Proof.Machine.execFrcp f s
  | .frsq f => Sys2Proof.Machine.execFrsq f s
  | .fsqrt f => Sys2Proof.Machine.execFsqrt f s
  | .fdiv f => Sys2Proof.Machine.execFdiv f s
  | .fexp2 f => Sys2Proof.Machine.execFexp2 f s
  | .flog2 f => Sys2Proof.Machine.execFlog2 f s
  | .fsin f => Sys2Proof.Machine.execFsin f s
  | .fcos f => Sys2Proof.Machine.execFcos f s
  | .ftanh f => Sys2Proof.Machine.execFtanh f s
  | .fcvt f => Sys2Proof.Machine.execFcvt f s
  | .frint f => Sys2Proof.Machine.execFrint f s
  | .fscale f => Sys2Proof.Machine.execFscale f s
  | .fsmxu f => Sys2Proof.Machine.execFsmxu f s
  | .fsmxf f => Sys2Proof.Machine.execFsmxf f s
  | .vshfl f => Sys2Proof.Machine.execVshfl f s
  | .vred f => Sys2Proof.Machine.execVred f s
  | .vscan f => Sys2Proof.Machine.execVscan f s
  | .vvote f => Sys2Proof.Machine.execVvote f s
  | .vcmpr f => Sys2Proof.Machine.execVcmpr f s
  | .kmov f => Sys2Proof.Machine.execKmov f s
  | .kget f => Sys2Proof.Machine.execKget f s
  | .kgetImm f => Sys2Proof.Machine.execKgetImm f s
  | .kset f => Sys2Proof.Machine.execKset f s
  | .ksetImm f => Sys2Proof.Machine.execKsetImm f s
  | .kfill f => Sys2Proof.Machine.execKfill f s
  | .kfillImm f => Sys2Proof.Machine.execKfillImm f s
  | .kadd f => Sys2Proof.Machine.execKadd f s
  | .kaddImm f => Sys2Proof.Machine.execKaddImm f s
  | .vqntLane f => Sys2Proof.Machine.execVqntLane f s
  | .vqntRow f => Sys2Proof.Machine.execVqntRow f s
  | .vdqnt f => Sys2Proof.Machine.execVdqnt f s
  | .vamax f => Sys2Proof.Machine.execVamax f s
  | .amxpush f => Sys2Proof.Machine.execAmxpush f s
  | .amxget f => Sys2Proof.Machine.execAmxget f s
  | .amxclr f => Sys2Proof.Machine.execAmxclr f s
  | .amxclrImm f => Sys2Proof.Machine.execAmxclrImm f s
  | .sld f => Sys2Proof.Machine.execSld f s
  | .sst f => Sys2Proof.Machine.execSst f s
  | .vld f => Sys2Proof.Machine.execVld f s
  | .vst f => Sys2Proof.Machine.execVst f s
  | .vldl f => Sys2Proof.Machine.execVldl f s
  | .vstl f => Sys2Proof.Machine.execVstl f s
  | .pref f => Sys2Proof.Machine.execPref f s
  | .cctl f => Sys2Proof.Machine.execCctl f s
  | .fence f => Sys2Proof.Machine.execFence f s
  | .tfence f => Sys2Proof.Machine.execTfence f s
  | .waitv f => Sys2Proof.Machine.execWaitv f s
  | .waitvReturn h => Sys2Proof.Machine.execWaitvReturn h s
  | .watch f => Sys2Proof.Machine.execWatch f s
  | .unwatch f => Sys2Proof.Machine.execUnwatch f s
  | .atomAdd f => Sys2Proof.Machine.execAtomAdd f s
  | .atomAnd f => Sys2Proof.Machine.execAtomAnd f s
  | .atomOr f => Sys2Proof.Machine.execAtomOr f s
  | .atomXor f => Sys2Proof.Machine.execAtomXor f s
  | .atomMin f => Sys2Proof.Machine.execAtomMin f s
  | .atomMax f => Sys2Proof.Machine.execAtomMax f s
  | .atomExch f => Sys2Proof.Machine.execAtomExch f s
  | .atomCas f => Sys2Proof.Machine.execAtomCas f s
  | .atomIncw f => Sys2Proof.Machine.execAtomIncw f s
  | .atomDecw f => Sys2Proof.Machine.execAtomDecw f s
  | .atomFaddF32 f => Sys2Proof.Machine.execAtomFaddF32 f s
  | .atomFaddBf16x2 f => Sys2Proof.Machine.execAtomFaddBf16x2 f s
  | .atomFminF32 f => Sys2Proof.Machine.execAtomFminF32 f s
  | .atomFmaxF32 f => Sys2Proof.Machine.execAtomFmaxF32 f s
  | .satomAdd f => Sys2Proof.Machine.execSatomAdd f s
  | .satomAnd f => Sys2Proof.Machine.execSatomAnd f s
  | .satomOr f => Sys2Proof.Machine.execSatomOr f s
  | .satomXor f => Sys2Proof.Machine.execSatomXor f s
  | .satomMin f => Sys2Proof.Machine.execSatomMin f s
  | .satomMax f => Sys2Proof.Machine.execSatomMax f s
  | .satomExch f => Sys2Proof.Machine.execSatomExch f s
  | .satomCas f => Sys2Proof.Machine.execSatomCas f s
  | .satomIncw f => Sys2Proof.Machine.execSatomIncw f s
  | .satomDecw f => Sys2Proof.Machine.execSatomDecw f s
  | .satomFaddF32 f => Sys2Proof.Machine.execSatomFaddF32 f s
  | .satomFaddBf16x2 f => Sys2Proof.Machine.execSatomFaddBf16x2 f s
  | .satomFminF32 f => Sys2Proof.Machine.execSatomFminF32 f s
  | .satomFmaxF32 f => Sys2Proof.Machine.execSatomFmaxF32 f s
  | .bandi f => Sys2Proof.Machine.execBandi f s
  | .bandx f => Sys2Proof.Machine.execBandx f s
  | .banda f => Sys2Proof.Machine.execBanda f s
  | .bandw f => Sys2Proof.Machine.execBandw f s
  | .bandwReturn h => Sys2Proof.Machine.execBandwReturn h s
  | .bandt f => Sys2Proof.Machine.execBandt f s
  | .xlayNew f => Sys2Proof.Machine.execXlayNew f s
  | .xlaySet f => Sys2Proof.Machine.execXlaySet f s
  | .xlayFree f => Sys2Proof.Machine.execXlayFree f s
  | .xcopy f => Sys2Proof.Machine.execXcopy f s
  | .xcopyAccept h => Sys2Proof.Machine.execXcopyAccept h s
  | .qinitInit f => Sys2Proof.Machine.execQinitInit f s
  | .qinitFini f => Sys2Proof.Machine.execQinitFini f s
  | .qputResv f => Sys2Proof.Machine.execQputResv f s
  | .qputResvRetry h => Sys2Proof.Machine.execQputResvRetry h s
  | .qputCommit f => Sys2Proof.Machine.execQputCommit f s
  | .qputCommitPublish h => Sys2Proof.Machine.execQputCommitPublish h s
  | .qgetAcq f => Sys2Proof.Machine.execQgetAcq f s
  | .qgetAcqRetry h => Sys2Proof.Machine.execQgetAcqRetry h s
  | .qgetFree f => Sys2Proof.Machine.execQgetFree f s
  | .qgetFreeRelease h => Sys2Proof.Machine.execQgetFreeRelease h s
  | .spawn f => Sys2Proof.Machine.execSpawn f s
  | .mshape f => Sys2Proof.Machine.execMshape f s
  | .mma f => Sys2Proof.Machine.execMma f s
  | .dmma f => Sys2Proof.Machine.execDmma f s
  | .mmaStart core => Sys2Proof.Machine.execMmaStart core s
  | .mmaComplete core => Sys2Proof.Machine.execMmaComplete core s
  | .mmaw f => Sys2Proof.Machine.execMmaw f s
  | .mmawReturn core slot => Sys2Proof.Machine.execMmawReturn core slot s
  | .mzero f => Sys2Proof.Machine.execMzero f s
  | .mfence f => Sys2Proof.Machine.execMfence f s
  | .icacheFill core ctx lineVa flip1 flip2 => Sys2Proof.Machine.execIcacheFill core ctx lineVa flip1 flip2 s
  | .registerScrub core err => Sys2Proof.Machine.execRegisterScrub core err s
  | .pageWalk cluster => Sys2Proof.Machine.execPageWalk cluster s
  | .tfenceAcknowledge id cluster => Sys2Proof.Machine.execTfenceAcknowledge id cluster s
  | .faultResponseRetry w ctx batch => Sys2Proof.Machine.execFaultResponseRetry w ctx batch s
  | .faultResponseFail w ctx batch => Sys2Proof.Machine.execFaultResponseFail w ctx batch s
  | .migrationRequestHost ctx va dest => Sys2Proof.Machine.execMigrationRequestHost ctx va dest s
  | .migrationCopyPassDone id => Sys2Proof.Machine.execMigrationCopyPassDone id s
  | .migrationStubbed id => Sys2Proof.Machine.execMigrationStubbed id s
  | .stubReclaimAttempt die oldFrame => Sys2Proof.Machine.execStubReclaimAttempt die oldFrame s
  | .rds m => Sys2Proof.Machine.execRds m s
  | .rdx m => Sys2Proof.Machine.execRdx m s
  | .rdnc m => Sys2Proof.Machine.execRdnc m s
  | .upgr m => Sys2Proof.Machine.execUpgr m s
  | .wrline m clean => Sys2Proof.Machine.execWrline m clean s
  | .wrpart m data mask => Sys2Proof.Machine.execWrpart m data mask s
  | .atomhome m op => Sys2Proof.Machine.execAtomhome m op s
  | .inv m => Sys2Proof.Machine.execInv m s
  | .fwds m => Sys2Proof.Machine.execFwds m s
  | .fwdx m => Sys2Proof.Machine.execFwdx m s
  | .ack m => Sys2Proof.Machine.execAck m s
  | .data m => Sys2Proof.Machine.execData m s
  | .relay m kind => Sys2Proof.Machine.execRelay m kind s
  | .redirect r => Sys2Proof.Machine.execRedirect r s
  | .trignote die => Sys2Proof.Machine.execTrignote die s
  | .timesync die tick ns => Sys2Proof.Machine.execTimesync die tick ns s
  | .timesyncSend => Sys2Proof.Machine.execTimesyncSend s
  | .coeskTrace die => Sys2Proof.Machine.execCoeskTrace die s
  | .cfg c => Sys2Proof.Machine.execCfg c s
  | .coeskReservedOp link op txn => Sys2Proof.Machine.execCoeskReservedOp link op txn s
  | .keepTimer die txn => Sys2Proof.Machine.execKeepTimer die txn s
  | .crossDieTimeout die txn => Sys2Proof.Machine.execCrossDieTimeout die txn s
  | .homeExecuteExpiry line => Sys2Proof.Machine.execHomeExecuteExpiry line s
  | .referenceTick => Sys2Proof.Machine.execReferenceTick s
  | .timebaseWatchdog => Sys2Proof.Machine.execTimebaseWatchdog s
  | .discoverRecord port r => Sys2Proof.Machine.execDiscoverRecord port r s
  | .discoveryTimeout => Sys2Proof.Machine.execDiscoveryTimeout s
  | .commandProcessorFire ctx queue => Sys2Proof.Machine.execCommandProcessorFire ctx queue s
  | .launchAdmit ctx queue => Sys2Proof.Machine.execLaunchAdmit ctx queue s
  | .launchRetire id => Sys2Proof.Machine.execLaunchRetire id s
  | .eventSetRegister w ctx mask => Sys2Proof.Machine.execEventSetRegister w ctx mask s
  | .eventClearRegister w ctx mask => Sys2Proof.Machine.execEventClearRegister w ctx mask s
  | .queueRegister w ctx idx hdr => Sys2Proof.Machine.execQueueRegister w ctx idx hdr s
  | .placementRound die => Sys2Proof.Machine.execPlacementRound die s
  | .placementReserveTimeout die => Sys2Proof.Machine.execPlacementReserveTimeout die s
  | .triggerPoolRelease die => Sys2Proof.Machine.execTriggerPoolRelease die s
  | .triggerWindowRollover => Sys2Proof.Machine.execTriggerWindowRollover s
  | .preemptGo w ctx kind hold => Sys2Proof.Machine.execPreemptGo w ctx kind hold s
  | .preemptKill w ctx => Sys2Proof.Machine.execPreemptKill w ctx s
  | .preemptSaveComplete gang => Sys2Proof.Machine.execPreemptSaveComplete gang s
  | .chunkProcess copy => Sys2Proof.Machine.execChunkProcess copy s
  | .chunkLand copy chunk pos => Sys2Proof.Machine.execChunkLand copy chunk pos s
  | .spillSpaceFreed die => Sys2Proof.Machine.execSpillSpaceFreed die s
  | .l2cfgWrite w die val => Sys2Proof.Machine.execL2cfgWrite w die val s
  | .carveChangeDone die => Sys2Proof.Machine.execCarveChangeDone die s
  | .mmioWrite w reg val => Sys2Proof.Machine.execMmioWrite w reg val s
  | .stationLinkDown st => Sys2Proof.Machine.execStationLinkDown st s
  | .stationRetrain w st => Sys2Proof.Machine.execStationRetrain w st s
  | .stationTrained st => Sys2Proof.Machine.execStationTrained st s
  | .podcfgWrite w val => Sys2Proof.Machine.execPodcfgWrite w val s
  | .ualinkRequestArrival st r => Sys2Proof.Machine.execUalinkRequestArrival st r s
  | .podResponse txn r => Sys2Proof.Machine.execPodResponse txn r s
  | .podWriteAck txn => Sys2Proof.Machine.execPodWriteAck txn s
  | .trimmedHeader st k => Sys2Proof.Machine.execTrimmedHeader st k s
  | .podPortDown txn => Sys2Proof.Machine.execPodPortDown txn s
  | .podTimeout txn => Sys2Proof.Machine.execPodTimeout txn s
  | .deadPeerClearMmio w mask => Sys2Proof.Machine.execDeadPeerClearMmio w mask s
  | .traceDrainWrite die => Sys2Proof.Machine.execTraceDrainWrite die s
  | .losslessFallback ctx => Sys2Proof.Machine.execLosslessFallback ctx s
  | .trchdrWrite w ctx val => Sys2Proof.Machine.execTrchdrWrite w ctx val s
  | .trccfgWrite w ctx val => Sys2Proof.Machine.execTrccfgWrite w ctx val s
  | .timebaseSourceUpdate offset => Sys2Proof.Machine.execTimebaseSourceUpdate offset s
  | .cxlMemRead pa => Sys2Proof.Machine.execCxlMemRead pa s
  | .cxlMemWrite pa data be => Sys2Proof.Machine.execCxlMemWrite pa data be s
  | .h2dSnoop pa inv => Sys2Proof.Machine.execH2dSnoop pa inv s
  | .backInvalidateResponse line => Sys2Proof.Machine.execBackInvalidateResponse line s
  | .claim master prio => Sys2Proof.Machine.execClaim master prio s
  | .claimBeat master => Sys2Proof.Machine.execClaimBeat master s
  | .claimRelease master nextHolder => Sys2Proof.Machine.execClaimRelease master nextHolder s
  | .electionClose => Sys2Proof.Machine.execElectionClose s
  | .leaseLapse => Sys2Proof.Machine.execLeaseLapse s
  | .contextCreate w slot => Sys2Proof.Machine.execContextCreate w slot s
  | .contextDestroy w slot => Sys2Proof.Machine.execContextDestroy w slot s
  | .reset b => Sys2Proof.Machine.execReset b s
  | .recoveryImage img => Sys2Proof.Machine.execRecoveryImage img s
  | .firmwareRevocationCommand c => Sys2Proof.Machine.execFirmwareRevocationCommand c s
  | .getVersion master => Sys2Proof.Machine.execGetVersion master s
  | .getCapabilities master => Sys2Proof.Machine.execGetCapabilities master s
  | .negotiateAlgorithms master => Sys2Proof.Machine.execNegotiateAlgorithms master s
  | .getDigests master => Sys2Proof.Machine.execGetDigests master s
  | .getCertificate master slot => Sys2Proof.Machine.execGetCertificate master slot s
  | .challenge master nonce => Sys2Proof.Machine.execChallenge master nonce s
  | .getMeasurements master index => Sys2Proof.Machine.execGetMeasurements master index s
  | .powerLimitStep die lower => Sys2Proof.Machine.execPowerLimitStep die lower s
  | .thermalTrip => Sys2Proof.Machine.execThermalTrip s
  | .fillReturn idx => Sys2Proof.Machine.execFillReturn idx s
  | .h2dResponse die line owned data => Sys2Proof.Machine.execH2dResponse die line owned data s
  | .cxlIoCompletion txn data => Sys2Proof.Machine.execCxlIoCompletion txn data s
  | .engineReset w core => Sys2Proof.Machine.execEngineReset w core s
  | .preemptHoldWrite w ctx hold kind => Sys2Proof.Machine.execPreemptHoldWrite w ctx hold kind s
  | .linkDeclaredDown a b => Sys2Proof.Machine.execLinkDeclaredDown a b s

end Sys2Proof.Machine
end

