-- ==== Sys2Proof/Machine/Turn.lean ====
section
/-! DEFINITION. One hood's turn to issue: fetch, decode, the instruction, and what follows it (R186, R217, R237); which hoods are eligible. -/

namespace Sys2Proof.Machine

open Sys2Proof

/-- What an issue leaves beyond the instruction's own effect: a hood held back has not issued (R186); one that has is counted, unless it is
the second slot of a choice already made (R217, R237), and a paired slot opens its pair. `s` is the state in which it issued. -/
def State.issued (t s : State) (w : Warp) (cur : HoodRef) (word : BitVec 96) (pair : Option (BitVec 96)) (second : Bool) : State :=
  let t := { t with cur := cur }
  if t.curHeld then t
  else
    let t := if second then t else t.countIssue w word
    match pair with
    | some b => t.openPair s w cur word b
    | none => t

/-- The hood that `cur` names fetches, decodes and performs one instruction; a hood that may not issue does nothing. An uncorrectable error
in what the instruction reads of its warp's state loses the context instead (R58). -/
def stepHood (s : State) (second : Bool := false) : Host.Outcome State Fault Refusal :=
  match s.issuer? with
  | none => .next s
  | some w =>
    match s.fetchHood w with
    | .done s => .next s.settle
    | .word s' word pair =>
      match decode word with
      | .error r => .next (s'.decodeFault w r).settle
      | .ok i =>
        match s'.readWords w s.cur.hood word with
        | none => .next (s'.lose w.ctx w.core w.slot 0x02).sweep.settle
        | some s' =>
          match exec i s' with
          | .next t => .next (t.issued s' w s.cur word pair second)
          | o => o

/-- Tries the hoods that issue selection may choose, in its order, until one issues: one that is held back was not eligible (R186). -/
def tryHoods : List HoodRef → State → Host.Outcome State Fault Refusal
  | [], s => .next s
  | h :: l, s =>
    match stepHood { s with cur := h } with
    | .next t => if t.curHeld then tryHoods l t else .next t
    | o => o

/-- Whether a hood would be held back if it tried to issue now. -/
def State.wouldHold (s : State) (h : HoodRef) : Bool :=
  match stepHood { s with cur := h } with
  | .next t => { t with cur := h }.curHeld
  | _ => false

/-- A hood that was held back is eligible again as soon as nothing holds it (R186). -/
def State.freeHeld (s : State) : State :=
  { s with warps := s.warps.map fun w =>
      if !w.mayIssue || !(w.slices.any Slice.held) then w
      else
        let free := w.hoods.filter fun h => w.running h && (w.slice h).held && !s.wouldHold ⟨w.core, w.slot, h⟩
        w.mapSlices fun _ sl => if free.contains sl.hood then { sl with held := false } else sl }

/-- The hoods before a choice of issue selection: those whose holds and YIELDs have ended, and since when each has been eligible (R186, R217,
R266). -/
def State.ready (s : State) : State := s.freeHeld.wakeYields.noteReady

end Sys2Proof.Machine
end

