-- ==== Sys2Proof/Machine/Step.lean ====
section
/-! DEFINITION. One step of the package: the move at the head of the agenda, or the hood that issue selection chooses. -/

namespace Sys2Proof.Machine

open Sys2Proof

/-- The events that act when every die's clock has stopped (R160, R462): RESET, after which alone the package is usable again, a thermal trip,
and what the hub does by its own oscillator (R455) and by its mailboxes (R459). -/
def Instr.awake : Instr → Bool
  | .reset _ | .referenceTick | .thermalTrip | .claim .. | .claimBeat _ | .claimRelease .. | .electionClose | .leaseLapse
  | .getVersion _ | .getCapabilities _ | .negotiateAlgorithms _ | .getDigests _ | .getCertificate .. | .challenge .. | .getMeasurements .. => true
  | _ => false

/-- A step of a package whose clocks have stopped: a move that the hub does not make comes to nothing. -/
def stepHalted (s : State) : Host.Outcome State Fault Refusal :=
  match s.agenda with
  | .event i :: rest => if Instr.awake i then exec i { s with agenda := rest } else .next { s with agenda := rest }
  | .register w .claim v :: rest => .next (registerWrite w .claim v { s with agenda := rest })
  | .register w .owner v :: rest => .next (registerWrite w .owner v { s with agenda := rest })
  | .register _ _ _ :: rest | .half _ _ _ _ :: rest | .issue _ :: rest | .second _ :: rest => .next { s with agenda := rest }
  | [] => .next s

/-- The replay that is due, if any (R412): the log entry, named as a hood of its warp, and its instruction. -/
def State.dueEntry? (s : State) : Option (HoodRef × Instr) :=
  s.warps.findSome? fun w => (List.range 8).findSome? fun i =>
    let e := w.log.getD i {}
    if e.first && e.due then (decode e.insn).toOption.map fun x => (⟨w.core, w.slot, logHood i⟩, x) else none

/-- What comes before a step acts: errors that have struck storage are met (R57, R58), the records that trace has dropped are counted in their
headers (R445, log entry 13), and the holds of trace end that can (R446). -/
def State.before (s : State) : State :=
  let s := s.meetUpsets
  if s.contexts.all fun c => c.dropPend = 0 && c.holds.isEmpty then s
  else (s.contexts.foldl (fun s c => s.countDrops c.id) s).endHolds

/-- One step: errors that have struck storage are met, then a replay that is due, then the head of the agenda moves; with none, the pipe whose
turn it is issues. -/
def step (s : State) : Host.Outcome State Fault Refusal :=
  let s := s.before
  if s.halted then stepHalted s
  else match s.dueEntry? with
  | some x => exec x.2 { s with cur := x.1 }
  | none =>
    match s.agenda with
    | .event i :: rest => exec i { s with agenda := rest }
    | .register w r v :: rest => .next (registerWrite w r v { s with agenda := rest })
    | .half w r hi v :: rest => .next (registerWrite w r (s.mmioHalf r hi v) { s with agenda := rest })
    | .issue h :: rest => stepHood { s.ready with agenda := rest, cur := h }
    | .second h :: rest => stepHood { s.ready with agenda := rest, cur := h } true
    | [] =>
      let s := s.ready
      match s.nextTurn with
      | some p => tryHoods (s.choices p) { s with turn := (p + 1) % allPipes }
      | none => .next s

/-- A state with an instruction word where its next step fetches. -/
def State.withFetchWord (s : State) (_nbits w : Nat) : State := s.placeWord (BitVec.ofNat 96 w)

end Sys2Proof.Machine
end

