-- ==== Sys2Proof/Safety.lean ====
section
/-! DEFINITION. The terms in which claims are stated: sound states, the issue that an instruction makes at a state, the state in
which a completed instruction leaves the machine, and a warp that has entered no handler. -/

namespace Sys2Proof

open Sys2Proof.Machine

/-! ## Sound states -/

/-- Every map of the storage stands in its canonical form (R27, R37, R59), so that equal storages are equal data. -/
def Safety.storeSound (s : Store) : Prop :=
  Memory.wf 0 s.mem ∧ Memory.wf 0 s.tags ∧ Memory.wf 0 s.poison ∧ Memory.wf 0 s.owner

/-- A state whose storage is sound. -/
def Safety.sound (s : State) : Prop := Safety.storeSound s.store

/-! ## Issuing -/

/-- The issue that `i` makes at `s`: the warp as it stood, and the context in which the instruction reads and acts. None when no hood
may issue, when a check of R238 fails, or when a parked instruction holds it back (R100, R104). -/
def Safety.issueOf (i : Instr) (s : State) : Option (Warp × Issue) :=
  match i.code?, s.issuer? with
  | some (opc, f), some w =>
    if (checkAll (s.envOf w) opc f).isSome then none
    else
      let c := s.issueFor w s.cur.hood opc f
      if c.2.blocked then none else some c
  | _, _ => none

/-- The state in which an issue leaves the machine when the performance of its instruction ends as `r`. -/
def Safety.after (b : Warp) (c : Issue) (r : Res) : State := (c.finish b r).settle

/-- `i` completes wherever it issues, its hood goes on at the next PC, and its whole effect on the registers of its warp is `g`. -/
def Safety.Changes (i : Instr) (g : Issue → Warp → Warp) : Prop :=
  ∀ s b c, Safety.issueOf i s = some (b, c) → exec i s = .next (Safety.after b c (.next (c.put (g c))))

/-- `i` writes `x` to the scalar destination `d`; with an empty active set it changes nothing (R176). -/
def Safety.WritesScalar (i : Instr) (d : BitVec 10) (wide : Bool) (x : Issue → Nat) : Prop :=
  Safety.Changes i fun c w => if c.act = 0 then w else w.putScalar c.lanes d wide (x c)

/-- `i` writes `x l` to lane l of the vector destination `d` for every lane l of the active set (R172). -/
def Safety.WritesVector (i : Instr) (d : BitVec 10) (wide : Bool) (x : Issue → Nat → Nat) : Prop :=
  Safety.Changes i fun c w => w.putVector c.act d wide (x c)

/-- `i` raises the flags `raised` lane by lane, and either completes with the effect `g`, or, when an enabled trap is among them,
completes with `g` and takes the trap (R77 to R79). -/
def Safety.ChangesRaising (i : Instr) (raised : Issue → List (Nat × Nat)) (g : Issue → Warp → Warp) : Prop :=
  ∀ s b c, Safety.issueOf i s = some (b, c) → trapRecords c.w c.pc (raised c) = [] →
    exec i s = .next (Safety.after b c (.next (c.put fun w => (g c w).orFlags (flagsUnion (raised c)))))

/-- The performance of a warp-collective instruction by the last hood to arrive is `r`; the slices that waited go on as well (R182). -/
def Safety.passed (c : Issue) : Res → Res
  | .next s => .next (c.passOthers s)
  | .trap s l => .trap (c.passOthers s) l
  | .park s l => .park (c.passOthers s) l
  | .parkSome s l m => .parkSome (c.passOthers s) l m
  | .fly s x => .fly (c.passOthers s) x
  | r => r

/-- The warp as a completed instruction leaves it: its hood at the next PC; what it wrote noted, for the hoods that share its registers and
for the matrix unit (R136, R177); and its own lookahead window open (R184, R236). -/
def Safety.moved (b : Warp) (c : Issue) (a : Warp) : Warp :=
  { c.wrote b (a.moveHood c.hood (nextPc c.pc)) with
    windows := if formLa c.form = 0 then [] else [Warp.opened b c.hood (formLa c.form) c.pc c.act c.written c.kWritten] }

/-- The state in which a completed instruction whose effect on its warp is `g` leaves the machine, when no window stood open. -/
def Safety.retired (b : Warp) (c : Issue) (g : Warp → Warp) : State :=
  { c.s.modWarp c.w.core c.w.slot (fun a => Safety.moved b c (g a)) with free := c.s.free + 1 }

/-- An issue with nothing under way around it: no window open, no register written by one hood that another has not yet met, no record waiting
to be written, no error waiting to be met. -/
def Safety.quiet (b : Warp) (c : Issue) : Prop := b.windows = [] ∧ b.shared = [] ∧ c.s.recs = [] ∧ c.s.upsets = []

/-! ## Completion -/

/-- `i` ends as `r` says wherever it issues and `p` holds. -/
def Safety.Completes (i : Instr) (p : Issue → Prop) (r : Issue → Res) : Prop :=
  ∀ s b c, Safety.issueOf i s = some (b, c) → p c → exec i s = .next (Safety.after b c (r c))

/-- The same for an instruction after which warps may end, a barrier may open, or a phase may end. -/
def Safety.CompletesSweeping (i : Instr) (p : Issue → Prop) (r : Issue → Res) : Prop :=
  ∀ s b c, Safety.issueOf i s = some (b, c) → p c → exec i s = .next (Safety.after b c (r c)).sweep.settle

/-- The same for a warp-collective instruction, when the hood that issues it is the last to arrive: the warp performs it once, for every
live lane, and the hoods that waited go on with it (R182). -/
def Safety.CompletesTogether (i : Instr) (p : Issue → Prop) (r : Issue → Res) : Prop :=
  Safety.Completes i (fun c => c.waiting.atCollective = true ∧ p c.whole) fun c => Safety.passed c (r c.whole)

/-- The issuing hood waits as `x` says. -/
def Safety.waits (c : Issue) (s : State) (x : Wait) : Res := .hold (s.modWarp c.w.core c.w.slot fun w => w.waitHood c.hood x)

/-- The checks of a list of branch targets (R221 to R223): the state they leave, with the targets' lines fetched; none when a target is
illegal or its line cannot be fetched. -/
def Safety.legalTargets (core ctx : Nat) : List (List Nat × DWord) → State → Option State
  | [], s => some s
  | x :: l, s =>
    match s.targetFault core ctx x.2 with
    | (_, some _) => none
    | (t, none) => Safety.legalTargets core ctx l t

/-- `i` sends the groups of slices `go` to their targets and the rest of its hood to the next instruction, when every target is legal;
`g` is what it changes besides. -/
def Safety.Transfers (i : Instr) (go : Issue → List (List Nat × DWord)) (g : Issue → Warp → Warp) : Prop :=
  ∀ s b c t, Safety.issueOf i s = some (b, c) → ((go c).any fun x => c.s.fetchWaits c.w.core c.w.ctx (x.2.toNat / 64)) = false →
    c.targetHeld (go c) = none → Safety.legalTargets c.w.core c.w.ctx (go c) c.s = some t →
    exec i s = .next (Safety.after b c (.jump (t.modWarp c.w.core c.w.slot fun w => (g c w).transfer c.hood (go c) (nextPc c.pc))))

/-- The slices of a hood that take a conditional branch (R178): `any`, `all` or `none` of the active lanes of a slice with one have q. -/
def Safety.takers (c : Issue) (f : FormB) : List Nat :=
  (c.w.hoodSlices c.hood).filter fun i =>
    let l := c.act &&& sliceLanes i
    let q := c.qreg f.c
    l ≠ 0 && (if f.bmode = 0 then l &&& q ≠ 0 else if f.bmode = 1 then l &&& ~~~q = 0 else l &&& q = 0)

/-- The slices of a hood with an active lane. -/
def Safety.active (c : Issue) : List Nat := (c.w.hoodSlices c.hood).filter fun i => c.act &&& sliceLanes i ≠ 0

/-- Those slices as one group with a target, if there is one. -/
def Safety.group (l : List Nat) (target : DWord) : List (List Nat × DWord) := if l.isEmpty then [] else [(l, target)]

/-! ## Accesses that go through -/

/-- Every address of an access passes its checks and translates (R34, R100, R323), no relay ends at a dead peer (R111, R434), and no copy's
range holds it back (R360): `t` is the state, and `ps` the pieces. -/
def Safety.Reaches (c : Issue) (a : PrepArgs) (store : Bool) (addrs : List (Nat × DWord)) (t : State) (ps : List Piece) : Prop :=
  ∃ u qs, c.s.prep c.w a c.pc addrs = .ok u qs ∧ u.relayAll c.w qs = (t, ps) ∧
    (∀ x ∈ qs.zip ps, x.1.key ≠ x.2.key → ∀ d o, t.region x.2.at = .pod d o → t.podFault (dieOfCore c.w.core) d o = none) ∧
    ∀ p ∈ ps, (p.hit.isNone && t.scoreHolds store p.at p.n) = false

/-- Nothing outside the core keeps an access waiting (R134, R150, R159, R427, R428). -/
def Safety.Opens (c : Issue) (g : Gate) (ps : List Piece) (u : State) : Prop :=
  g = .ready u ∧ u.timedOut c.agent ps = [] ∧ (c.promoted && u.unsettledRelease ps) = false

/-- A load reads the values `vals` of its lanes, none of them poisoned or failed, and leaves `v`. -/
def Safety.Loads (c : Issue) (a : PrepArgs) (ch : Nat) (fill : Bool) (addrs : List (Nat × DWord)) (v : State) (vals : List (Nat × Nat)) :
    Prop :=
  ∃ t ps u r, Safety.Reaches c a false addrs t ps ∧ Safety.Opens c (c.readGate t (t.splitUc ps)) (t.splitUc ps) u ∧
    u.fetchAll c.agent c.w (t.splitUc ps) ch fill = (r, vals, []) ∧ v = c.bypassed a (t.splitUc ps) (r.dropAnswers c.agent)

/-- The state with the registers of the issuing warp changed. -/
def Safety.putIn (c : Issue) (s : State) (g : Warp → Warp) : State := s.modWarp c.w.core c.w.slot g

/-! ## Arithmetic as the rules state it (R251 to R253) -/

/-- The quotient, truncated toward zero; a zero divisor gives all ones (R252). -/
def Safety.quotient (t : ElemTy) (x y : Nat) : Nat :=
  if t.val y = 0 then 2 ^ t.n - 1 else ofInteger t.n ((t.val x).tdiv (t.val y))

/-- The remainder, with the sign of the dividend; a zero divisor gives the dividend (R252). -/
def Safety.remainder (t : ElemTy) (x y : Nat) : Nat :=
  if t.val y = 0 then x % 2 ^ t.n else ofInteger t.n ((t.val x).tmod (t.val y))

/-- The lesser and the greater of two elements (R251). -/
def Safety.lesser (t : ElemTy) (x y : Nat) : Nat := if t.val x ≤ t.val y then x % 2 ^ t.n else y % 2 ^ t.n
def Safety.greater (t : ElemTy) (x y : Nat) : Nat := if t.val y ≤ t.val x then x % 2 ^ t.n else y % 2 ^ t.n

/-- Shifts: a count of n or more gives zero, or copies of the sign bit (R253). -/
def Safety.shiftLeft (t : ElemTy) (x n : Nat) : Nat := if n < t.n then x * 2 ^ n % 2 ^ t.n else 0
def Safety.shiftRight (t : ElemTy) (x n : Nat) : Nat := if n < t.n then x % 2 ^ t.n / 2 ^ n else 0
def Safety.shiftSigned (t : ElemTy) (x n : Nat) : Nat := ofInteger t.n (toInteger true t.n x / (2 ^ Nat.min n t.n : Nat))

/-- An operation on two scalar sources, or on one and IMM32 (R230, R248). -/
def Safety.sArith (f : FormA) (g : ElemTy → Nat → Nat → Nat) (c : Issue) : Nat :=
  g (elemTy f.ty.toNat) (c.scalar f.s1 (wideTy f.ty.toNat) f.ty.toNat) (c.scalar f.s2 (wideTy f.ty.toNat) f.ty.toNat)
def Safety.sArithImm (f : FormI) (g : ElemTy → Nat → Nat → Nat) (c : Issue) : Nat :=
  g (elemTy f.ty.toNat) (c.scalar f.s1 (wideTy f.ty.toNat) f.ty.toNat) (immBits f.ty.toNat f.imm)

/-- The same with a shift count, which is a single register or IMM32 (R253). -/
def Safety.sShift (f : FormA) (g : ElemTy → Nat → Nat → Nat) (c : Issue) : Nat :=
  g (elemTy f.ty.toNat) (c.scalar f.s1 (wideTy f.ty.toNat) f.ty.toNat) (c.scalar f.s2 false 0)
def Safety.sShiftImm (f : FormI) (g : ElemTy → Nat → Nat → Nat) (c : Issue) : Nat :=
  g (elemTy f.ty.toNat) (c.scalar f.s1 (wideTy f.ty.toNat) f.ty.toNat) f.imm.toNat

/-- Whether a compare holds (R234). -/
def Safety.holds (cond ty x y : Nat) : Bool := intCond cond ((elemTy ty).val x) ((elemTy ty).val y)

/-- An operation on each element of a lane of two vector sources, or of one and IMM32 (R274, R279). -/
def Safety.vArith (f : FormA) (g : ElemTy → Nat → Nat → Nat) (c : Issue) (l : Nat) : Nat :=
  (elemTy f.ty.toNat).map2 (g (elemTy f.ty.toNat)) (c.vector f.s1 (wideTy f.ty.toNat) f.ty.toNat l)
    (c.vector f.s2 (wideTy f.ty.toNat) f.ty.toNat l)
def Safety.vArithImm (f : FormI) (g : ElemTy → Nat → Nat → Nat) (c : Issue) (l : Nat) : Nat :=
  (elemTy f.ty.toNat).map2 (g (elemTy f.ty.toNat)) (c.vector f.s1 (wideTy f.ty.toNat) f.ty.toNat l) (immBits f.ty.toNat f.imm)
def Safety.vShift (f : FormA) (g : ElemTy → Nat → Nat → Nat) (c : Issue) (l : Nat) : Nat :=
  (elemTy f.ty.toNat).map2 (g (elemTy f.ty.toNat)) (c.vector f.s1 (wideTy f.ty.toNat) f.ty.toNat l) (c.vector f.s2 false f.ty.toNat l)
def Safety.vShiftImm (f : FormI) (g : ElemTy → Nat → Nat → Nat) (c : Issue) (l : Nat) : Nat :=
  (elemTy f.ty.toNat).map2 (g (elemTy f.ty.toNat)) (c.vector f.s1 (wideTy f.ty.toNat) f.ty.toNat l) f.imm.toNat

/-- Element j of a lane of a source, as the integer it stands for. -/
def Safety.vElem (f : FormA) (c : Issue) (x : BitVec 10) (l j : Nat) : Int :=
  (elemTy f.ty.toNat).val ((elemTy f.ty.toNat).elem j (c.vector x (wideTy f.ty.toNat) f.ty.toNat l))

/-- `i` writes the bits `(x l).1` to lane l of `d`, raising the flags `(x l).2`, for every lane l of the active set (R77). -/
def Safety.WritesFloatLanes (i : Instr) (d : BitVec 10) (wide : Bool) (x : Issue → Nat → FRes) : Prop :=
  Safety.ChangesRaising i (fun c => (LaneMask.lanes c.act).map fun l => (l, (x c l).2)) fun c w =>
    w.putVector c.act d wide fun l => (x c l).1

/-- A float operation on each element of a lane (R65, R277): `op` gets the format, the rounding environment of the element with the bits
of the random operand, and the reading of a source's element. -/
def Safety.floatElems (f : FormA) (rand : BitVec 10) (op : Fmt → FEnv → (BitVec 10 → Nat) → FRes) (c : Issue) (l : Nat) : FRes :=
  joinRes (floatShape f.ty.toNat).1 (floatShape f.ty.toNat).2 fun j =>
    op (fmtOf f.ty.toNat) (c.elemEnv f.hdr rand (floatShape f.ty.toNat).1 l j) fun x =>
      c.vector x (wideTy f.ty.toNat) f.ty.toNat l / 2 ^ ((floatShape f.ty.toNat).2 * j) % 2 ^ (floatShape f.ty.toNat).2

/-- `i` is the float operation `op` on each element. -/
def Safety.WritesFloat (i : Instr) (f : FormA) (rand : BitVec 10) (op : Fmt → FEnv → (BitVec 10 → Nat) → FRes) : Prop :=
  Safety.WritesFloatLanes i f.d (wideTy f.ty.toNat) (Safety.floatElems f rand op)

/-- `i` writes `x n` to byte n of the k register `d` for the bytes that `p` names (R300). -/
def Safety.WritesScale (i : Instr) (d : BitVec 10) (p : Issue → Nat → Bool) (x : Issue → Nat → Byte) : Prop :=
  Safety.Changes i fun c w => w.putK (regNum d) (KReg.write (w.getK (regNum d)) (p c) (x c))

/-- `i` adds `delta` to every scale byte of a k register, clamping, and MXSAT is charged to the lanes of a clamped byte's slice (R306). -/
def Safety.ShiftsScale (i : Instr) (ty : Nat) (d s1 : BitVec 10) (delta : Issue → Int) : Prop :=
  let r := fun (c : Issue) (n : Nat) => if scaleByte ty n then addScale (KReg.byte (c.kreg s1) n) (delta c) else (0, false)
  Safety.ChangesRaising i
    (fun c => (List.range 24).flatMap fun n =>
      if c.kBytes n && (r c n).2 then (List.range 4).map fun i => (4 * n + i, flMXSAT) else [])
    fun c w => w.putK (regNum d) (KReg.write (w.getK (regNum d)) c.kBytes fun n => (r c n).1)

/-- KGET's destination: byte `idx` of a k register, or its tag `idx` (R303). -/
def Safety.scalePart (sub : Nat) (d s1 : BitVec 10) (idx : Nat) (c : Issue) (w : Warp) : Warp :=
  if sub = 0 then w.putScalar c.lanes d false (KReg.byte (c.kreg s1) idx).toNat
  else w.putScalar c.lanes d true (KReg.tagWord (c.kreg s1) idx).toNat

/-- KSET's destination: byte `idx` replaced by S1, or tag `idx` by the pair S1 (R304). -/
def Safety.withScalePart (sub : Nat) (d s1 : BitVec 10) (idx : Nat) (c : Issue) (w : Warp) : Warp :=
  if sub = 0 then
    w.putK (regNum d) (KReg.write (w.getK (regNum d)) (fun n => n = idx) fun _ => BitVec.ofNat 8 (c.scalar s1 false 0))
  else
    w.putK (regNum d) (KReg.write (w.getK (regNum d)) (fun n => n / 8 = idx) fun n =>
      BitVec.ofNat 8 (c.scalar s1 true 0 / 256 ^ (n % 8)))

/-! ## What a step may change -/

/-- The storage as a program reads it: no byte, tag, or poison of a word is other than it was. -/
def Safety.sameStorage (s t : State) : Prop :=
  (∀ k, t.store.byte k = s.store.byte k) ∧ (∀ l, t.store.tag l = s.store.tag l) ∧ ∀ w, t.store.wordPoison w = s.store.wordPoison w

/-- Registers of a warp that an instruction does not name as destinations are as they were. -/
def Safety.onlyRegs (dst : List (Cls × Nat)) (a a' : Warp) : Prop :=
  (∀ n, (Cls.v, n) ∉ dst → a'.getV n = a.getV n) ∧ (∀ n, (Cls.k, n) ∉ dst → a'.getK n = a.getK n) ∧
  (∀ n, (Cls.s, n) ∉ dst → a'.getS n = a.getS n) ∧ ∀ n, (Cls.q, n) ∉ dst → a'.getQ n = a.getQ n

/-- The special registers, the modes and the parked instructions of a warp are as they were. -/
def Safety.sameControl (a a' : Warp) : Prop :=
  a'.mode = a.mode ∧ a'.mshape = a.mshape ∧ a'.tvec = a.tvec ∧ a'.handler = a.handler ∧ a'.halted = a.halted ∧ a'.entry = a.entry ∧
  a'.log = a.log

/-- `i` is the atomic `op` (R330, R332): nothing with an empty active set; else, once every lane can be performed, each reads and writes, D
takes the old values, and an acquire follows as its ordering asks. -/
def Safety.Atomic (i : Instr) (f : FormM) (op : Nat) (scalar : Bool) : Prop :=
  Safety.Completes i (fun c => c.act = 0#96) (fun c => .next c.s) ∧
  ∀ s b c t ps u v got, Safety.issueOf i s = some (b, c) → c.act ≠ 0#96 → (ordReleases f.ord && c.podWritesOut f.scope.toNat) = false →
    Safety.Reaches c (atomicArgs f op) true (c.addresses f scalar) t ps → c.tailHeld f t ps = false → Safety.Opens c (c.atomicGate f op t ps) ps u →
    c.atomicAll f op ps u = (v, got, []) →
    exec i s = .next (Safety.after b c (.next (c.acquired (ordAcquires f.ord) f.scope.toNat
      (Safety.putIn c ((c.noteRelease f true ps v).dropAnswers c.agent) (c.putOld f scalar got)))))

/-- A storage key that an access reads or writes in the device's own storage: scratchpad, HBM4E or die scratch. -/
def Safety.plainKey (s : State) (k : Nat) : Prop :=
  scratchKeys ≤ k ∨ (∃ d, s.region k = .hbm d) ∨ ∃ d o, s.region k = .aperture d o

/-- Instructions whose whole effect is on the registers of their warp. -/
def Safety.registerOnly (opc : Nat) (f : Form) : Bool :=
  (opc = 0x000 || opc = 0x00F || (0x020 ≤ opc && opc ≤ 0x096) || opc = 0x099) && !isCollective opc f

/-- The registers such an instruction may write: its destinations, and the k registers that VQNT writes beside them (R311). -/
def Safety.writtenRegs (opc : Nat) (f : Form) : List (Cls × Nat) :=
  let l := destRegs opc f
  if opc = 0x095 then l ++ l.map fun r => (Cls.k, r.2) else l

/-- The frame of a completed instruction that changes registers alone: nothing of the machine changes but its warp; there, no register but
its destinations, no control state; and FLAGS only gains bits (R77). -/
def Safety.FramesRegisters (lo hi : Nat) : Prop :=
  ∀ i s b c t a, Safety.issueOf i s = some (b, c) → lo ≤ c.opc → c.opc ≤ hi → Safety.registerOnly c.opc c.form = true →
    Safety.quiet b c → exec i s = .next t → t.warp? s.cur.core s.cur.slot = some a →
    a.ctx = b.ctx → a.handler = b.handler → a.entry = none → a.halted = false →
    { t with warps := s.warps, free := s.free } = s ∧
    (∀ core slot, (core ≠ s.cur.core ∨ slot ≠ s.cur.slot) → t.warp? core slot = s.warp? core slot) ∧
    Safety.onlyRegs (Safety.writtenRegs c.opc c.form) b a ∧ Safety.sameControl b a ∧ a.flags &&& b.flags = b.flags ∧
    (c.opc < 0x060 → c.opc ≠ 0x039 → a.flags = b.flags)

/-- The band that an instruction names lies at a storage key, and no copy's range holds the access back (R355, R360). -/
def Safety.BandAt (c : Issue) (f : FormM) (store : Bool) (key : Nat) : Prop :=
  c.objectKey f 32 32 3 = .ok key ∧ c.s.scoreHolds store key 32 = false

/-- The ring header that an instruction names, and the storage key at which it lies (R366). -/
def Safety.RingAt (c : Issue) (f : FormM) (key : Nat) (r : Ring) : Prop :=
  c.objectKey f 64 64 5 = .ok key ∧ c.s.scoreHolds true key 64 = false ∧ r = Ring.ofNat (c.s.store.read key 64)

/-- A field of a ring header written by the device, at the chain depth of the issuing warp (R214, R354, R365). -/
def Safety.fieldPut (c : Issue) (s : State) (key off n v : Nat) : State :=
  let f : DevField := { obj := key, kind := .ring, ctx := c.w.ctx, key := key + off, n := n, val := v }
  (s.putField f (s.depthOf c.w)).noteFields [f]

/-- A counter of a ring header written, and then the registers of the issuing warp. -/
def Safety.ringStep (c : Issue) (key off n v : Nat) (g : Warp → Warp) : State :=
  Safety.putIn c (Safety.fieldPut c c.s key off n v) g

/-- A counter of a ring header moved on by one slot, which another gang may not see at once (R210, R368, R369). -/
def Safety.ringMoved (c : Issue) (key off old : Nat) : State :=
  (Safety.fieldPut c c.s key off 4 ((old + 1) % 2 ^ 32)).noteRing c.w (key + off) old

/-- A hood that waits at a ring instruction, kept as the issue `c`, performs it at the event `i` as `r` says, wherever `p` holds of the issue,
its form and its ring. -/
def Safety.ReturnsToRing (i : HoodRef → Instr) (opc ord : Nat) (at_ : Wait → Bool) (p : Issue → FormM → Ring → Prop)
    (r : Issue → FormM → Nat → Ring → Res) : Prop :=
  ∀ (h : HoodRef) (s : State) (c : Issue) (w : Warp) (f : FormM) (k : Nat) (x : Ring), s.waits h at_ = true →
    s.keptIssue h.core h.slot h.hood = some (c, w) → c.opc = opc → c.form = .m f → f.ord.toNat = ord → c.act ≠ 0 → Safety.RingAt c f k x →
    x.live = true → p c f x → exec (i h) s = .next (Safety.after w c (r c f k x))

/-- D gets the address of slot `i` of a ring, and the q result, if there is one, is all ones in the active lanes (R368, R369). -/
def Safety.takeSlot (c : Issue) (f : FormM) (r : Ring) (i : Nat) (w : Warp) : Warp :=
  let w := w.putScalar c.lanes f.d true (r.slot i)
  if f.s = 0x1FF then w else w.setQ (regNum f.s) c.act (BitVec.allOnes 96)

end Sys2Proof
end

