-- ==== Sys2Proof/WellFormed.lean ====
section
/-! DEFINITION. Which terms of `Instr` are instructions the manual has: the constructor is the one its opcode and selecting
fields name, and checks 4 to 9 of R238 pass for a warp that owns every register. -/

namespace Sys2Proof

/-- An allocation that owns every register (R168). -/
def fullEnv : DecodeEnv := { vrc := 256, src := 128 }

/-- The first reason a term is no legal instruction. An event is always well-formed. -/
def Instr.illFormed? (i : Instr) : Option Cause :=
  match i.code? with
  | none => none
  | some (opc, f) => if instrOf opc f = some i then checkForm fullEnv opc f else some (0x01, 0x07)

/-- Legal under the checks of R238 that do not depend on the warp. -/
def Instr.wellFormed (i : Instr) : Bool := i.illFormed?.isNone

end Sys2Proof
end

