-- ==== Sys2Proof/Certificates/Slice0/Obligations.lean ====
section
/-! DEFINITION. The statements for the provers. -/

open Sys2Proof Sys2Proof.Machine Sys2Proof.Safety

/-! ## The machine, its steps and its words -/

/-- The package right after reset (R24, R47, R56, R148, R421, R424, R454, R460): bring-up stands at its first step, nobody owns the device,
no context slot is valid, no warp is resident, no line is cached or directed, every station is down, and a step has nothing to do. That
scratchpad bytes read zero as well is the model's choice (log entry 7). -/
def Obligations.ResetState : Prop :=
  sound State.reset ∧ State.reset.hub.bootstat = 1 ∧ State.reset.hub.owner = 0 ∧ State.reset.hub.podcfg = 200 ∧
  State.reset.hub.ready = false ∧ State.reset.hub.deadPeers = 0 ∧ State.reset.warps = [] ∧ State.reset.contexts = [] ∧
  State.reset.slots.length = 64 ∧ (∀ x ∈ State.reset.slots, x.valid = false ∧ x.status = 0) ∧
  (∀ d, (State.reset.die d).l2cfg = 0 ∧ State.reset.present d = false) ∧
  (∀ t, (State.reset.stations.getD t {}).status = 0) ∧ (∀ k, State.reset.store.byte k = 0) ∧ (∀ l, State.reset.store.tag l = 0) ∧
  (∀ w, State.reset.store.wordPoison w = 0) ∧ (∀ l, State.reset.dir? l = none) ∧ State.reset.caches = {} ∧
  step State.reset = .next State.reset

/-- One step (R186, R217 to R220). The hood that may issue fetches the slot that its PC names of a good line at the PC's physical address; a
word that decodes is performed as exec of its instruction, with what the choice and pairing add (R217, R237), and any other takes the fault of
R238; an uncorrectable error in what the instruction reads loses the context instead (R58). Errors that have struck storage are met first, the drops of trace
counted and its holds ended that can end; with none of these nothing is done (R57, R445, R446, log entries 13 and 45). The agenda is the model's own (log entry 5): its head says who moves; with none, the pipe whose
turn it is issues the first hood of its choice that is not held back; before either, a log entry whose replay is due replays (R412). After a
thermal trip or the loss of the time base no hood issues, and no event moves but those that the hub still answers, RESET among them (log entry
33). -/
def Obligations.StepRunsTheDecodedInstruction : Prop :=
  (∀ (s t u : State) (w : Warp) (word : BitVec 96) (pair : Option (BitVec 96)) (i : Instr) (second : Bool), s.issuer? = some w →
    s.fetchHood w = .word t word pair → decode word = .ok i → t.readWords w s.cur.hood word = some u →
    stepHood s second = match exec i u with
      | .next v => .next (v.issued u w s.cur word pair second)
      | o => o) ∧
  (∀ (s t : State) (w : Warp) (word : BitVec 96) (pair : Option (BitVec 96)) (i : Instr) (second : Bool), s.issuer? = some w →
    s.fetchHood w = .word t word pair → decode word = .ok i → t.readWords w s.cur.hood word = none →
    stepHood s second = .next (t.lose w.ctx w.core w.slot 0x02).sweep.settle) ∧
  (∀ (s t : State) (w : Warp) (word : BitVec 96) (pair : Option (BitVec 96)) (r : Reject) (second : Bool), s.issuer? = some w →
    s.fetchHood w = .word t word pair → decode word = .error r → stepHood s second = .next (t.decodeFault w r).settle) ∧
  (∀ (s t u : State) (w : Warp) (x : Xlat) (pa : Nat),
    let sl := w.slice (keyOf (w.hoodSlices s.cur.hood))
    let line := sl.pc.toNat / 64
    let d := BitVec.ofNat 512 ((u.touch (dieOfCore w.core) (pa / 128) 0 .read).store.read pa 64)
    pcFault sl.pc = none → (∀ y ∈ s.caches.icache, ¬(y.core = w.core ∧ y.ctx = w.ctx ∧ y.va = line)) → s.fetchWaits w.core w.ctx line = false →
    s.fetchHeld w.core w.ctx line = none →
    s.translate (clusterOfCore w.core) w.ctx (64 * line) .exec = (t, .ok x) →
    t.relay (clusterOfCore w.core) w.ctx (64 * line) x.pa = (u, pa) → lineGood d = true → (lineWord d).extractLsb' 6 17 = 0 →
    (sl.tgt = true → lineTgt d (sl.pc.toNat % 8) = true) →
    ∃ v, s.fetchHood w = .word v (lineSlotBits d (sl.pc.toNat % 8))
      (if linePair d (sl.pc.toNat % 8) then some (lineSlotBits d (sl.pc.toNat % 8 + 1)) else none)) ∧
  (∀ s : State, s.upsets = [] → (∀ e ∈ s.coh.dir, e.bad = false) → s.meetUpsets = s ∧
    ((∀ c ∈ s.contexts, c.dropPend = 0 ∧ c.holds = []) → s.before = s)) ∧
  (∀ (s m : State) (h : HoodRef) (rest : List Move), m = s.before → m.halted = false → m.dueEntry? = none → m.agenda = .issue h :: rest →
    step s = stepHood { m.ready with agenda := rest, cur := h }) ∧
  (∀ (s m : State) (h : HoodRef) (rest : List Move), m = s.before → m.halted = false → m.dueEntry? = none → m.agenda = .second h :: rest →
    step s = stepHood { m.ready with agenda := rest, cur := h } true) ∧
  (∀ (s m : State) (p : Nat), s.before.halted = false → s.before.dueEntry? = none → s.before.agenda = [] → m = s.before.ready →
    m.nextTurn = some p → step s = tryHoods (m.choices p) { m with turn := (p + 1) % allPipes }) ∧
  (∀ (h : HoodRef) (l : List HoodRef) (s t : State), stepHood { s with cur := h } = .next t →
    tryHoods (h :: l) s = if t.curHeld then tryHoods l t else .next t) ∧
  (∀ (s m : State) (i : Instr) (rest : List Move), m = s.before → (m.halted = false ∧ m.dueEntry? = none ∨ m.halted = true ∧ Instr.awake i = true) → m.agenda = .event i :: rest →
    step s = exec i { m with agenda := rest }) ∧
  (∀ (s m : State) (w : Writer) (r : MmioReg) (v : Nat) (rest : List Move), m = s.before → m.halted = false → m.dueEntry? = none →
    m.agenda = .register w r v :: rest → step s = .next (registerWrite w r v { m with agenda := rest })) ∧
  (∀ (s m : State) (h : HoodRef) (i : Instr), m = s.before → m.halted = false → m.dueEntry? = some (h, i) →
    step s = exec i { m with cur := h }) ∧
  (∀ s m : State, m = s.before → m.halted = true → m.agenda = [] → step s = .next m) ∧
  (∀ (s m : State) (i : Instr) (rest : List Move), m = s.before → m.halted = true → Instr.awake i = false → m.agenda = .event i :: rest →
    step s = .next { m with agenda := rest }) ∧
  (∀ (s m : State) (h : HoodRef) (rest : List Move), m = s.before → m.halted = true →
    (m.agenda = .issue h :: rest ∨ m.agenda = .second h :: rest) → step s = .next { m with agenda := rest }) ∧
  ∀ b, Instr.awake (.reset b) = true

/-- What some words decode to: every word that the manual writes out (R224, R227, R239, with the examples of its chapters on encoding, on
the engine and on the fabric), and words of the other families, written from the layouts of R224 and R227 and the map of R239. -/
def Obligations.WordsOfEachFamily : Prop :=
  decode 0x18C0_CB20_0100_5018_077F_D000 =
    .ok (.ffma { hdr := { gai := 3, gbi := 5, gbn := 1, rnd := 1 }, d := 4, s1 := 5, s2 := 6, s3 := 7, s4 := 0x1FF, ty := 8 }) ∧
  decode 0x1100_0000_0040_1604_0000_0000 =
    .ok (.vadd { d := 1, s1 := 1, s2 := 0x181 }) ∧
  decode 0x1480_0000_C0C0_1628_0000_0002 =
    .ok (.vcmp { d := 0x303, s1 := 1, s2 := 0x18A, sub := 2 }) ∧
  decode 0x0080_0003_C0FF_FFFF_FF80_0000 =
    .ok (.bra { c := 0x303, off := 0xFFFFFFFE }) ∧
  decode 0x0040_0000_0000_0000_0000_0000 =
    .ok (.exit {}) ∧
  decode 0x0000_0000_0000_0000_0000_0000 =
    .ok (.nop {}) ∧
  decode 0x4240_0004_4790_4421_1046_0000 =
    .ok (.xcopy { d := 0x11E, s1 := 0x104, s2 := 0x108, s3 := 0x110, s4 := 0x118 }) ∧
  decode 0x40C0_0002_4151_8604_0000_0004 =
    .ok (.bandw { d := 0x105, a := 0x118, s := 0x181, space := 1 }) ∧
  decode 0x0400_0001_0010_A000_0001_7000 =
    .ok (.srset { s1 := 0x10A, imm := 0x17 }) ∧
  decode 0x08C0_0001_4110_5123_4567_8000 =
    .ok (.saddImm { d := 0x104, s1 := 0x105, imm := 0x12345678 }) ∧
  decode 0x2008_0000_0100_5619_FF00_2401 =
    .ok (.vshfl { hdr := { la := 2 }, d := 4, s1 := 5, s2 := 0x186, s3 := 0x1FF, ty := 0x12, sub := 1 }) ∧
  decode 0x2400_0000_80E0_4000_0000_0000 =
    .ok (.kmov { d := 0x203, s1 := 0x204 }) ∧
  decode 0x3000_0012_4110_87FF_FFFE_2450 =
    .ok (.sld { hdr := { ch := 2 }, d := 0x104, a := 0x108, s := 0x1FF, off := 0xFFFF8, ty := 0x12, scope := 1, ord := 1 }) ∧
  decode 0x3800_A002_0180_8028_0004_00F0 =
    .ok (.atomAdd { hdr := { gai := 2, gan := 1 }, d := 6, a := 8, s := 0xA, off := 0x10, scope := 3, ord := 3 }) ∧
  decode 0x5040_0004_0402_04C1_FF00_2000 =
    .ok (.mma { d := 0x10, s1 := 0x20, s2 := 0x130, s3 := 0x1FF, xf := 0x2000 }) ∧
  decode 0x5140_0000_0000_0000_0000_0000 =
    .ok (.mfence {})

/-- Decoding and encoding agree (R218, R224 to R227, R239): the word of every legal instruction, with every operand at every value that its
encoding admits, decodes to that instruction, and a word that decodes is the word of what it decodes to, so that no two rows of the table
share a word. -/
def Obligations.DecodeAndEncodeAgree : Prop :=
  (∀ i : Instr, i.wellFormed = true → i.code?.isSome = true → decode (encode i) = .ok i) ∧
  ∀ (w : BitVec 96) (i : Instr), decode w = .ok i → encode i = w

/-- Every step keeps the storage in its canonical form: keys rising, no entry equal to what an unlisted key holds, for bytes, tags, poison
and scratchpad owners. -/
def Obligations.StepKeepsStorageSound : Prop :=
 ∀ s t : State, sound s → step s = .next t → sound t

/-! ## Scalar instructions (R248 to R258) -/

/-- SMOV, SMOVI and SMOVIH complete (R250): S1's value, IMM32 as R230 reads it or with `.pc` the branch target, and IMM32 in the high
register of the pair. Integer arithmetic of two scalar sources, and of one with IMM32 (R251, R252): the exact result on the integers that
the operands stand for, clamped with SAT and else taken modulo 2^n; VMULH-like high halves, minimum, maximum, quotient and remainder. -/
def Obligations.ScalarMovesAndArithmetic : Prop :=
  ((∀ f, WritesScalar (.smov f) f.d (wideTy f.ty.toNat) fun c => c.scalar f.s1 (wideTy f.ty.toNat) f.ty.toNat) ∧
   (∀ f, f.sub ≠ 1 → WritesScalar (.smovi f) f.d (wideTy f.ty.toNat) fun _ => immBits f.ty.toNat f.imm) ∧
   (∀ f, f.sub = 1 → WritesScalar (.smovi f) f.d true fun c => (branchTarget c.pc f.imm).toNat) ∧
   ∀ f n, operand f.d = .s n → Changes (.smovih f) fun c w => if c.act = 0 then w else w.setS c.lanes (n + 1) f.imm) ∧
  ((∀ f, WritesScalar (.sadd f) f.d (wideTy f.ty.toNat) (sArith f fun t x y => t.out (f.sat = 1) (t.val x + t.val y))) ∧
   (∀ f, WritesScalar (.saddImm f) f.d (wideTy f.ty.toNat) (sArithImm f fun t x y => t.out (f.sat = 1) (t.val x + t.val y))) ∧
   (∀ f, WritesScalar (.ssub f) f.d (wideTy f.ty.toNat) (sArith f fun t x y => t.out (f.sat = 1) (t.val x - t.val y))) ∧
   (∀ f, WritesScalar (.ssubImm f) f.d (wideTy f.ty.toNat) (sArithImm f fun t x y => t.out (f.sat = 1) (t.val x - t.val y))) ∧
   (∀ f, WritesScalar (.smul f) f.d (wideTy f.ty.toNat) (sArith f fun t x y => t.out (f.sat = 1) (t.val x * t.val y))) ∧
   (∀ f, WritesScalar (.smulImm f) f.d (wideTy f.ty.toNat) (sArithImm f fun t x y => t.out (f.sat = 1) (t.val x * t.val y))) ∧
   (∀ f, WritesScalar (.smulh f) f.d (wideTy f.ty.toNat) (sArith f fun t x y => ofInteger t.n (t.val x * t.val y / 2 ^ t.n))) ∧
   (∀ f, WritesScalar (.smulhImm f) f.d (wideTy f.ty.toNat) (sArithImm f fun t x y => ofInteger t.n (t.val x * t.val y / 2 ^ t.n))) ∧
   (∀ f, WritesScalar (.smad f) f.d (wideTy f.ty.toNat) fun c => sArith f (fun t x y => t.out (f.sat = 1)
     (t.val x * t.val y + t.val (c.scalar f.s3 (wideTy f.ty.toNat) f.ty.toNat))) c) ∧
   (∀ f, WritesScalar (.sdiv f) f.d (wideTy f.ty.toNat) (sArith f quotient)) ∧
   (∀ f, WritesScalar (.sdivImm f) f.d (wideTy f.ty.toNat) (sArithImm f quotient)) ∧
   (∀ f, WritesScalar (.srem f) f.d (wideTy f.ty.toNat) (sArith f remainder)) ∧
   (∀ f, WritesScalar (.sremImm f) f.d (wideTy f.ty.toNat) (sArithImm f remainder)) ∧
   (∀ f, WritesScalar (.smin f) f.d (wideTy f.ty.toNat) (sArith f lesser)) ∧
   (∀ f, WritesScalar (.sminImm f) f.d (wideTy f.ty.toNat) (sArithImm f lesser)) ∧
   (∀ f, WritesScalar (.smax f) f.d (wideTy f.ty.toNat) (sArith f greater)) ∧
   ∀ f, WritesScalar (.smaxImm f) f.d (wideTy f.ty.toNat) (sArithImm f greater))

/-- Logic and shifts of scalars (R253): a count of n or more gives zero, or for SSRA copies of the sign. SCMP into a scalar gives 1 or 0,
into a q register the bit of every lane of the active set (R254); SSEL, SCLZ, SPOPC (R255); the bit fields (R256) and SLEA (R257). -/
def Obligations.ScalarLogicComparesAndFields : Prop :=
  ((∀ f, WritesScalar (.sand f) f.d (wideTy f.ty.toNat) (sArith f fun t x y => (x &&& y) % 2 ^ t.n)) ∧
   (∀ f, WritesScalar (.sandImm f) f.d (wideTy f.ty.toNat) (sArithImm f fun t x y => (x &&& y) % 2 ^ t.n)) ∧
   (∀ f, WritesScalar (.sor f) f.d (wideTy f.ty.toNat) (sArith f fun t x y => (x ||| y) % 2 ^ t.n)) ∧
   (∀ f, WritesScalar (.sorImm f) f.d (wideTy f.ty.toNat) (sArithImm f fun t x y => (x ||| y) % 2 ^ t.n)) ∧
   (∀ f, WritesScalar (.sxor f) f.d (wideTy f.ty.toNat) (sArith f fun t x y => (x ^^^ y) % 2 ^ t.n)) ∧
   (∀ f, WritesScalar (.sxorImm f) f.d (wideTy f.ty.toNat) (sArithImm f fun t x y => (x ^^^ y) % 2 ^ t.n)) ∧
   (∀ f, WritesScalar (.sshl f) f.d (wideTy f.ty.toNat) (sShift f shiftLeft)) ∧
   (∀ f, WritesScalar (.sshlImm f) f.d (wideTy f.ty.toNat) (sShiftImm f shiftLeft)) ∧
   (∀ f, WritesScalar (.sshr f) f.d (wideTy f.ty.toNat) (sShift f shiftRight)) ∧
   (∀ f, WritesScalar (.sshrImm f) f.d (wideTy f.ty.toNat) (sShiftImm f shiftRight)) ∧
   (∀ f, WritesScalar (.ssra f) f.d (wideTy f.ty.toNat) (sShift f shiftSigned)) ∧
   ∀ f, WritesScalar (.ssraImm f) f.d (wideTy f.ty.toNat) (sShiftImm f shiftSigned)) ∧
  ((∀ f n, operand f.d = .q n → Changes (.scmp f) fun c w => if c.act = 0 then w else
     w.setQ n c.act (if holds f.sub.toNat f.ty.toNat (c.scalar f.s1 (wideTy f.ty.toNat) f.ty.toNat)
       (c.scalar f.s2 (wideTy f.ty.toNat) f.ty.toNat) then BitVec.allOnes 96 else 0)) ∧
   (∀ f, (∀ n, operand f.d ≠ .q n) → WritesScalar (.scmp f) f.d (wideTy f.ty.toNat) fun c =>
     if holds f.sub.toNat f.ty.toNat (c.scalar f.s1 (wideTy f.ty.toNat) f.ty.toNat)
       (c.scalar f.s2 (wideTy f.ty.toNat) f.ty.toNat) then 1 else 0) ∧
   (∀ f n, operand f.d = .q n → Changes (.scmpImm f) fun c w => if c.act = 0 then w else
     w.setQ n c.act (if holds f.sub.toNat f.ty.toNat (c.scalar f.s1 (wideTy f.ty.toNat) f.ty.toNat)
       (immBits f.ty.toNat f.imm) then BitVec.allOnes 96 else 0)) ∧
   (∀ f, (∀ n, operand f.d ≠ .q n) → WritesScalar (.scmpImm f) f.d (wideTy f.ty.toNat) fun c =>
     if holds f.sub.toNat f.ty.toNat (c.scalar f.s1 (wideTy f.ty.toNat) f.ty.toNat) (immBits f.ty.toNat f.imm) then 1 else 0) ∧
   (∀ f, WritesScalar (.ssel f) f.d (wideTy f.ty.toNat) fun c =>
     if c.scalar f.s3 false 0 ≠ 0 then c.scalar f.s1 (wideTy f.ty.toNat) f.ty.toNat else c.scalar f.s2 (wideTy f.ty.toNat) f.ty.toNat) ∧
   (∀ f, WritesScalar (.sclz f) f.d false fun c => opClz (elemTy f.ty.toNat) (c.scalar f.s1 (wideTy f.ty.toNat) f.ty.toNat)) ∧
   (∀ f, WritesScalar (.spopc f) f.d false fun c => opPopc (elemTy f.ty.toNat) (c.scalar f.s1 (wideTy f.ty.toNat) f.ty.toNat)) ∧
   (∀ f, WritesScalar (.sbfe f) f.d (wideTy f.ty.toNat) fun c => opBfe (elemTy f.ty.toNat)
     (c.scalar f.s1 (wideTy f.ty.toNat) f.ty.toNat) (c.scalar f.s2 false 0) (c.scalar f.s3 false 0)) ∧
   (∀ f, WritesScalar (.sbfeImm f) f.d (wideTy f.ty.toNat) fun c => opBfe (elemTy f.ty.toNat)
     (c.scalar f.s1 (wideTy f.ty.toNat) f.ty.toNat) (f.imm.toNat % 256) (f.imm.toNat / 256 % 256)) ∧
   (∀ f, WritesScalar (.sbfi f) f.d (wideTy f.ty.toNat) fun c => opBfi (elemTy f.ty.toNat)
     (c.scalar f.s1 (wideTy f.ty.toNat) f.ty.toNat) (c.scalar f.s2 (wideTy f.ty.toNat) f.ty.toNat)
     (c.scalar f.s3 false 0) (c.scalar f.s4 false 0)) ∧
   ∀ f, WritesScalar (.slea f) f.d true fun c =>
     ofInteger 64 ((c.scalar f.s1 true 2 : Int) + toInteger (f.ty = 0) 32 (c.scalar f.s2 false f.ty.toNat) * 2 ^ f.sub.toNat))

/-! ## Vector integer instructions (R278 to R283) -/

/-- VMOV, VMOVI, VBCST and VIDX (R280): VBCST takes lane c as it stood, if it is in the active set. PHILOX (R283): ten rounds on the four
counter registers of each active lane under the key pair. -/
def Obligations.VectorMovesAndPhilox : Prop :=
  ((∀ f, WritesVector (.vmov f) f.d (wideTy f.ty.toNat) fun c l => c.vector f.s1 (wideTy f.ty.toNat) f.ty.toNat l) ∧
   (∀ f, WritesVector (.vmovi f) f.d (wideTy f.ty.toNat) fun _ _ => immBits f.ty.toNat f.imm) ∧
   (∀ f, WritesVector (.vbcst f) f.d (wideTy f.ty.toNat) fun c l =>
     c.vector f.s1 (wideTy f.ty.toNat) f.ty.toNat
       (if c.scalar f.s2 false 0 < 96 && c.act.getLsbD (c.scalar f.s2 false 0) then c.scalar f.s2 false 0 else l)) ∧
   ∀ f, WritesVector (.vidx f) f.d (wideTy f.ty.toNat) fun c l =>
     (c.scalar f.s1 (wideTy f.ty.toNat) f.ty.toNat + l * c.scalar f.s2 (wideTy f.ty.toNat) f.ty.toNat) % 2 ^ (elemTy f.ty.toNat).n) ∧
  (∀ f, Changes (.philox f) fun c w =>
     let r := fun (l : Nat) =>
       let x := fun (j : Nat) => (VReg.lane (c.w.getV (regNum f.s1 + j)) l).toNat
       philoxRounds 10 (c.scalar f.s2 true 2 % 2 ^ 32) (c.scalar f.s2 true 2 / 2 ^ 32) (x 0, x 1, x 2, x 3)
     (((w.setV (regNum f.d) c.act fun l => BitVec.ofNat 32 (r l).1).setV (regNum f.d + 1) c.act fun l => BitVec.ofNat 32 (r l).2.1).setV
       (regNum f.d + 2) c.act fun l => BitVec.ofNat 32 (r l).2.2.1).setV (regNum f.d + 3) c.act fun l => BitVec.ofNat 32 (r l).2.2.2)

/-- Vector integer arithmetic (R279, R251): each element of each active lane is the exact result, clamped with SAT and else taken modulo
2^n. -/
def Obligations.VectorArithmeticIsElementwise : Prop :=
  (∀ f, WritesVector (.vadd f) f.d (wideTy f.ty.toNat) (vArith f fun t x y => t.out (f.sat = 1) (t.val x + t.val y))) ∧
  (∀ f, WritesVector (.vaddImm f) f.d (wideTy f.ty.toNat) (vArithImm f fun t x y => t.out (f.sat = 1) (t.val x + t.val y))) ∧
  (∀ f, WritesVector (.vsub f) f.d (wideTy f.ty.toNat) (vArith f fun t x y => t.out (f.sat = 1) (t.val x - t.val y))) ∧
  (∀ f, WritesVector (.vsubImm f) f.d (wideTy f.ty.toNat) (vArithImm f fun t x y => t.out (f.sat = 1) (t.val x - t.val y))) ∧
  (∀ f, WritesVector (.vmul f) f.d (wideTy f.ty.toNat) (vArith f fun t x y => t.out (f.sat = 1) (t.val x * t.val y))) ∧
  (∀ f, WritesVector (.vmulImm f) f.d (wideTy f.ty.toNat) (vArithImm f fun t x y => t.out (f.sat = 1) (t.val x * t.val y))) ∧
  (∀ f, WritesVector (.vmulh f) f.d (wideTy f.ty.toNat) (vArith f fun t x y => ofInteger t.n (t.val x * t.val y / 2 ^ t.n))) ∧
  (∀ f, WritesVector (.vmulhImm f) f.d (wideTy f.ty.toNat) (vArithImm f fun t x y => ofInteger t.n (t.val x * t.val y / 2 ^ t.n))) ∧
  (∀ f, WritesVector (.vmad f) f.d (wideTy f.ty.toNat) fun c l => (elemTy f.ty.toNat).join fun j =>
    (elemTy f.ty.toNat).out (f.sat = 1) (vElem f c f.s1 l j * vElem f c f.s2 l j + vElem f c f.s3 l j)) ∧
  (∀ f, WritesVector (.vmin f) f.d (wideTy f.ty.toNat) (vArith f lesser)) ∧
  (∀ f, WritesVector (.vminImm f) f.d (wideTy f.ty.toNat) (vArithImm f lesser)) ∧
  (∀ f, WritesVector (.vmax f) f.d (wideTy f.ty.toNat) (vArith f greater)) ∧
  (∀ f, WritesVector (.vmaxImm f) f.d (wideTy f.ty.toNat) (vArithImm f greater)) ∧
  ∀ f, WritesVector (.vabs f) f.d (wideTy f.ty.toNat) fun c l => (elemTy f.ty.toNat).join fun j =>
    (elemTy f.ty.toNat).out (f.sat = 1) (vElem f c f.s1 l j).natAbs

/-- Vector logic and shifts (R279, R253). VCMP writes the bit of each active lane of its q register and leaves the others (R281); VSEL, the
counts, the bit fields, VDOT4 (R279, R281, R282). -/
def Obligations.VectorLogicComparesAndFields : Prop :=
  ((∀ f, WritesVector (.vand f) f.d (wideTy f.ty.toNat) (vArith f fun t x y => (x &&& y) % 2 ^ t.n)) ∧
   (∀ f, WritesVector (.vandImm f) f.d (wideTy f.ty.toNat) (vArithImm f fun t x y => (x &&& y) % 2 ^ t.n)) ∧
   (∀ f, WritesVector (.vor f) f.d (wideTy f.ty.toNat) (vArith f fun t x y => (x ||| y) % 2 ^ t.n)) ∧
   (∀ f, WritesVector (.vorImm f) f.d (wideTy f.ty.toNat) (vArithImm f fun t x y => (x ||| y) % 2 ^ t.n)) ∧
   (∀ f, WritesVector (.vxor f) f.d (wideTy f.ty.toNat) (vArith f fun t x y => (x ^^^ y) % 2 ^ t.n)) ∧
   (∀ f, WritesVector (.vxorImm f) f.d (wideTy f.ty.toNat) (vArithImm f fun t x y => (x ^^^ y) % 2 ^ t.n)) ∧
   (∀ f, WritesVector (.vshl f) f.d (wideTy f.ty.toNat) (vShift f shiftLeft)) ∧
   (∀ f, WritesVector (.vshlImm f) f.d (wideTy f.ty.toNat) (vShiftImm f shiftLeft)) ∧
   (∀ f, WritesVector (.vshr f) f.d (wideTy f.ty.toNat) (vShift f shiftRight)) ∧
   (∀ f, WritesVector (.vshrImm f) f.d (wideTy f.ty.toNat) (vShiftImm f shiftRight)) ∧
   (∀ f, WritesVector (.vsra f) f.d (wideTy f.ty.toNat) (vShift f shiftSigned)) ∧
   ∀ f, WritesVector (.vsraImm f) f.d (wideTy f.ty.toNat) (vShiftImm f shiftSigned)) ∧
  ((∀ f, Changes (.vcmp f) fun c w => w.setQ (regNum f.d) c.act (LaneMask.ofFn fun l => c.act.getLsbD l &&
     holds f.sub.toNat f.ty.toNat (c.vector f.s1 (wideTy f.ty.toNat) f.ty.toNat l) (c.vector f.s2 (wideTy f.ty.toNat) f.ty.toNat l))) ∧
   (∀ f, Changes (.vcmpImm f) fun c w => w.setQ (regNum f.d) c.act (LaneMask.ofFn fun l => c.act.getLsbD l &&
     holds f.sub.toNat f.ty.toNat (c.vector f.s1 (wideTy f.ty.toNat) f.ty.toNat l) (immBits f.ty.toNat f.imm))) ∧
   (∀ f, WritesVector (.vsel f) f.d (wideTy f.ty.toNat) fun c l => if (c.qreg f.s3).getLsbD l
     then c.vector f.s1 (wideTy f.ty.toNat) f.ty.toNat l else c.vector f.s2 (wideTy f.ty.toNat) f.ty.toNat l) ∧
   (∀ f, WritesVector (.vclz f) f.d false fun c l => opClz (elemTy f.ty.toNat) (c.vector f.s1 (wideTy f.ty.toNat) f.ty.toNat l)) ∧
   (∀ f, WritesVector (.vpopc f) f.d false fun c l => opPopc (elemTy f.ty.toNat) (c.vector f.s1 (wideTy f.ty.toNat) f.ty.toNat l)) ∧
   (∀ f, WritesVector (.vbfe f) f.d (wideTy f.ty.toNat) fun c l => opBfe (elemTy f.ty.toNat)
     (c.vector f.s1 (wideTy f.ty.toNat) f.ty.toNat l) (c.vector f.s2 false 0 l) (c.vector f.s3 false 0 l)) ∧
   (∀ f, WritesVector (.vbfeImm f) f.d (wideTy f.ty.toNat) fun c l => opBfe (elemTy f.ty.toNat)
     (c.vector f.s1 (wideTy f.ty.toNat) f.ty.toNat l) (f.imm.toNat % 256) (f.imm.toNat / 256 % 256)) ∧
   (∀ f, WritesVector (.vbfi f) f.d (wideTy f.ty.toNat) fun c l => opBfi (elemTy f.ty.toNat)
     (c.vector f.s1 (wideTy f.ty.toNat) f.ty.toNat l) (c.vector f.s2 (wideTy f.ty.toNat) f.ty.toNat l)
     (c.vector f.s3 false 0 l) (c.vector f.s4 false 0 l)) ∧
   ∀ f, WritesVector (.vdot4 f) f.d false fun c l =>
     opDot4 (f.ty.toNat = 6) (f.sat = 1) (c.vector f.s1 false f.ty.toNat l) (c.vector f.s2 false f.ty.toNat l)
       (c.vector f.s3 false (if f.ty.toNat = 6 then 0 else 1) l))

/-- The counts and bit fields on 32-bit elements as the manual describes them (R255, R256): CLZ is 32 less the number of significant bits,
POPC the number of ones, BFE the field of w bits at p zero-extended or sign-extended, BFI the base with that field replaced. -/
def Obligations.BitOperationsMeaning : Prop :=
  (∀ x : BitVec 32, (opClz (elemTy 0) x.toNat = 32 ↔ x = 0) ∧
    ∀ k < 32, x.getLsbD k = true → (∀ j < 32, k < j → x.getLsbD j = false) → opClz (elemTy 0) x.toNat = 31 - k) ∧
  (∀ x : BitVec 32, opPopc (elemTy 0) x.toNat = ((List.range 32).filter fun k => x.getLsbD k).length) ∧
  (∀ (x : BitVec 32) (p w : Nat), p + w ≤ 32 → 0 < w → ∀ k < 32,
    (BitVec.ofNat 32 (opBfe (elemTy 1) x.toNat p w)).getLsbD k = (decide (k < w) && x.getLsbD (p + k)) ∧
    (BitVec.ofNat 32 (opBfe (elemTy 0) x.toNat p w)).getLsbD k = x.getLsbD (p + min k (w - 1))) ∧
  ∀ (x y : BitVec 32) (p w : Nat), p + w ≤ 32 → ∀ k < 32,
    (BitVec.ofNat 32 (opBfi (elemTy 1) x.toNat y.toNat p w)).getLsbD k =
      if p ≤ k ∧ k < p + w then y.getLsbD (k - p) else x.getLsbD k

/-! ## Vector float instructions (R284 to R290) -/

/-- Float arithmetic (R285 to R287, R289): each element of each active lane is the operation on the elements of the sources under the
rounding environment of R73 to R76, and the flags raised are ORed into FLAGS where no enabled trap is among them. -/
def Obligations.FloatArithmeticIsElementwise : Prop :=
  (∀ f, WritesFloat (.fadd f) f f.s3 fun F v x => fAdd F v (x f.s1) (x f.s2)) ∧
  (∀ f, WritesFloat (.fsub f) f f.s3 fun F v x => fSub F v (x f.s1) (x f.s2)) ∧
  (∀ f, WritesFloat (.fmul f) f f.s3 fun F v x => fMul F v (x f.s1) (x f.s2)) ∧
  (∀ f, WritesFloat (.ffma f) f f.s4 fun F v x => fFma F v (x f.s1) (x f.s2) (x f.s3)) ∧
  (∀ f, WritesFloat (.fdiv f) f f.s3 fun F v x => fDiv F v (x f.s1) (x f.s2)) ∧
  (∀ f, WritesFloat (.fmin f) f 0x1FF fun F v x => fMinMax F v false (x f.s1) (x f.s2)) ∧
  (∀ f, WritesFloat (.fmax f) f 0x1FF fun F v x => fMinMax F v true (x f.s1) (x f.s2)) ∧
  (∀ f, WritesFloat (.frcp f) f 0x1FF fun F v x => sfuRcp F v (x f.s1)) ∧
  (∀ f, WritesFloat (.frsq f) f 0x1FF fun F v x => sfuRsq F v (x f.s1)) ∧
  (∀ f, WritesFloat (.fsqrt f) f 0x1FF fun F v x => sfuSqrt F v (x f.s1)) ∧
  (∀ f, WritesFloat (.fexp2 f) f 0x1FF fun _ v x => sfuExp2 v (x f.s1)) ∧
  (∀ f, WritesFloat (.flog2 f) f 0x1FF fun _ v x => sfuLog2 v (x f.s1)) ∧
  (∀ f, WritesFloat (.fsin f) f 0x1FF fun _ v x => sfuTrig 0 v (x f.s1)) ∧
  (∀ f, WritesFloat (.fcos f) f 0x1FF fun _ v x => sfuTrig 1 v (x f.s1)) ∧
  (∀ f, WritesFloat (.ftanh f) f 0x1FF fun _ v x => sfuTanh v (x f.s1)) ∧
  ∀ f, WritesFloat (.frint f) f f.s2 fun F v x => fRint F v (x f.s1)

/-- FSCALE, FCVT, SCVT, FCLASS, FCMP and the softmax steps (R258, R286, R288 to R290). -/
def Obligations.FloatConversionsAndTests : Prop :=
  (∀ f, WritesFloatLanes (.fscale f) f.d (wideTy f.ty.toNat) fun c l =>
    joinRes (floatShape f.ty.toNat).1 (floatShape f.ty.toNat).2 fun j =>
      fScale (fmtOf f.ty.toNat) (c.elemEnv f.hdr f.s3 (floatShape f.ty.toNat).1 l j)
        (c.vector f.s1 (wideTy f.ty.toNat) f.ty.toNat l / 2 ^ ((floatShape f.ty.toNat).2 * j) % 2 ^ (floatShape f.ty.toNat).2)
        (toInteger true 32 (c.vector f.s2 false 0 l))) ∧
  (∀ f, WritesFloatLanes (.fcvt f) f.d (wideTy f.ty.toNat) fun c l => c.cvtLane f l) ∧
  (∀ f s b c, issueOf (.scvt f) s = some (b, c) → c.act ≠ 0 →
    let r := convertBits (c.w.fenv (c.w.rounding f.hdr.rnd false) 0 32) f.sub.toNat f.ty.toNat (f.sat = 1)
      (c.scalar f.s1 (wideTy f.sub.toNat) f.sub.toNat)
    trapRecords c.w c.pc [(c.lane, r.2)] = [] → exec (.scvt f) s = .next (after b c (.next (c.put fun w =>
      (w.putScalar c.lanes f.d (wideTy f.ty.toNat) r.1).orFlags r.2)))) ∧
  (∀ f, WritesVector (.fclass f) f.d false fun c l =>
    (joinRes (floatShape f.ty.toNat).1 (32 / (floatShape f.ty.toNat).1) fun j => (fClass (fmtOf f.ty.toNat)
      (c.vector f.s1 (wideTy f.ty.toNat) f.ty.toNat l / 2 ^ ((floatShape f.ty.toNat).2 * j) % 2 ^ (floatShape f.ty.toNat).2), 0)).1) ∧
  (∀ f,
    let r := fun (c : Issue) (l : Nat) => fCompare (fmtOf f.ty.toNat) c.w.fenvRne f.sub.toNat
      (c.vector f.s1 (wideTy f.ty.toNat) f.ty.toNat l) (c.vector f.s2 (wideTy f.ty.toNat) f.ty.toNat l)
    ChangesRaising (.fcmp f) (fun c => (LaneMask.lanes c.act).map fun l => (l, (r c l).2)) fun c w =>
      w.setQ (regNum f.d) c.act (LaneMask.ofLanes ((LaneMask.lanes c.act).filter fun l => (r c l).1))) ∧
  (∀ f, WritesFloatLanes (.fsmxu f) f.d true fun c l =>
    let r := softmaxUpdate c.w.fenvRne (c.vector f.d true 0 l % 2 ^ 32) (c.vector f.d true 0 l / 2 ^ 32) (c.vector f.s1 false 8 l)
    (r.1 + r.2.1 * 2 ^ 32, r.2.2)) ∧
  ∀ f, WritesFloatLanes (.fsmxf f) f.d false fun c l =>
    softmaxFinal c.w.fenvRne (c.vector f.s2 true 0 l % 2 ^ 32) (c.vector f.s2 true 0 l / 2 ^ 32) (c.vector f.s1 false 8 l)

/-- The special cases of R285 and R67, in each of the four formats and under every environment: ∞ − ∞, 0 × ∞, 0/0 and ∞/∞ are the canonical
NaN and raise IV; a finite nonzero value over zero is an infinity and raises DZ; two quiet NaN operands raise nothing; an exact zero sum of
unlike values is +0, or −0 when rounding toward −∞. A value that the format holds is its own rounding, under every rounding rule and with no
flag (R66, R73). -/
def Obligations.FloatSpecialCasesAndExactValues : Prop :=
  (∀ F ∈ [fF32, fF64, fF16, fBf16], ∀ (v : FEnv) (s t : Bool),
     fSub F v (finf F s) (finf F s) = (fnan F, flIV) ∧ fMul F v (finf F s) (fsign F t) = (fnan F, flIV) ∧
     fDiv F v (fsign F s) (fsign F t) = (fnan F, flIV) ∧ fDiv F v (finf F s) (finf F t) = (fnan F, flIV) ∧
     (∀ a m e, fdecode F v.daz a = .fin s m e → m ≠ 0 → fDiv F v a (fsign F t) = (finf F (s != t), flDZ)) ∧
     (∀ a b x y u z k, fdecode F v.daz a = .nan x false y k → fdecode F v.daz b = .nan u false z k →
       (fAdd F v a b).2 = 0 ∧ (fSub F v a b).2 = 0 ∧ (fMul F v a b).2 = 0 ∧ (fDiv F v a b).2 = 0) ∧
     ∀ a m e, fdecode F v.daz a = .fin s m e → m ≠ 0 → fSub F v a a = (fsign F (v.rm = 3), 0)) ∧
  (∀ F ∈ [fF32, fF64, fF16, fBf16], ∀ (v : FEnv) (b : Nat), v.ftz = false → v.daz = false → b < 2 ^ F.width →
     (fdecode F false b).isNan = false → fToF F F v b = (b, 0))

/-! ## Lane instructions (R291 to R297) -/

/-- VSHFL, VRED, VSCAN, VVOTE and VCMPR (R292 to R296). -/
def Obligations.LaneInstructionsComplete : Prop :=
  (∀ f,
    let src := fun (c : Issue) (l : Nat) => (shuffleSource f.sub.toNat l (c.vector f.s2 false 0 l)).filter fun x => c.act.getLsbD x
    Changes (.vshfl f) fun c w =>
      let w := w.putVector c.act f.d (wideTy f.ty.toNat) fun l => c.vector f.s1 (wideTy f.ty.toNat) f.ty.toNat ((src c l).getD l)
      match operand f.s3 with
      | .q n => w.setQ n c.act (LaneMask.ofFn fun l => c.act.getLsbD l && (src c l).isSome)
      | _ => w) ∧
  (∀ f,
    let r := fun (c : Issue) => reduce f.sub.toNat f.ty.toNat (f.sat = 1) (c.w.fenv (c.w.rounding f.hdr.rnd false) 0 32) c.act
      fun l => c.vector f.s1 (wideTy f.ty.toNat) f.ty.toNat l
    ChangesRaising (.vred f) (fun c => (LaneMask.lanes c.act).map fun l => (l, (r c).2)) fun c w =>
      let w := (w.putScalar c.lanes f.d (wideTy f.ty.toNat) (r c).1).putVector c.act f.d (wideTy f.ty.toNat) fun _ => (r c).1
      match operand f.s2 with
      | .q n => w.setQ n c.lanes (if c.idle then BitVec.allOnes 96 else 0)
      | _ => w) ∧
  (∀ f,
    let ps := fun (c : Issue) => (LaneMask.lanes c.act).zip ((if 8 ≤ f.sub.toNat then
        [(reduceIdentity (f.sub.toNat % 8) f.ty.toNat, 0)] else []) ++ prefixes (f.sub.toNat % 8) f.ty.toNat (f.sat = 1)
        (c.w.fenv (c.w.rounding f.hdr.rnd false) 0 32) ((LaneMask.lanes c.act).map fun l => c.vector f.s1 (wideTy f.ty.toNat) f.ty.toNat l))
    ChangesRaising (.vscan f) (fun c => (ps c).map fun x => (x.1, x.2.2)) fun c w =>
      w.putVector c.act f.d (wideTy f.ty.toNat) fun l => (((ps c).lookup l).getD (0, 0)).1) ∧
  (∀ f n, f.sub = 3 → operand f.d = .s n → Changes (.vvote f) fun c w =>
    ((w.setS c.lanes n ((c.qreg f.s1 &&& c.act).extractLsb' 0 32)).setS c.lanes (n + 1)
      ((c.qreg f.s1 &&& c.act).extractLsb' 32 32)).setS c.lanes (n + 2) ((c.qreg f.s1 &&& c.act).extractLsb' 64 32)) ∧
  (∀ f, f.sub = 4 → Changes (.vvote f) fun c w => w.putScalar c.lanes f.d false (LaneMask.lanes (c.qreg f.s1 &&& c.act)).length) ∧
  (∀ f, f.sub.toNat < 3 →
    let r := fun (c : Issue) => c.act ≠ 0 ∧ (if f.sub = 0 then c.qreg f.s1 &&& c.act ≠ 0 else if f.sub = 1 then
      c.qreg f.s1 &&& c.act = c.act else c.qreg f.s1 &&& c.act = 0)
    (∀ n, operand f.d = .q n → Changes (.vvote f) fun c w => w.setQ n c.act (if r c then BitVec.allOnes 96 else 0)) ∧
    ((∀ n, operand f.d ≠ .q n) → Changes (.vvote f) fun c w => w.putScalar c.lanes f.d false (if r c then 1 else 0))) ∧
  ∀ f,
    let tab := fun (c : Issue) => (LaneMask.lanes c.act).zip (LaneMask.lanes (c.act &&& c.qreg f.s2))
    Changes (.vcmpr f) fun c w =>
      (w.putVector (LaneMask.ofLanes ((tab c).map Prod.fst)) f.d (wideTy f.ty.toNat) fun l =>
        c.vector f.s1 (wideTy f.ty.toNat) f.ty.toNat (((tab c).lookup l).getD l)).putScalar c.lanes f.s3 false
          (LaneMask.lanes (c.act &&& c.qreg f.s2)).length

/-! ## Scale registers, amax rings and microscaling (R299 to R318) -/

/-- KMOV, KGET, KSET, KFILL and KADD complete on indices within their limits (R299 to R306): a byte of a k register is written where its
slice holds an active lane, or where the index names it. -/
def Obligations.ScaleRegisterInstructions : Prop :=
  (∀ f, WritesScale (.kmov f) f.d (fun c n => c.kBytes n) fun c n => KReg.byte (c.kreg f.s1) n) ∧
  (∀ f, f.sub = 2 → WritesVector (.kget f) f.d false fun c l => if l < 24 then (KReg.byte (c.kreg f.s1) l).toNat else 0) ∧
  (∀ f s b c, f.sub ≠ 2 → issueOf (.kget f) s = some (b, c) →
    c.scalar f.s2 false 0 < (if f.sub = 0 then 24 else 3) →
    exec (.kget f) s = .next (after b c (.next (c.put fun w => if c.act = 0 then w else
      scalePart f.sub.toNat f.d f.s1 (c.scalar f.s2 false 0) c w)))) ∧
  (∀ f s b c, issueOf (.kgetImm f) s = some (b, c) → f.imm.toNat < (if f.sub = 0 then 24 else 3) →
    exec (.kgetImm f) s = .next (after b c (.next (c.put fun w => if c.act = 0 then w else
      scalePart f.sub.toNat f.d f.s1 f.imm.toNat c w)))) ∧
  (∀ f, f.sub = 2 → WritesScale (.kset f) f.d (fun c n => c.act.getLsbD n) fun c n => BitVec.ofNat 8 (c.vector f.s1 false 0 n)) ∧
  (∀ f s b c, f.sub ≠ 2 → issueOf (.kset f) s = some (b, c) →
    c.scalar f.s2 false 0 < (if f.sub = 0 then 24 else 3) →
    exec (.kset f) s = .next (after b c (.next (c.put fun w => if c.act = 0 then w else
      withScalePart f.sub.toNat f.d f.s1 (c.scalar f.s2 false 0) c w)))) ∧
  (∀ f s b c, issueOf (.ksetImm f) s = some (b, c) → f.imm.toNat < (if f.sub = 0 then 24 else 3) →
    exec (.ksetImm f) s = .next (after b c (.next (c.put fun w => if c.act = 0 then w else
      withScalePart f.sub.toNat f.d f.s1 f.imm.toNat c w)))) ∧
  (∀ f, WritesScale (.kfill f) f.d (fun c n => c.kBytes n) fun c n =>
    if scaleByte f.ty.toNat n then BitVec.ofNat 8 (c.scalar f.s1 false f.ty.toNat) else 0) ∧
  (∀ f, WritesScale (.kfillImm f) f.d (fun c n => c.kBytes n) fun _ n => if scaleByte f.ty.toNat n then f.imm.setWidth 8 else 0) ∧
  (∀ f, ShiftsScale (.kadd f) f.ty.toNat f.d f.s1 fun c => toInteger true 32 (c.scalar f.s2 false 0)) ∧
  (∀ f, ShiftsScale (.kaddImm f) f.ty.toNat f.d f.s1 fun _ => toInteger true 32 f.imm.toNat) ∧
  ∀ (x : Byte) (d : Int), x ≠ 0xFF → 0 ≤ x.toNat + d → x.toNat + d ≤ 0xFE → (addScale x d).1.toNat = x.toNat + d ∧ (addScale x d).2 = false

/-- A push to an amax ring (R307): the newest entry is the value pushed, the count rises to at most 16, every older entry moves one place
back, and the high value is the largest entry. VAMAX, AMXPUSH, AMXGET and AMXCLR complete on ring numbers and counts within their limits
(R299, R309, R310). -/
def Obligations.AmaxRings : Prop :=
  (∀ (r : AmaxRing) (x : Word), r.e.length = 16 → r.wp < 16 → r.cnt ≤ 16 →
     (r.push x).newest 0 = x ∧ (r.push x).cnt = min (r.cnt + 1) 16 ∧ (∀ i < 15, (r.push x).newest (i + 1) = r.newest i) ∧
     (∀ i < (r.push x).cnt, ((r.push x).newest i).toNat ≤ (r.push x).high) ∧
     ∃ i < (r.push x).cnt, ((r.push x).newest i).toNat = (r.push x).high) ∧
  ((∀ f s b c, issueOf (.vamax f) s = some (b, c) → 0 < c.scalar f.s2 false 0 → c.scalar f.s2 false 0 ≤ 32 →
     regNum f.s1 + c.scalar f.s2 false 0 ≤ c.w.vrc → c.scalar f.s3 false 0 < 32 → c.act ≠ 0 →
     let a := amaxBits c.w.daz ((List.range (c.scalar f.s2 false 0)).flatMap fun k => (LaneMask.lanes c.act).map fun l =>
       (VReg.lane (c.w.getV (regNum f.s1 + k)) l).toNat)
     exec (.vamax f) s = .next (after b c (.next (State.modWarp (c.modRings fun i r =>
       if i = c.scalar f.s3 false 0 then r.push (BitVec.ofNat 32 a) else r).s c.w.core c.w.slot fun w =>
         w.putScalar c.lanes f.d false a)))) ∧
   (∀ f s b c x, issueOf (.amxpush f) s = some (b, c) → c.act ≠ 0 → c.scalar f.s2 false 0 < 32 →
     amaxEntry c.w.daz (c.scalar f.s1 false 8) = some x →
     exec (.amxpush f) s = .next (after b c (.next (c.modRings fun i r =>
       if i = c.scalar f.s2 false 0 then r.push (BitVec.ofNat 32 x) else r).s))) ∧
   (∀ f s b c, issueOf (.amxget f) s = some (b, c) → c.scalar f.s1 false 0 < 32 → (f.sub = 1 → c.scalar f.s2 false 0 < 16) →
     let r := c.ring (c.scalar f.s1 false 0)
     exec (.amxget f) s = .next (after b c (.next (c.put fun w => if c.act = 0 then w else w.putScalar c.lanes f.d false
       (if f.sub = 0 then r.high else if f.sub = 1 then (if c.scalar f.s2 false 0 < r.cnt then (r.newest (c.scalar f.s2 false 0)).toNat
         else 0) else r.cnt + r.wp * 256))))) ∧
   (∀ f s b c, issueOf (.amxclr f) s = some (b, c) → c.act ≠ 0 → exec (.amxclr f) s = .next (after b c (.next
     (c.modRings fun i r => if (c.scalar f.s1 false 0).testBit i then {} else r).s))) ∧
   ∀ f s b c, issueOf (.amxclrImm f) s = some (b, c) → c.act ≠ 0 → exec (.amxclrImm f) s = .next (after b c (.next
     (c.modRings fun i r => if f.imm.toNat.testBit i then {} else r).s)))

/-- VQNT.lane and VDQNT complete in each active lane, VQNT.row once for the whole warp (R80, R82, R311 to R318). -/
def Obligations.QuantiseAndDequantise : Prop :=
  (∀ f,
    let out := fun (c : Issue) => (List.range (blocksPerReg (f.xf.toNat / 512))).foldl (fun o b =>
      c.quantLaneBlock f (f.xf.toNat / 512) b (c.scaleMode f.xf) o) {}
    ChangesRaising (.vqntLane f) (fun c => (out c).raised) fun c w => (out c).store (f.xf.toNat / 512) (regNum f.d) (beatBytes c.act) w) ∧
  (∀ f s b c, issueOf (.vqntRow f) s = some (b, c) → c.waiting.atCollective = true →
    let r := c.whole.scalar f.s2 false 0
    r % blocksPerReg (f.xf.toNat / 512) = 0 → r ≤ 96 - blocksPerReg (f.xf.toNat / 512) →
    let out := (List.range (blocksPerReg (f.xf.toNat / 512))).foldl (fun o p =>
      c.whole.quantRowBlock f (f.xf.toNat / 512) r p (c.whole.scaleMode f.xf) o) {}
    trapRecords c.w c.pc out.raised = [] →
    exec (.vqntRow f) s = .next (after b c (.next (c.passOthers (c.put fun w =>
      (out.store (f.xf.toNat / 512) (regNum f.d) (fun _ => true) w).orFlags (flagsUnion out.raised)))))) ∧
  ∀ f,
    let dst := if f.sub = 0 then 8 else if f.sub = 1 then 11 else 10
    let per := perLane f.ty.toNat
    let el := fun (c : Issue) (l j : Nat) => dequantElem f.ty.toNat dst
      (c.elemEnv f.hdr f.s2 (if dst = 8 then 1 else 2) l (if dst = 8 then 0 else j % 2))
      (KReg.byte (c.kreg f.s1) (scalePos f.ty.toNat (blockOfPos f.ty.toNat l))).toNat
      ((VReg.lane (c.w.getV (regNum f.s1)) l).toNat / 2 ^ (slotBits f.ty.toNat * j) % 2 ^ slotBits f.ty.toNat)
    ChangesRaising (.vdqnt f)
      (fun c => (LaneMask.lanes c.act).map fun l => (l, (List.range per).foldl (fun a j => a ||| (el c l j).2) 0)) fun c w =>
        (List.range (if dst = 8 then per else per / 2)).foldl (fun w i => w.setV (regNum f.d + i) c.act fun l =>
          BitVec.ofNat 32 (if dst = 8 then (el c l i).1 else (el c l (2 * i)).1 + (el c l (2 * i + 1)).1 * 2 ^ 16)) w

/-! ## Control and barriers (R178 to R185, R260 to R273) -/

/-- An instruction of which a check of R238 or R241 fails is not performed: its fault is raised with the lanes of its hood (R238, R241). An
index outside its limits takes ILLEGAL_OPERAND 0x10 when KGET or KSET is performed with an active lane (R299, R303, R304). A band that has
not been initialised takes BAND_FAULT 0x02 of BANDX and BANDA and 0x03 of BANDW and BANDT (R356 to R358). A refused value of MODE takes
ILLEGAL_OPERAND 0x12 and MODE stays (R75, R392). A lane whose address fails its checks faults before anything is read or written, with one
record for each distinct fault (R34, R35). R100: an access with a page that faults parks: its records are written, it goes to the operand
log, and its hood goes on. -/
def Obligations.FaultsBeforeAnyEffect : Prop :=
  ((∀ (i : Instr) (s : State) (w : Warp) (opc : Nat) (f : Form) (x : Cause), i.code? = some (opc, f) → s.issuer? = some w →
     checkAll (s.envOf w) opc f = some x →
     let pc := (w.slice (keyOf (w.hoodSlices s.cur.hood))).pc
     let t := (s.raiseRecs w.core w.slot [{ code := x.1, sub := x.2, lanes := w.hoodLanes s.cur.hood, pc := pc }] pc).settle
     exec i s = .next (if opc ∈ [0x001, 0x006, 0x008, 0x00A, 0x00B, 0x00D] then t.sweep.settle else t))) ∧
  ((∀ f s b c, f.sub ≠ 2 → issueOf (.kget f) s = some (b, c) → c.act ≠ 0 → (if f.sub = 0 then 24 else 3) ≤ c.scalar f.s2 false 0 →
     exec (.kget f) s = .next (after b c (.fault c.s [c.record (0x03, 0x10) c.lanes]))) ∧
   ∀ f s b c, f.sub ≠ 2 → issueOf (.kset f) s = some (b, c) → c.act ≠ 0 → (if f.sub = 0 then 24 else 3) ≤ c.scalar f.s2 false 0 →
     exec (.kset f) s = .next (after b c (.fault c.s [c.record (0x03, 0x10) c.lanes]))) ∧
  ((∀ f s b c k, issueOf (.banda f) s = some (b, c) → c.act ≠ 0#96 → BandAt c f true k → c.scalar f.s false 1 ≠ 0 →
     (c.s.band k).magic ≠ bandMagic → exec (.banda f) s = .next (after b c (.fault c.s [c.record (0x22, 0x02) c.lanes]))) ∧
   (∀ f s b c k, issueOf (.bandw f) s = some (b, c) → c.act ≠ 0#96 → BandAt c f false k → c.scalar f.s false 1 ≤ 255 →
     (c.s.band k).magic ≠ bandMagic → exec (.bandw f) s = .next (after b c (.fault c.s [c.record (0x22, 0x03) c.lanes]))) ∧
   ∀ f s b c k, issueOf (.bandt f) s = some (b, c) → c.act ≠ 0#96 → BandAt c f false k →
     (c.s.band k).magic ≠ bandMagic → exec (.bandt f) s = .next (after b c (.fault c.s [c.record (0x22, 0x03) c.lanes]))) ∧
  (∀ f s b c, f.imm.toNat = 0x0E → issueOf (.srset f) s = some (b, c) → c.act ≠ 0#96 →
     let x := BitVec.ofNat 32 (c.scalar f.s1 false 1)
     (x &&& 0xFFFFE000 ≠ 0 ∨ x &&& 7 = 0 ∨ x &&& 7 = 7) →
     exec (.srset f) s = .next (after b c (.fault c.s [c.record (0x03, 0x12) c.lanes]))) ∧
  (∀ f s b c ps bad, issueOf (.vst f) s = some (b, c) → c.act ≠ 0#96 → (ordReleases f.ord && c.podWritesOut f.scope.toNat) = false →
     c.s.classifyAll c.w (plainArgs f .write (widthOf f.d f.ty.toNat) false) (c.addresses f false) = (ps, bad) → bad ≠ [] →
     exec (.vst f) s = .next (after b c (.fault c.s (groupFaults bad c.pc false)))) ∧
  (∀ f s b c ps t done bad, issueOf (.vld f) s = some (b, c) → c.act ≠ 0#96 →
     c.s.classifyAll c.w (plainArgs f .read (widthOf f.s f.ty.toNat) false) (c.addresses f false) = (ps, []) →
     c.s.missHeld c.w (plainArgs f .read (widthOf f.s f.ty.toNat) false) ps = false →
     c.s.translateAll c.w (plainArgs f .read (widthOf f.s f.ty.toNat) false) ps = (t, done, bad) → bad ≠ [] →
     exec (.vld f) s = .next (after b c (.park t (groupFaults bad c.pc true))))

/-- BRA, CALL, BRX and RET send each slice that takes them to its target, and the others to the next instruction (R178 to R180, R262, R263).
CALL writes its link when a slice takes it. An illegal target takes the fault that R221 to R223 give, with the target as its address, and no
slice moves; where the fetch of the target's line faults the hood waits at the branch for that line (R105, log entry 14). -/
def Obligations.BranchesTransferSlices : Prop :=
  ((∀ f, Transfers (.bra f) (fun c => group (takers c f) (branchTarget c.pc f.off)) fun _ w => w) ∧
   (∀ f, Transfers (.call f) (fun c => group (takers c f) (branchTarget c.pc f.off)) fun c w =>
     if (takers c f).isEmpty then w else w.setS64 c.lanes 122 (branchTarget c.pc 1)) ∧
   (∀ f n, operand f.c = .v n → Transfers (.brx f) (fun c =>
     (groupBy (active c) (c.battTarget f)).map fun l => (l, c.battTarget f (keyOf l))) fun _ w => w) ∧
   (∀ f, (∀ n, operand f.c ≠ .v n) → Transfers (.brx f) (fun c => group (active c) (BitVec.ofNat 64 (c.scalar f.c true 3))) fun _ w => w) ∧
   ∀ f, Transfers (.ret f) (fun c => group (active c) (c.w.getS64 122)) fun _ w => w) ∧
  (∀ f s b c t x, issueOf (.bra f) s = some (b, c) → takers c f ≠ [] →
     c.s.fetchWaits c.w.core c.w.ctx ((branchTarget c.pc f.off).toNat / 64) = false →
     c.s.fetchHeld c.w.core c.w.ctx ((branchTarget c.pc f.off).toNat / 64) = none →
     c.s.targetFault c.w.core c.w.ctx (branchTarget c.pc f.off) = (t, some (.fault x)) →
     exec (.bra f) s = .next (after b c (.fault t [c.record x c.lanes (branchTarget c.pc f.off)]))) ∧
  (∀ f s b c t x, issueOf (.bra f) s = some (b, c) → takers c f ≠ [] →
     c.s.fetchWaits c.w.core c.w.ctx ((branchTarget c.pc f.off).toNat / 64) = false →
     c.s.fetchHeld c.w.core c.w.ctx ((branchTarget c.pc f.off).toNat / 64) = none →
     c.s.targetFault c.w.core c.w.ctx (branchTarget c.pc f.off) = (t, some (.fetch x)) →
     exec (.bra f) s = .next (after b c (.hold (t.stopFetch c.w (fun i => (c.w.slice i).live && (c.w.slice i).hood = c.hood) c.act
       ((branchTarget c.pc f.off).toNat / 64) x))))

/-- A branch that takes the slices `l` of a hood (R179): they form one hood at the target, the rest of the hood forms one at the next
instruction, and no other slice of the warp moves. R181: once every live slice of a warp waits at FELT with one tag, they form one hood
after it, every window closed. -/
def Obligations.HoodsSplitAndRejoin : Prop :=
  (∀ (w : Warp) (h : Nat) (l : List Nat) (target next : DWord) (i : Nat), i < 24 → (∀ j ∈ l, j ∈ w.hoodSlices h) → l ≠ [] →
     let a := (w.transfer h [(l, target)] next).slice i
     let rest := (w.hoodSlices h).filter fun j => !l.contains j
     (i ∈ l → a.pc = target ∧ a.hood = keyOf l ∧ a.wait = .run ∧ a.live = true) ∧
     (i ∈ rest → a.pc = next ∧ a.hood = keyOf rest ∧ a.wait = .run ∧ a.live = true) ∧
     (i ∉ w.hoodSlices h → a = w.slice i)) ∧
  (∀ (w : Warp) (t : Word), w.liveSlices ≠ [] → (∀ i, i < 24 → w.isLive i = true → (w.slice i).wait = .felt t) →
     ∃ a, w.feltJoin = some a ∧ a.windows = [] ∧ ∀ i, i < 24 →
       (w.isLive i = true → a.slice i = { w.slice i with
         pc := nextPc (w.slice (keyOf w.liveSlices)).pc, hood := keyOf w.liveSlices, wait := .run, held := false }) ∧
       (w.isLive i = false → a.slice i = w.slice i))

/-- EXIT, FELT, BAR, BARH, PHASE, YIELD and SLEEP (R181 to R185, R204, R261, R265 to R268, R272): the slices of EXIT end; the others wait as
their rules say, BAR, BARH and PHASE once every live slice of the warp has arrived; SLEEP and YIELD go on at once with nothing to wait for;
the count of SLEEP runs out at SLEEP_EXPIRY. NOP changes nothing but the PC (R261). -/
def Obligations.BarriersWaitsAndNop : Prop :=
  ((∀ f, CompletesSweeping (.exit f) (fun _ => True) fun c =>
     let ending := (c.w.hoodSlices c.hood).filter fun i => decide (c.w.mask &&& sliceLanes i = 0) || decide (c.act &&& sliceLanes i ≠ 0)
     let rest := (c.w.hoodSlices c.hood).filter fun i => !ending.contains i
     .jump ((putIn c c.s fun w => (w.endSlices ending).formHood rest (nextPc c.pc)).resolveFelt c.w.core c.w.slot)) ∧
   (∀ f, CompletesSweeping (.felt f) (fun _ => True) fun c =>
     .hold ((putIn c c.s fun w => w.waitHood c.hood (.felt f.imm)).resolveFelt c.w.core c.w.slot)) ∧
   (∀ f, CompletesSweeping (.bar f) (fun c => c.waiting.atCollective = true) fun c =>
     .hold (putIn c c.s fun w => w.waitAll (.barrier false f.imm.toNat))) ∧
   (∀ f, CompletesSweeping (.barh f) (fun c => c.waiting.atCollective = true) fun c =>
     .hold (putIn c c.s fun w => w.waitAll (.barrier true f.imm.toNat))) ∧
   (∀ f, CompletesSweeping (.phase f) (fun c => c.waiting.atCollective = true ∧ (c.s.gang? c.w.gang).any Gang.phased = true ∧
       (c.w.pos = 0 → c.w.idx = 0 → c.whole.phaseLimits f = true)) fun c => .hold (putIn c c.s fun w => w.waitAll (.phase f))) ∧
   (∀ f, Completes (.yield f) (fun c => c.otherHoods = []) fun c => .next c.s) ∧
   (∀ f, Completes (.yield f) (fun c => c.otherHoods ≠ []) fun c =>
     .jump (putIn c c.s fun w => (w.moveHood c.hood (nextPc c.pc)).waitHood c.hood (.yield c.otherHoods))) ∧
   (∀ f, Completes (.sleep f) (fun _ => True) fun c =>
     let d := (f.imm.toNat + if f.s1 = 0x1FF then 0 else c.scalar f.s1 false 1) % 2 ^ 32
     if d = 0 then .next c.s else .jump (putIn c c.s fun w =>
       (w.moveHood c.hood (nextPc c.pc)).waitHood c.hood (.sleep ((c.s.die (dieOfCore c.w.core)).clock + d)))) ∧
   ∀ (h : HoodRef) (s : State) (w : Warp) (i t : Nat), s.warp? h.core h.slot = some w → w.entry = none → s.recs = [] →
     i < 24 → (w.slice i).wait = .sleep t → ∃ u a, exec (.sleepExpiry h) s = .next u ∧ u.warp? h.core h.slot = some a ∧
       (a.slice i).wait = if (w.slice i).hood = h.hood ∧ t ≤ (s.die (dieOfCore h.core)).clock then .run else .sleep t) ∧
  (∀ f s b c, issueOf (.nop f) s = some (b, c) → quiet b c → exec (.nop f) s = .next (retired b c fun w => w))

/-- A warp-collective instruction that a hood reaches before the others makes it wait there; nothing else happens until every live slice of
the warp has arrived, or the warp cannot go on (R182, R183). -/
def Obligations.CollectiveWaitsForEverySlice : Prop :=
  let early := fun (c : Issue) => c.waiting.atCollective = false
  let wait := fun (c : Issue) => Res.hold ((putIn c c.s fun w => w.waitHood c.hood .collective).resolveFelt c.w.core c.w.slot)
  (∀ f, Completes (.vldl f) early wait) ∧ (∀ f, Completes (.vstl f) early wait) ∧ (∀ f, Completes (.mshape f) early wait) ∧
  (∀ f, Completes (.mma f) early wait) ∧ (∀ f, Completes (.dmma f) early wait) ∧ (∀ f, Completes (.mmaw f) early wait) ∧
  (∀ f, Completes (.vqntRow f) early wait) ∧ (∀ f, CompletesSweeping (.bar f) early wait) ∧
  (∀ f, CompletesSweeping (.barh f) early wait) ∧ ∀ f, CompletesSweeping (.phase f) early wait

/-! ## Traps, special registers, events and trace (R388 to R400) -/

/-- TRAP, BKPT and TRET (R394 to R396). -/
def Obligations.TrapsAndReturn : Prop :=
  (∀ f, Completes (.trap f) (fun _ => True) fun c =>
    if c.act = 0#96 then .next c.s else .trap c.s [c.record (0x38, f.imm.toNat % 256) c.act]) ∧
  (∀ f, Completes (.bkpt f) (fun _ => True) fun c =>
    if c.act = 0#96 then .next c.s else .fault c.s [c.record (0x39, f.imm.toNat % 256) c.act]) ∧
  ∀ f s b c w, issueOf (.tret f) s = some (b, c) → c.s.warp? c.w.core c.w.slot = some w → w.drained = true → w.parked = [] →
    c.s.hasAccess c.w.core c.w.slot = false →
    exec (.tret f) s = .next (after b c (.jump (if w.stopping then c.s.returnStopped w else c.s.returnReload w))).sweep.settle

/-- R393: a warp with a handler, drained, its products complete, whose frame can be written, enters it: the records are written, then the frame, and then its live
slices form one hood at `%tvec` with their mask bits set, in handler mode. R396: a fault in handler mode, or with no handler installed,
halts the warp: its records are written, its frame is not. -/
def Obligations.HandlerEntryAndHalt : Prop :=
  (∀ (s : State) (core slot : Nat) (recs : List FaultRec) (reason : Nat) (pc : DWord) (w : Warp) (t : State),
     s.warp? core slot = some w → w.entry = none → w.drained = true → s.hasAccess core slot = false → s.hasProducts core slot = false → w.handler = false → w.tvec ≠ 0 →
     let s' := s.modWarp core slot fun x => { x with entry := some { recs := recs, reason := reason, pc := pc } }
     (s'.writeBatch w.ctx (.warp core slot) recs).writeFrame { w with entry := some { recs := recs, reason := reason, pc := pc } }
       reason pc = .ok t →
     (∃ x, t.warp? core slot = some x) →
     ∃ a, (s.raise core slot recs reason pc).warp? core slot = some a ∧ a.handler = true ∧ a.entry = none ∧ a.windows = [] ∧
       a.mode = w.mode ∧ a.tvec = w.tvec ∧ a.v = w.v ∧ a.flags = w.flags ∧
       ∀ i, i < 24 → (w.isLive i = true →
         (a.slice i).pc = w.tvec ∧ (a.slice i).hood = keyOf w.liveSlices ∧ (a.slice i).wait = .run) ∧ (w.isLive i = false → a.isLive i = false)) ∧
  (∀ (s : State) (core slot : Nat) (recs : List FaultRec) (reason : Nat) (pc : DWord) (w : Warp),
     s.warp? core slot = some w → w.entry = none → w.drained = true → s.hasAccess core slot = false → s.hasProducts core slot = false → (w.handler = true ∨ w.tvec = 0) →
     let s' := s.modWarp core slot fun x => { x with entry := some { recs := recs, reason := reason, pc := pc } }
     s.raise core slot recs reason pc = (s'.writeBatch w.ctx (.warp core slot) recs).setWarp { w with halted := true, entry := none })

/-- SRGET and SRSET (R390 to R392): a scalar special register is read into D and written from S1, a refused value of MODE aside; a read of
`%flags` is held back while a BANDW that the warp has issued has not completed (R78). -/
def Obligations.SpecialRegisters : Prop :=
  (∀ f, f.imm.toNat = 0 → WritesVector (.srget f) f.d false fun _ l => l) ∧
  (∀ f, f.imm.toNat = 1 → WritesVector (.srget f) f.d false fun _ l => l / 4) ∧
  (let read := fun (f : FormI) (c : Issue) (w : Warp) => if c.act = 0#96 then w else
      (w.putScalar c.lanes f.d (wideSpecial f.imm.toNat) (c.s.special c.w f.imm.toNat)).putVector c.act f.d (wideSpecial f.imm.toNat)
        fun _ => c.s.special c.w f.imm.toNat
   (∀ f, 2 ≤ f.imm.toNat → f.imm.toNat ≠ 0x0F → Changes (.srget f) (read f)) ∧
   (∀ f, f.imm.toNat = 0x0F → Completes (.srget f) (fun c => c.act = 0#96 ∨ c.w.bandwOut = false) fun c => .next (putIn c c.s (read f c))) ∧
   ∀ f, f.imm.toNat = 0x0F → Completes (.srget f) (fun c => c.act ≠ 0#96 ∧ c.w.bandwOut = true) fun _ => .stall) ∧
  (∀ f, f.imm.toNat = 0x0E → ∀ s b c, issueOf (.srset f) s = some (b, c) →
    let x := BitVec.ofNat 32 (c.scalar f.s1 false 1)
    (c.act = 0#96 ∨ (x &&& 0xFFFFE000 = 0 ∧ x &&& 7 ≠ 0 ∧ x &&& 7 ≠ 7)) →
    exec (.srset f) s = .next (after b c (.next (putIn c c.s fun w => if c.act = 0#96 then w else { w with mode := x })))) ∧
  (∀ f, f.imm.toNat = 0x0F → Changes (.srset f) fun c w => if c.act = 0#96 then w else
    { w with flags := BitVec.ofNat 32 (c.scalar f.s1 false 1) &&& 0xFF }) ∧
  (∀ f, f.imm.toNat = 0x10 → Changes (.srset f) fun c w => if c.act = 0#96 then w else
    { w with tvec := BitVec.ofNat 64 (c.scalar f.s1 true 1) }) ∧
  ∀ f, 0x11 ≤ f.imm.toNat → Completes (.srset f) (fun c => c.act ≠ 0#96) fun c => .next (c.s.modHub fun h =>
    { h with deadPeers := h.deadPeers &&&
        ~~~(((BitVec.ofNat 32 (c.scalar f.s1 (wideSpecial f.imm.toNat) 1)).setWidth 192 : BitVec 192) <<< (32 * (f.imm.toNat - 0x16))) })

/-- EVSET and EVWAIT, with the event in a register or immediate (R397, R398): EVSET writes the bit as it was to D and then sets or clears
it; EVWAIT goes on with an acquire where the bit has the value asked for, and else waits, until EVWAIT_RETURN finds it. TRACE and TRCTL
(R399, R400): TRACE emits record 0x14, TRCTL.set replaces the context's type mask, and TRCTL.flush goes on once no record of the warp is on
its way. -/
def Obligations.EventAndTraceInstructions : Prop :=
  ((let set := fun (d : BitVec 10) (bit : Nat) (val : Bool) (c : Issue) => if c.act = 0#96 then Res.next c.s else Res.next
     (putIn c (c.s.changeEvents c.w.ctx fun e => if val then e ||| (1 : BitVec 256) <<< bit else e &&& ~~~((1 : BitVec 256) <<< bit))
       fun w => w.putScalar c.lanes d false (if (c.s.ctx? c.w.ctx).any fun k => k.events.getLsbD bit then 1 else 0))
    (∀ f, Completes (.evset f) (fun c => c.act = 0#96 ∨ (c.scalar f.s1 false 1 ≤ 255 ∧ (f.sub = 0 → c.w.parked = [])))
       fun c => set f.d (c.scalar f.s1 false 1) (decide (f.sub = 0)) c) ∧
    ∀ f, Completes (.evsetImm f) (fun c => c.act = 0#96 ∨ (f.imm.toNat ≤ 255 ∧ (f.sub = 0 → c.w.parked = [])))
       fun c => set f.d f.imm.toNat (decide (f.sub = 0)) c) ∧
   (let wait := fun (bit : Nat) (val : Bool) (c : Issue) => if c.act = 0#96 then Res.next c.s else
     if ((c.s.ctx? c.w.ctx).any fun k => k.events.getLsbD bit) = val then Res.next (c.s.l1Flush c.w.core)
     else waits c c.s (.event bit val)
    (∀ f, Completes (.evwait f) (fun c => c.act = 0#96 ∨ c.scalar f.s1 false 1 ≤ 255) fun c => wait (c.scalar f.s1 false 1) (decide (f.sub = 0)) c) ∧
    ∀ f, Completes (.evwaitImm f) (fun c => c.act = 0#96 ∨ f.imm.toNat ≤ 255) fun c => wait f.imm.toNat (decide (f.sub = 0)) c) ∧
   ∀ (h : HoodRef) (s : State) (w : Warp) (bit : Nat) (val : Bool), s.warp? h.core h.slot = some w → w.hoodSlices h.hood ≠ [] →
     (w.slice (keyOf (w.hoodSlices h.hood))).wait = .event bit val →
     ((s.ctx? w.ctx).any fun k => k.events.getLsbD bit) = val →
     exec (.evwaitReturn h) s = .next ((s.l1Flush h.core).modWarp h.core h.slot fun x =>
       (x.moveHood h.hood (nextPc (w.slice (keyOf (w.hoodSlices h.hood))).pc)).countWindows h.hood)) ∧
  ((let off := fun (c : Issue) => c.act = 0#96 ∨ ((c.s.ctx? c.w.ctx).any fun k => k.typeMask.getLsbD 0x14) = false
    let emit := fun (v : Nat) (c : Issue) => if off c then Res.next c.s else Res.next
     (c.s.emit (dieOfCore c.w.core) (c.w.core % Config.coresPerDie) (c.w.slot / 8) c.w.ctx 0x14 v none
       ((c.s.gang? c.w.gang).any Gang.lossless) (some c.w.identity))
    let room := fun (c : Issue) => off c ∨ c.s.traceHeld (dieOfCore c.w.core) c.w.ctx 0x14 ((c.s.gang? c.w.gang).any Gang.lossless) = false
    (∀ f, Completes (.trace f) room fun c => emit (c.scalar f.s1 false 1) c) ∧
    ∀ f, Completes (.traceImm f) room fun c => emit f.imm.toNat c) ∧
   (∀ f, Completes (.trctlSet f) (fun c => c.act = 0#96 ∨ BitVec.ofNat 32 (c.scalar f.s1 false 1) &&& 0xFF000001 = 0) fun c =>
     if c.act = 0#96 then .next c.s else .next (putIn c
       (c.s.modCtx c.w.ctx fun k => { k with typeMask := BitVec.ofNat 32 (c.scalar f.s1 false 1) })
       fun w => w.putScalar c.lanes f.d false (((c.s.ctx? c.w.ctx).map fun k => k.typeMask.toNat).getD 0))) ∧
   ∀ f, Completes (.trctlFlush f)
     (fun c => c.act = 0#96 ∨ ∀ r ∈ c.s.staged, r.warp = some c.w.identity → c.w.ctx ∉ r.takers) fun c => .next c.s)

/-! ## Frames -/

/-- What completing an instruction does besides its effect: the issuing warp moves on, and nothing else of the machine changes. Where a
completed instruction leaves its warp, when no window stood open: the slices of its hood stand at the next PC, running, the other slices
stand where they stood, and the registers are what its effect makes them. -/
def Obligations.CompletionMovesItsHood : Prop :=
  (∀ i s b c u, issueOf i s = some (b, c) → u.recs = [] →
     let t := after b c (.next u)
     { t with warps := u.warps, free := u.free } = u ∧
     ∀ core slot, (core ≠ s.cur.core ∨ slot ≠ s.cur.slot) → t.warp? core slot = u.warp? core slot) ∧
  (∀ i s b c g, issueOf i s = some (b, c) → quiet b c →
     (∀ w, (g w).core = w.core ∧ (g w).slot = w.slot ∧ (g w).slices = w.slices) →
     ∃ w a, s.warp? s.cur.core s.cur.slot = some w ∧ (after b c (.next (c.put g))).warp? s.cur.core s.cur.slot = some a ∧
       a.v = (g w).v ∧ a.k = (g w).k ∧ a.s = (g w).s ∧ a.q = (g w).q ∧ a.flags = (g w).flags ∧ a.mode = (g w).mode ∧
       ∀ n, n < 24 → a.slice n =
         if w.isLive n ∧ (w.slice n).hood = s.cur.hood then { w.slice n with pc := nextPc c.pc, wait := .run, held := false } else w.slice n)

/-- The frame of the scalar instructions and of NOP and SRGET (R169, R248 to R259, R391). The frame of the vector integer instructions
(R172, R274 to R279). The frame of the vector float and lane instructions (R77, R277 to R297). The frame of the scale register and
microscaling instructions, and of AMXGET (R299 to R318). -/
def Obligations.RegisterFrames : Prop :=
  (FramesRegisters 0x000 0x03F) ∧
  (FramesRegisters 0x040 0x05F) ∧
  (FramesRegisters 0x060 0x08F) ∧
  (FramesRegisters 0x090 0x099)

/-! ## Memory (R16 to R59, R90 to R100, R319 to R338) -/

/-- SLD and VLD complete with the values read, extended as the type and width ask, in D of the lowest active lane's hood or of every active
lane; with an empty active set they change nothing (R176, R322, R325). -/
def Obligations.LoadsComplete : Prop :=
  (∀ f, Completes (.sld f) (fun c => c.act = 0#96) fun c => .next c.s) ∧
  (∀ f, Completes (.vld f) (fun c => c.act = 0#96) fun c => .next c.s) ∧
  (∀ f s b c v vals, issueOf (.sld f) s = some (b, c) → c.act ≠ 0#96 →
    Loads c (plainArgs f .read (widthOf f.s f.ty.toNat) true) f.hdr.ch.toNat true (c.addresses f true) v vals →
    exec (.sld f) s = .next (after b c (.next (c.acquired (ordAcquires f.ord) f.scope.toNat (putIn c v fun w =>
      w.putScalar c.lanes f.d (wideTy f.ty.toNat) (extendLoad f.ty.toNat (widthOf f.s f.ty.toNat) (laneVal vals c.lane))))))) ∧
  ∀ f s b c v vals, issueOf (.vld f) s = some (b, c) → c.act ≠ 0#96 →
    Loads c (plainArgs f .read (widthOf f.s f.ty.toNat) false) f.hdr.ch.toNat true (c.addresses f false) v vals →
    exec (.vld f) s = .next (after b c (.next (c.acquired (ordAcquires f.ord) f.scope.toNat (putIn c v fun w =>
      w.putVector (c.act &&& LaneMask.ofLanes (vals.map Prod.fst)) f.d (wideTy f.ty.toNat) fun l =>
        extendLoad f.ty.toNat (widthOf f.s f.ty.toNat) (laneVal vals l)))))

/-- SST and VST complete with the bytes of their source stored from each address; with an empty active set they change nothing (R325). -/
def Obligations.StoresComplete : Prop :=
  (∀ f, Completes (.sst f) (fun c => c.act = 0#96) fun c => .next c.s) ∧
  (∀ f, Completes (.vst f) (fun c => c.act = 0#96) fun c => .next c.s) ∧
  (∀ f s b c t ps u, issueOf (.sst f) s = some (b, c) → c.act ≠ 0#96 → (ordReleases f.ord && c.podWritesOut f.scope.toNat) = false →
    Reaches c (plainArgs f .write (widthOf f.d f.ty.toNat) true) true (c.addresses f true) t ps → c.tailHeld f t ps = false →
    Opens c (c.writeGate t ps .write) ps u →
    exec (.sst f) s = .next (after b c (.next (c.acquired (ordAcquires f.ord) f.scope.toNat
      ((c.noteRelease f false ps
        (c.storeAll u ps (fun _ => c.scalar f.s (wideTy f.ty.toNat) f.ty.toNat) f.hdr.ch.toNat)).dropAnswers c.agent))))) ∧
  ∀ f s b c t ps u, issueOf (.vst f) s = some (b, c) → c.act ≠ 0#96 → (ordReleases f.ord && c.podWritesOut f.scope.toNat) = false →
    Reaches c (plainArgs f .write (widthOf f.d f.ty.toNat) false) true (c.addresses f false) t ps → c.tailHeld f t ps = false →
    Opens c (c.writeGate t ps .write) ps u →
    exec (.vst f) s = .next (after b c (.next (c.acquired (ordAcquires f.ord) f.scope.toNat
      ((c.noteRelease f false ps
        (c.storeAll u ps (fun l => c.vector f.s (wideTy f.ty.toNat) f.ty.toNat l) f.hdr.ch.toNat)).dropAnswers c.agent))))

/-- VLDL and VSTL complete once every hood of the warp has arrived: each beat with an active lane moves its whole line with the line's tag
(R327). -/
def Obligations.LineInstructionsComplete : Prop :=
  (∀ f, CompletesTogether (.vldl f) (fun c => c.act = 0#96) fun c => .next c.s) ∧
  (∀ f, CompletesTogether (.vstl f) (fun c => c.act = 0#96) fun c => .next c.s) ∧
  (∀ f s b c t ps u v got, issueOf (.vldl f) s = some (b, c) → c.waiting.atCollective = true → c.whole.act ≠ 0#96 →
    let m := c.whole
    Reaches m (lineArgs f .read) false (m.lineAddresses f) t ps →
    Opens m (m.readGate t (t.splitUc ((m.beatPieces ps).map Prod.snd))) ps u → m.fetchBeats f (m.beatPieces ps) u = (v, got, []) →
    exec (.vldl f) s = .next (after b c (.next (c.passOthers (m.acquired (ordAcquires f.ord) f.scope.toNat
      (putIn c (v.dropAnswers m.agent) fun w => w.putBeats (regNum f.d) got)))))) ∧
  ∀ f s b c t ps u, issueOf (.vstl f) s = some (b, c) → c.waiting.atCollective = true → c.whole.act ≠ 0#96 →
    let m := c.whole
    (ordReleases f.ord && m.podWritesOut f.scope.toNat) = false → Reaches m (lineArgs f .write) true (m.lineAddresses f) t ps →
    m.tailHeld f t ((m.beatPieces ps).map Prod.snd) = false → Opens m (m.writeGate t ((m.beatPieces ps).map Prod.snd) .write) ps u →
    exec (.vstl f) s = .next (after b c (.next (c.passOthers (m.acquired (ordAcquires f.ord) f.scope.toNat
      ((m.noteRelease f false ((m.beatPieces ps).map Prod.snd) ((m.beatPieces ps).foldl (fun s x =>
        m.storeLine s x.2 ((c.w.getV (regNum f.s)).extractLsb' (1024 * x.1) 1024)
          ((c.w.getK (regNum f.s)).extractLsb' (64 * x.1) 64) f.hdr.ch.toNat) u)).dropAnswers m.agent)))))

/-- What the lanes of one access read and leave in the device's own storage (R43, R325). A load gives every lane the bytes at its address,
little-endian, and changes no byte. A store leaves in each byte what the last of the lanes that write it stores there, in order of lanes,
and leaves every other byte as it was. -/
def Obligations.LanesOfOneAccess : Prop :=
  (∀ (s : State) (a : Agent) (w : Warp) (ps : List Piece) (ch : Nat) (fill : Bool), (ps.map Piece.lane).Nodup →
    s.eng.fields = [] →
    (∀ p ∈ ps, p.hit = none ∧ p.shift = 0 ∧ plainKey s p.at ∧ s.store.poisonAt p.at p.n = none ∧ s.ownSlot w p = false) →
    ∃ t vals, s.fetchAll a w ps ch fill = (t, vals, []) ∧ t.store = s.store ∧
      ∀ p ∈ ps, laneVal vals p.lane = s.store.read p.at p.n) ∧
  ∀ (c : Issue) (s : State) (ps : List Piece) (val : Nat → Nat) (ch k : Nat), sound s → s.eng.fields = [] →
    (∀ p ∈ ps, p.at % 128 + p.n ≤ 128) →
    (c.storeAll s ps val ch).store.byte k =
      match (ps.filter fun p => s.storeTo p = .store).reverse.find? fun p => p.at ≤ k && k < p.at + p.n with
      | some p => BitVec.ofNat 8 (val p.lane / 2 ^ p.shift / 256 ^ (k - p.at))
      | none => s.store.byte k

/-- A load that reads nothing outside the core and its translations changes no byte of storage. R97: what a translation changes in storage
is the A bit of the leaf entry it ends at, and for a write its D bit; it is those bits, at the entry's place, and no other. -/
def Obligations.LoadsAndTranslationsFrame : Prop :=
  (∀ c a ch fill addrs v vals u qs, c.s.prep c.w a c.pc addrs = .ok u qs → Loads c a ch fill addrs v vals → v.store = u.store) ∧
  (∀ (s : State) (cl ctx va : Nat) (acc : AccType) (k : Nat), sound s → s.eng.fields = [] →
     let t := (s.translate cl ctx va acc).1
     t.store.byte k = s.store.byte k ∨ ∃ lf seen, s.walk (some cl) ctx va acc = (.ok lf, seen) ∧ k = s.relayPa lf.pa + 1 ∧
       t.store.byte k = s.store.byte k ||| (if acc.writes then 6 else 2))

/-- What is written at a storage key is read back, little-endian, and no other byte changes (R36). -/
def Obligations.ReadAfterWrite : Prop :=
  ∀ (s : State) (k n v depth : Nat), sound s → s.eng.fields = [] →
    let t := s.writeKey k n v depth
    sound t ∧ t.store.read k n = v % 256 ^ n ∧ ∀ j, (j < k ∨ k + n ≤ j) → t.store.byte j = s.store.byte j

/-- PREF, CCTL, FENCE and TFENCE complete (R328, R329, R333, R334): with room in the miss queue for its walks, a prefetch acts for each active
lane; CCTL acts on each line; FENCE and TFENCE wait for pod writes in their scope, and TFENCE is sent to every cluster of its scope and, at
`.pod`, to every other device of the pod, the hood waiting for their answers. With an empty active set they do nothing. -/
def Obligations.PrefetchControlAndFences : Prop :=
  (let lines := fun (f : FormM) (c : Issue) => (LaneMask.lanes c.act).filterMap fun l => c.prefLine f l
   let used := fun (c : Issue) => c.s.caches.misses.countP (fun m => m.cluster = clusterOfCore c.w.core) +
     c.s.caches.drains.countP fun d => d.cluster = clusterOfCore c.w.core
   ∀ f, Completes (.pref f) (fun c => c.prefPages (lines f c) = [] ∨ used c + (c.prefPages (lines f c)).length ≤ Config.missQueueEntries)
     fun c => .next ((lines f c).foldl (fun s l => c.prefLane f s l) c.s)) ∧
  (∀ f, Completes (.cctl f) (fun c => c.act = 0#96) fun c => .next c.s) ∧
  (∀ f s b c t ps, issueOf (.cctl f) s = some (b, c) → c.act ≠ 0#96 →
    Reaches c { accept := { sp := false, ds := false }, space := f.space.toNat, n := 1, acc := .read, user := .control } false
      (c.addresses f false) t ps →
    exec (.cctl f) s = .next (after b c (.next (ps.foldl (fun s p => c.cctlLine (f.s.toNat % 128) s p) t)))) ∧
  (∀ f, Completes (.fence f) (fun c => c.act = 0#96 ∨ c.podWritesOut f.aux.toNat = false) fun c =>
    .next (if c.act ≠ 0#96 ∧ 1 ≤ f.aux.toNat then c.s.l1Flush c.w.core else c.s)) ∧
  (∀ f, Completes (.tfence f) (fun c => c.act = 0#96) fun c => .next c.s) ∧
  ∀ f s b c k, issueOf (.tfence f) s = some (b, c) → c.act ≠ 0#96 → c.podWritesOut f.scope.toNat = false →
    let ctx := if f.d = 0x1FF then c.w.ctx else c.scalar f.d false 1
    let lo := c.scalar f.a true 3
    let n := c.scalar f.s false 1
    (ctx = c.w.ctx ∨ (c.s.ctx? c.w.ctx).any Context.system = true) → c.s.ctx? ctx = some k →
    (f.a = 0x1FF ∨ (n ≠ 0 ∧ ∃ ps, c.s.classify c.w { sp := false, ds := false, lp := false } 0 (BitVec.ofNat 64 lo) 1 c.lane = .ok ps)) →
    let op : TFenceOp :=
      { id := c.s.eng.nextTf, ctx := ctx, all := decide (f.a = 0x1FF), lo := if f.a = 0x1FF then 0 else lo / 2 ^ 16 * 2 ^ 16
        hi := if f.a = 0x1FF then 2 ^ 64 else lo / 2 ^ 16 * 2 ^ 16 + n * 2 ^ 16, clusters := c.s.clustersIn c.w.core f.scope.toNat
        scope := c.s.clustersIn c.w.core f.scope.toNat, hood := some ⟨c.w.core, c.w.slot, c.hood⟩ }
    exec (.tfence f) s = .next (after b c (waits c (((c.s.modEng fun e => { e with nextTf := c.s.eng.nextTf + 1 }).startFence op).l1Flush
      c.w.core) (.tfence c.s.eng.nextTf))) ∧
    (c.s.startFence op).eng = { c.s.eng with tfences := c.s.eng.tfences ++ [op] }

/-- WAITV returns the value when it differs from the comparand, and else waits; WAITV_RETURN has a hood that waits read again (R335). WATCH
reads its descriptor and writes the status or the id; UNWATCH releases the watch it names (R336 to R338). -/
def Obligations.WaitsAndWatches : Prop :=
  (∀ f, Completes (.waitv f) (fun c => c.act = 0#96) fun c => .next c.s) ∧
  (∀ f s b c v vals, issueOf (.waitv f) s = some (b, c) → c.act ≠ 0#96 →
    let wide := wideTy f.ty.toNat
    let n := if wide then 8 else 4
    Loads c { space := f.space.toNat, n := n, acc := .read, align := n } f.hdr.ch.toNat false (c.addresses f true) v vals →
    exec (.waitv f) s = .next (after b c (if laneVal vals c.lane = c.scalar f.s wide f.ty.toNat then
      (if formLa (.m f) = 0 then waits c v (.value (c.inFlight []))
       else .fly v { hood := c.hood, lanes := c.lanes, x := c.inFlight [], value := true })
      else .next (c.acquired (ordAcquires f.ord) f.scope.toNat (putIn c v fun w => w.putScalar c.lanes f.d wide (laneVal vals c.lane)))))) ∧
  (∀ (h : HoodRef) (s : State) (w : Warp) (x : InFlight), s.warp? h.core h.slot = some w → w.hoodSlices h.hood ≠ [] →
    (w.slice (keyOf (w.hoodSlices h.hood))).wait = .value x →
    exec (.waitvReturn h) s = .next (s.goOn h.core h.slot h.hood Flight.value).settle) ∧
  (∀ (h : HoodRef) (s : State) (w : Warp) (x : Flight), s.warp? h.core h.slot = some w → x ∈ w.flights → x.hood = h.hood → x.value = true →
    exec (.waitvReturn h) s = .next (s.goOn h.core h.slot h.hood Flight.value).settle) ∧
  (∀ f, Completes (.watch f) (fun c => c.act = 0#96) fun c => .next c.s) ∧
  (∀ f s b c v vals u pages id, issueOf (.watch f) s = some (b, c) → c.act ≠ 0#96 →
    Loads c { accept := { sp := false, ds := false, lp := false }, n := 64, acc := .read, align := 64, useL1 := true } 0 true
      (c.addresses f true) v vals →
    let d := laneVal vals c.lane
    let base := natBits d 0 64
    let len := natBits d 64 32
    v.watchRefused c.w.ctx d = false → v.watchPages c.w c.lane base len = (u, pages, []) →
    (∀ p ∈ pages, u.watchable p.2.1 p.2.2 = true) → u.freeWatch c.w.ctx = some id →
    let dies := ((watchLines base len pages).filterMap fun l => u.homeOf l.2).dedup
    (∀ x ∈ dies, u.watchesOn x < Config.watchEntries) →
    exec (.watch f) s = .next (after b c (.next (putIn c (u.installAll c.w.ctx id d (watchLines base len pages) dies)
      fun w => w.putScalar c.lanes f.d false id)))) ∧
  (∀ f, Completes (.unwatch f) (fun c => c.act = 0#96) fun c => .next c.s) ∧
  (∀ f s b c, issueOf (.unwatch f) s = some (b, c) → c.act ≠ 0#96 → c.s.watchEntries c.w.ctx (c.scalar f.s false 1) ≠ [] →
    exec (.unwatch f) s = .next (after b c (.next (putIn c (c.s.freeWatches (c.s.watchEntries c.w.ctx (c.scalar f.s false 1)))
      fun w => w.putScalar c.lanes f.d false 0)))) ∧
  (∀ (s : State) (l : List WatchEntry),
    (s.freeWatches l).sched.watches = s.sched.watches.filter fun x => !l.any fun w => x.is w.ctx w.id w.home) ∧
  ∀ f s b c, issueOf (.unwatch f) s = some (b, c) → c.act ≠ 0#96 →
    (∀ w ∈ c.s.sched.watches, ¬(w.ctx = c.w.ctx ∧ w.id = c.scalar f.s false 1 ∧ w.queue = none)) →
    exec (.unwatch f) s = .next (after b c (.next (putIn c c.s fun w => w.putScalar c.lanes f.d false (2 ^ 32 - 1))))

/-! ## Atomics (R121, R153, R330 to R332) -/

/-- ATOM and SATOM complete, and the opcode names the operation (R330, R332): nothing with an empty active set; else every lane reads the
old value and writes the new one, D takes the old values, and an acquire follows as the ordering asks. -/
def Obligations.AtomicsComplete : Prop :=
  (∀ f, Atomic (.atomAdd f) f 0 false ∧ Atomic (.atomAnd f) f 1 false ∧ Atomic (.atomOr f) f 2 false ∧ Atomic (.atomXor f) f 3 false ∧
     Atomic (.atomMin f) f 4 false ∧ Atomic (.atomMax f) f 5 false ∧ Atomic (.atomExch f) f 6 false ∧ Atomic (.atomCas f) f 7 false ∧
     Atomic (.atomIncw f) f 8 false ∧ Atomic (.atomDecw f) f 9 false ∧ Atomic (.atomFaddF32 f) f 10 false ∧
     Atomic (.atomFaddBf16x2 f) f 11 false ∧ Atomic (.atomFminF32 f) f 12 false ∧ Atomic (.atomFmaxF32 f) f 13 false) ∧
  (∀ f, Atomic (.satomAdd f) f 0 true ∧ Atomic (.satomAnd f) f 1 true ∧ Atomic (.satomOr f) f 2 true ∧ Atomic (.satomXor f) f 3 true ∧
     Atomic (.satomMin f) f 4 true ∧ Atomic (.satomMax f) f 5 true ∧ Atomic (.satomExch f) f 6 true ∧ Atomic (.satomCas f) f 7 true ∧
     Atomic (.satomIncw f) f 8 true ∧ Atomic (.satomDecw f) f 9 true ∧ Atomic (.satomFaddF32 f) f 10 true ∧
     Atomic (.satomFaddBf16x2 f) f 11 true ∧ Atomic (.satomFminF32 f) f 12 true ∧ Atomic (.satomFmaxF32 f) f 13 true)

/-- The table of R330, for words of 4 and 8 bytes: `s` is the signedness of the type. R332: a lane of an atomic on the device's own storage
reads the old value, writes the new one, and changes no other byte. -/
def Obligations.AtomicOperations : Prop :=
  (∀ (n old v v2 : Nat) (s : Bool), (n = 4 ∨ n = 8) → old < 256 ^ n → v < 256 ^ n → v2 < 256 ^ n →
     atomicNew 0 n s old v v2 = (old + v) % 256 ^ n ∧
     (∀ i, (atomicNew 1 n s old v v2).testBit i = (old.testBit i && v.testBit i)) ∧
     (∀ i, (atomicNew 2 n s old v v2).testBit i = (old.testBit i || v.testBit i)) ∧
     (∀ i, (atomicNew 3 n s old v v2).testBit i = (old.testBit i ^^ v.testBit i)) ∧
     toInteger s (8 * n) (atomicNew 4 n s old v v2) = min (toInteger s (8 * n) old) (toInteger s (8 * n) v) ∧
     toInteger s (8 * n) (atomicNew 5 n s old v v2) = max (toInteger s (8 * n) old) (toInteger s (8 * n) v) ∧
     atomicNew 6 n s old v v2 = v ∧ atomicNew 7 n s old v v2 = (if old = v then v2 else old) ∧
     atomicNew 8 n s old v v2 = (if old ≥ v then 0 else old + 1) ∧
     atomicNew 9 n s old v v2 = (if old = 0 ∨ old > v then v else old - 1) ∧
     (∀ op < 10, atomicNew op n s old v v2 < 256 ^ n)) ∧
  (∀ (c : Issue) (f : FormM) (op : Nat) (s : State) (p : Piece), sound s → s.storeTo p = .store → p.shift = 0 → p.at % 128 + p.n ≤ 128 →
     s.store.poisonAt p.at p.n = none → s.eng.fields = [] → s.ownSlot c.w p = false →
     let r := c.atomicReq f op p.lane p.at
     let old := s.store.read p.at p.n
     ∃ t, c.atomicLane f op s [p] = (t, .ok old) ∧
       t.store.read p.at p.n = atomicNew op p.n r.signed old r.v1.toNat r.v2.toNat % 256 ^ p.n ∧
       ∀ k, (k < p.at ∨ p.at + p.n ≤ k) → t.store.byte k = s.store.byte k)

/-! ## Bands and stage rings (R354 to R371) -/

/-- BANDI, BANDX, BANDA, BANDW and BANDT complete on a band within reach (R355 to R358): BANDI initialises it, BANDX arms it, BANDA arrives,
BANDW returns its ERR word once its phase has completed, with the flags due and an acquire, and else waits until BANDW_RETURN has it look
again, and BANDT tests its chunk bits. With an empty active set they change nothing. -/
def Obligations.BandInstructions : Prop :=
  (∀ f, Completes (.bandi f) (fun c => c.act = 0#96) fun c => .next c.s) ∧
  (∀ f, Completes (.bandx f) (fun c => c.act = 0#96) fun c => .next c.s) ∧
  (∀ f, Completes (.banda f) (fun c => c.act = 0#96) fun c => .next c.s) ∧
  (∀ f, Completes (.bandw f) (fun c => c.act = 0#96) fun c => .next c.s) ∧
  (∀ f, Completes (.bandt f) (fun c => c.act = 0#96) fun c => .next c.s) ∧
  (∀ f s b c k, issueOf (.bandi f) s = some (b, c) → c.act ≠ 0#96 → BandAt c f true k →
    exec (.bandi f) s = .next (after b c (.next (c.s.putBand c.w.ctx k Band.init Band.init (c.s.depthOf c.w))))) ∧
  (∀ f s b c k, issueOf (.bandx f) s = some (b, c) → c.act ≠ 0#96 → BandAt c f true k →
    let base := if f.d = 0x1FF then 0 else c.scalar f.d false 1
    base % 512 = 0 → base < 0x80000 → (c.s.band k).magic = bandMagic →
    exec (.bandx f) s = .next (after b c (.next (c.s.putBand c.w.ctx k (c.s.band k)
      ((c.s.band k).arm (c.scalar f.s false 1) base) (c.s.depthOf c.w))))) ∧
  (∀ f s b c k, issueOf (.banda f) s = some (b, c) → c.act ≠ 0#96 → BandAt c f true k → c.scalar f.s false 1 ≠ 0 →
    (c.s.band k).magic = bandMagic →
    exec (.banda f) s = .next (after b c (.next (c.s.putBand c.w.ctx k (c.s.band k)
      ((c.s.band k).add (c.scalar f.s false 1)).settle (c.s.depthOf c.w))))) ∧
  (∀ f s b c k, issueOf (.bandw f) s = some (b, c) → c.act ≠ 0#96 → BandAt c f false k → c.scalar f.s false 1 ≤ 255 →
    (c.s.band k).magic = bandMagic →
    exec (.bandw f) s = .next (after b c (if (c.s.band k).completed (c.scalar f.s false 1) then
      .next (c.acquired true (c.objectScope k) (putIn c (c.s.deliverFlags c.w k) fun w => w.putScalar c.lanes f.d false (c.s.band k).err))
      else waits c c.s (.band (c.inFlight []))))) ∧
  (∀ f s b c k, issueOf (.bandt f) s = some (b, c) → c.act ≠ 0#96 → BandAt c f false k → (c.s.band k).magic = bandMagic →
    exec (.bandt f) s = .next (after b c (.next (putIn c c.s fun w => w.setQ (regNum f.d) c.act
      (LaneMask.ofFn fun l => decide (c.vector f.s false 1 l < 128) && (c.s.band k).chunks.testBit (c.vector f.s false 1 l)))))) ∧
  ∀ (h : HoodRef) (s : State), (s.waits h fun x => match x with | .band _ => true | _ => false) = true →
    exec (.bandwReturn h) s = .next (s.goOn h.core h.slot h.hood).settle

/-- The band object (R354, R356, R357): its 32 bytes hold its fields; arrivals add up and complete the phase when they reach EXPECT, what
exceeds it stays counted and sets ERR bit 0; a phase counts as completed for the 128 counts that follow it. -/
def Obligations.BandArithmetic : Prop :=
  (∀ b : Band, b.expect < 2 ^ 32 → b.arrived < 2 ^ 32 → b.done < 256 → b.magic < 2 ^ 24 → b.err < 2 ^ 32 → b.chunks < 2 ^ 128 →
    b.toNat < 256 ^ 32 ∧ Band.ofNat b.toNat = b) ∧
  (∀ (b : Band) (n : Nat), 0 < b.expect → b.arrived + n ≤ 0xFFFFFFFF →
    let a := (b.add n).settle
    (b.arrived + n < b.expect → a = { b with arrived := b.arrived + n }) ∧
    (b.arrived + n = b.expect → a = { b with arrived := 0, done := (b.done + 1) % 256 }) ∧
    (b.expect < b.arrived + n →
      a = { b with arrived := b.arrived + n - b.expect, done := (b.done + 1) % 256, err := b.err ||| 1 })) ∧
  (∀ (b : Band) (n : Nat), 0xFFFFFFFF < b.arrived + n → (b.add n).arrived = 0xFFFFFFFF ∧ (b.add n).err = b.err ||| 1) ∧
  ∀ (b : Band) (t : Nat), b.done < 256 → t < 256 → (b.completed t = true ↔ ∃ k < 128, b.done = (t + k) % 256)

/-- The ring instructions complete on a ring header within reach (R366 to R369): QINIT.init makes a good header live and gives it an index,
QINIT.fini ends it, QPUT.resv and QGET.acq take the next slot, QPUT.commit and QGET.free give back the oldest; and where they must wait they
wait, or answer false in q. The returns of the ring instructions (R368, R369): a hood that waits performs its instruction again. A ring's
slots (R365): slots of indices that differ by less than DEPTH lie apart, and a slot that was taken is found again by its address. -/
def Obligations.StageRings : Prop :=
  ((∀ f, Completes (.qinitInit f) (fun c => c.act = 0#96) fun c => .next c.s) ∧
   (∀ f, Completes (.qinitFini f) (fun c => c.act = 0#96) fun c => .next c.s) ∧
   (∀ f, Completes (.qputResv f) (fun c => c.act = 0#96) fun c => .next c.s) ∧
   (∀ f, Completes (.qputCommit f) (fun c => c.act = 0#96) fun c => .next c.s) ∧
   (∀ f, Completes (.qgetAcq f) (fun c => c.act = 0#96) fun c => .next c.s) ∧
   (∀ f, Completes (.qgetFree f) (fun c => c.act = 0#96) fun c => .next c.s) ∧
   (let full := fun (r : Ring) => ¬ctrSub r.rsv r.head < r.depth
    let empty := fun (r : Ring) => ctrSub r.tail r.acq = 0
    let slot := fun (c : Issue) (f : FormM) (r : Ring) (lo hi : Nat) => r.find lo (ctrSub hi lo) (c.scalar f.s true 3)
    let ready := fun (c : Issue) (f : FormM) (k : Nat) (r : Ring) => c.act ≠ 0#96 ∧ RingAt c f k r ∧ r.live = true
    let reserved := fun (c : Issue) (f : FormM) (k : Nat) (r : Ring) =>
      Res.next (c.acquired true 1 (ringStep c k 0x1C 4 ((r.rsv + 1) % 2 ^ 32) (takeSlot c f r r.rsv)))
    let acquired := fun (c : Issue) (f : FormM) (k : Nat) (r : Ring) =>
      Res.next (c.acquired true 1 (ringStep c k 0x20 4 ((r.acq + 1) % 2 ^ 32) (takeSlot c f r r.acq)))
    let committed := fun (c : Issue) (_ : FormM) (k : Nat) (r : Ring) => Res.next (ringMoved c k 0x14 r.tail)
    let freed := fun (c : Issue) (_ : FormM) (k : Nat) (r : Ring) => Res.next (ringMoved c k 0x10 r.head)
    let missed := fun (f : FormM) (c : Issue) => Res.next (putIn c c.s fun w => w.setQ (regNum f.s) c.act 0)
    (∀ f k r i, Completes (.qinitInit f) (fun c => c.act ≠ 0#96 ∧ RingAt c f k r ∧ r.live = false ∧ r.bad = false ∧
        ((List.range 64).find? fun i => !(c.s.ringIndices c.w.ctx (dieOfCore c.w.core)).contains i) = some i) fun c =>
      let t := fieldPut c (fieldPut c (fieldPut c (fieldPut c (fieldPut c c.s k 0x1A 2 (1 + i * 256)) k 0x10 4 0) k 0x14 4 0) k 0x1C 4 0)
        k 0x20 4 0
      .next (putIn c ((t.dropRingOps k).modCtx c.w.ctx fun x => { x with rings := (dieOfCore c.w.core, i, k) :: x.rings })
        fun w => w.putScalar c.lanes f.d false i)) ∧
    (∀ f k r, Completes (.qinitFini f) (fun c => ready c f k r) fun c =>
      .next (putIn c ((((fieldPut c c.s k 0x1A 2 (r.flags / 2 * 2)).dropFields k 64).dropRingOps k).modCtx c.w.ctx fun x =>
        { x with rings := x.rings.filter fun y => !(y.1 = dieOfCore c.w.core && y.2.1 = r.flags / 256 % 64) })
        fun w => w.putScalar c.lanes f.d false 0)) ∧
    (∀ f k r, Completes (.qputResv f) (fun c => ready c f k r ∧ ¬full r) (fun c => reserved c f k r) ∧
      Completes (.qputResv f) (fun c => ready c f k r ∧ full r ∧ f.s = 0x1FF) (fun c => waits c c.s (.ringResv (c.inFlight []))) ∧
      Completes (.qputResv f) (fun c => ready c f k r ∧ full r ∧ f.s ≠ 0x1FF) (missed f)) ∧
    (∀ f k r, Completes (.qputCommit f) (fun c => ready c f k r ∧ slot c f r r.tail r.rsv = some r.tail) (fun c => committed c f k r) ∧
      ∀ i, i ≠ r.tail → Completes (.qputCommit f) (fun c => ready c f k r ∧ slot c f r r.tail r.rsv = some i)
        fun c => waits c c.s (.ringCommit (c.inFlight []))) ∧
    (∀ f k r, Completes (.qgetAcq f) (fun c => ready c f k r ∧ ¬empty r) (fun c => acquired c f k r) ∧
      Completes (.qgetAcq f) (fun c => ready c f k r ∧ empty r ∧ f.s = 0x1FF) (fun c => waits c c.s (.ringAcq (c.inFlight []))) ∧
      Completes (.qgetAcq f) (fun c => ready c f k r ∧ empty r ∧ f.s ≠ 0x1FF) (missed f)) ∧
    (∀ f k r, Completes (.qgetFree f) (fun c => ready c f k r ∧ slot c f r r.head r.acq = some r.head) (fun c => freed c f k r) ∧
      ∀ i, i ≠ r.head → Completes (.qgetFree f) (fun c => ready c f k r ∧ slot c f r r.head r.acq = some i)
        fun c => waits c c.s (.ringFree (c.inFlight []))) ∧
    ReturnsToRing .qputResvRetry 0x10B 0 (fun x => match x with | .ringResv _ => true | _ => false) (fun _ _ r => ¬full r) reserved ∧
    ReturnsToRing .qputCommitPublish 0x10B 2 (fun x => match x with | .ringCommit _ => true | _ => false)
      (fun c f r => slot c f r r.tail r.rsv = some r.tail) committed ∧
    ReturnsToRing .qgetAcqRetry 0x10C 1 (fun x => match x with | .ringAcq _ => true | _ => false) (fun _ _ r => ¬empty r) acquired ∧
    ReturnsToRing .qgetFreeRelease 0x10C 0 (fun x => match x with | .ringFree _ => true | _ => false)
      (fun c f r => slot c f r r.head r.acq = some r.head) freed)) ∧
  (∀ (r : Ring) (i j : Nat), 2 ≤ r.depth → r.base + r.depth * r.slotBytes ≤ 2 ^ 64 → i < j → j - i < r.depth →
     (r.slot i + r.slotBytes ≤ r.slot j ∨ r.slot j + r.slotBytes ≤ r.slot i) ∧ r.base ≤ r.slot i ∧
     r.slot i + r.slotBytes ≤ r.base + r.depth * r.slotBytes)

/-- SPAWN (R205, R371): it queues a record for the next phase of the gang's context, laid in the free space of the header pool, and D gets 0;
where the header pool has no room D gets −1 and nothing is queued. -/
def Obligations.SpawnQueuesARecord : Prop :=
  (∀ f, Completes (.spawn f) (fun c => c.act = 0#96) fun c => .next c.s) ∧
  (∀ f s b c g, issueOf (.spawn f) s = some (b, c) → c.act ≠ 0#96 → c.s.gang? c.w.gang = some g → (g.phased || g.triggered) = true →
    c.scalar f.s3 false 1 ≤ 63 → c.w.parked = [] → c.s.poolRoom g.ctx g.die headerRecord = true →
    let r := { g.spawn (BitVec.ofNat 64 (c.scalar f.s1 true 3)) (if f.s2 = 0x1FF then 0 else BitVec.ofNat 64 (c.scalar f.s2 true 3))
                 (c.scalar f.s3 false 1) c.s.sched.nextOrder with poolAt := c.s.poolTake g.ctx g.die headerRecord }
    exec (.spawn f) s = .next (after b c (.next (putIn c ((c.s.layRecord r).modSched fun k =>
      { k with queued := k.queued ++ [r], nextOrder := k.nextOrder + 1 }) fun w => w.putScalar c.lanes f.d false 0)))) ∧
  ∀ f s b c g, issueOf (.spawn f) s = some (b, c) → c.act ≠ 0#96 → c.s.gang? c.w.gang = some g → (g.phased || g.triggered) = true →
    c.scalar f.s3 false 1 ≤ 63 → c.w.parked = [] → c.s.poolRoom g.ctx g.die headerRecord = false →
    exec (.spawn f) s = .next (after b c (.next (putIn c c.s fun w => w.putScalar c.lanes f.d false (2 ^ 32 - 1))))

/-! ## Layouts, copies and the engine (R340 to R364) -/

/-- XLAY (R342, R343): `.new` and `.set` install a record that passes its checks and give its handle, `.free` removes it, and the statuses
say what is wrong. -/
def Obligations.LayoutInstructions : Prop :=
  (∀ f, Completes (.xlayNew f) (fun c => c.act = 0#96) fun c => .next c.s) ∧
  (∀ f, Completes (.xlaySet f) (fun c => c.act = 0#96) fun c => .next c.s) ∧
  (∀ f, Completes (.xlayFree f) (fun c => c.act = 0#96) fun c => .next c.s) ∧
  (let reads := fun (c : Issue) (f : FormA) (v : State) (vals : List (Nat × Nat)) =>
    Loads c { n := 128, acc := .read, align := 128, useL1 := true } 0 true [(c.lane, BitVec.ofNat 64 (c.scalar f.s1 true 3))] v vals
   let record := fun (c : Issue) (vals : List (Nat × Nat)) => BitVec.ofNat 1024 (laneVal vals c.lane)
   (∀ f s b c v vals h, issueOf (.xlayNew f) s = some (b, c) → c.act ≠ 0#96 → reads c f v vals →
     (Layout.ofRec (record c vals)).status = 0 → freeHandle c.layouts = some h →
     exec (.xlayNew f) s = .next (after b c (.next (putIn c (v.setLayout c.w.ctx h (record c vals))
       fun w => w.putScalar c.lanes f.d false h)))) ∧
   (∀ f s b c v vals, issueOf (.xlaySet f) s = some (b, c) → c.act ≠ 0#96 → reads c f v vals →
     (Layout.ofRec (record c vals)).status = 0 → c.scalar f.s2 false 1 ≤ 4095 →
     exec (.xlaySet f) s = .next (after b c (.next (putIn c (v.setLayout c.w.ctx (c.scalar f.s2 false 1) (record c vals))
       fun w => w.putScalar c.lanes f.d false (c.scalar f.s2 false 1))))) ∧
   ∀ f s b c v vals, issueOf (.xlayNew f) s = some (b, c) → c.act ≠ 0#96 → reads c f v vals →
     (Layout.ofRec (record c vals)).status ≠ 0 →
     exec (.xlayNew f) s = .next (after b c (.next (putIn c v
       fun w => w.putScalar c.lanes f.d false (2 ^ 32 - (Layout.ofRec (record c vals)).status))))) ∧
  ∀ f, Completes (.xlayFree f) (fun c => c.act ≠ 0#96) fun c =>
    let h := c.scalar f.s2 false 1
    if c.layouts.any fun x => x.1 = h then .next (putIn c (c.s.modCtx c.w.ctx fun k =>
      { k with layouts := k.layouts.filter fun x => x.1 ≠ h }) fun w => w.putScalar c.lanes f.d false h)
    else .next (putIn c c.s fun w => w.putScalar c.lanes f.d false (2 ^ 32 - 5))

/-- XCOPY and XCOPY_ACCEPT (R345, R346): a copy whose layouts and operands pass their checks is handed to the engine, and D gets the bytes
it will count; where the engine has no room the hood waits, and goes on once there is. The engine's events (R347, R352, R361 to R364):
CHUNK_PROCESS reads and writes the next chunk of a copy, or replays one that was spilled; CHUNK_LAND counts a chunk that has been written or
lost at a receiver's band; SPILL_SPACE_FREED lets copies of the die go on; ENGINE_RESET abandons the copies that an engine holds. -/
def Obligations.CopiesAndTheEngine : Prop :=
  ((∀ f, Completes (.xcopy f) (fun c => c.act = 0#96) fun c => .next c.s) ∧
   (∀ f s b c src dst p, issueOf (.xcopy f) s = some (b, c) → c.act ≠ 0#96 →
     c.layouts.lookup (c.scalar f.s1 false 1 % 65536) = some src → c.layouts.lookup (c.scalar f.s1 false 1 / 65536) = some dst →
     c.s.checkCopy c.w ⟨Layout.ofRec src, Layout.ofRec dst, f.xf.toNat / 512, c.five f.s2, c.five f.s3⟩ (f.xf.toNat / 32 % 16)
       (c.scalar f.s4 false 1) = .ok p →
     let u := (c.s.countCopy c.w.core).2
     let k := c.newCopy f src dst (c.scalar f.s1 false 1) p (c.s.countCopy c.w.core).1
     let t := (putIn c (u.modEng fun e =>
       { e with copies := e.copies ++ [{ k with taken := u.copyRoom k }], nextCopy := e.nextCopy + 1 })
       fun w => w.putScalar c.lanes f.d false (p.arr.map Prod.snd).sum).traceCopy k
     exec (.xcopy f) s = .next (after b c (if u.copyRoom k then .next t else waits c t (.copy k.id)))) ∧
   ∀ (h : HoodRef) (s : State) (w : Warp) (id : Nat) (c : Copy), s.warp? h.core h.slot = some w →
     (w.slice (keyOf (w.hoodSlices h.hood))).wait = .copy id → s.copy? id = some c → s.copyRoom c = true →
     exec (.xcopyAccept h) s = .next (((s.modCopy id fun c => { c with taken := true }).modWarp h.core h.slot fun x =>
       (x.moveHood h.hood (nextPc (w.slice (keyOf (w.hoodSlices h.hood))).pc)).countWindows h.hood).tryEntry h.core h.slot).sweep.settle) ∧
  ((∀ (s : State) (id : Nat) (c : Copy) (k : Nat) (u v : State) (d : ChunkData), s.copy? id = some c → c.taken = true →
     c.heldSave = false → s.copyHeld c 0x09 = false → (∀ x ∈ c.spilled, x.ready = false) → c.heldSrc = false → c.heldFull = false →
     c.nextChunk = some k → (s.traceCopy c).readChunk c k = .data u d → u.writeChunk c k d = .done v →
     exec (.chunkProcess id) s = .next (v.wroteChunk c k d.flags).settle) ∧
   (∀ (s : State) (id : Nat) (c : Copy) (x : Spill), s.copy? id = some c → c.taken = true →
     c.heldSave = false → s.copyHeld c 0x09 = false → (c.spilled.find? fun x => x.ready) = some x →
     exec (.chunkProcess id) s = .next ((s.traceCopy c).replaySpill c x).settle) ∧
   (∀ (s : State) (id k pos : Nat) (c : Copy) (b : Block), s.copy? id = some c → c.taken = true → c.heldSave = false →
     (k ∈ c.written ∨ k ∈ c.lostChunks) → (∀ o ∈ s.eng.pend, ¬(o.write = true ∧ o.copy = id ∧ o.chunk = k)) → pos ∈ c.receivers →
     (pos, k) ∉ c.landed → (∃ n, (k, n) ∈ c.arr) → s.copyHeld c 0x0A = false → s.copyBlock? c pos = some b →
     exec (.chunkLand id k pos) s = .next ((((s.countChunk c b pos k).modCopy id fun c =>
       { c with landed := c.landed ++ [(pos, k)] }).retireCopy id).retryAgain).sweep.settle) ∧
   (∀ (s : State) (die : Nat), s.spillOf die + 512 ≤ Config.spillBytes →
     ∃ t, exec (.spillSpaceFreed die) s = .next t ∧ { t with eng := { t.eng with copies := s.eng.copies } } = s ∧
       ∀ c ∈ t.eng.copies, dieOfCore c.core = die → c.heldFull = false) ∧
   ∀ (s : State) (m core : Nat), m ≠ 0 → s.hub.holder = m →
     ∃ t, exec (.engineReset (.master m) core) s = .next (State.sweep t).settle ∧
       t = (State.retryAgain ((s.eng.copies.filter fun c => c.core = core && c.taken && !c.heldSave).foldl
         (fun s c => s.freeSpill c c.spilled.length) s |>.modEng fun e => { e with
           copies := e.copies.filter fun c => !(c.core = core && c.taken && !c.heldSave)
           pend := e.pend.filter fun o => o.write || !((s.eng.copies.filter fun c => c.core = core && c.taken && !c.heldSave).any
             fun c => c.id = o.copy) })))

/-! ## Matrix instructions (R373 to R386) -/

/-- MSHAPE, MMA, DMMA, MMAW, MZERO and MFENCE complete (R375, R379 to R385): MMA and DMMA hand a product to the unit of their core when it
has room; MMAW goes on once no more products are open than it asks for, with the flags of those completed. MMA_START, MMA_COMPLETE and
MMAW_RETURN (R136, R380 to R383). The oldest product that has not started finds its operands; the oldest product completes once it has
started; MMAW goes on when few enough are open. -/
def Obligations.MatrixInstructions : Prop :=
  ((∀ f, CompletesTogether (.mshape f) (fun c => BitVec.ofNat 64 (c.scalar f.s1 true 2) &&& ~~~mshapeMask = 0#64) fun c =>
     .next (putIn c c.s fun w => { w with mshape := BitVec.ofNat 64 (c.scalar f.s1 true 2) })) ∧
   (let accepts := fun (double : Bool) (f : FormX) (c : Issue) =>
      (c.product f double).fault? c.w.vrc (((c.s.blockOf? c.w).map Block.scratch).getD 0) = none ∧
      (c.s.openProducts c.w.core none).length < 16 ∧ (c.s.openProducts c.w.core (some c.w.slot)).length < 8
    let takes := fun (double : Bool) (f : FormX) (c : Issue) =>
      let n := c.s.countProduct c.w.core
      let p := { c.product f double with number := n.1, at_ := c.s.free, fences := (List.range 24).map fun i => (c.w.slice i).fence
                                         fence := c.w.liveSlices.foldl (fun a i => min a (c.w.slice i).fence) (c.s.free + 1) }
      Res.next ((n.2.modEng fun e => { e with products := e.products ++ [p] }).traceProduct p c.w.ctx 0x0B)
    (∀ f, CompletesTogether (.mma f) (accepts false f) (takes false f)) ∧
    ∀ f, CompletesTogether (.dmma f) (accepts true f) (takes true f)) ∧
   (∀ f, CompletesTogether (.mmaw f) (fun c => c.scalar f.s1 false 1 ≤ 7 ∧
       (c.s.openProducts c.w.core (some c.w.slot)).length ≤ c.scalar f.s1 false 1 ∧ (c.s.reportProducts c.w.core c.w.slot).2 = 0#96)
     fun c => .next (c.s.reportProducts c.w.core c.w.slot).1) ∧
   (∀ f, CompletesTogether (.mmaw f) (fun c => c.scalar f.s1 false 1 ≤ 7 ∧
       c.scalar f.s1 false 1 < (c.s.openProducts c.w.core (some c.w.slot)).length)
     fun c => .hold (putIn c c.s fun w => w.mapSlices fun _ sl =>
       if sl.live then { sl with wait := .products (c.scalar f.s1 false 1) } else sl)) ∧
   (∀ f, Completes (.mzero f) (fun c => c.act = 0#96) fun c => .next c.s) ∧
   (∀ f, Completes (.mzero f) (fun c =>
       let lim := if f.ty = 9 then 32 else 64
       let v := c.scalar f.s1 false 1
       let n := (if v = 0 then lim else v) * if f.ty = 9 then 2 else 1
       c.act ≠ 0#96 ∧ v ≤ lim ∧ regNum f.d + n ≤ c.w.vrc ∧
       ∀ p ∈ c.s.openProducts c.w.core (some c.w.slot), ∀ r ∈ p.dSpan, r < regNum f.d ∨ regNum f.d + n ≤ r) fun c =>
     .next (putIn c c.s fun w => ((List.range ((if c.scalar f.s1 false 1 = 0 then (if f.ty = 9 then 32 else 64)
       else c.scalar f.s1 false 1) * if f.ty = 9 then 2 else 1)).map (regNum f.d + ·)).foldl (fun w r => w.setV r c.act fun _ => 0) w)) ∧
   ∀ f, Completes (.mfence f) (fun c => ∀ x ∈ c.w.parked, x.2.lanes &&& c.lanes = 0#96) fun c =>
     .next (putIn c c.s fun w =>
       let a := (w.closeHoodWindows c.hood).fenced (fun i => (w.slice i).live && (w.slice i).hood = c.hood) (c.s.free + 1)
       if (c.s.openProducts w.core (some w.slot)).isEmpty then a.prunePast else a)) ∧
  ((∀ (s : State) (core : Nat) (p : Product) (w : Warp), ((s.openProducts core none).find? fun p => !p.started) = some p →
     (∀ q ∈ s.openProducts core none, q.started = true → p.waitsFor q = false) →
     s.warp? p.core p.slot = some w → s.traceHeld (dieOfCore core) w.ctx 0x0B p.lossless = false →
     s.traceHeld (dieOfCore core) w.ctx 0x0C p.lossless = false →
     exec (.mmaStart core) s = .next (s.modEng fun e => { e with products := e.products.map fun q =>
       if q.core = core && q.slot = p.slot && q.number = p.number && !q.done then
         { q with started := true, regs := p.dSpan.map fun r => (r, p.found w r, 0) } else q })) ∧
   (∀ (s : State) (core : Nat) (p : Product) (w : Warp), (s.openProducts core none).head? = some p → s.warp? p.core p.slot = some w →
     p.started = true → ∃ t, exec (.mmaComplete core) s = .next (State.sweep t).settle ∧
       (∀ q ∈ t.eng.products, q.core = core → q.slot = p.slot → q.number = p.number → q.done = true)) ∧
   ∀ (s : State) (core slot n : Nat) (w : Warp), s.warp? core slot = some w → (w.slice (keyOf w.liveSlices)).wait = .products n →
     (s.openProducts core (some slot)).length ≤ n → (s.reportProducts core slot).2 = 0#96 →
     exec (.mmawReturn core slot) s = .next ((s.reportProducts core slot).1.modWarp core slot fun w => w.mapSlices fun _ sl =>
       match sl.wait with | .products _ => if sl.live then { sl with pc := nextPc sl.pc, wait := .run } else sl | _ => sl))

/-- MMA_COMPLETE writes the product (R380): where nothing has written a destination since its acceptance, each element of D is the sum over
the operands that the unit has read, exact steps in order of K from the element's accumulator, and every other register stands. An operand
that nothing has written is read as it stands; of a register, a write that no MFENCE has ordered before the product may be missing beat by beat,
and of a line each such write may be there or not, while one that is ordered is there (R136, R384). -/
def Obligations.CompletedProductIsWritten : Prop :=
  (∀ (s : State) (core : Nat) (p : Product) (w : Warp), (s.openProducts core none).head? = some p → s.warp? p.core p.slot = some w →
    p.started = true → s.recs = [] → (∀ r ∈ p.dSpan, ∀ e ∈ p.since w r, e.unit = true) →
    let q := s.readProduct p w
    let t := s.modWarp p.core p.slot fun w => Warp.notePast w
      (q.putD w fun i n => if p.rows.getLsbD i then (q.run i n (q.acc0 i n) 0 q.steps).1 else 0) s.free p.rows
      (p.dSpan.map fun r => (.v, r)) true
    ∃ u, exec (.mmaComplete core) s = .next (State.sweep u).settle ∧ u.warps = t.warps) ∧
  (∀ (p : Product) (w : Warp) (r : Nat), (∀ e ∈ w.past, e.n ≠ r) → p.contents w r = [(w.getV r, w.getK r)]) ∧
  (∀ (p : Product) (w : Warp) (r : Nat), (w.getV r, w.getK r) ∈ p.contents w r) ∧
  (∀ (free salt : Nat) (x : VReg × KReg), readBeats free salt [x] = x) ∧
  (∀ (s : State) (p : Product) (o l : Nat) (see : Nat → Bool), (∀ x ∈ s.store.past, x.line = o + l → p.mayMiss x = false) →
    s.lineWith p o l see =
      { line := l, data := s.store.line (o + l), tag := s.store.tag (o + l), poison := s.store.poisonMask (o + l) }) ∧
  (∀ (s : State) (p : Product) (o l : Nat) (x : PastWrite), (s.store.past.filter fun x => x.line = o + l) = [x] → p.mayMiss x = true →
    s.lineWith p o l (fun _ => false) = { line := l, data := x.oldData, tag := x.oldTag, poison := x.oldPoison }) ∧
  (∀ (s : State) (p : Product) (o l : Nat) (x y : PastWrite), (s.store.past.filter fun x => x.line = o + l) = [x, y] →
    p.mayMiss x = true → p.mayMiss y = true → ∀ i, i < 128 → ((s.lineWith p o l fun j => j = 1).data.extractLsb' (8 * i) 8 : Byte) =
      if y.mask.getLsbD i then y.data.extractLsb' (8 * i) 8 else x.oldData.extractLsb' (8 * i) 8) ∧
  ∀ (p : Product) (x : PastWrite) (lanes : LaneMask), x.by_ = some (p.core, p.slot, lanes) →
    (p.mayMiss x = true ↔ ∃ l, l < 96 ∧ lanes.getLsbD l = true ∧ p.fences.getD (l / 4) 0 ≤ x.at_)

/-! ## Migration (R99, R108 to R115, R401) -/

/-- MIGR and MIGR.swap (R108, R115, R401): a request that is refused gives its status in D, with an acquire; one that is taken makes the
hood wait for its end. Migration beside its instructions (R99, R108 to R115). A request that fails a check is answered with its status, and
one that passes is taken; a pass that left lines dirty is followed by another until the fourth, then comes the cut-over; once its TFENCE is
complete the requester has status OK and the stub falls due after 4,096 ticks; a stub that is due goes when no cluster can still use it, and
otherwise waits again; a cluster invalidates what a TFENCE covers and acknowledges once nothing that it
issued under those entries is under way, and the last acknowledgement retries what is parked on the range and lets its hood go on. -/
def Obligations.MigrationAndItsEvents : Prop :=
  ((∀ f, Completes (.migr f) (fun c => c.act = 0#96) fun c => .next c.s) ∧
   (∀ f, Completes (.migrSwap f) (fun c => c.act = 0#96) fun c => .next c.s) ∧
   (let done := fun (f : FormA) (c : Issue) (ms : List (Option Move1)) =>
      match c.s.requestMove ms (some (c.w.core, c.w.slot)) f.d with
      | (t, some st) => Res.next ((putIn c t fun w => w.putScalar c.lanes f.d false st).l1Flush c.w.core)
      | (t, none) => waits c t (.migration c.s.eng.nextMig)
    let checked := fun (c : Issue) (va : Nat) =>
      c.s.classify c.w { sp := false, ds := false, lp := false } 0 (BitVec.ofNat 64 va) 1 c.lane
    let page := fun (c : Issue) (va : Nat) => ∀ x, checked c va = .error x → x.1 ≠ 0x15
    (∀ f sub, Completes (.migr f) (fun c => c.act ≠ 0#96 ∧ c.w.parked = [] ∧ checked c (c.scalar f.s1 true 3) = .error (0x15, sub))
      fun c => .fault c.s [c.record (0x15, sub) ((1 : LaneMask) <<< c.lane) (BitVec.ofNat 64 (c.scalar f.s1 true 3))]) ∧
    (∀ f, Completes (.migr f) (fun c => c.act ≠ 0#96 ∧ c.w.parked = [] ∧ page c (c.scalar f.s1 true 3)) fun c =>
      done f c (c.s.movePages (c.scalar f.s3 false 1) (c.scalar f.s1 true 3) (c.scalar f.s2 true 3))) ∧
    ∀ f, Completes (.migrSwap f) (fun c =>
        c.act ≠ 0#96 ∧ c.w.parked = [] ∧ page c (c.scalar f.s1 true 3) ∧ page c (c.scalar f.s2 true 3)) fun c =>
      done f c (c.s.swapPages (c.scalar f.s3 false 1) (c.scalar f.s1 true 3) (c.scalar f.s4 false 1) (c.scalar f.s2 true 3)))) ∧
  ((∀ (ctx va dest st : Nat) (s t : State), s.requestMove (s.movePages ctx va dest) none 0x1FF = (t, some st) →
     exec (.migrationRequestHost ctx va dest) s = .next (t.say (.migStatus st))) ∧
   (∀ (ctx va dest : Nat) (s t : State), s.requestMove (s.movePages ctx va dest) none 0x1FF = (t, none) →
     exec (.migrationRequestHost ctx va dest) s = .next t.settle ∧
     ∃ m ∈ t.eng.migs, m.id = s.eng.nextMig ∧ m.newFrame = dest ∧ m.cut = false ∧ m.swap = none ∧
       m.dirty = (s.hostLines dest m.size).map fun l => m.oldFrame / 128 + (l - dest / 128)) ∧
   (∀ (s : State) (ctx va dest : Nat), s.pageLeaf ctx va = none → Config.migQueueFull s.eng.migs.length = false →
     s.requestMove (s.movePages ctx va dest) none 0x1FF = (s, some 6)) ∧
   (∀ (id : Nat) (s : State) (m : Migration), (s.eng.migs.find? fun m => m.id = id && !m.cut) = some m →
     ((∃ x ∈ s.moveSpans m, s.hostLines x.1 x.2 ≠ []) →
       exec (.migrationCopyPassDone id) s = .next ((s.moveSpans m).foldl (fun s x => s.askSpan x.1 x.2) s)) ∧
     (s.hub.late = [] → (∀ x ∈ s.moveSpans m, s.hostLines x.1 x.2 = []) →
     (m.dirty ≠ [] → m.passes < 4 → ∃ t, exec (.migrationCopyPassDone id) s = .next t ∧
       t.eng.migs = (s.eng.migs.map fun x => if x.id = id then { x with dirty := [], passes := x.passes + 1 } else x) ∧
       t.warps = s.warps ∧ (m.swap ≠ none → t.store = s.store)) ∧
     ((m.dirty = [] ∨ 4 ≤ m.passes) → exec (.migrationCopyPassDone id) s = .next (s.cutOver m).settle))) ∧
   (∀ (s : State) (m : Migration), m ∈ s.eng.migs → m.swap = none →
     (s.cutOver m).hub.gen = (s.hub.gen + 1) % 2 ^ 32 ∧
     (∃ x ∈ (s.cutOver m).eng.migs, x.id = m.id ∧ x.cut = true ∧ x.dirty = [] ∧ x.gen = (s.hub.gen + 1) % 2 ^ 32 ∧ x.tf = s.eng.nextTf) ∧
     (∃ x ∈ (s.cutOver m).eng.stubs, x.oldFrame = m.oldFrame ∧ x.newFrame = m.newFrame ∧ x.gen = (s.hub.gen + 1) % 2 ^ 32 ∧
       x.size = m.size ∧ x.ctx = m.ctxP) ∧
     ∃ x ∈ (s.cutOver m).eng.tfences, x.id = s.eng.nextTf ∧ x.ctx = m.ctxP ∧ x.lo = m.vaP ∧ x.hi = m.vaP + m.size) ∧
   (∀ (id : Nat) (s : State) (m : Migration), (s.eng.migs.find? fun m => m.id = id && m.cut) = some m →
     (∀ x ∈ s.eng.tfences, x.id ≠ m.tf) →
     ∃ t : State, exec (.migrationStubbed id) s = .next (t.answerMove m 0).sweep.settle ∧ (∀ x ∈ t.eng.migs, x.id ≠ id) ∧
       (∀ x ∈ s.eng.stubs, x.due = 0 → x.oldFrame = m.oldFrame → x.ctx = m.ctxP → x.swap = m.swap.isSome →
         { x with due := (s.die x.die).tick + 4096 } ∈ t.eng.stubs) ∧ t.store = s.store) ∧
   (∀ (die old : Nat) (s : State) (t : Stub), (s.eng.stubs.find? fun t => t.die = die && t.oldFrame = old) = some t → t.due ≠ 0 →
     t.due ≤ (s.die die).tick →
     (s.stubClean t = true → t.asked = none → s.reclaimPeers t ≠ [] →
       exec (.stubReclaimAttempt die old) s = .next ((s.reclaimPeers t).foldl (fun s p => s.say (.podReclaim p t.gen t.ctx t.oldFrame t.size))
         { s with eng := { s.eng with stubs := s.eng.stubs.map fun x => if x.same t then { x with asked := some (s.reclaimPeers t) } else x } })) ∧
     (s.stubClean t = true → t.asked.getD (s.reclaimPeers t) = [] → ∃ u, exec (.stubReclaimAttempt die old) s = .next u ∧
       (∀ x ∈ u.eng.stubs, x.same t = false) ∧ (∀ x ∈ s.eng.stubs, x.same t = false → x ∈ u.eng.stubs) ∧ u.store = s.store ∧ u.warps = s.warps) ∧
     (s.stubClean t = false → ∃ u, exec (.stubReclaimAttempt die old) s = .next u ∧
       (∀ x ∈ u.eng.stubs, x.same t = true → x.due = (s.die die).tick + 4096 ∧ x.asked = none) ∧
       { u with eng := { u.eng with stubs := s.eng.stubs } } = s)) ∧
   ∀ (id cluster : Nat) (s v : State) (mine : List TFenceOp), mine = (s.eng.tfences.filter fun t => t.id = id) →
     (∃ t ∈ mine, cluster ∈ t.clusters) → v = mine.foldl (fun s t => s.shootCluster cluster t.ctx t.lo t.hi) s →
     ((∃ t ∈ mine, v.accessing cluster t.ctx t.lo t.hi = true) →
       exec (.tfenceAcknowledge id cluster) s = .next v ∧ v.eng = s.eng ∧ v.warps = s.warps) ∧
     ((∀ t ∈ mine, v.accessing cluster t.ctx t.lo t.hi = false) → (∃ t ∈ mine, ∃ c ∈ t.clusters, c ≠ cluster) →
       ∃ u, exec (.tfenceAcknowledge id cluster) s = .next (State.sweep u).settle ∧
         (∀ t ∈ u.eng.tfences, t.id = id → cluster ∉ t.clusters) ∧ u.warps = s.warps) ∧
     ((∀ t ∈ mine, v.accessing cluster t.ctx t.lo t.hi = false) → (∀ t ∈ mine, ∀ c ∈ t.clusters, c = cluster) →
       ∃ u : State, exec (.tfenceAcknowledge id cluster) s = .next ((mine.foldl
         (fun s t => match t.hood with | some h => s.endFence h id | none => s)
         (mine.foldl (fun s t => match t.peer with | some p => s.say (.podAck p.1 2 p.2 true) | none => s)
           (mine.foldl (fun s t => (s.orderPtes t).retryRange t.ctx t.lo t.hi t.scope) u))).sweep.settle) ∧
         (∀ t ∈ u.eng.tfences, t.id ≠ id) ∧ u.warps = s.warps))

/-! ## Ownership, registers, bring-up and time -/

/-- The claims, leases and elections of R455: a claim while nobody holds the device opens or enters an election, which the highest priority
wins, and of equals the lower master code; a claim while there is a holder is refused; a beat of the holder restarts its lease; a release
gives the device to its successor or to nobody; and a lease that runs out ends the hold. Every change fires vector 0. Leases and the election's
10 ms count on the hub's own oscillator, which goes on when the clocks have stopped; that REFERENCE_TICK carries its time is the model's choice
(log entry 33). -/
def Obligations.OwnershipEvents : Prop :=
  (∀ (m prio : Nat) (s : State), s.reachable m = true → s.hub.holder = 0 → prio ≤ 15 →
    exec (.claim m prio) s = .next { s with hub := { s.hub with
      elect := true, electAt := if s.hub.elect then s.hub.electAt else s.hub.osc, claims := s.hub.claims ++ [(m, prio)] } }) ∧
  (∀ (m prio : Nat) (s : State), s.reachable m = true → (s.hub.holder ≠ 0 ∨ 15 < prio) →
    exec (.claim m prio) s = .next { s with hub := { s.hub with denied := s.hub.denied ||| (1 : BitVec 4) <<< m } }) ∧
  (∀ (m : Nat) (s : State), s.reachable m = true → s.hub.holder = m →
    exec (.claimBeat m) s = .next { s with hub := { s.hub with lease := 3000000 } }) ∧
  (∀ (m : Nat) (s : State), s.reachable m = true → s.hub.holder ≠ m →
    exec (.claimBeat m) s = .next { s with hub := { s.hub with denied := s.hub.denied ||| (1 : BitVec 4) <<< m } }) ∧
  (∀ (m n : Nat) (s : State), s.reachable m = true → s.hub.holder = m → (n = 0 ∨ n = m) →
    ∃ t, exec (.claimRelease m n) s = .next t ∧ t.hub.holder = 0 ∧ t.hub.lease = 0 ∧ t.hub.succ = n ∧ t.out = .msi 0 :: s.out ∧
      { t with hub := s.hub, out := s.out } = s) ∧
  (∀ (m n : Nat) (s : State), s.reachable m = true → s.hub.holder = m → n ≠ 0 → n ≠ m → n ≤ 3 →
    ∃ t, exec (.claimRelease m n) s = .next t ∧ t.hub.holder = n ∧ t.hub.lease = 3000000 ∧ t.hub.hprio = 0 ∧ t.hub.elect = false ∧
      t.hub.succ = n ∧ t.out = .msi 0 :: s.out ∧ { t with hub := s.hub, out := s.out } = s) ∧
  (∀ s : State, s.hub.elect = true → s.hub.claims ≠ [] → s.hub.electAt + 1000000 ≤ s.hub.osc →
    ∃ t c, exec .electionClose s = .next t ∧ c ∈ s.hub.claims ∧
      (∀ d ∈ s.hub.claims, d.2 < c.2 ∨ (d.2 = c.2 ∧ c.1 ≤ d.1)) ∧ t.hub.holder = c.1 ∧ t.hub.hprio = c.2 ∧ t.hub.lease = 3000000 ∧
      t.hub.elect = false ∧ t.hub.claims = [] ∧ t.out = .msi 0 :: s.out ∧ { t with hub := s.hub, out := s.out } = s) ∧
  (∀ s : State, ∃ t, exec .referenceTick s = .next t ∧ t.hub.osc = s.hub.osc + 1 ∧
    t.hub.lease = if (s.hub.osc + 1) % 100 = 0 then s.hub.lease - 1 else s.hub.lease) ∧
  ∀ s : State, s.hub.holder ≠ 0 → s.hub.lease = 0 →
    exec .leaseLapse s = .next { s with hub := { s.hub with holder := 0, hprio := 0, lease := 0 }, out := .msi 0 :: s.out }

/-- Register writes and contexts (R47, R48, R453, R456, R457). A store of a context other than the system context changes no register; a
master that does not own the device changes nothing but its DENIED bit; the owner writes the writable fields and no read-only register. The
registers of context slots stand in their blocks and no others, and past them no register stands (R452); CTL takes its fields. A
new carve-out is refused with CFGERR or, once its lines have gone, takes effect with the added ways zeroed. A create command whose checks
pass makes the slot's descriptor a context, and one that fails a check leaves its STATUS and makes nothing; a destroy command ends the
context. -/
def Obligations.RegisterAndContextEvents : Prop :=
  (∀ (ctx : Nat) (r : MmioReg) (v : DWord) (s : State), (s.ctx? ctx).any Context.system = false →
    exec (.mmioWrite (.warpOf ctx) r v) s = .next s) ∧
  (∀ (m : Nat) (r : MmioReg) (v : DWord) (s : State), s.isOwner (.master m) = false → r ≠ .claim →
    exec (.mmioWrite (.master m) r v) s = .next (s.refuse (.master m))) ∧
  (∀ (w : Writer) (v : DWord) (s : State), s.isOwner w = true →
    exec (.mmioWrite w .tbcfg v) s = .next { s with hub := { s.hub with tbsource := v.toNat % 4 } } ∧
    exec (.mmioWrite w .owner v) s = .next { s with hub := { s.hub with denied := s.hub.denied &&& ~~~v.extractLsb' 16 4 } }) ∧
  (∀ off, 0x10400000 + 4 ≤ off → mmioWordReg off = none) ∧
  (∀ (off : Nat) (r : MmioReg), mmioLayout off = some r → (slotReg r = true ↔ 0x10000000 ≤ off)) ∧
  (∀ (w : Writer) (x : CtxSlot) (v : Nat) (s : State), 2 < v % 16 → s.slotCtx? x.slot = none →
    s.writeCtl w x v = s.modSlot x.slot fun y => { y with desc := y.desc.set 0 (BitVec.ofNat 32 v &&& 0xFF00FEF0) }) ∧
  (∀ (w : Writer) (v : DWord) (s : State) (d i k : Nat), s.isOwner w = true →
    ∀ r ∈ [MmioReg.bootstat, .discovery, .generation, .trainmod d, .topology d i, .stub d i k], exec (.mmioWrite w r v) s = .next s) ∧
  (∀ (w : Writer) (die : Nat) (val : Word) (s : State), s.isOwner w = true → die < s.dies.length → val.toNat % 8 ≠ (s.die die).carve →
    s.carveFits die (val.toNat % 8) = true →
    ∃ t, exec (.l2cfgWrite w die val) s = .next t ∧ (t.die die).busy = true ∧ (t.die die).carveTo = val.toNat % 8 ∧
      (t.die die).carve = (s.die die).carve ∧ { t with dies := s.dies } = s) ∧
  (∀ (w : Writer) (die : Nat) (val : Word) (s : State), s.isOwner w = true → die < s.dies.length → val.toNat % 8 ≠ (s.die die).carve →
    s.carveFits die (val.toNat % 8) = false →
    ∃ t, exec (.l2cfgWrite w die val) s = .next t ∧ (t.die die).cfgerr = true ∧ (t.die die).busy = (s.die die).busy ∧
      (t.die die).carve = (s.die die).carve ∧ { t with dies := s.dies } = s) ∧
  (∀ (die : Nat) (s : State), die < s.dies.length → (s.die die).busy = true →
    ∃ t, exec (.carveChangeDone die) s = .next t ∧ (t.die die).busy = false ∧ (t.die die).carve = (s.die die).carveTo ∧
      (∀ k, t.store.byte k = if apertureBase die + (s.die die).carve * 0x4000000 ≤ k ∧
          k < apertureBase die + (s.die die).carve * 0x4000000 + ((s.die die).carveTo - (s.die die).carve) * 0x4000000
        then 0 else s.store.byte k) ∧ t.warps = s.warps ∧ t.contexts = s.contexts) ∧
  (∀ (w : Writer) (slot : Nat) (s : State) (x : CtxSlot), s.mayWrite w = true → (s.slots.find? fun x => x.slot = slot) = some x →
    s.createStatus x = 0 →
    ∃ t, exec (.contextCreate w slot) s = .next t ∧ t.contexts = s.contexts ++ [x.context] ∧
      t.slots = (s.slots.map fun y => if y.slot = x.slot then { y with status := 0, valid := true } else y) ∧ t.warps = s.warps) ∧
  (∀ (w : Writer) (slot : Nat) (s : State) (x : CtxSlot), s.mayWrite w = true → (s.slots.find? fun x => x.slot = slot) = some x →
    s.createStatus x ≠ 0 →
    exec (.contextCreate w slot) s = .next { s with
      slots := s.slots.map fun y => if y.slot = x.slot then { y with status := s.createStatus x } else y }) ∧
  ∀ (w : Writer) (slot : Nat) (s : State) (c : Context), s.mayWrite w = true → s.slotCtx? slot = some c →
    ∃ t : State, exec (.contextDestroy w slot) s = .next t.settle ∧ (∀ o ∈ t.contexts, o.id ≠ c.id) ∧
      (∀ x ∈ t.slots, x.slot = slot → x.valid = false) ∧ ∀ o ∈ t.store.owner, o.2 ≠ c.id + 1

/-- Bring-up (R56, R143, R161, R458 to R460). RESET ends everything that ran: no warp, context or cached line is left, while revocations and
minimum versions stand; with every stage, the links, the memory and all dies good it ends at step 8 with no owner, or at the election's
winner; a stage that does not verify is not run and leaves the device in recovery at its step. Records enter the topology, and discovery
closes with the dies found; the acknowledgements make it READY. A recovery image that the ROM accepts lets bring-up go on, another changes
nothing; revocation only rises, and only by a signed command of the owner. Attestation (R459): once the device is reachable it answers every
SPDM command of every master, owner or not, and changes nothing: the version is 1.2, the algorithm Falcon-1024 with SHAKE256, and a measurement
is that of its index, for 2 to 5 the digest of the stage that runs. What the answers hold beside is the part's own (log entry 4). -/
def Obligations.BringUpAndAttestation : Prop :=
  ((∀ (b : BringUp) (s : State), ∃ t, exec (.reset b) s = .next t ∧ t.warps = [] ∧ t.contexts = [] ∧ t.store = {} ∧ t.caches = {} ∧
     t.coh = {} ∧ t.sched = {} ∧ t.eng = {} ∧ t.hub.revoked = s.hub.revoked ∧ t.hub.minVersion = s.hub.minVersion ∧
     t.hub.tripped = false ∧ t.hub.timebaseLost = false) ∧
   (∀ (b : BringUp) (s : State), (s.released b).hub.stageOk 1 = false →
     ∃ t, exec (.reset b) s = .next t ∧ t.hub.bootstat = 0x102 ∧ t.hub.recovery = some 1 ∧ t.hub.holder = 0) ∧
   (∀ (b : BringUp) (s : State) (r : Fin 4 → DiscoverRec), (∀ k, 1 ≤ k → k ≤ 4 → (s.released b).hub.stageOk k = true) → b.hbmOk = true → b.cxlTrained = true →
     b.trained = [(4, 12, 12), (4, 12, 12), (4, 12, 12), (4, 12, 12)] → b.election = [] →
     (∀ d, (r d).cls = 0 ∧ (r d).caps.getLsbD 4 = false) →
     b.discover = [some (r 0), some (r 1), some (r 2), some (r 3)] →
     ∃ t, exec (.reset b) s = .next t ∧ t.hub.bootstat = 8 ∧ t.hub.ready = true ∧ t.hub.holder = 0 ∧ (∀ d < 4, t.present d = true) ∧
       ∀ k img, k < 4 → b.stages[k]? = some img → t.hub.measured.lookup (k + 1) = some img.digest) ∧
   (∀ (h : Hub) (stage : Nat), h.stageOk stage = true → ∃ img, h.bring.stages[stage - 1]? = some img ∧ img.stage = stage ∧
     img.signatureOk = true ∧ (∃ i < 4, img.key = some i ∧ h.revoked.getLsbD i = false) ∧ h.minVersion.getD (stage - 1) 0 ≤ img.version) ∧
   (∀ (port : Nat) (r : DiscoverRec) (s : State), s.hub.boot = 4 → s.hub.closed = false → s.hub.bootFail = false → port < 4 →
     (s.die port).tmHub ≠ 0 → r.cls = 0 → r.caps.getLsbD 4 = false → s.hub.tick < 10000000 → s.hub.discovered.lookup port = none → s.hub.discovered.length < 3 →
     exec (.discoverRecord port r) s = .next { s with hub := { s.hub with discovered := s.hub.discovered ++ [(port, r)] } }) ∧
   (∀ s : State, s.hub.boot = 4 → s.hub.closed = false → s.hub.bootFail = false → 10000000 ≤ s.hub.tick →
     ∃ t, exec .discoveryTimeout s = .next t ∧ t.hub.closed = true ∧
       (∀ d < s.dies.length, t.present d = (s.hub.discovered.lookup d).isSome) ∧
       (t.hub.degraded = true ↔ ∃ d < 4, s.hub.discovered.lookup d = none) ∧
       (t.hub.bootFail = true ↔ (∀ d < 4, s.hub.discovered.lookup d = none) ∨
         ∃ i < 4, ∃ j < 4, s.hub.discovered.lookup i ≠ none ∧ s.hub.discovered.lookup j ≠ none ∧ t.reaches i j = false)) ∧
   (∀ (port : Nat) (r : DiscoverRec) (s : State), (r.cls ≠ 0 ∨ r.caps.getLsbD 4 = true ∨ 10000000 ≤ s.hub.tick) →
     s.hub.discovered.length < 4 → exec (.discoverRecord port r) s = .next s) ∧
   (∀ (link vc count : Nat) (s : State), ∃ t, exec (.cfg (.credits link vc count)) s = .next t ∧ (link, vc, count) ∈ t.hub.credits ∧
     { t with hub := { t.hub with credits := s.hub.credits } } = s) ∧
   (∀ (die : Nat) (s : State), s.hub.closed = true → s.hub.ready = false → s.present die = true →
     ∃ t, exec (.cfg (.topology die)) s = .next t ∧ (t.die die).topo = true ∧ { t with dies := s.dies } = s) ∧
   (∀ (die : Nat) (s : State), (s.die die).topo = true →
     exec (.cfg (.acknowledge die)) s = .next (s.modDie die fun d => { d with topoAck := true }).readyIfAll) ∧
   (∀ (die : Nat) (s : State), exec (.cfg (.config die)) s = .next s) ∧
   (∀ (img : FirmwareImage) (s : State), s.hub.recovery = some img.stage → s.hub.accepts img = true → 1 ≤ img.stage → img.stage ≤ 4 →
     ∃ t : State, t.hub.bring.stages[img.stage - 1]? = some img ∧ t.hub.stageOk img.stage = true ∧
       exec (.recoveryImage img) s = .next (if img.stage = 1 then t.bring2 else t.bring6)) ∧
   (∀ (img : FirmwareImage) (s : State), (s.hub.recovery ≠ some img.stage ∨ s.hub.accepts img = false) →
     exec (.recoveryImage img) s = .next s) ∧
   (∀ (c : RevocationCmd) (s : State), s.isOwner (.master c.master) = true → c.signatureOk = true →
     ∃ t, exec (.firmwareRevocationCommand c) s = .next t ∧ t.hub.revoked = s.hub.revoked ||| c.revoke ∧
       (∀ i < 4, s.hub.minVersion.getD i 0 ≤ t.hub.minVersion.getD i 0 ∧ c.minVersion.getD i 0 ≤ t.hub.minVersion.getD i 0) ∧
       { t with hub := { t.hub with revoked := s.hub.revoked, minVersion := s.hub.minVersion } } = s) ∧
   ∀ (c : RevocationCmd) (s : State), s.isOwner (.master c.master) = true → c.signatureOk = false →
     exec (.firmwareRevocationCommand c) s = .next s) ∧
  (∀ (m : Nat) (s : State), s.reachable m = true →
     let answers := fun (i : Instr) (cmd : Nat) => ∃ x, exec i s = .next { s with out := .spdm m cmd x :: s.out }
     exec (.getVersion m) s = .next { s with out := .spdm m 1 (.version 1 2) :: s.out } ∧ answers (.getCapabilities m) 2 ∧
     (∃ x, exec (.negotiateAlgorithms m) s = .next { s with out := .spdm m 3 (.falcon1024Shake256 x) :: s.out }) ∧ answers (.getDigests m) 4 ∧
     (∀ slot, answers (.getCertificate m slot) 5) ∧ (∀ nonce, answers (.challenge m nonce) 6) ∧
     (∀ index, 1 ≤ index → index ≤ 7 →
       ∃ x, exec (.getMeasurements m index) s = .next { s with out := .spdm m 7 (.measurement index (s.hub.measurement index) x) :: s.out })) ∧
  ∀ (h : Hub) (k : Nat) (d : BitVec 256), 1 ≤ k → k ≤ 4 → h.measured.lookup k = some d → h.measurement (k + 1) = d

/-- Time, power and heat (R157, R158, R160, R390, R438, R461, R462): a reference tick advances every counter that it drives, those of a die
from when its link to the hub has trained; the hub sends its counters to each die every 1,024 ticks, and a die takes them over without going
back; a small offset is slewed, a larger one steps the counters forward or holds them; the loss of the time base and a thermal trip stop the
device. -/
def Obligations.TimeAndPowerEvents : Prop :=
  (∀ s : State, s.halted = false →
    ∃ t ns, exec .referenceTick s = .next t ∧ t.hub.tick = s.hub.tick + 1 ∧ t.hub.ns = s.hub.ns + ns ∧ ns ≤ 11 ∧
      (s.hub.held = 0 → 9 ≤ ns) ∧ (s.hub.held = 0 → s.hub.slew = 0 → ns = 10) ∧ t.store = s.store ∧ t.warps = s.warps ∧
      ∀ d, (s.present d = true ∨ (s.die d).tmHub ≠ 0) → (t.die d).tick = (s.die d).tick + 1 ∧ (t.die d).ns = (s.die d).ns + ns ∧
        (t.die d).clock = (s.die d).clock + (s.die d).freq / 100) ∧
  (∀ s : State, s.halted = false → s.hub.tick % 1024 = 0 → s.hub.syncAt ≠ s.hub.tick →
    ∃ t, exec .timesyncSend s = .next t ∧ t.hub.syncAt = s.hub.tick ∧
      ∀ d, d < 4 → s.present d = true → (d, s.hub.tick, s.hub.ns) ∈ t.hub.syncs ∧ .timeSync d s.hub.tick s.hub.ns ∈ t.out) ∧
  (∀ (s : State) (die tick ns : Nat), (s.hub.syncs.find? fun x => x.1 = die) = some (die, tick, ns) → die < s.dies.length → tick ≤ s.hub.tick → ns ≤ s.hub.ns →
    (s.present die = true → (s.die die).topo = true) →
    ∃ t, exec (.timesync die tick ns) s = .next t ∧ (t.die die).tick = s.hub.tick ∧ (t.die die).ns = max (s.die die).ns s.hub.ns ∧
      t.hub.syncs = s.hub.syncs.erase (die, tick, ns)) ∧
  (∀ (s : State) (o : Int), s.halted = false → 2 ≤ s.hub.tbsource → exec (.timebaseSourceUpdate o) s = .next s) ∧
  (∀ (s : State) (o : Int), s.halted = false → s.hub.tbsource < 2 → o.natAbs ≤ 1000000 →
    exec (.timebaseSourceUpdate o) s = .next { s with hub := { s.hub with slew := o } }) ∧
  (∀ (s : State) (o : Int), s.halted = false → s.hub.tbsource < 2 → 1000000 < o →
    ∃ t, exec (.timebaseSourceUpdate o) s = .next t ∧ t.hub.ns = s.hub.ns + o.toNat ∧
      ∀ d, s.present d = true → (t.die d).ns = (s.die d).ns + o.toNat) ∧
  (∀ (s : State) (o : Int), s.halted = false → s.hub.tbsource < 2 → o < -1000000 →
    ∃ t, exec (.timebaseSourceUpdate o) s = .next t ∧ t.hub.ns = s.hub.ns ∧ t.hub.held = o.natAbs) ∧
  (∀ s : State, s.halted = false →
    exec .timebaseWatchdog s = .next (((s.contexts.filter fun (c : Context) => !c.killed).map Context.id).foldl
      (fun (s : State) c => s.writeBatch c (.agent hubDie 216) [{ code := 0x42, sub := 0x00 }])
      { s with hub := { s.hub with timebaseLost := true } }).settle) ∧
  (∀ (s : State) (die : Nat) (lower : Bool), die < s.dies.length → 600 ≤ (s.die die).freq → (s.die die).freq ≤ 1200 →
    ∃ t, exec (.powerLimitStep die lower) s = .next t ∧ 600 ≤ (t.die die).freq ∧ (t.die die).freq ≤ 1200 ∧
      (700 ≤ (s.die die).freq → lower = true → (t.die die).freq + 100 = (s.die die).freq) ∧
      ((s.die die).freq ≤ 1100 → lower = false → (t.die die).freq = (s.die die).freq + 100) ∧
      (t.die die).tick = (s.die die).tick ∧ { t with dies := s.dies } = s) ∧
  ∀ s : State, exec .thermalTrip s = .next { s with hub := { s.hub with tripped := true }, out := .msi 0 :: .thermalTrip :: s.out }

/-! ## The host and the pod -/

/-- The host's accesses and answers (R38, R141, R152, R214, R449, R450). A read of host-managed memory with nothing under way on its line is
answered with its 64 bytes and enters the snoop filter; a write stores the enabled bytes at the home and touches no tag; a snoop ends the
dies' copies of a HOST-COH line, or leaves them shared; addresses of host memory are the host's own, those of HBM4E follow the decoder's
base, and no access is served outside its 1 TiB, before the link has trained or in recovery; when the host gives a line up, the waiting accesses are tried again; and its answers
reach the requests that asked for them. -/
def Obligations.HostEvents : Prop :=
  (∀ (pa a home : Nat) (s : State), s.hdmPa? pa = some a →
    s.hdmHome (a / 128) = some home → s.lineBusy (a / 128) = false → s.lineQueued (a / 128) = false → a / 128 ∉ s.hub.hostWait →
    (a / 128 ∈ s.hub.snoop ∨ s.hub.snoop.length < snoopEntries) →
    exec (.cxlMemRead pa) s = .next (((s.homeRead (a / 128)).modHub fun h => { h with snoop := a / 128 :: h.snoop.filter (· ≠ a / 128) }).say
      (.cxlData pa (BitVec.ofNat 512 (s.store.read a 64)) (s.store.poisonAt a 64).isSome))) ∧
  (∀ (pa a home : Nat) (data : BitVec 512) (be : BitVec 64) (s : State), s.hdmPa? pa = some a →
    s.hdmHome (a / 128) = some home → s.lineBusy (a / 128) = false → s.lineQueued (a / 128) = false →
    exec (.cxlMemWrite pa data be) s = .next (((s.homeWrite home (a / 128) none).writeLine (a / 128)
      (be.setWidth 128 <<< (a % 128)) (data.setWidth 1024 <<< (8 * (a % 128))) 1).settle)) ∧
  (∀ (pa : Nat) (s : State), (s.hub.bootFail = true ∨ s.hub.boot < 8 ∨ pa < s.hub.decoder ∨ s.hub.decoder + 2 ^ 40 ≤ pa) →
    exec (.cxlMemRead pa) s = .next s ∧ ∀ data be, exec (.cxlMemWrite pa data be) s = .next s) ∧
  (∀ (pa : Nat) (s : State), s.hub.bootFail = false → 8 ≤ s.hub.boot → pa < 2 ^ 40 →
    s.hdmPa? (s.hub.decoder + pa) = some (s.relayPa (pa / 64 * 64))) ∧
  (∀ (pa : Nat) (inv : Bool) (s : State), let l := (0x1000000000000 + pa) / 128
    pa < 0x1000000000000 → (∀ x ∈ s.coh.l2, x.line ≠ l) →
    exec (.h2dSnoop pa inv) s = .next (s.say (.snoopResp pa false 0))) ∧
  (∀ (pa : Nat) (s : State) (x : L2Line), let l := (0x1000000000000 + pa) / 128
    pa < 0x1000000000000 → (s.coh.l2.filter fun x => x.line = l) = [x] →
    let dirty := decide (x.st = .m)
    exec (.h2dSnoop pa true) s = .next ((s.l2Drop x.die l).say (.snoopResp pa dirty (if dirty then s.store.line l else 0))) ∧
    exec (.h2dSnoop pa false) s = .next ((s.l2SetState x.die l .s).say (.snoopResp pa dirty (if dirty then s.store.line l else 0)))) ∧
  (∀ (hline line : Nat) (s : State), hline = s.hub.decoder / 128 + line → line ∈ s.hub.hostWait →
    let t : State := { s with hub := { s.hub with hostWait := s.hub.hostWait.filter (· ≠ line), snoop := s.hub.snoop.filter (· ≠ line) } }
    exec (.backInvalidateResponse hline) s = .next (State.flushLate s.hub.late t).enterWritten.resume.sweep.settle ∧
    (s.hub.late = [] → State.flushLate s.hub.late t = t) ∧
    ∀ (w : LateWrite) (rest : List LateWrite), s.hub.late = w :: rest → t.lateReady w = true →
      State.flushLate s.hub.late t = State.flushLate rest (t.writeKey w.key w.n (w.value s.store) w.depth)) ∧
  (∀ (die hline line : Nat) (owned : Bool) (data : LineData) (s : State) (o : Outstanding), line = 0x1000000000000 / 128 + hline →
    (s.eng.pend.filter fun o => o.kind = .hostCoh && o.die = die && o.line = line && !o.answered && (owned || o.mask = 0)) = [o] →
    let kept := if (s.coh.l2.any fun x => x.line = line) then s else s.modStore fun m => m.putLine line (BitVec.allOnes 128) data
    let used := if o.ch = 3 then kept else kept.l2Use die line o.ch (if owned then .e else .s) false false
    exec (.h2dResponse die hline owned data) s = .next (((used.modEng fun e => { e with pend := e.pend.filterMap fun p =>
      if o.txn = p.txn then (if p.ch = 3 then some { p with answered := true } else none) else some p }).goOnFor o).sweep.settle)) ∧
  ∀ (txn : Nat) (data : DWord) (s : State) (o : Outstanding),
    (s.eng.pend.find? fun o => o.txn = txn && o.kind = .hostUc && !o.answered) = some o →
    exec (.cxlIoCompletion txn data) s = .next (s.answerAccess o fun o => { o with data64 := data }).sweep.settle

/-- Stations and the scale-up fabric (R421 to R433). A station that loses its link clears UP, sets DOWNEV and puts a TIMEOUT in the system
queue; the owner retrains it, to four lanes. PODCFG takes a legal value and turns another away; the owner clears dead-peer bits. A request
from the fabric on a line of this device is performed at its home and answered, an atomic as one of the die that holds the station; one whose
frame has moved to a live peer goes on there, and what that peer answers is the answer to it; an error answer goes to a request on no line of
this device, and a write beyond every line carries a message of the control window (log entry 55).
An answer or an acknowledgement ends the request it answers, and an error answer to a posted write has its store park; a trimmed request or
response is sent again, and its time-out restarts, but the response of an atomic, which has been performed, only restarts it; a port that goes
down, or a time-out that runs out, fails the request, and a device that does not answer is then marked dead. -/
def Obligations.PodEvents : Prop :=
  (∀ (st : Nat) (s : State), (s.stations.getD st {}).up = false → exec (.stationLinkDown st) s = .next s.settle) ∧
  (∀ (st : Nat) (s : State) (c : Context), (s.stations.getD st {}).up = true → s.sysCtx? = some c →
    exec (.stationLinkDown st) s = .next (({ s with stations := s.stations.modify st fun t =>
      { t with up := false, downev := true, lanes := 0 } } : State).writeBatch c.id (.station st)
        [{ code := 0x41, sub := 0x80 + st }] true).settle) ∧
  (∀ (w : Writer) (st : Nat) (s : State), s.isOwner w = true → exec (.stationRetrain w st) s = .next { s with
    stations := s.stations.modify st fun t => { t with retraining := true } }) ∧
  (∀ (st : Nat) (s : State), st < s.stations.length → (s.stations.getD st {}).retraining = true →
    ∃ t, exec (.stationTrained st) s = .next t ∧ (t.stations.getD st {}).up = true ∧ (t.stations.getD st {}).lanes = 4 ∧
      (t.stations.getD st {}).retraining = false ∧ (t.stations.getD st {}).trims = (s.stations.getD st {}).trims ∧
      (∀ o, o ≠ st → t.stations.getD o {} = s.stations.getD o {}) ∧ { t with stations := s.stations } = s) ∧
  (∀ (w : Writer) (val : BitVec 64) (s : State), s.isOwner w = true →
    let tout := val.toNat % 2 ^ 17
    let dev := val.toNat / 2 ^ 32 % 256
    (dev < 192 → 10 ≤ tout → tout ≤ 100000 → (s.hub.podIdv = true → dev = s.hub.podDevid) →
      exec (.podcfgWrite w val) s = .next { s with hub := { s.hub with
        podIdv := val.getLsbD 40, podDevid := dev, podTout := tout, podErr := s.hub.podErr && !val.getLsbD 31 } }) ∧
    ((192 ≤ dev ∨ tout < 10 ∨ 100000 < tout ∨ (s.hub.podIdv = true ∧ dev ≠ s.hub.podDevid)) →
      exec (.podcfgWrite w val) s = .next { s with hub := { s.hub with podErr := true } })) ∧
  (∀ (w : Writer) (mask : BitVec 192) (s : State), s.isOwner w = true →
    exec (.deadPeerClearMmio w mask) s = .next { s with hub := { s.hub with deadPeers := s.hub.deadPeers &&& ~~~mask } }) ∧
  (∀ (st src off len home : Nat) (s : State), let l := s.relayPa (off % 2 ^ 43) / 128
    (s.stations.getD st {}).up = true → s.hub.podIdv = true → 1 ≤ len → off % 128 + len ≤ 128 → s.homeOf l = some home →
    off < controlWindow → s.lineBusy l = false → s.lineQueued l = false → s.hostBlocks home l .read = false →
    exec (.ualinkRequestArrival st (.read src off len)) s = .next ((s.homeRead l).say (.podAnswer st src
      (if (s.store.poisonAt (128 * l + off % 128) len).isSome then .poisoned else .data (s.store.line l)))).settle) ∧
  (∀ (st src off home : Nat) (d : LineData) (be : BitVec 128) (s : State), let l := s.relayPa (off % 2 ^ 43) / 128
    (s.stations.getD st {}).up = true → s.hub.podIdv = true → s.homeOf l = some home → off < controlWindow →
    s.lineBusy l = false → s.lineQueued l = false → s.hostBlocks home l .write = false →
    exec (.ualinkRequestArrival st (.write src off d be)) s =
      .next (((s.homeWrite home l none).writeLine l be d 1).say (.podWriteDone st src)).settle) ∧
  (∀ (st src off home old : Nat) (op : AtomicReq) (s u : State), let l := s.relayPa (off % 2 ^ 43) / 128
    (s.stations.getD st {}).up = true → s.hub.podIdv = true → soundAtomic op = true → op.op ≤ 9 → s.homeOf l = some home → off < controlWindow →
    s.lineBusy l = false → s.lineQueued l = false → s.hostBlocks home l .write = false →
    (s.homeWrite home l (if st / 5 = home then none else some (st / 5))).homeAtomic l op 1 = (u, some old) →
    exec (.ualinkRequestArrival st (.atomic src off op)) s = .next (u.say (.podAnswer st src (.data (BitVec.ofNat 1024 old)))).settle) ∧
  (∀ (st : Nat) (r : UalinkReq) (s : State), (s.stations.getD st {}).up = true → (podHead r).2.1 < controlWindow →
    (s.hub.podIdv = false ∨ (podHead r).2.2 = false ∨
      (s.homeOf (s.relayPa ((podHead r).2.1 % 2 ^ 43) / 128) = none ∧
        s.relayPa ((podHead r).2.1 % 2 ^ 43) / 128 = (podHead r).2.1 % 2 ^ 43 / 128)) →
    exec (.ualinkRequestArrival st r) s = .next (s.say (.podAnswer st (podHead r).1 .error))) ∧
  (∀ (st : Nat) (r : UalinkReq) (s : State), let old := (podHead r).2.1 % 2 ^ 43 / 128
    let l := s.relayPa ((podHead r).2.1 % 2 ^ 43) / 128
    (s.stations.getD st {}).up = true → s.hub.podIdv = true → (podHead r).2.2 = true → (podHead r).2.1 < controlWindow →
    s.homeOf l = none → l ≠ old → exec (.ualinkRequestArrival st r) s = .next (s.forwardPod st old l r)) ∧
  (∀ (st src off : Nat) (d : LineData) (be : BitVec 128) (s : State), (s.stations.getD st {}).up = true → s.hub.podIdv = true →
    controlWindow ≤ off → exec (.ualinkRequestArrival st (.write src off d be)) s =
      .next ((s.controlWrite src d).say (.podWriteDone st src)).sweep.settle) ∧
  (∀ (txn : Nat) (s : State) (o : Outstanding) (st src : Nat), s.podPend? txn = some o → o.reply = some (st, src) →
    let t := { s with eng := { s.eng with pend := s.eng.pend.filter fun x => x.txn ≠ o.txn } }
    (∀ r, exec (.podResponse txn r) s = .next (t.say (.podAnswer st src r)).settle) ∧
    (o.write = true → exec (.podWriteAck txn) s = .next (t.say (.podWriteDone st src)).settle)) ∧
  (∀ (txn : Nat) (s : State) (o : Outstanding), s.podPend? txn = some o → o.reply = none → o.write = false →
    (∀ d, exec (.podResponse txn (.data d)) s =
      .next (s.answerAccess o fun o => { o with data := d, data64 := d.setWidth 64 }).pruneDrains.sweep.settle) ∧
    exec (.podResponse txn .poisoned) s = .next (s.answerAccess o fun o => { o with fail := some (0x17, 0x04) }).pruneDrains.sweep.settle ∧
    exec (.podResponse txn .error) s = .next (s.answerAccess o fun o => { o with fail := some (0x18, 0x02) }).pruneDrains.sweep.settle) ∧
  (∀ (txn : Nat) (s : State) (o : Outstanding), s.podPend? txn = some o → o.reply = none → o.write = true →
    exec (.podWriteAck txn) s = .next (((s.dropWrite txn).pruneDrains.retryAgain.sweep).settle) ∧
    exec (.podResponse txn .error) s = .next (s.failWrite o).settle ∧
    (∀ d, exec (.podResponse txn (.data d)) s = .next s) ∧ exec (.podResponse txn .poisoned) s = .next s) ∧
  (∀ (txn : Nat) (s : State), (s.dropWrite txn).eng.pend = (s.eng.pend.filter fun o => o.txn ≠ txn) ∧
    (∀ r ∈ (s.dropWrite txn).eng.releases, r ∈ s.eng.releases ∧ ∃ t ∈ r.txns, ∃ o ∈ s.eng.pend, o.write = true ∧ o.txn = t ∧ t ≠ txn) ∧
    { s.dropWrite txn with eng := s.eng } = s) ∧
  (∀ (s : State) (o : Outstanding), s.copy? o.copy = none → s.failWrite o = State.sweep (s.modEng fun e => { e with
    pend := e.pend.map fun x => if x.txn = o.txn then { x with answered := true, fail := some (0x18, 0x02) } else x }).retryAgain) ∧
  (∀ (st src : Nat) (s : State), exec (.trimmedHeader st (.asTarget src)) s = .next (({ s with
    stations := s.stations.modify st fun t => { t with trims := min 0xFFFF (t.trims + 1) } } : State).say (.podResend st src))) ∧
  (∀ (st txn : Nat) (s : State) (o : Outstanding), s.podPend? txn = some o →
    let again := (({ s with stations := s.stations.modify st fun t => { t with trims := min 0xFFFF (t.trims + 1) } } : State).restart o).resend o
    (o.write = true ∨ o.op ≠ none → exec (.trimmedHeader st (.ownWrite txn)) s = .next again) ∧
    (o.write = false → o.op = none → exec (.trimmedHeader st (.readResponse txn)) s = .next again) ∧
    (o.write = false → o.op ≠ none → exec (.trimmedHeader st (.readResponse txn)) s = .next (({ s with
      stations := s.stations.modify st fun t => { t with trims := min 0xFFFF (t.trims + 1) } } : State).restart o))) ∧
  (∀ (txn : Nat) (s : State) (o : Outstanding), s.podPend? txn = some o →
    exec (.podPortDown txn) s = .next (s.failPod o 0x42).settle) ∧
  (∀ (txn : Nat) (s : State) (o : Outstanding), s.podPend? txn = some o → o.since + s.hub.podTout * 1000 ≤ (s.die o.die).tick →
    (o.target < 192 → exec (.podTimeout txn) s = .next ((s.failPod o 0x40).markDead o).settle) ∧
    (192 ≤ o.target → exec (.podTimeout txn) s = .next ((s.failPod o 0x40).stationDown (o.target - 192)).settle)) ∧
  (∀ (s : State) (o : Outstanding), (∀ t ∈ s.eng.tfences, podCluster o.target ∉ t.clusters) →
    (s.markDead o).hub = { s.hub with deadPeers := s.hub.deadPeers ||| (1 : BitVec 192) <<< o.target }) ∧
  ∀ (s : State) (o : Outstanding) (sub : Nat),
    s.failPod o sub = if o.reply ≠ none then s.answerPeer o (some .error)
      else if o.write = true
      then ((s.writeBatch o.ctx (.station o.station) [{ code := 0x41, sub := sub + 1, pc := o.pc, va := BitVec.ofNat 64 o.va }]).freeWrite o.txn)
      else (s.answerAccess o fun o => { o with fail := some (0x41, sub) }).pruneDrains.sweep

/-! ## Coesk -/

/-- Requests at their homes (R149, R150). A request that the home can serve now, over a route that is up, takes the transition of R150 for
the state of its line: what is granted, which dies are snooped first, and the directory's next state; with nobody to snoop the home performs
it and answers at once, and with snoops it waits for their answers. A request for a line on which another is under way, or which the host
holds, waits at the home, and one for a frame that has moved goes on to the new home. That a request sent into a link that is down is lost is
the model's reading (log entry 5). -/
def Obligations.CoeskRequests : Prop :=
  (∀ (m : CoeskReq) (s : State) (home : Nat), s.requestHome m = some home → s.pathDown m.src home = false → m.src ≠ hubDie →
    s.holds m.src m.line = false →
    let o := s.outOf m home
    (s.dir? m.line = none → s.wtOnly m.line = false → m.line ∉ s.hub.snoop →
      exec (.rds m) s = .next (s.serve { o with grant := .e } [] true [m.src])) ∧
    (s.dir? m.line = none → s.wtOnly m.line = true →
      exec (.rds m) s = .next (s.serve { o with grant := .wt } [] false [m.src])) ∧
    (∀ e, s.dir? m.line = some e → e.owned = false → exec (.rds m) s = .next (s.serve
      { o with grant := if s.wtOnly m.line then .wt else .s } [] false (m.src :: e.dies.filter (· ≠ m.src)))) ∧
    (∀ e, s.dir? m.line = some e → e.owned = true → exec (.rds m) s = .next (s.serve
      { o with grant := if s.wtOnly m.line then .wt else .s }
      ((e.dies.filter (· ≠ m.src)).map fun d => .fwds { die := d, req := m.src, txn := m.txn, line := m.line })
      false (m.src :: e.dies.filter (· ≠ m.src)))) ∧
    (m.line ∉ s.hub.snoop →
      (s.dir? m.line = none → s.wtOnly m.line = false →
        exec (.rdx m) s = .next (s.serve { o with grant := .e } [] true [m.src])) ∧
      (s.dir? m.line = none → s.wtOnly m.line = true →
        exec (.rdx m) s = .next (s.serve { o with grant := .wt } [] false [m.src])) ∧
      (∀ e, s.dir? m.line = some e → e.owned = true → s.wtOnly m.line = true →
        exec (.rdx m) s = .next (s.serve { o with grant := .wt }
          ((e.dies.filter (· ≠ m.src)).map fun d => .fwds { die := d, req := m.src, txn := m.txn, line := m.line })
          false (m.src :: e.dies.filter (· ≠ m.src)))) ∧
      (∀ e, s.dir? m.line = some e → e.owned = false → s.wtOnly m.line = true →
        exec (.rdx m) s = .next (s.serve { o with grant := .wt, data := false } [] false e.dies)) ∧
      (∀ e, s.dir? m.line = some e → e.owned = false → s.wtOnly m.line = false →
        exec (.rdx m) s = .next (s.serve { o with grant := .e, data := true }
          ((e.dies.filter (· ≠ m.src)).map fun d => .inv { die := d, req := m.src, txn := m.txn, line := m.line }) true [m.src])) ∧
      ∀ e, s.dir? m.line = some e → e.owned = true → s.wtOnly m.line = false →
        exec (.rdx m) s = .next (s.serve { o with grant := .e }
          ((e.dies.filter (· ≠ m.src)).map fun d => .fwdx { die := d, req := m.src, txn := m.txn, line := m.line }) true [m.src])) ∧
    (s.dir? m.line = none → exec (.rdnc m) s = .next (s.serve o [] false [])) ∧
    (∀ e, s.dir? m.line = some e → e.owned = false → exec (.rdnc m) s = .next (s.serve o [] false e.dies)) ∧
    ∀ e, s.dir? m.line = some e → e.owned = true → exec (.rdnc m) s = .next (s.serve o
      (e.dies.map fun d => .fwds { die := d, req := m.src, txn := m.txn, line := m.line }) false e.dies)) ∧
  (∀ (m : CoeskReq) (s : State) (home : Nat) (x : L2Line) (e : DirEntry), s.requestHome m = some home → s.pathDown m.src home = false →
    s.l2? m.src m.line = some x → x.st = .s → m.line ∉ s.hub.snoop → s.dir? m.line = some e → e.owned = false →
    let o := s.outOf m home
    (s.wtOnly m.line = true → exec (.upgr m) s = .next (s.serve { o with grant := .wt, data := false } [] false e.dies)) ∧
    (s.wtOnly m.line = false → m.src ∈ e.dies → exec (.upgr m) s = .next (s.serve { o with grant := .e, data := false }
      ((e.dies.filter (· ≠ m.src)).map fun d => .inv { die := d, req := m.src, txn := m.txn, line := m.line }) true [m.src]))) ∧
  (∀ (m : CoeskReq) (s : State) (home : Nat) (x : L2Line), s.l2? m.src m.line = some x → s.madeHome m = some home → s.pathDown m.src home = false →
    let done := fun (s : State) => (s.addOut { s.outOf m home with data := false }).completeOut { s.outOf m home with data := false }
    (x.st = .e → exec (.wrline m true) s = .next (done (s.l2Evict x))) ∧
    (x.st = .m → exec (.wrline m false) s = .next (done (s.l2Evict x)))) ∧
  (∀ (m : CoeskReq) (s : State) (home : Nat) (d : LineData) (mask : BitVec 128) (a : AtomicReq), s.requestHome m = some home →
    s.pathDown m.src home = false → (∀ x, s.l2? m.src m.line = some x → x.st = .s) → m.line ∉ s.hub.snoop → soundAtomic a = true →
    let o := s.outOf m home
    let both := fun (serve : CoeskOut → State) =>
      exec (.wrpart m d mask) s = .next (serve { o with kind := .write d mask, data := false }).settle ∧
      exec (.atomhome m a) s = .next (serve { o with kind := .atomic a, data := true }).settle
    (s.dir? m.line = none → both fun o => s.serve o [] false []) ∧
    (∀ e, s.dir? m.line = some e → e.owned = true → both fun o => s.serve { o with retake := true }
      (e.dies.map fun d => .fwdx { die := d, req := m.src, txn := m.txn, line := m.line }) false []) ∧
    ∀ e, s.dir? m.line = some e → e.owned = false →
      let keep := e.dies.contains m.src && s.holds m.src m.line
      both fun o => s.serve { o with keep := keep }
        ((e.dies.filter (· ≠ m.src)).map fun d => .inv { die := d, req := m.src, txn := m.txn, line := m.line })
        false (if keep then [m.src] else [])) ∧
  (∀ (s : State) (o : CoeskOut) (x : CoeskMsg) (l : List CoeskMsg) (owned : Bool) (dies : List Nat),
    let t := s.serve o (x :: l) owned dies
    t.dir? o.line = (if dies = [] then none else some { line := o.line, owned := owned, dies := dies }) ∧
    { o with pending := l.length + 1 } ∈ t.coh.outs ∧ t.store = s.store) ∧
  (∀ (m : CoeskReq) (s : State) (home : Nat), s.madeHome m = some home → s.pathDown m.src home = false → m.src ≠ hubDie →
    s.holds m.src m.line = false → s.stubFor (128 * m.line) m.ctx (m.vpn * 2 ^ 16) = none → s.behind (s.outOf m home) = true →
    exec (.rds m) s = .next (s.addOut { s.outOf m home with queued := some .rds })) ∧
  (∀ (m : CoeskReq) (s : State) (home : Nat), s.requestHome m = some home → s.pathDown m.src home = false → m.src ≠ hubDie →
    s.holds m.src m.line = false → m.line ∈ s.hub.snoop → m.line ∉ s.hub.hostWait →
    exec (.rdx m) s = .next ((({ s with hub := { s.hub with hostWait := m.line :: s.hub.hostWait } } : State).say
      (.backInvalidate (s.hub.decoder / 128 + m.line))).addOut { s.outOf m home with queued := some .rdx })) ∧
  (∀ (m : CoeskReq) (s : State) (home old : Nat) (t : Stub), s.madeHome m = some old → s.pathDown m.src old = false → m.src ≠ hubDie →
    s.holds m.src m.line = false → s.stubFor (128 * m.line) m.ctx (m.vpn * 2 ^ 16) = some t →
    let l := (t.newFrame + (128 * m.line - t.oldFrame)) / 128
    let o := { s.outOf m old with line := l, target := home }
    s.homeOf l = some home → s.behind (s.outOf m old) = false → s.behind { o with relayed := some t } = false → s.hostHolds o .rds = false →
    s.relayHeld t.die home = false → s.traceHeld home m.ctx 0x11 true = false →
    exec (.rds m) s = .next ((s.startRelay (s.outOf m old) t home).serveOp { o with relayed := some t } .rds)) ∧
  ∀ (m : CoeskReq) (s : State) (home : Nat), s.madeHome m = some home → s.pathDown m.src home = true → m.src ≠ hubDie →
    s.holds m.src m.line = false → exec (.rds m) s = .next (s.addOut { s.outOf m home with lost := true })

/-- Messages on their way (R145, R147, R151, R111, R112), timers and links (R143, R156, R159). The first message of its channel arrives: an
Inv ends a copy and is acknowledged; a FwdS leaves the owner S and supplies the line, a FwdX ends its copy; a forward that finds no copy is
acknowledged; a response ends its transaction, or is one that the home is owed, and a KEEP restarts the requester's timer; a relayed request
is performed at the new home, which sends a Redirect, and a Redirect moves the cluster's entry. A home that holds a request sends KEEP every
2,048 ticks; a request without its response after 5,000 ticks fails; home-execute mode ends; a reserved code is counted for its link, and the transaction that it belonged
to, the oldest of its number (log entry 5), is lost; and what is under way over a link that is declared down is lost. -/
def Obligations.CoeskMessagesAndTimers : Prop :=
  (∀ (m : CoeskSnoop) (s : State), s.arrives (.inv m) = true →
    exec (.inv m) s = .next (((s.takeMsg (.inv m)).l2Drop m.die m.line).answerHome m false).retryAgain.settle) ∧
  (∀ (m : CoeskSnoop) (s : State) (x : L2Line), s.arrives (.fwds m) = true → s.l2? m.die m.line = some x →
    (x.st = .s → exec (.fwds m) s = .next (((s.takeMsg (.fwds m)).l2Drop m.die m.line).answerHome m false)) ∧
    (x.st ≠ .s → ∃ t : State, exec (.fwds m) s = .next ((t.sendOwned m).answerHome m
        (x.st = .m || (t.snooped m).any fun o => o.grant = .none)) ∧ t.store = s.store ∧
      t.l2? m.die m.line = some { x with st := .s, dirty := false } ∧
      ∀ die l, (die ≠ m.die ∨ l ≠ m.line) → t.l2? die l = s.l2? die l)) ∧
  (∀ (m : CoeskSnoop) (s : State), s.arrives (.fwds m) = true → s.l2? m.die m.line = none →
    exec (.fwds m) s = .next ((s.takeMsg (.fwds m)).answerHome m false)) ∧
  (∀ (m : CoeskSnoop) (s : State) (x : L2Line), s.arrives (.fwdx m) = true → s.l2? m.die m.line = some x →
    let t := (s.takeMsg (.fwdx m)).l2Drop m.die m.line
    (x.st = .s → exec (.fwdx m) s = .next (t.answerHome m false)) ∧
    (x.st ≠ .s → exec (.fwdx m) s = .next ((t.sendOwned m).answerHome m ((t.snooped m).any fun o => o.kind ≠ .read)))) ∧
  (∀ (m : CoeskResp) (s : State), s.arrives (.ack m) = true →
    (m.keep = false → exec (.ack m) s = .next (((s.takeMsg (.ack m)).respond m false).resume.settle)) ∧
    (m.keep = true → exec (.ack m) s = .next ((s.takeMsg (.ack m)).modCoh fun c => { c with outs := c.outs.map fun o =>
      if o.die = m.die && o.txn = m.txn then { o with since := s.tickOf m.die } else o }))) ∧
  (∀ (m : CoeskResp) (s : State), s.arrives (.data m) = true →
    exec (.data m) s = .next (((s.takeMsg (.data m)).respond m true).resume.settle)) ∧
  (∀ (m : CoeskResp) (s : State) (o : CoeskOut) (data : Bool),
    (s.coh.outs.find? fun o => o.die = m.die && o.txn = m.txn && o.line = m.line) = some o →
    s.respond m data = s.granted o m.grant data ∧ ∀ x ∈ (s.endOut o).coh.outs, x.die ≠ o.die ∨ x.txn ≠ o.txn) ∧
  (∀ (m : CoeskReq) (s : State) (t : Stub) (home old : Nat), s.stubFor (128 * m.line) m.ctx (m.vpn * 2 ^ 16) = some t →
    s.homeOf m.line = some old → s.homeOf ((t.newFrame + (128 * m.line - t.oldFrame)) / 128) = some home →
    let o := { s.outOf m old with line := (t.newFrame + (128 * m.line - t.oldFrame)) / 128, target := home, relayed := some t }
    s.behind (s.outOf m old) = false → s.behind o = false → s.relayHeld t.die home = false →
    s.traceHeld home m.ctx 0x11 true = false → m.src < hubDie → s.canSend m old = true → s.pathDown m.src old = false →
    exec (.relay m .read) s = .next ((s.startRelay (s.outOf m old) t home).serveOp o .rdnc).settle) ∧
  (∀ (s : State) (o : CoeskOut) (t : Stub), o.relayed = some t → o.die < hubDie → o.direct = false →
    let r : RedirectMsg := ⟨Config.clustersPerDie * o.die + o.cluster, o.ctx, o.vpn, t.oldFrame, t.newFrame, t.gen⟩
    let u := s.sendMsg (.redirect r)
    s.answerOut o = (u.sendMsg (u.finalMsg o)).endRelay o) ∧
  (∀ (r : RedirectMsg) (s : State), s.arrives (.redirect r) = true → (∀ o ∈ s.coh.outs, o.queued = none) →
    ∃ t, exec (.redirect r) s = .next t ∧ t.caches.tlb = (s.applyRedirect r).caches.tlb ∧ t.store = s.store ∧ t.warps = s.warps ∧
      t.coh.outs = s.coh.outs) ∧
  (∀ (die txn : Nat) (s : State) (o : CoeskOut), (s.coh.outs.find? fun o => o.die = die && o.txn = txn) = some o → o.lost = false →
    o.queued ≠ none → o.kept + 2048 ≤ s.tickOf o.target →
    exec (.keepTimer die txn) s = .next ((s.modOut o fun x => { x with kept := s.tickOf o.target }).sendMsg
      (.ack { die := o.die, src := o.target, txn := o.txn, line := o.line, keep := true }))) ∧
  (∀ (die txn : Nat) (s : State) (o : Outstanding),
    (s.eng.pend.find? fun o => o.kind = .coesk && o.die = die && o.txn = txn && !o.answered && o.since + 5000 ≤ s.tickOf die) = some o →
    exec (.crossDieTimeout die txn) s =
      .next ((s.dropTarget die o.target).answerAccess o fun o => { o with fail := some (0x41, 8 * o.target) }).sweep.settle) ∧
  (∀ (die txn : Nat) (s : State) (o : CoeskOut),
    (s.eng.pend.find? fun o => o.kind = .coesk && o.die = die && o.txn = txn && !o.answered && o.since + 5000 ≤ s.tickOf die) = none →
    (s.coh.outs.find? fun o => o.die = die && o.txn = txn && o.since + 5000 ≤ s.tickOf die) = some o →
    exec (.crossDieTimeout die txn) s = .next (((s.endOut o).dropTarget die o.target).writeBatch o.ctx (.agent die (s.linkUnit die o.target))
      [{ code := 0x41, sub := 8 * o.target }]).resume.sweep.settle) ∧
  (∀ (line home : Nat) (s : State) (e : HomeExec), s.homeExec? line = some e → s.homeOf line = some home → e.until_ ≠ 0 →
    e.until_ ≤ (s.die home).clock →
    exec (.homeExecuteExpiry line) s = .next { s with coh := { s.coh with home := s.coh.home.filter fun x => x.line ≠ line } }) ∧
  (∀ (link op txn : Nat) (s : State), 0x12 ≤ op → op ≤ 0x1F → txn < 4096 →
    ∃ t, exec (.coeskReservedOp link op txn) s = .next t ∧
      (t.hub.protoErr.lookup link).getD 0 = (s.hub.protoErr.lookup link).getD 0 + 1 ∧
      (∀ l, l ≠ link → t.hub.protoErr.lookup l = s.hub.protoErr.lookup l) ∧
      ((∀ o ∈ s.coh.outs, o.txn ≠ txn) → { t with hub := { t.hub with protoErr := s.hub.protoErr } } = s) ∧
      (∀ o, (s.coh.outs.find? fun o => o.txn = txn) = some o → { o with lost := true, queued := none } ∈ t.coh.outs ∧
        (∀ m ∈ t.coh.msgs, m.ofTxn o = false) ∧ t.store = s.store ∧ t.warps = s.warps)) ∧
  ∀ (a b : Nat) (s : State), a ≠ b → a ≤ hubDie → b ≤ hubDie → s.linkDown a b = false →
    ∃ t, exec (.linkDeclaredDown a b) s = .next t ∧ t.hub.linksDown = (a, b) :: s.hub.linksDown ∧
      (∀ m ∈ t.coh.msgs, t.pathDown (t.channel m).2.1 (t.channel m).2.2 = false) ∧ (∀ m ∈ t.coh.msgs, m ∈ s.coh.msgs) ∧
      t.coh.outs = s.coh.outs ∧ t.store = s.store ∧ t.warps = s.warps

/-! ## Launches, placement, pre-emption, caches and trace -/

/-- Launches, command queues, event registers and triggers (R188 to R199, R206, R212, R214). A registered queue has its header's counters
and a watch on TAIL; a fired processor takes the entries up to TAIL, holds the first that passes the checks of R190, and stops when TAIL
runs ahead of the ring; a held launch whose WAIT events are set is admitted, with the next launch id, and looked at again at every change that
sets a bit; a launch of which nothing is left
retires, and sets its events; the event registers set and clear bits; a trigger's note queues its record at the target die, or waits for
room in the phase pool; and a new window of 1 ms restarts every watch's budget. -/
def Obligations.LaunchEvents : Prop :=
  (∀ (w : Writer) (ctx idx hdr home : Nat) (s : State) (c : Context) (x : Xlat) (leaf : Leaf), s.mayWrite w = true → s.ctx? ctx = some c →
    c.killed = false → s.translateBare ctx hdr .read = .ok (x, leaf) → s.region (s.relayPa x.pa) = .hbm home → idx < 8 → hdr % 128 = 0 →
    s.watchesOn home < Config.watchEntries →
    ∃ t : State, exec (.queueRegister w ctx idx hdr) s = .next t.settle ∧
      ∃ q, t.queue? ctx idx = some q ∧ q.hdr = hdr ∧ q.held = none ∧ q.stopped = false ∧
        q.head = (s.deviceRead ctx (hdr + 0x10) 4).getD 0 ∧ q.retired = (s.deviceRead ctx (hdr + 0x14) 4).getD 0 ∧
        q.rejected = (s.deviceRead ctx (hdr + 0x18) 4).getD 0 ∧
        ∃ y ∈ t.sched.watches, y.ctx = ctx ∧ y.queue = some idx ∧ y.lines = [(hdr / 128, s.relayPa x.pa / 128)] ∧ y.home = home) ∧
  (∀ (ctx queue h : Nat) (s : State) (q : CmdQueue), s.nextQueue = some (ctx, queue) → s.queue? ctx queue = some q →
    let t := (({ s with hub := { s.hub with rrCtx := ctx } } : State).modQueue ctx queue fun q => { q with fired := false }).bump
    t.deviceRead ctx q.hdr 128 = some h →
    let size := natBits h 64 32
    let n := ctrSub (natBits h 512 32) q.head
    (n = 0 → exec (.commandProcessorFire ctx queue) s = .next t) ∧
    (n ≠ 0 → n ≤ size → exec (.commandProcessorFire ctx queue) s = .next (t.takeEntries ctx queue (natBits h 0 64) size n).sweep.settle) ∧
    (n ≠ 0 → size < n → exec (.commandProcessorFire ctx queue) s =
      .next (((t.modQueue ctx queue fun q => { q with stopped := true }).putHeader ctx q 0x0C (1 + 0x0A * 256)).launchInvalid ctx queue
        0x0A q.hdr).settle)) ∧
  (∀ (ctx queue : Nat) (s t : State) (c : Context) (q : CmdQueue) (h : HeldLaunch), s.ctx? ctx = some c → s.queue? ctx queue = some q →
    q.held = some h → c.hold = false → c.killed = false → launchWait h.data.toNat &&& ~~~c.events = 0 →
    s.traceHeld hubDie ctx 0x01 (launchLossless h.data.toNat) = false → s.launchHead ctx q h = some t →
    exec (.launchAdmit ctx queue) s = .next t.sweep.settle ∧
    (launchCoop h.data.toNat = false → t.hub.nextLaunch = nextLaunchId s.hub.nextLaunch ∧ t.sched.nextAge = s.sched.nextAge + 1 ∧
      ∃ l ∈ t.sched.launches, l.id = s.hub.nextLaunch ∧ l.ctx = ctx ∧ l.queue = q.idx ∧ l.set = launchSet h.data.toNat)) ∧
  (∀ (id : Nat) (s : State) (l : Launch), (s.sched.launches.find? fun l => l.id = id) = some l → s.launchAlive l = false →
    ∃ t : State, exec (.launchRetire id) s = .next (t.admitHeads l.ctx).sweep.settle ∧ (∀ x ∈ t.sched.launches, x.id ≠ id) ∧
      (∀ c, s.ctx? l.ctx = some c → ∃ d, t.ctx? l.ctx = some d ∧ d.events = c.events ||| l.set) ∧
      ∀ q, s.queue? l.ctx l.queue = some q → ∃ p, t.queue? l.ctx l.queue = some p ∧ p.retired = (q.retired + 1) % 2 ^ 32) ∧
  (∀ (w : Writer) (ctx : Nat) (mask : BitVec 256) (s : State), s.mayWrite w = true →
    exec (.eventSetRegister w ctx mask) s = .next (((s.modCtx ctx fun c =>
      if c.killed then c else { c with events := c.events ||| mask }).admitHeads ctx).sweep.settle) ∧
    exec (.eventClearRegister w ctx mask) s = .next (((s.modCtx ctx fun c =>
      if c.killed then c else { c with events := c.events &&& ~~~mask }).admitHeads ctx).sweep.settle)) ∧
  (∀ (ctx queue : Nat) (s : State) (c : Context) (q : CmdQueue) (h : HeldLaunch), s.ctx? ctx = some c → s.queue? ctx queue = some q →
    q.held = some h → (c.hold = true ∨ c.killed = true ∨ launchWait h.data.toNat &&& ~~~c.events ≠ 0) → s.tryAdmit ctx queue = s) ∧
  (∀ (die : Nat) (s : State) (r : PhaseRec), (s.sched.triggers.find? fun r => r.die = die && r.passedAt.isNone) = some r →
    s.noteHeld r = false →
    (s.poolRoom r.ctx die headerRecord = true → exec (.trignote die) s = .next (s.queueTrigger r)) ∧
    (s.poolRoom r.ctx die headerRecord = false → exec (.trignote die) s = .next { s with sched := { s.sched with
      triggers := s.sched.triggers.map fun x => if x.order = r.order then { x with passedAt := some (s.die die).clock } else x } })) ∧
  (∀ (die : Nat) (s : State) (r : PhaseRec),
    (s.sched.triggers.find? fun r => r.die = die && r.passedAt.isSome && s.poolRoom r.ctx die headerRecord) = some r →
    exec (.triggerPoolRelease die) s = .next (s.queueTrigger r)) ∧
  (∀ (s : State) (r : PhaseRec), (s.queueTrigger r).sched.queued =
      s.sched.queued ++ [{ r with
        pool := headerRecord, poolAt := s.poolTake r.ctx r.die headerRecord, passedAt := none, order := s.sched.nextOrder }] ∧
    ∀ x ∈ (s.queueTrigger r).sched.triggers, x.order ≠ r.order) ∧
  (∀ s : State, s.hub.ns / 1000000 ≠ s.sched.windowStart → exec .triggerWindowRollover s = .next { s with sched := { s.sched with
    windowStart := s.hub.ns / 1000000, watches := s.sched.watches.map fun w => { w with window := 0 } } }) ∧
  ∀ s : State, s.hub.ns / 1000000 = s.sched.windowStart → exec .triggerWindowRollover s = .next s

/-- Placement and pre-emption (R58, R200 to R202, R205, R216, R414 to R420). A round tries what waits in the placement order and is followed by
what it completes; a gang passed over for 65,536 cycles has a cluster reserved, unless an earlier reservation still waits; a GO stops the
gangs of its context at an instruction boundary or at their next PHASE and sets BUSY while there are any; a kill ends the context; HOLD and
KIND are written, and clearing HOLD admits the heads that may be; a gang that stops and is at rest writes its frames and leaves its cores
saved, or loses its context when a frame cannot be written or a word of a warp or of its frame is beyond correction; a write of the register
that kills stores HOLD and KIND as well; and a phase record is laid in its ranges
of the pool. -/
def Obligations.PlacementAndPreemption : Prop :=
  (∀ (die : Nat) (s : State), exec (.placementRound die) s =
    .next ((((s.placementOrder die).foldl (fun r x => State.tryItem r.1 die r.2 x) (s, [])).1).sweep.settle)) ∧
  (∀ (die : Nat) (s : State), s.placementOrder die = [] → exec (.placementRound die) s = .next s.sweep.settle) ∧
  (∀ (die at_ : Nat) (s : State) (x : Item), s.firstWaiting die = some x → (∀ r, (s.die die).reserved = some r → ∀ y ∈ s.placementOrder die, y.order ≠ r.2) →
    x.passedAt = some at_ → at_ + 65536 ≤ (s.die die).clock → die < s.dies.length →
    ∃ t cl, exec (.placementReserveTimeout die) s = .next t ∧ (t.die die).reserved = some (cl, x.order) ∧ cl < Config.clustersPerDie ∧
      (∀ k, k < Config.clustersPerDie → keyLess (s.roomKey x.ask k) (s.roomKey x.ask cl) = false) ∧ { t with dies := s.dies } = s) ∧
  (∀ (w : Writer) (ctx : Nat) (kind hold : Bool) (s : State) (c : Context), s.mayWrite w = true → s.ctx? ctx = some c →
    (∀ g ∈ s.sched.gangs, g.ctx = c.id → g.status ≠ .resident) →
    exec (.preemptGo w ctx kind hold) s = .next ((s.writeHold ctx hold kind).clearBusy ctx).sweep.settle) ∧
  (∀ (w : Writer) (ctx : Nat) (kind hold : Bool) (s : State) (c : Context), s.mayWrite w = true → s.ctx? ctx = some c →
    s.goGangs c kind ≠ [] →
    exec (.preemptGo w ctx kind hold) s = .next (((s.goGangs c kind).foldl (fun s id => s.stopGang id kind)
      ((s.writeHold ctx hold kind).modCtx ctx fun c => { c with busy := true })).clearBusy ctx).sweep.settle) ∧
  (∀ (id : Nat) (s : State) (g : Gang), s.gang? id = some g →
    (∀ w ∈ (s.stopGang id true).warps, w.gang = id → s.phaseArrived g = false → w.stopping = true) ∧
    ∃ h, (s.stopGang id false).gang? id = some h ∧ h.phaseStop = true ∧ h.status = g.status ∧ (s.stopGang id false).warps = s.warps) ∧
  (∀ (w : Writer) (ctx : Nat) (s : State), s.mayWrite w = true →
    exec (.preemptKill w ctx) s = .next (s.kill ctx false).sweep.settle ∧ (∀ x ∈ (s.kill ctx false).warps, x.ctx ≠ ctx) ∧
    (∀ g ∈ (s.kill ctx false).sched.gangs, g.ctx ≠ ctx) ∧ (∀ r ∈ (s.kill ctx false).sched.queued, r.ctx ≠ ctx) ∧
    (∀ c ∈ (s.kill ctx false).contexts, c.id = ctx → c.killed = true ∧ c.events = 0) ∧
    (s.unperformed ctx = [] → (s.kill ctx false).store = { s.store with lp := s.store.lp.filter fun x => x.ctx ≠ ctx })) ∧
  (∀ (w : Writer) (ctx : Nat) (hold kind : Bool) (s : State), s.mayWrite w = true → exec (.preemptHoldWrite w ctx hold kind) s =
    .next (s.writeHold ctx hold kind).settle) ∧
  (∀ (ctx : Nat) (kind : Bool) (s : State), let t := fun hold => s.modCtx ctx fun c => { c with hold := hold, kind := kind }
    s.writeHold ctx true kind = t true ∧ s.writeHold ctx false kind = (t false).admitHeads ctx) ∧
  (∀ (id : Nat) (s t : State) (g : Gang), s.gang? id = some g → g.status = .stopping → s.gangAtRest g = true →
    (s.drainProducts id).gangAtRest g = true → (s.drainProducts id).writeFrames id = .ok t →
    exec (.preemptSaveComplete id) s = .next (((t.releaseGang id).clearBusy g.ctx).emitPreempt g 0x0E 1 g.core0).sweep.settle ∧
    (∀ w ∈ (t.releaseGang id).warps, w.gang ≠ id) ∧
    ∀ x, t.gang? id = some x → ∃ y, (t.releaseGang id).gang? id = some y ∧ y.status = .saved ∧ y.blocks = x.blocks) ∧
  (∀ (id : Nat) (s : State) (g : Gang) (x : Nat × Nat × Nat), s.gang? id = some g → g.status = .stopping → s.gangAtRest g = true →
    (s.drainProducts id).gangAtRest g = true → (s.drainProducts id).writeFrames id = .error x →
    exec (.preemptSaveComplete id) s = .next ((s.drainProducts id).lose g.ctx x.1 x.2.1 x.2.2).sweep.settle) ∧
  (∀ (s : State) (w : Warp) (reason : Nat) (pc : DWord), (∃ c, s.ctx? w.ctx = some c) →
    (s.checkWords w.core w.slot (fun _ => true) = none → s.writeFrame w reason pc = .error 0x02) ∧
    (.frame w.core w.slot ∈ s.upsets → s.writeFrame w reason pc = .error 0x01 ∨ s.writeFrame w reason pc = .error 0x02 ∨
      s.writeFrame w reason pc = .error 0x03)) ∧
  (∀ (w : Writer) (ctx v : Nat) (s : State), s.mayWrite w = true → v.testBit 4 = true →
    s.writePreempt w ctx v = (s.kill ctx false).sweep.settle.writeHold ctx (v.testBit 3) (v.testBit 1)) ∧
  ∀ (s : State) (r : PhaseRec) (c : Context), s.ctx? r.ctx = some c → s.layRecord r =
    (r.image.flatMap fun p => inRanges r.poolAt p.1 p.2.1 p.2.2).foldl (fun s x =>
      s.writeKey (apertureBase r.die + (c.dsOff.getD r.die 0 + c.poolOff.getD r.die 0) * 0x10000 + x.1) x.2.1 x.2.2 1) s

/-- What comes about beside the instructions (R51, R52, R58, R90, R96, R102, R103, R111, R219). A fetch line is filled as memory holds it, but
for the bits in which it arrives wrong, and one that does not arrive good counts as a soft error; the scrub of a core corrects and counts the
single errors in its warps' words, and a double one loses the context; one of the first 64 walks of a miss queue ends in a fill for each
prefetch that waits for it, or in nothing when it faults; a fill that nothing has overtaken enters the L1 with its poison, from where its line
has moved to; and RETRY and FAIL act on the parked instructions of their batch. -/
def Obligations.CacheAndResponseEvents : Prop :=
  (∀ (core ctx va pa : Nat) (f1 f2 : BitVec 512) (s t u : State) (x : Xlat),
    s.draining (clusterOfCore core) ctx (64 * va) = false → s.lineHeld core ctx (64 * va) .exec = (none, false) →
    s.translate (clusterOfCore core) ctx (64 * va) .exec = (t, .ok x) → t.relay (clusterOfCore core) ctx (64 * va) x.pa = (u, pa) →
    let d := BitVec.ofNat 512 (u.store.read pa 64)
    exec (.icacheFill core ctx va f1 f2) s =
      .next ((u.touch (dieOfCore core) (pa / 128) 0 .read).icacheFill core ctx va (d ^^^ f1) (d ^^^ f2)).1) ∧
  (∀ (s : State) (core ctx va : Nat) (d1 d2 : BitVec 512), (s.icacheFill core ctx va d1 d2).1 =
    (if lineGood d1 then s else s.modDie (dieOfCore core) fun d => { d with soft := d.soft + 1 }).icacheInstall
      { fillLine core ctx va d1 d2 with age := s.sched.nextAge }) ∧
  (let scrubbed := fun (s : State) (core : Nat) => State.settle (State.sweep
      ((s.warps.filter fun w => w.core = core).foldl (fun s w => s.scrubWarp core w.slot) s))
   (∀ (core : Nat) (s : State), exec (.registerScrub core none) s = .next (scrubbed s core)) ∧
   (∀ (core : Nat) (s : State), exec (.registerScrub core (some .corrected)) s =
     .next (scrubbed (s.modDie (dieOfCore core) fun d => { d with soft := d.soft + 1 }) core)) ∧
   ∀ (core slot : Nat) (s : State) (w : Warp), s.warp? core slot = some w →
     exec (.registerScrub core (some (.uncorrectable slot))) s = .next (scrubbed (s.lose w.ctx core slot 0x02) core)) ∧
  (∀ (core slot : Nat) (s : State) (w : Warp), s.warp? core slot = some w →
    (s.checkWords core slot (fun _ => true) = none → s.scrubWarp core slot = s.lose w.ctx core slot 0x02) ∧
    ∀ t, s.checkWords core slot (fun _ => true) = some t → s.scrubWarp core slot = t) ∧
  (∀ (core slot : Nat) (s : State) (p : WarpWord → Bool),
    ((∃ u ∈ s.upsets, u.inWarp core slot p = true ∧ u.double = true) → s.checkWords core slot p = none) ∧
    ((∀ u ∈ s.upsets, u.inWarp core slot p = true → u.double = false) → ∃ t, s.checkWords core slot p = some t ∧
      t.upsets = (s.upsets.filter fun u => !u.inWarp core slot p) ∧ { t with upsets := s.upsets, dies := s.dies } = s)) ∧
  (let free := fun (s : State) (cluster : Nat) => s.caches.misses.filter fun m => m.cluster = cluster && !s.draining cluster m.ctx (2 ^ 16 * m.page)
   (∀ (cluster : Nat) (s : State), free s cluster = [] → exec (.pageWalk cluster) s = .next s) ∧
   ∀ (cluster : Nat) (s : State), free s cluster ≠ [] →
    ∃ m ∈ (free s cluster).take 64,
      (∀ l, s.leafHeld cluster m.ctx (2 ^ 16 * m.page) .read = some l → exec (.pageWalk cluster) s = .next (s.askBack l)) ∧
      (s.leafHeld cluster m.ctx (2 ^ 16 * m.page) .read = none →
      let u : State := { s with caches := { s.caches with misses := s.caches.misses.erase m }, free := s.free + 1 }
      exec (.pageWalk cluster) s = .next ((m.waits.foldl (fun s w => s.walked cluster m.ctx w) u).retryAgain).settle)) ∧
  (∀ (cluster ctx : Nat) (w : MissWait) (s t : State),
    (∀ f, s.translate cluster ctx (128 * w.line) .read = (t, .error f) → s.walked cluster ctx w = t) ∧
    ∀ x, s.translate cluster ctx (128 * w.line) .read = (t, .ok x) →
      (x.attr = attrWB ∨ x.attr = attrNC →
        let f : Fill := { core := w.core, ctx := ctx, va := w.line, pa := x.pa / 128, prio := w.prio, toL1 := x.attr = attrWB && w.prio ≠ 3,
                          toL2 := true }
        f ∈ (s.walked cluster ctx w).caches.fills) ∧
      (x.attr = attrHostUC ∨ x.attr = attrDevice ∨ x.attr = attrPod → s.walked cluster ctx w = t)) ∧
  (∀ (idx pa : Nat) (s u : State) (f : Fill), s.caches.fills[idx]? = some f →
    s.relayWaits f.ctx (128 * f.va) (128 * f.pa) = false →
    (let at_ := ((s.stubFor (128 * f.pa) f.ctx (128 * f.va)).elim (128 * f.pa) fun t => t.newFrame + (128 * f.pa - t.oldFrame)) / 128
     s.lineBusy at_ = false ∧ s.lineQueued at_ = false ∧ s.hostBlocks (dieOfCore f.core) at_ .read = false) →
    ({ s with caches := { s.caches with fills := s.caches.fills.eraseIdx idx } } : State).relay (clusterOfCore f.core) f.ctx (128 * f.va)
      (128 * f.pa) = (u, pa) →
    let hint := if f.prio = 3 ∧ u.l2? (dieOfCore f.core) (pa / 128) = none then 0 else f.prio
    let v := if f.toL2 then u.touch (dieOfCore f.core) (pa / 128) hint .read else u
    (f.toL1 = true → f.cancelled = false → exec (.fillReturn idx) s = .next (v.l1Fill
      { core := f.core, ctx := f.ctx, va := f.va, pa := pa / 128, data := v.store.line (pa / 128), tag := v.store.tag (pa / 128),
        poison := v.store.linePoison (pa / 128) } f.prio)) ∧
    ((f.toL1 = false ∨ f.cancelled = true) → exec (.fillReturn idx) s = .next v)) ∧
  ∀ (w : Writer) (ctx batch : Nat) (s : State), s.mayWrite w = true →
    exec (.faultResponseRetry w ctx batch) s = .next (s.retryBatch ctx batch).sweep.settle ∧
    exec (.faultResponseFail w ctx batch) s = .next (s.failBatch ctx batch).sweep.settle

/-- The trace fabric beside its instructions (R145, R435, R440 to R448): a staged record is sent on, and the drain delivers to one buffer the
first record that need not wait there and has none of its unit before it; a lossless buffer that has held an agent for LLWAIT falls back; TRCHDR takes an aligned header while
tracing is off, and TRCCFG takes its fields, reading the header when EN rises; a write that breaks a limit sets CFGERR. -/
def Obligations.TraceEvents : Prop :=
  (∀ (die i : Nat) (s : State), die ≠ hubDie → (s.staged.findIdx? fun r => r.die = die && !r.sent) = some i →
    ((s.staged.take i).filter fun r => r.die = die).length < 64 →
    exec (.coeskTrace die) s = .next { s with staged := s.staged.modify i fun r => { r with sent := true } }) ∧
  (∀ (die i id : Nat) (s : State) (r : TraceRec), s.nextRec die = some (i, id) → s.staged[i]? = some r →
    r.die = die ∧ id ∈ r.takers ∧ (die = hubDie ∨ r.sent = true) ∧ s.recWaits r id = false ∧
    (∀ (j : Nat) (x : TraceRec), j < i → s.staged[j]? = some x → x.die = die → x.source / 16 = r.source / 16 → id ∉ x.takers) ∧
    exec (.traceDrainWrite die) s = .next (((s.takenBy i id).deliver r id).retryAgain.sweep.settle)) ∧
  (∀ (die : Nat) (s : State), s.nextRec die = none → exec (.traceDrainWrite die) s = .next s.sweep.settle) ∧
  (∀ (ctx : Nat) (s : State) (c : Context), s.ctx? ctx = some c → c.llwait ≠ 0 → (∃ h ∈ c.holds, h.since + c.llwait * 1000000 ≤ s.hub.ns) →
    exec (.losslessFallback ctx) s = .next ((s.modCtx ctx fun c =>
      { c with fallback := true, fellBack := true, holds := [] }).retryAgain.sweep.settle)) ∧
  (∀ (w : Writer) (ctx : Nat) (val : BitVec 64) (s : State), s.mayWrite w = true →
    exec (.trchdrWrite w ctx val) s = .next (s.modCtx ctx fun c =>
      if c.en = true ∨ val.toNat % 128 ≠ 0 then { c with cfgerr := true } else { c with trchdr := val.toNat })) ∧
  (∀ (w : Writer) (ctx : Nat) (val : BitVec 32) (s : State) (c : Context), s.mayWrite w = true → s.ctx? ctx = some c →
    val.getLsbD 3 = true → c.system = false → exec (.trccfgWrite w ctx val) s = .next (s.modCtx ctx fun c => { c with cfgerr := true })) ∧
  (∀ (w : Writer) (ctx : Nat) (val : BitVec 32) (s : State) (c : Context), s.mayWrite w = true → s.ctx? ctx = some c →
    (val.getLsbD 3 = true → c.system = true) → val.getLsbD 0 = true → c.en = false → s.traceHeader c = none →
    exec (.trccfgWrite w ctx val) s = .next ((s.markPages ctx c.trchdr 128 false).modCtx ctx fun c => { c with cfgerr := true })) ∧
  (∀ (w : Writer) (ctx : Nat) (val : BitVec 32) (s : State) (c : Context) (base size tail : Nat), s.mayWrite w = true →
    s.ctx? ctx = some c → (val.getLsbD 3 = true → c.system = true) →
    (if val.getLsbD 0 && !c.en then s.traceHeader c else some (c.trcBase, c.trcSize, c.trcTail)) = some (base, size, tail) →
    let m := if val.getLsbD 0 && !c.en then s.markPages ctx c.trchdr 128 false else s
    exec (.trccfgWrite w ctx val) s = .next ((m.modCtx ctx fun c =>
      { c with en := val.getLsbD 0, ll := val.getLsbD 2, allctx := val.getLsbD 3, llwait := val.toNat / 2 ^ 24, trcBase := base
               trcSize := size, trcTail := tail, fallback := c.fallback && !val.getLsbD 7, cfgerr := c.cfgerr && !val.getLsbD 8
               holds := if val.getLsbD 0 then c.holds else [] }).retryAgain.sweep.settle)) ∧
  ∀ (s : State) (c : Context) (r : TraceRec) (t : State), s.ctx? c.id = some c → c.overflow = 0 → c.fellBack = false →
    s.writeTrace c r = some t → ∃ d, t.ctx? c.id = some d ∧ d.trcTail = (c.trcTail + r.size) % 2 ^ 32
end

