-- ==== Sys2Proof/Laws/Dispatch.lean ====
section
/-! SUPPORT. What exec does with each constructor: it calls that constructor's meaning. -/

namespace Sys2Proof.Machine

open Sys2Proof

@[simp] theorem exec_nop (f : FormA) (s : State) : exec (.nop f) s = execNop f s := rfl
@[simp] theorem exec_exit (f : FormA) (s : State) : exec (.exit f) s = execExit f s := rfl
@[simp] theorem exec_bra (f : FormB) (s : State) : exec (.bra f) s = execBra f s := rfl
@[simp] theorem exec_brx (f : FormB) (s : State) : exec (.brx f) s = execBrx f s := rfl
@[simp] theorem exec_call (f : FormB) (s : State) : exec (.call f) s = execCall f s := rfl
@[simp] theorem exec_ret (f : FormA) (s : State) : exec (.ret f) s = execRet f s := rfl
@[simp] theorem exec_felt (f : FormI) (s : State) : exec (.felt f) s = execFelt f s := rfl
@[simp] theorem exec_yield (f : FormA) (s : State) : exec (.yield f) s = execYield f s := rfl
@[simp] theorem exec_phase (f : FormX) (s : State) : exec (.phase f) s = execPhase f s := rfl
@[simp] theorem exec_sleep (f : FormI) (s : State) : exec (.sleep f) s = execSleep f s := rfl
@[simp] theorem exec_sleepExpiry (h : HoodRef) (s : State) : exec (.sleepExpiry h) s = execSleepExpiry h s := rfl
@[simp] theorem exec_bar (f : FormI) (s : State) : exec (.bar f) s = execBar f s := rfl
@[simp] theorem exec_barh (f : FormI) (s : State) : exec (.barh f) s = execBarh f s := rfl
@[simp] theorem exec_trap (f : FormI) (s : State) : exec (.trap f) s = execTrap f s := rfl
@[simp] theorem exec_bkpt (f : FormI) (s : State) : exec (.bkpt f) s = execBkpt f s := rfl
@[simp] theorem exec_tret (f : FormA) (s : State) : exec (.tret f) s = execTret f s := rfl
@[simp] theorem exec_srget (f : FormI) (s : State) : exec (.srget f) s = execSrget f s := rfl
@[simp] theorem exec_srset (f : FormI) (s : State) : exec (.srset f) s = execSrset f s := rfl
@[simp] theorem exec_migr (f : FormA) (s : State) : exec (.migr f) s = execMigr f s := rfl
@[simp] theorem exec_migrSwap (f : FormA) (s : State) : exec (.migrSwap f) s = execMigrSwap f s := rfl
@[simp] theorem exec_trace (f : FormA) (s : State) : exec (.trace f) s = execTrace f s := rfl
@[simp] theorem exec_traceImm (f : FormI) (s : State) : exec (.traceImm f) s = execTraceImm f s := rfl
@[simp] theorem exec_trctlSet (f : FormA) (s : State) : exec (.trctlSet f) s = execTrctlSet f s := rfl
@[simp] theorem exec_trctlFlush (f : FormA) (s : State) : exec (.trctlFlush f) s = execTrctlFlush f s := rfl
@[simp] theorem exec_evset (f : FormA) (s : State) : exec (.evset f) s = execEvset f s := rfl
@[simp] theorem exec_evsetImm (f : FormI) (s : State) : exec (.evsetImm f) s = execEvsetImm f s := rfl
@[simp] theorem exec_evwait (f : FormA) (s : State) : exec (.evwait f) s = execEvwait f s := rfl
@[simp] theorem exec_evwaitImm (f : FormI) (s : State) : exec (.evwaitImm f) s = execEvwaitImm f s := rfl
@[simp] theorem exec_evwaitReturn (h : HoodRef) (s : State) : exec (.evwaitReturn h) s = execEvwaitReturn h s := rfl
@[simp] theorem exec_smov (f : FormA) (s : State) : exec (.smov f) s = execSmov f s := rfl
@[simp] theorem exec_smovi (f : FormI) (s : State) : exec (.smovi f) s = execSmovi f s := rfl
@[simp] theorem exec_smovih (f : FormI) (s : State) : exec (.smovih f) s = execSmovih f s := rfl
@[simp] theorem exec_sadd (f : FormA) (s : State) : exec (.sadd f) s = execSadd f s := rfl
@[simp] theorem exec_saddImm (f : FormI) (s : State) : exec (.saddImm f) s = execSaddImm f s := rfl
@[simp] theorem exec_ssub (f : FormA) (s : State) : exec (.ssub f) s = execSsub f s := rfl
@[simp] theorem exec_ssubImm (f : FormI) (s : State) : exec (.ssubImm f) s = execSsubImm f s := rfl
@[simp] theorem exec_smul (f : FormA) (s : State) : exec (.smul f) s = execSmul f s := rfl
@[simp] theorem exec_smulImm (f : FormI) (s : State) : exec (.smulImm f) s = execSmulImm f s := rfl
@[simp] theorem exec_smulh (f : FormA) (s : State) : exec (.smulh f) s = execSmulh f s := rfl
@[simp] theorem exec_smulhImm (f : FormI) (s : State) : exec (.smulhImm f) s = execSmulhImm f s := rfl
@[simp] theorem exec_smad (f : FormA) (s : State) : exec (.smad f) s = execSmad f s := rfl
@[simp] theorem exec_sdiv (f : FormA) (s : State) : exec (.sdiv f) s = execSdiv f s := rfl
@[simp] theorem exec_sdivImm (f : FormI) (s : State) : exec (.sdivImm f) s = execSdivImm f s := rfl
@[simp] theorem exec_srem (f : FormA) (s : State) : exec (.srem f) s = execSrem f s := rfl
@[simp] theorem exec_sremImm (f : FormI) (s : State) : exec (.sremImm f) s = execSremImm f s := rfl
@[simp] theorem exec_sand (f : FormA) (s : State) : exec (.sand f) s = execSand f s := rfl
@[simp] theorem exec_sandImm (f : FormI) (s : State) : exec (.sandImm f) s = execSandImm f s := rfl
@[simp] theorem exec_sor (f : FormA) (s : State) : exec (.sor f) s = execSor f s := rfl
@[simp] theorem exec_sorImm (f : FormI) (s : State) : exec (.sorImm f) s = execSorImm f s := rfl
@[simp] theorem exec_sxor (f : FormA) (s : State) : exec (.sxor f) s = execSxor f s := rfl
@[simp] theorem exec_sxorImm (f : FormI) (s : State) : exec (.sxorImm f) s = execSxorImm f s := rfl
@[simp] theorem exec_sshl (f : FormA) (s : State) : exec (.sshl f) s = execSshl f s := rfl
@[simp] theorem exec_sshlImm (f : FormI) (s : State) : exec (.sshlImm f) s = execSshlImm f s := rfl
@[simp] theorem exec_sshr (f : FormA) (s : State) : exec (.sshr f) s = execSshr f s := rfl
@[simp] theorem exec_sshrImm (f : FormI) (s : State) : exec (.sshrImm f) s = execSshrImm f s := rfl
@[simp] theorem exec_ssra (f : FormA) (s : State) : exec (.ssra f) s = execSsra f s := rfl
@[simp] theorem exec_ssraImm (f : FormI) (s : State) : exec (.ssraImm f) s = execSsraImm f s := rfl
@[simp] theorem exec_smin (f : FormA) (s : State) : exec (.smin f) s = execSmin f s := rfl
@[simp] theorem exec_sminImm (f : FormI) (s : State) : exec (.sminImm f) s = execSminImm f s := rfl
@[simp] theorem exec_smax (f : FormA) (s : State) : exec (.smax f) s = execSmax f s := rfl
@[simp] theorem exec_smaxImm (f : FormI) (s : State) : exec (.smaxImm f) s = execSmaxImm f s := rfl
@[simp] theorem exec_scmp (f : FormA) (s : State) : exec (.scmp f) s = execScmp f s := rfl
@[simp] theorem exec_scmpImm (f : FormI) (s : State) : exec (.scmpImm f) s = execScmpImm f s := rfl
@[simp] theorem exec_ssel (f : FormA) (s : State) : exec (.ssel f) s = execSsel f s := rfl
@[simp] theorem exec_sclz (f : FormA) (s : State) : exec (.sclz f) s = execSclz f s := rfl
@[simp] theorem exec_spopc (f : FormA) (s : State) : exec (.spopc f) s = execSpopc f s := rfl
@[simp] theorem exec_sbfe (f : FormA) (s : State) : exec (.sbfe f) s = execSbfe f s := rfl
@[simp] theorem exec_sbfeImm (f : FormI) (s : State) : exec (.sbfeImm f) s = execSbfeImm f s := rfl
@[simp] theorem exec_sbfi (f : FormA) (s : State) : exec (.sbfi f) s = execSbfi f s := rfl
@[simp] theorem exec_slea (f : FormA) (s : State) : exec (.slea f) s = execSlea f s := rfl
@[simp] theorem exec_scvt (f : FormA) (s : State) : exec (.scvt f) s = execScvt f s := rfl
@[simp] theorem exec_vmov (f : FormA) (s : State) : exec (.vmov f) s = execVmov f s := rfl
@[simp] theorem exec_vmovi (f : FormI) (s : State) : exec (.vmovi f) s = execVmovi f s := rfl
@[simp] theorem exec_vbcst (f : FormA) (s : State) : exec (.vbcst f) s = execVbcst f s := rfl
@[simp] theorem exec_vidx (f : FormA) (s : State) : exec (.vidx f) s = execVidx f s := rfl
@[simp] theorem exec_vadd (f : FormA) (s : State) : exec (.vadd f) s = execVadd f s := rfl
@[simp] theorem exec_vaddImm (f : FormI) (s : State) : exec (.vaddImm f) s = execVaddImm f s := rfl
@[simp] theorem exec_vsub (f : FormA) (s : State) : exec (.vsub f) s = execVsub f s := rfl
@[simp] theorem exec_vsubImm (f : FormI) (s : State) : exec (.vsubImm f) s = execVsubImm f s := rfl
@[simp] theorem exec_vmul (f : FormA) (s : State) : exec (.vmul f) s = execVmul f s := rfl
@[simp] theorem exec_vmulImm (f : FormI) (s : State) : exec (.vmulImm f) s = execVmulImm f s := rfl
@[simp] theorem exec_vmulh (f : FormA) (s : State) : exec (.vmulh f) s = execVmulh f s := rfl
@[simp] theorem exec_vmulhImm (f : FormI) (s : State) : exec (.vmulhImm f) s = execVmulhImm f s := rfl
@[simp] theorem exec_vmad (f : FormA) (s : State) : exec (.vmad f) s = execVmad f s := rfl
@[simp] theorem exec_vand (f : FormA) (s : State) : exec (.vand f) s = execVand f s := rfl
@[simp] theorem exec_vandImm (f : FormI) (s : State) : exec (.vandImm f) s = execVandImm f s := rfl
@[simp] theorem exec_vor (f : FormA) (s : State) : exec (.vor f) s = execVor f s := rfl
@[simp] theorem exec_vorImm (f : FormI) (s : State) : exec (.vorImm f) s = execVorImm f s := rfl
@[simp] theorem exec_vxor (f : FormA) (s : State) : exec (.vxor f) s = execVxor f s := rfl
@[simp] theorem exec_vxorImm (f : FormI) (s : State) : exec (.vxorImm f) s = execVxorImm f s := rfl
@[simp] theorem exec_vshl (f : FormA) (s : State) : exec (.vshl f) s = execVshl f s := rfl
@[simp] theorem exec_vshlImm (f : FormI) (s : State) : exec (.vshlImm f) s = execVshlImm f s := rfl
@[simp] theorem exec_vshr (f : FormA) (s : State) : exec (.vshr f) s = execVshr f s := rfl
@[simp] theorem exec_vshrImm (f : FormI) (s : State) : exec (.vshrImm f) s = execVshrImm f s := rfl
@[simp] theorem exec_vsra (f : FormA) (s : State) : exec (.vsra f) s = execVsra f s := rfl
@[simp] theorem exec_vsraImm (f : FormI) (s : State) : exec (.vsraImm f) s = execVsraImm f s := rfl
@[simp] theorem exec_vmin (f : FormA) (s : State) : exec (.vmin f) s = execVmin f s := rfl
@[simp] theorem exec_vminImm (f : FormI) (s : State) : exec (.vminImm f) s = execVminImm f s := rfl
@[simp] theorem exec_vmax (f : FormA) (s : State) : exec (.vmax f) s = execVmax f s := rfl
@[simp] theorem exec_vmaxImm (f : FormI) (s : State) : exec (.vmaxImm f) s = execVmaxImm f s := rfl
@[simp] theorem exec_vabs (f : FormA) (s : State) : exec (.vabs f) s = execVabs f s := rfl
@[simp] theorem exec_vcmp (f : FormA) (s : State) : exec (.vcmp f) s = execVcmp f s := rfl
@[simp] theorem exec_vcmpImm (f : FormI) (s : State) : exec (.vcmpImm f) s = execVcmpImm f s := rfl
@[simp] theorem exec_vsel (f : FormA) (s : State) : exec (.vsel f) s = execVsel f s := rfl
@[simp] theorem exec_vclz (f : FormA) (s : State) : exec (.vclz f) s = execVclz f s := rfl
@[simp] theorem exec_vpopc (f : FormA) (s : State) : exec (.vpopc f) s = execVpopc f s := rfl
@[simp] theorem exec_vbfe (f : FormA) (s : State) : exec (.vbfe f) s = execVbfe f s := rfl
@[simp] theorem exec_vbfeImm (f : FormI) (s : State) : exec (.vbfeImm f) s = execVbfeImm f s := rfl
@[simp] theorem exec_vbfi (f : FormA) (s : State) : exec (.vbfi f) s = execVbfi f s := rfl
@[simp] theorem exec_vdot4 (f : FormA) (s : State) : exec (.vdot4 f) s = execVdot4 f s := rfl
@[simp] theorem exec_philox (f : FormA) (s : State) : exec (.philox f) s = execPhilox f s := rfl
@[simp] theorem exec_fadd (f : FormA) (s : State) : exec (.fadd f) s = execFadd f s := rfl
@[simp] theorem exec_fsub (f : FormA) (s : State) : exec (.fsub f) s = execFsub f s := rfl
@[simp] theorem exec_fmul (f : FormA) (s : State) : exec (.fmul f) s = execFmul f s := rfl
@[simp] theorem exec_ffma (f : FormA) (s : State) : exec (.ffma f) s = execFfma f s := rfl
@[simp] theorem exec_fmin (f : FormA) (s : State) : exec (.fmin f) s = execFmin f s := rfl
@[simp] theorem exec_fmax (f : FormA) (s : State) : exec (.fmax f) s = execFmax f s := rfl
@[simp] theorem exec_fcmp (f : FormA) (s : State) : exec (.fcmp f) s = execFcmp f s := rfl
@[simp] theorem exec_fclass (f : FormA) (s : State) : exec (.fclass f) s = execFclass f s := rfl
@[simp] theorem exec_frcp (f : FormA) (s : State) : exec (.frcp f) s = execFrcp f s := rfl
@[simp] theorem exec_frsq (f : FormA) (s : State) : exec (.frsq f) s = execFrsq f s := rfl
@[simp] theorem exec_fsqrt (f : FormA) (s : State) : exec (.fsqrt f) s = execFsqrt f s := rfl
@[simp] theorem exec_fdiv (f : FormA) (s : State) : exec (.fdiv f) s = execFdiv f s := rfl
@[simp] theorem exec_fexp2 (f : FormA) (s : State) : exec (.fexp2 f) s = execFexp2 f s := rfl
@[simp] theorem exec_flog2 (f : FormA) (s : State) : exec (.flog2 f) s = execFlog2 f s := rfl
@[simp] theorem exec_fsin (f : FormA) (s : State) : exec (.fsin f) s = execFsin f s := rfl
@[simp] theorem exec_fcos (f : FormA) (s : State) : exec (.fcos f) s = execFcos f s := rfl
@[simp] theorem exec_ftanh (f : FormA) (s : State) : exec (.ftanh f) s = execFtanh f s := rfl
@[simp] theorem exec_fcvt (f : FormA) (s : State) : exec (.fcvt f) s = execFcvt f s := rfl
@[simp] theorem exec_frint (f : FormA) (s : State) : exec (.frint f) s = execFrint f s := rfl
@[simp] theorem exec_fscale (f : FormA) (s : State) : exec (.fscale f) s = execFscale f s := rfl
@[simp] theorem exec_fsmxu (f : FormA) (s : State) : exec (.fsmxu f) s = execFsmxu f s := rfl
@[simp] theorem exec_fsmxf (f : FormA) (s : State) : exec (.fsmxf f) s = execFsmxf f s := rfl
@[simp] theorem exec_vshfl (f : FormA) (s : State) : exec (.vshfl f) s = execVshfl f s := rfl
@[simp] theorem exec_vred (f : FormA) (s : State) : exec (.vred f) s = execVred f s := rfl
@[simp] theorem exec_vscan (f : FormA) (s : State) : exec (.vscan f) s = execVscan f s := rfl
@[simp] theorem exec_vvote (f : FormA) (s : State) : exec (.vvote f) s = execVvote f s := rfl
@[simp] theorem exec_vcmpr (f : FormA) (s : State) : exec (.vcmpr f) s = execVcmpr f s := rfl
@[simp] theorem exec_kmov (f : FormA) (s : State) : exec (.kmov f) s = execKmov f s := rfl
@[simp] theorem exec_kget (f : FormA) (s : State) : exec (.kget f) s = execKget f s := rfl
@[simp] theorem exec_kgetImm (f : FormI) (s : State) : exec (.kgetImm f) s = execKgetImm f s := rfl
@[simp] theorem exec_kset (f : FormA) (s : State) : exec (.kset f) s = execKset f s := rfl
@[simp] theorem exec_ksetImm (f : FormI) (s : State) : exec (.ksetImm f) s = execKsetImm f s := rfl
@[simp] theorem exec_kfill (f : FormA) (s : State) : exec (.kfill f) s = execKfill f s := rfl
@[simp] theorem exec_kfillImm (f : FormI) (s : State) : exec (.kfillImm f) s = execKfillImm f s := rfl
@[simp] theorem exec_kadd (f : FormA) (s : State) : exec (.kadd f) s = execKadd f s := rfl
@[simp] theorem exec_kaddImm (f : FormI) (s : State) : exec (.kaddImm f) s = execKaddImm f s := rfl
@[simp] theorem exec_vqntLane (f : FormX) (s : State) : exec (.vqntLane f) s = execVqntLane f s := rfl
@[simp] theorem exec_vqntRow (f : FormX) (s : State) : exec (.vqntRow f) s = execVqntRow f s := rfl
@[simp] theorem exec_vdqnt (f : FormA) (s : State) : exec (.vdqnt f) s = execVdqnt f s := rfl
@[simp] theorem exec_vamax (f : FormA) (s : State) : exec (.vamax f) s = execVamax f s := rfl
@[simp] theorem exec_amxpush (f : FormA) (s : State) : exec (.amxpush f) s = execAmxpush f s := rfl
@[simp] theorem exec_amxget (f : FormA) (s : State) : exec (.amxget f) s = execAmxget f s := rfl
@[simp] theorem exec_amxclr (f : FormA) (s : State) : exec (.amxclr f) s = execAmxclr f s := rfl
@[simp] theorem exec_amxclrImm (f : FormI) (s : State) : exec (.amxclrImm f) s = execAmxclrImm f s := rfl
@[simp] theorem exec_sld (f : FormM) (s : State) : exec (.sld f) s = execSld f s := rfl
@[simp] theorem exec_sst (f : FormM) (s : State) : exec (.sst f) s = execSst f s := rfl
@[simp] theorem exec_vld (f : FormM) (s : State) : exec (.vld f) s = execVld f s := rfl
@[simp] theorem exec_vst (f : FormM) (s : State) : exec (.vst f) s = execVst f s := rfl
@[simp] theorem exec_vldl (f : FormM) (s : State) : exec (.vldl f) s = execVldl f s := rfl
@[simp] theorem exec_vstl (f : FormM) (s : State) : exec (.vstl f) s = execVstl f s := rfl
@[simp] theorem exec_pref (f : FormM) (s : State) : exec (.pref f) s = execPref f s := rfl
@[simp] theorem exec_cctl (f : FormM) (s : State) : exec (.cctl f) s = execCctl f s := rfl
@[simp] theorem exec_fence (f : FormA) (s : State) : exec (.fence f) s = execFence f s := rfl
@[simp] theorem exec_tfence (f : FormM) (s : State) : exec (.tfence f) s = execTfence f s := rfl
@[simp] theorem exec_waitv (f : FormM) (s : State) : exec (.waitv f) s = execWaitv f s := rfl
@[simp] theorem exec_waitvReturn (h : HoodRef) (s : State) : exec (.waitvReturn h) s = execWaitvReturn h s := rfl
@[simp] theorem exec_watch (f : FormM) (s : State) : exec (.watch f) s = execWatch f s := rfl
@[simp] theorem exec_unwatch (f : FormM) (s : State) : exec (.unwatch f) s = execUnwatch f s := rfl
@[simp] theorem exec_atomAdd (f : FormM) (s : State) : exec (.atomAdd f) s = execAtomAdd f s := rfl
@[simp] theorem exec_atomAnd (f : FormM) (s : State) : exec (.atomAnd f) s = execAtomAnd f s := rfl
@[simp] theorem exec_atomOr (f : FormM) (s : State) : exec (.atomOr f) s = execAtomOr f s := rfl
@[simp] theorem exec_atomXor (f : FormM) (s : State) : exec (.atomXor f) s = execAtomXor f s := rfl
@[simp] theorem exec_atomMin (f : FormM) (s : State) : exec (.atomMin f) s = execAtomMin f s := rfl
@[simp] theorem exec_atomMax (f : FormM) (s : State) : exec (.atomMax f) s = execAtomMax f s := rfl
@[simp] theorem exec_atomExch (f : FormM) (s : State) : exec (.atomExch f) s = execAtomExch f s := rfl
@[simp] theorem exec_atomCas (f : FormM) (s : State) : exec (.atomCas f) s = execAtomCas f s := rfl
@[simp] theorem exec_atomIncw (f : FormM) (s : State) : exec (.atomIncw f) s = execAtomIncw f s := rfl
@[simp] theorem exec_atomDecw (f : FormM) (s : State) : exec (.atomDecw f) s = execAtomDecw f s := rfl
@[simp] theorem exec_atomFaddF32 (f : FormM) (s : State) : exec (.atomFaddF32 f) s = execAtomFaddF32 f s := rfl
@[simp] theorem exec_atomFaddBf16x2 (f : FormM) (s : State) : exec (.atomFaddBf16x2 f) s = execAtomFaddBf16x2 f s := rfl
@[simp] theorem exec_atomFminF32 (f : FormM) (s : State) : exec (.atomFminF32 f) s = execAtomFminF32 f s := rfl
@[simp] theorem exec_atomFmaxF32 (f : FormM) (s : State) : exec (.atomFmaxF32 f) s = execAtomFmaxF32 f s := rfl
@[simp] theorem exec_satomAdd (f : FormM) (s : State) : exec (.satomAdd f) s = execSatomAdd f s := rfl
@[simp] theorem exec_satomAnd (f : FormM) (s : State) : exec (.satomAnd f) s = execSatomAnd f s := rfl
@[simp] theorem exec_satomOr (f : FormM) (s : State) : exec (.satomOr f) s = execSatomOr f s := rfl
@[simp] theorem exec_satomXor (f : FormM) (s : State) : exec (.satomXor f) s = execSatomXor f s := rfl
@[simp] theorem exec_satomMin (f : FormM) (s : State) : exec (.satomMin f) s = execSatomMin f s := rfl
@[simp] theorem exec_satomMax (f : FormM) (s : State) : exec (.satomMax f) s = execSatomMax f s := rfl
@[simp] theorem exec_satomExch (f : FormM) (s : State) : exec (.satomExch f) s = execSatomExch f s := rfl
@[simp] theorem exec_satomCas (f : FormM) (s : State) : exec (.satomCas f) s = execSatomCas f s := rfl
@[simp] theorem exec_satomIncw (f : FormM) (s : State) : exec (.satomIncw f) s = execSatomIncw f s := rfl
@[simp] theorem exec_satomDecw (f : FormM) (s : State) : exec (.satomDecw f) s = execSatomDecw f s := rfl
@[simp] theorem exec_satomFaddF32 (f : FormM) (s : State) : exec (.satomFaddF32 f) s = execSatomFaddF32 f s := rfl
@[simp] theorem exec_satomFaddBf16x2 (f : FormM) (s : State) : exec (.satomFaddBf16x2 f) s = execSatomFaddBf16x2 f s := rfl
@[simp] theorem exec_satomFminF32 (f : FormM) (s : State) : exec (.satomFminF32 f) s = execSatomFminF32 f s := rfl
@[simp] theorem exec_satomFmaxF32 (f : FormM) (s : State) : exec (.satomFmaxF32 f) s = execSatomFmaxF32 f s := rfl
@[simp] theorem exec_bandi (f : FormM) (s : State) : exec (.bandi f) s = execBandi f s := rfl
@[simp] theorem exec_bandx (f : FormM) (s : State) : exec (.bandx f) s = execBandx f s := rfl
@[simp] theorem exec_banda (f : FormM) (s : State) : exec (.banda f) s = execBanda f s := rfl
@[simp] theorem exec_bandw (f : FormM) (s : State) : exec (.bandw f) s = execBandw f s := rfl
@[simp] theorem exec_bandwReturn (h : HoodRef) (s : State) : exec (.bandwReturn h) s = execBandwReturn h s := rfl
@[simp] theorem exec_bandt (f : FormM) (s : State) : exec (.bandt f) s = execBandt f s := rfl
@[simp] theorem exec_xlayNew (f : FormA) (s : State) : exec (.xlayNew f) s = execXlayNew f s := rfl
@[simp] theorem exec_xlaySet (f : FormA) (s : State) : exec (.xlaySet f) s = execXlaySet f s := rfl
@[simp] theorem exec_xlayFree (f : FormA) (s : State) : exec (.xlayFree f) s = execXlayFree f s := rfl
@[simp] theorem exec_xcopy (f : FormX) (s : State) : exec (.xcopy f) s = execXcopy f s := rfl
@[simp] theorem exec_xcopyAccept (h : HoodRef) (s : State) : exec (.xcopyAccept h) s = execXcopyAccept h s := rfl
@[simp] theorem exec_qinitInit (f : FormM) (s : State) : exec (.qinitInit f) s = execQinitInit f s := rfl
@[simp] theorem exec_qinitFini (f : FormM) (s : State) : exec (.qinitFini f) s = execQinitFini f s := rfl
@[simp] theorem exec_qputResv (f : FormM) (s : State) : exec (.qputResv f) s = execQputResv f s := rfl
@[simp] theorem exec_qputResvRetry (h : HoodRef) (s : State) : exec (.qputResvRetry h) s = execQputResvRetry h s := rfl
@[simp] theorem exec_qputCommit (f : FormM) (s : State) : exec (.qputCommit f) s = execQputCommit f s := rfl
@[simp] theorem exec_qputCommitPublish (h : HoodRef) (s : State) : exec (.qputCommitPublish h) s = execQputCommitPublish h s := rfl
@[simp] theorem exec_qgetAcq (f : FormM) (s : State) : exec (.qgetAcq f) s = execQgetAcq f s := rfl
@[simp] theorem exec_qgetAcqRetry (h : HoodRef) (s : State) : exec (.qgetAcqRetry h) s = execQgetAcqRetry h s := rfl
@[simp] theorem exec_qgetFree (f : FormM) (s : State) : exec (.qgetFree f) s = execQgetFree f s := rfl
@[simp] theorem exec_qgetFreeRelease (h : HoodRef) (s : State) : exec (.qgetFreeRelease h) s = execQgetFreeRelease h s := rfl
@[simp] theorem exec_spawn (f : FormA) (s : State) : exec (.spawn f) s = execSpawn f s := rfl
@[simp] theorem exec_mshape (f : FormA) (s : State) : exec (.mshape f) s = execMshape f s := rfl
@[simp] theorem exec_mma (f : FormX) (s : State) : exec (.mma f) s = execMma f s := rfl
@[simp] theorem exec_dmma (f : FormX) (s : State) : exec (.dmma f) s = execDmma f s := rfl
@[simp] theorem exec_mmaStart (core : Nat) (s : State) : exec (.mmaStart core) s = execMmaStart core s := rfl
@[simp] theorem exec_mmaComplete (core : Nat) (s : State) : exec (.mmaComplete core) s = execMmaComplete core s := rfl
@[simp] theorem exec_mmaw (f : FormA) (s : State) : exec (.mmaw f) s = execMmaw f s := rfl
@[simp] theorem exec_mmawReturn (core slot : Nat) (s : State) : exec (.mmawReturn core slot) s = execMmawReturn core slot s := rfl
@[simp] theorem exec_mzero (f : FormA) (s : State) : exec (.mzero f) s = execMzero f s := rfl
@[simp] theorem exec_mfence (f : FormA) (s : State) : exec (.mfence f) s = execMfence f s := rfl
@[simp] theorem exec_icacheFill (core ctx lineVa : Nat) (flip1 flip2 : BitVec 512) (s : State) : exec (.icacheFill core ctx lineVa flip1 flip2) s = execIcacheFill core ctx lineVa flip1 flip2 s := rfl
@[simp] theorem exec_registerScrub (core : Nat) (err : Option RegisterError) (s : State) : exec (.registerScrub core err) s = execRegisterScrub core err s := rfl
@[simp] theorem exec_pageWalk (cluster : Nat) (s : State) : exec (.pageWalk cluster) s = execPageWalk cluster s := rfl
@[simp] theorem exec_tfenceAcknowledge (id cluster : Nat) (s : State) : exec (.tfenceAcknowledge id cluster) s = execTfenceAcknowledge id cluster s := rfl
@[simp] theorem exec_faultResponseRetry (w : Writer) (ctx batch : Nat) (s : State) : exec (.faultResponseRetry w ctx batch) s = execFaultResponseRetry w ctx batch s := rfl
@[simp] theorem exec_faultResponseFail (w : Writer) (ctx batch : Nat) (s : State) : exec (.faultResponseFail w ctx batch) s = execFaultResponseFail w ctx batch s := rfl
@[simp] theorem exec_migrationRequestHost (ctx va dest : Nat) (s : State) : exec (.migrationRequestHost ctx va dest) s = execMigrationRequestHost ctx va dest s := rfl
@[simp] theorem exec_migrationCopyPassDone (id : Nat) (s : State) : exec (.migrationCopyPassDone id) s = execMigrationCopyPassDone id s := rfl
@[simp] theorem exec_migrationStubbed (id : Nat) (s : State) : exec (.migrationStubbed id) s = execMigrationStubbed id s := rfl
@[simp] theorem exec_stubReclaimAttempt (die oldFrame : Nat) (s : State) : exec (.stubReclaimAttempt die oldFrame) s = execStubReclaimAttempt die oldFrame s := rfl
@[simp] theorem exec_rds (m : CoeskReq) (s : State) : exec (.rds m) s = execRds m s := rfl
@[simp] theorem exec_rdx (m : CoeskReq) (s : State) : exec (.rdx m) s = execRdx m s := rfl
@[simp] theorem exec_rdnc (m : CoeskReq) (s : State) : exec (.rdnc m) s = execRdnc m s := rfl
@[simp] theorem exec_upgr (m : CoeskReq) (s : State) : exec (.upgr m) s = execUpgr m s := rfl
@[simp] theorem exec_wrline (m : CoeskReq) (clean : Bool) (s : State) : exec (.wrline m clean) s = execWrline m clean s := rfl
@[simp] theorem exec_wrpart (m : CoeskReq) (data : LineData) (mask : BitVec 128) (s : State) : exec (.wrpart m data mask) s = execWrpart m data mask s := rfl
@[simp] theorem exec_atomhome (m : CoeskReq) (op : AtomicReq) (s : State) : exec (.atomhome m op) s = execAtomhome m op s := rfl
@[simp] theorem exec_inv (m : CoeskSnoop) (s : State) : exec (.inv m) s = execInv m s := rfl
@[simp] theorem exec_fwds (m : CoeskSnoop) (s : State) : exec (.fwds m) s = execFwds m s := rfl
@[simp] theorem exec_fwdx (m : CoeskSnoop) (s : State) : exec (.fwdx m) s = execFwdx m s := rfl
@[simp] theorem exec_ack (m : CoeskResp) (s : State) : exec (.ack m) s = execAck m s := rfl
@[simp] theorem exec_data (m : CoeskResp) (s : State) : exec (.data m) s = execData m s := rfl
@[simp] theorem exec_relay (m : CoeskReq) (kind : RelayKind) (s : State) : exec (.relay m kind) s = execRelay m kind s := rfl
@[simp] theorem exec_redirect (r : RedirectMsg) (s : State) : exec (.redirect r) s = execRedirect r s := rfl
@[simp] theorem exec_trignote (die : Nat) (s : State) : exec (.trignote die) s = execTrignote die s := rfl
@[simp] theorem exec_timesync (die tick ns : Nat) (s : State) : exec (.timesync die tick ns) s = execTimesync die tick ns s := rfl
@[simp] theorem exec_timesyncSend (s : State) : exec .timesyncSend s = execTimesyncSend s := rfl
@[simp] theorem exec_coeskTrace (die : Nat) (s : State) : exec (.coeskTrace die) s = execCoeskTrace die s := rfl
@[simp] theorem exec_cfg (c : CfgMsg) (s : State) : exec (.cfg c) s = execCfg c s := rfl
@[simp] theorem exec_coeskReservedOp (link op txn : Nat) (s : State) : exec (.coeskReservedOp link op txn) s = execCoeskReservedOp link op txn s := rfl
@[simp] theorem exec_keepTimer (die txn : Nat) (s : State) : exec (.keepTimer die txn) s = execKeepTimer die txn s := rfl
@[simp] theorem exec_crossDieTimeout (die txn : Nat) (s : State) : exec (.crossDieTimeout die txn) s = execCrossDieTimeout die txn s := rfl
@[simp] theorem exec_homeExecuteExpiry (line : Nat) (s : State) : exec (.homeExecuteExpiry line) s = execHomeExecuteExpiry line s := rfl
@[simp] theorem exec_referenceTick (s : State) : exec .referenceTick s = execReferenceTick s := rfl
@[simp] theorem exec_timebaseWatchdog (s : State) : exec .timebaseWatchdog s = execTimebaseWatchdog s := rfl
@[simp] theorem exec_discoverRecord (port : Nat) (r : DiscoverRec) (s : State) : exec (.discoverRecord port r) s = execDiscoverRecord port r s := rfl
@[simp] theorem exec_discoveryTimeout (s : State) : exec .discoveryTimeout s = execDiscoveryTimeout s := rfl
@[simp] theorem exec_commandProcessorFire (ctx queue : Nat) (s : State) : exec (.commandProcessorFire ctx queue) s = execCommandProcessorFire ctx queue s := rfl
@[simp] theorem exec_launchAdmit (ctx queue : Nat) (s : State) : exec (.launchAdmit ctx queue) s = execLaunchAdmit ctx queue s := rfl
@[simp] theorem exec_launchRetire (id : Nat) (s : State) : exec (.launchRetire id) s = execLaunchRetire id s := rfl
@[simp] theorem exec_eventSetRegister (w : Writer) (ctx : Nat) (mask : BitVec 256) (s : State) : exec (.eventSetRegister w ctx mask) s = execEventSetRegister w ctx mask s := rfl
@[simp] theorem exec_eventClearRegister (w : Writer) (ctx : Nat) (mask : BitVec 256) (s : State) : exec (.eventClearRegister w ctx mask) s = execEventClearRegister w ctx mask s := rfl
@[simp] theorem exec_queueRegister (w : Writer) (ctx idx hdr : Nat) (s : State) : exec (.queueRegister w ctx idx hdr) s = execQueueRegister w ctx idx hdr s := rfl
@[simp] theorem exec_placementRound (die : Nat) (s : State) : exec (.placementRound die) s = execPlacementRound die s := rfl
@[simp] theorem exec_placementReserveTimeout (die : Nat) (s : State) : exec (.placementReserveTimeout die) s = execPlacementReserveTimeout die s := rfl
@[simp] theorem exec_triggerPoolRelease (die : Nat) (s : State) : exec (.triggerPoolRelease die) s = execTriggerPoolRelease die s := rfl
@[simp] theorem exec_triggerWindowRollover (s : State) : exec .triggerWindowRollover s = execTriggerWindowRollover s := rfl
@[simp] theorem exec_preemptGo (w : Writer) (ctx : Nat) (kind hold : Bool) (s : State) : exec (.preemptGo w ctx kind hold) s = execPreemptGo w ctx kind hold s := rfl
@[simp] theorem exec_preemptKill (w : Writer) (ctx : Nat) (s : State) : exec (.preemptKill w ctx) s = execPreemptKill w ctx s := rfl
@[simp] theorem exec_preemptSaveComplete (gang : Nat) (s : State) : exec (.preemptSaveComplete gang) s = execPreemptSaveComplete gang s := rfl
@[simp] theorem exec_chunkProcess (copy : Nat) (s : State) : exec (.chunkProcess copy) s = execChunkProcess copy s := rfl
@[simp] theorem exec_chunkLand (copy chunk pos : Nat) (s : State) : exec (.chunkLand copy chunk pos) s = execChunkLand copy chunk pos s := rfl
@[simp] theorem exec_spillSpaceFreed (die : Nat) (s : State) : exec (.spillSpaceFreed die) s = execSpillSpaceFreed die s := rfl
@[simp] theorem exec_l2cfgWrite (w : Writer) (die : Nat) (val : Word) (s : State) : exec (.l2cfgWrite w die val) s = execL2cfgWrite w die val s := rfl
@[simp] theorem exec_carveChangeDone (die : Nat) (s : State) : exec (.carveChangeDone die) s = execCarveChangeDone die s := rfl
@[simp] theorem exec_mmioWrite (w : Writer) (reg : MmioReg) (val : DWord) (s : State) : exec (.mmioWrite w reg val) s = execMmioWrite w reg val s := rfl
@[simp] theorem exec_stationLinkDown (st : Nat) (s : State) : exec (.stationLinkDown st) s = execStationLinkDown st s := rfl
@[simp] theorem exec_stationRetrain (w : Writer) (st : Nat) (s : State) : exec (.stationRetrain w st) s = execStationRetrain w st s := rfl
@[simp] theorem exec_stationTrained (st : Nat) (s : State) : exec (.stationTrained st) s = execStationTrained st s := rfl
@[simp] theorem exec_podcfgWrite (w : Writer) (val : DWord) (s : State) : exec (.podcfgWrite w val) s = execPodcfgWrite w val s := rfl
@[simp] theorem exec_ualinkRequestArrival (st : Nat) (r : UalinkReq) (s : State) : exec (.ualinkRequestArrival st r) s = execUalinkRequestArrival st r s := rfl
@[simp] theorem exec_podResponse (txn : Nat) (r : PodResp) (s : State) : exec (.podResponse txn r) s = execPodResponse txn r s := rfl
@[simp] theorem exec_podWriteAck (txn : Nat) (s : State) : exec (.podWriteAck txn) s = execPodWriteAck txn s := rfl
@[simp] theorem exec_trimmedHeader (st : Nat) (k : TrimKind) (s : State) : exec (.trimmedHeader st k) s = execTrimmedHeader st k s := rfl
@[simp] theorem exec_podPortDown (txn : Nat) (s : State) : exec (.podPortDown txn) s = execPodPortDown txn s := rfl
@[simp] theorem exec_podTimeout (txn : Nat) (s : State) : exec (.podTimeout txn) s = execPodTimeout txn s := rfl
@[simp] theorem exec_deadPeerClearMmio (w : Writer) (mask : BitVec 192) (s : State) : exec (.deadPeerClearMmio w mask) s = execDeadPeerClearMmio w mask s := rfl
@[simp] theorem exec_traceDrainWrite (die : Nat) (s : State) : exec (.traceDrainWrite die) s = execTraceDrainWrite die s := rfl
@[simp] theorem exec_losslessFallback (ctx : Nat) (s : State) : exec (.losslessFallback ctx) s = execLosslessFallback ctx s := rfl
@[simp] theorem exec_trchdrWrite (w : Writer) (ctx : Nat) (val : DWord) (s : State) : exec (.trchdrWrite w ctx val) s = execTrchdrWrite w ctx val s := rfl
@[simp] theorem exec_trccfgWrite (w : Writer) (ctx : Nat) (val : Word) (s : State) : exec (.trccfgWrite w ctx val) s = execTrccfgWrite w ctx val s := rfl
@[simp] theorem exec_timebaseSourceUpdate (offset : Int) (s : State) : exec (.timebaseSourceUpdate offset) s = execTimebaseSourceUpdate offset s := rfl
@[simp] theorem exec_cxlMemRead (pa : Nat) (s : State) : exec (.cxlMemRead pa) s = execCxlMemRead pa s := rfl
@[simp] theorem exec_cxlMemWrite (pa : Nat) (data : BitVec 512) (be : BitVec 64) (s : State) : exec (.cxlMemWrite pa data be) s = execCxlMemWrite pa data be s := rfl
@[simp] theorem exec_h2dSnoop (pa : Nat) (inv : Bool) (s : State) : exec (.h2dSnoop pa inv) s = execH2dSnoop pa inv s := rfl
@[simp] theorem exec_backInvalidateResponse (line : Nat) (s : State) : exec (.backInvalidateResponse line) s = execBackInvalidateResponse line s := rfl
@[simp] theorem exec_claim (master prio : Nat) (s : State) : exec (.claim master prio) s = execClaim master prio s := rfl
@[simp] theorem exec_claimBeat (master : Nat) (s : State) : exec (.claimBeat master) s = execClaimBeat master s := rfl
@[simp] theorem exec_claimRelease (master nextHolder : Nat) (s : State) : exec (.claimRelease master nextHolder) s = execClaimRelease master nextHolder s := rfl
@[simp] theorem exec_electionClose (s : State) : exec .electionClose s = execElectionClose s := rfl
@[simp] theorem exec_leaseLapse (s : State) : exec .leaseLapse s = execLeaseLapse s := rfl
@[simp] theorem exec_contextCreate (w : Writer) (slot : Nat) (s : State) : exec (.contextCreate w slot) s = execContextCreate w slot s := rfl
@[simp] theorem exec_contextDestroy (w : Writer) (slot : Nat) (s : State) : exec (.contextDestroy w slot) s = execContextDestroy w slot s := rfl
@[simp] theorem exec_reset (b : BringUp) (s : State) : exec (.reset b) s = execReset b s := rfl
@[simp] theorem exec_recoveryImage (img : FirmwareImage) (s : State) : exec (.recoveryImage img) s = execRecoveryImage img s := rfl
@[simp] theorem exec_firmwareRevocationCommand (c : RevocationCmd) (s : State) : exec (.firmwareRevocationCommand c) s = execFirmwareRevocationCommand c s := rfl
@[simp] theorem exec_getVersion (master : Nat) (s : State) : exec (.getVersion master) s = execGetVersion master s := rfl
@[simp] theorem exec_getCapabilities (master : Nat) (s : State) : exec (.getCapabilities master) s = execGetCapabilities master s := rfl
@[simp] theorem exec_negotiateAlgorithms (master : Nat) (s : State) : exec (.negotiateAlgorithms master) s = execNegotiateAlgorithms master s := rfl
@[simp] theorem exec_getDigests (master : Nat) (s : State) : exec (.getDigests master) s = execGetDigests master s := rfl
@[simp] theorem exec_getCertificate (master slot : Nat) (s : State) : exec (.getCertificate master slot) s = execGetCertificate master slot s := rfl
@[simp] theorem exec_challenge (master : Nat) (nonce : BitVec 256) (s : State) : exec (.challenge master nonce) s = execChallenge master nonce s := rfl
@[simp] theorem exec_getMeasurements (master index : Nat) (s : State) : exec (.getMeasurements master index) s = execGetMeasurements master index s := rfl
@[simp] theorem exec_powerLimitStep (die : Nat) (lower : Bool) (s : State) : exec (.powerLimitStep die lower) s = execPowerLimitStep die lower s := rfl
@[simp] theorem exec_thermalTrip (s : State) : exec .thermalTrip s = execThermalTrip s := rfl
@[simp] theorem exec_fillReturn (idx : Nat) (s : State) : exec (.fillReturn idx) s = execFillReturn idx s := rfl
@[simp] theorem exec_h2dResponse (die line : Nat) (owned : Bool) (data : LineData) (s : State) : exec (.h2dResponse die line owned data) s = execH2dResponse die line owned data s := rfl
@[simp] theorem exec_cxlIoCompletion (txn : Nat) (data : DWord) (s : State) : exec (.cxlIoCompletion txn data) s = execCxlIoCompletion txn data s := rfl
@[simp] theorem exec_engineReset (w : Writer) (core : Nat) (s : State) : exec (.engineReset w core) s = execEngineReset w core s := rfl
@[simp] theorem exec_preemptHoldWrite (w : Writer) (ctx : Nat) (hold kind : Bool) (s : State) : exec (.preemptHoldWrite w ctx hold kind) s = execPreemptHoldWrite w ctx hold kind s := rfl
@[simp] theorem exec_linkDeclaredDown (a b : Nat) (s : State) : exec (.linkDeclaredDown a b) s = execLinkDeclaredDown a b s := rfl

end Sys2Proof.Machine
end

