-- ==== Sys2Proof/Laws/State.lean ====
section
/-! SUPPORT. What each update of State and of a warp leaves in each field, so that no proof unfolds a record update. -/

namespace Sys2Proof.Machine

open Sys2Proof

variable (s : State)

/-! `State.modWarp` -/
@[simp] theorem State.modWarp_store (core slot : Nat) (g : Warp → Warp) : (s.modWarp core slot g).store = s.store := rfl
@[simp] theorem State.modWarp_caches (core slot : Nat) (g : Warp → Warp) : (s.modWarp core slot g).caches = s.caches := rfl
@[simp] theorem State.modWarp_coh (core slot : Nat) (g : Warp → Warp) : (s.modWarp core slot g).coh = s.coh := rfl
@[simp] theorem State.modWarp_warps (core slot : Nat) (g : Warp → Warp) : (s.modWarp core slot g).warps = s.warps.map fun x => if x.core = core && x.slot = slot then g x else x := rfl
@[simp] theorem State.modWarp_contexts (core slot : Nat) (g : Warp → Warp) : (s.modWarp core slot g).contexts = s.contexts := rfl
@[simp] theorem State.modWarp_slots (core slot : Nat) (g : Warp → Warp) : (s.modWarp core slot g).slots = s.slots := rfl
@[simp] theorem State.modWarp_sched (core slot : Nat) (g : Warp → Warp) : (s.modWarp core slot g).sched = s.sched := rfl
@[simp] theorem State.modWarp_eng (core slot : Nat) (g : Warp → Warp) : (s.modWarp core slot g).eng = s.eng := rfl
@[simp] theorem State.modWarp_dies (core slot : Nat) (g : Warp → Warp) : (s.modWarp core slot g).dies = s.dies := rfl
@[simp] theorem State.modWarp_stations (core slot : Nat) (g : Warp → Warp) : (s.modWarp core slot g).stations = s.stations := rfl
@[simp] theorem State.modWarp_hub (core slot : Nat) (g : Warp → Warp) : (s.modWarp core slot g).hub = s.hub := rfl
@[simp] theorem State.modWarp_staged (core slot : Nat) (g : Warp → Warp) : (s.modWarp core slot g).staged = s.staged := rfl
@[simp] theorem State.modWarp_recs (core slot : Nat) (g : Warp → Warp) : (s.modWarp core slot g).recs = s.recs := rfl
@[simp] theorem State.modWarp_out (core slot : Nat) (g : Warp → Warp) : (s.modWarp core slot g).out = s.out := rfl
@[simp] theorem State.modWarp_cur (core slot : Nat) (g : Warp → Warp) : (s.modWarp core slot g).cur = s.cur := rfl
@[simp] theorem State.modWarp_agenda (core slot : Nat) (g : Warp → Warp) : (s.modWarp core slot g).agenda = s.agenda := rfl
@[simp] theorem State.modWarp_free (core slot : Nat) (g : Warp → Warp) : (s.modWarp core slot g).free = s.free := rfl
@[simp] theorem State.modWarp_upsets (core slot : Nat) (g : Warp → Warp) : (s.modWarp core slot g).upsets = s.upsets := rfl
@[simp] theorem State.modWarp_cycles (core slot : Nat) (g : Warp → Warp) : (s.modWarp core slot g).cycles = s.cycles := rfl
@[simp] theorem State.modWarp_turn (core slot : Nat) (g : Warp → Warp) : (s.modWarp core slot g).turn = s.turn := rfl

/-! `State.setWarp` -/
@[simp] theorem State.setWarp_store (w : Warp) : (s.setWarp w).store = s.store := rfl
@[simp] theorem State.setWarp_caches (w : Warp) : (s.setWarp w).caches = s.caches := rfl
@[simp] theorem State.setWarp_coh (w : Warp) : (s.setWarp w).coh = s.coh := rfl
@[simp] theorem State.setWarp_warps (w : Warp) : (s.setWarp w).warps = s.warps.map fun x => if x.core = w.core && x.slot = w.slot then w else x := rfl
@[simp] theorem State.setWarp_contexts (w : Warp) : (s.setWarp w).contexts = s.contexts := rfl
@[simp] theorem State.setWarp_slots (w : Warp) : (s.setWarp w).slots = s.slots := rfl
@[simp] theorem State.setWarp_sched (w : Warp) : (s.setWarp w).sched = s.sched := rfl
@[simp] theorem State.setWarp_eng (w : Warp) : (s.setWarp w).eng = s.eng := rfl
@[simp] theorem State.setWarp_dies (w : Warp) : (s.setWarp w).dies = s.dies := rfl
@[simp] theorem State.setWarp_stations (w : Warp) : (s.setWarp w).stations = s.stations := rfl
@[simp] theorem State.setWarp_hub (w : Warp) : (s.setWarp w).hub = s.hub := rfl
@[simp] theorem State.setWarp_staged (w : Warp) : (s.setWarp w).staged = s.staged := rfl
@[simp] theorem State.setWarp_recs (w : Warp) : (s.setWarp w).recs = s.recs := rfl
@[simp] theorem State.setWarp_out (w : Warp) : (s.setWarp w).out = s.out := rfl
@[simp] theorem State.setWarp_cur (w : Warp) : (s.setWarp w).cur = s.cur := rfl
@[simp] theorem State.setWarp_agenda (w : Warp) : (s.setWarp w).agenda = s.agenda := rfl
@[simp] theorem State.setWarp_free (w : Warp) : (s.setWarp w).free = s.free := rfl
@[simp] theorem State.setWarp_upsets (w : Warp) : (s.setWarp w).upsets = s.upsets := rfl
@[simp] theorem State.setWarp_cycles (w : Warp) : (s.setWarp w).cycles = s.cycles := rfl
@[simp] theorem State.setWarp_turn (w : Warp) : (s.setWarp w).turn = s.turn := rfl

/-! `State.dropWarp` -/
@[simp] theorem State.dropWarp_store (core slot : Nat) : (s.dropWarp core slot).store = s.store := rfl
@[simp] theorem State.dropWarp_caches (core slot : Nat) : (s.dropWarp core slot).caches = s.caches := rfl
@[simp] theorem State.dropWarp_coh (core slot : Nat) : (s.dropWarp core slot).coh = s.coh := rfl
@[simp] theorem State.dropWarp_warps (core slot : Nat) : (s.dropWarp core slot).warps = s.warps.filter fun x => !(x.core = core && x.slot = slot) := rfl
@[simp] theorem State.dropWarp_contexts (core slot : Nat) : (s.dropWarp core slot).contexts = s.contexts := rfl
@[simp] theorem State.dropWarp_slots (core slot : Nat) : (s.dropWarp core slot).slots = s.slots := rfl
@[simp] theorem State.dropWarp_sched (core slot : Nat) : (s.dropWarp core slot).sched = s.sched := rfl
@[simp] theorem State.dropWarp_eng (core slot : Nat) : (s.dropWarp core slot).eng = s.eng := rfl
@[simp] theorem State.dropWarp_dies (core slot : Nat) : (s.dropWarp core slot).dies = s.dies := rfl
@[simp] theorem State.dropWarp_stations (core slot : Nat) : (s.dropWarp core slot).stations = s.stations := rfl
@[simp] theorem State.dropWarp_hub (core slot : Nat) : (s.dropWarp core slot).hub = s.hub := rfl
@[simp] theorem State.dropWarp_staged (core slot : Nat) : (s.dropWarp core slot).staged = s.staged := rfl
@[simp] theorem State.dropWarp_recs (core slot : Nat) : (s.dropWarp core slot).recs = s.recs := rfl
@[simp] theorem State.dropWarp_out (core slot : Nat) : (s.dropWarp core slot).out = s.out := rfl
@[simp] theorem State.dropWarp_cur (core slot : Nat) : (s.dropWarp core slot).cur = s.cur := rfl
@[simp] theorem State.dropWarp_agenda (core slot : Nat) : (s.dropWarp core slot).agenda = s.agenda := rfl
@[simp] theorem State.dropWarp_free (core slot : Nat) : (s.dropWarp core slot).free = s.free := rfl
@[simp] theorem State.dropWarp_upsets (core slot : Nat) : (s.dropWarp core slot).upsets = s.upsets := rfl
@[simp] theorem State.dropWarp_cycles (core slot : Nat) : (s.dropWarp core slot).cycles = s.cycles := rfl
@[simp] theorem State.dropWarp_turn (core slot : Nat) : (s.dropWarp core slot).turn = s.turn := rfl

/-! `State.modCtx` -/
@[simp] theorem State.modCtx_store (id : Nat) (g : Context → Context) : (s.modCtx id g).store = s.store := rfl
@[simp] theorem State.modCtx_caches (id : Nat) (g : Context → Context) : (s.modCtx id g).caches = s.caches := rfl
@[simp] theorem State.modCtx_coh (id : Nat) (g : Context → Context) : (s.modCtx id g).coh = s.coh := rfl
@[simp] theorem State.modCtx_warps (id : Nat) (g : Context → Context) : (s.modCtx id g).warps = s.warps := rfl
@[simp] theorem State.modCtx_contexts (id : Nat) (g : Context → Context) : (s.modCtx id g).contexts = s.contexts.map fun c => if c.id = id then g c else c := rfl
@[simp] theorem State.modCtx_slots (id : Nat) (g : Context → Context) : (s.modCtx id g).slots = s.slots := rfl
@[simp] theorem State.modCtx_sched (id : Nat) (g : Context → Context) : (s.modCtx id g).sched = s.sched := rfl
@[simp] theorem State.modCtx_eng (id : Nat) (g : Context → Context) : (s.modCtx id g).eng = s.eng := rfl
@[simp] theorem State.modCtx_dies (id : Nat) (g : Context → Context) : (s.modCtx id g).dies = s.dies := rfl
@[simp] theorem State.modCtx_stations (id : Nat) (g : Context → Context) : (s.modCtx id g).stations = s.stations := rfl
@[simp] theorem State.modCtx_hub (id : Nat) (g : Context → Context) : (s.modCtx id g).hub = s.hub := rfl
@[simp] theorem State.modCtx_staged (id : Nat) (g : Context → Context) : (s.modCtx id g).staged = s.staged := rfl
@[simp] theorem State.modCtx_recs (id : Nat) (g : Context → Context) : (s.modCtx id g).recs = s.recs := rfl
@[simp] theorem State.modCtx_out (id : Nat) (g : Context → Context) : (s.modCtx id g).out = s.out := rfl
@[simp] theorem State.modCtx_cur (id : Nat) (g : Context → Context) : (s.modCtx id g).cur = s.cur := rfl
@[simp] theorem State.modCtx_agenda (id : Nat) (g : Context → Context) : (s.modCtx id g).agenda = s.agenda := rfl
@[simp] theorem State.modCtx_free (id : Nat) (g : Context → Context) : (s.modCtx id g).free = s.free := rfl
@[simp] theorem State.modCtx_upsets (id : Nat) (g : Context → Context) : (s.modCtx id g).upsets = s.upsets := rfl
@[simp] theorem State.modCtx_cycles (id : Nat) (g : Context → Context) : (s.modCtx id g).cycles = s.cycles := rfl
@[simp] theorem State.modCtx_turn (id : Nat) (g : Context → Context) : (s.modCtx id g).turn = s.turn := rfl

/-! `State.modGang` -/
@[simp] theorem State.modGang_store (id : Nat) (f : Gang → Gang) : (s.modGang id f).store = s.store := rfl
@[simp] theorem State.modGang_caches (id : Nat) (f : Gang → Gang) : (s.modGang id f).caches = s.caches := rfl
@[simp] theorem State.modGang_coh (id : Nat) (f : Gang → Gang) : (s.modGang id f).coh = s.coh := rfl
@[simp] theorem State.modGang_warps (id : Nat) (f : Gang → Gang) : (s.modGang id f).warps = s.warps := rfl
@[simp] theorem State.modGang_contexts (id : Nat) (f : Gang → Gang) : (s.modGang id f).contexts = s.contexts := rfl
@[simp] theorem State.modGang_slots (id : Nat) (f : Gang → Gang) : (s.modGang id f).slots = s.slots := rfl
@[simp] theorem State.modGang_sched (id : Nat) (f : Gang → Gang) : (s.modGang id f).sched = { s.sched with gangs := s.sched.gangs.map fun g => if g.id = id then f g else g } := rfl
@[simp] theorem State.modGang_eng (id : Nat) (f : Gang → Gang) : (s.modGang id f).eng = s.eng := rfl
@[simp] theorem State.modGang_dies (id : Nat) (f : Gang → Gang) : (s.modGang id f).dies = s.dies := rfl
@[simp] theorem State.modGang_stations (id : Nat) (f : Gang → Gang) : (s.modGang id f).stations = s.stations := rfl
@[simp] theorem State.modGang_hub (id : Nat) (f : Gang → Gang) : (s.modGang id f).hub = s.hub := rfl
@[simp] theorem State.modGang_staged (id : Nat) (f : Gang → Gang) : (s.modGang id f).staged = s.staged := rfl
@[simp] theorem State.modGang_recs (id : Nat) (f : Gang → Gang) : (s.modGang id f).recs = s.recs := rfl
@[simp] theorem State.modGang_out (id : Nat) (f : Gang → Gang) : (s.modGang id f).out = s.out := rfl
@[simp] theorem State.modGang_cur (id : Nat) (f : Gang → Gang) : (s.modGang id f).cur = s.cur := rfl
@[simp] theorem State.modGang_agenda (id : Nat) (f : Gang → Gang) : (s.modGang id f).agenda = s.agenda := rfl
@[simp] theorem State.modGang_free (id : Nat) (f : Gang → Gang) : (s.modGang id f).free = s.free := rfl
@[simp] theorem State.modGang_upsets (id : Nat) (f : Gang → Gang) : (s.modGang id f).upsets = s.upsets := rfl
@[simp] theorem State.modGang_cycles (id : Nat) (f : Gang → Gang) : (s.modGang id f).cycles = s.cycles := rfl
@[simp] theorem State.modGang_turn (id : Nat) (f : Gang → Gang) : (s.modGang id f).turn = s.turn := rfl

/-! `State.modDie` -/
@[simp] theorem State.modDie_store (d : Nat) (f : DieRegs → DieRegs) : (s.modDie d f).store = s.store := rfl
@[simp] theorem State.modDie_caches (d : Nat) (f : DieRegs → DieRegs) : (s.modDie d f).caches = s.caches := rfl
@[simp] theorem State.modDie_coh (d : Nat) (f : DieRegs → DieRegs) : (s.modDie d f).coh = s.coh := rfl
@[simp] theorem State.modDie_warps (d : Nat) (f : DieRegs → DieRegs) : (s.modDie d f).warps = s.warps := rfl
@[simp] theorem State.modDie_contexts (d : Nat) (f : DieRegs → DieRegs) : (s.modDie d f).contexts = s.contexts := rfl
@[simp] theorem State.modDie_slots (d : Nat) (f : DieRegs → DieRegs) : (s.modDie d f).slots = s.slots := rfl
@[simp] theorem State.modDie_sched (d : Nat) (f : DieRegs → DieRegs) : (s.modDie d f).sched = s.sched := rfl
@[simp] theorem State.modDie_eng (d : Nat) (f : DieRegs → DieRegs) : (s.modDie d f).eng = s.eng := rfl
@[simp] theorem State.modDie_dies (d : Nat) (f : DieRegs → DieRegs) : (s.modDie d f).dies = s.dies.modify d f := rfl
@[simp] theorem State.modDie_stations (d : Nat) (f : DieRegs → DieRegs) : (s.modDie d f).stations = s.stations := rfl
@[simp] theorem State.modDie_hub (d : Nat) (f : DieRegs → DieRegs) : (s.modDie d f).hub = s.hub := rfl
@[simp] theorem State.modDie_staged (d : Nat) (f : DieRegs → DieRegs) : (s.modDie d f).staged = s.staged := rfl
@[simp] theorem State.modDie_recs (d : Nat) (f : DieRegs → DieRegs) : (s.modDie d f).recs = s.recs := rfl
@[simp] theorem State.modDie_out (d : Nat) (f : DieRegs → DieRegs) : (s.modDie d f).out = s.out := rfl
@[simp] theorem State.modDie_cur (d : Nat) (f : DieRegs → DieRegs) : (s.modDie d f).cur = s.cur := rfl
@[simp] theorem State.modDie_agenda (d : Nat) (f : DieRegs → DieRegs) : (s.modDie d f).agenda = s.agenda := rfl
@[simp] theorem State.modDie_free (d : Nat) (f : DieRegs → DieRegs) : (s.modDie d f).free = s.free := rfl
@[simp] theorem State.modDie_upsets (d : Nat) (f : DieRegs → DieRegs) : (s.modDie d f).upsets = s.upsets := rfl
@[simp] theorem State.modDie_cycles (d : Nat) (f : DieRegs → DieRegs) : (s.modDie d f).cycles = s.cycles := rfl
@[simp] theorem State.modDie_turn (d : Nat) (f : DieRegs → DieRegs) : (s.modDie d f).turn = s.turn := rfl

/-! `State.bump` -/
@[simp] theorem State.bump_store : (s.bump).store = s.store := rfl
@[simp] theorem State.bump_caches : (s.bump).caches = s.caches := rfl
@[simp] theorem State.bump_coh : (s.bump).coh = s.coh := rfl
@[simp] theorem State.bump_warps : (s.bump).warps = s.warps := rfl
@[simp] theorem State.bump_contexts : (s.bump).contexts = s.contexts := rfl
@[simp] theorem State.bump_slots : (s.bump).slots = s.slots := rfl
@[simp] theorem State.bump_sched : (s.bump).sched = s.sched := rfl
@[simp] theorem State.bump_eng : (s.bump).eng = s.eng := rfl
@[simp] theorem State.bump_dies : (s.bump).dies = s.dies := rfl
@[simp] theorem State.bump_stations : (s.bump).stations = s.stations := rfl
@[simp] theorem State.bump_hub : (s.bump).hub = s.hub := rfl
@[simp] theorem State.bump_staged : (s.bump).staged = s.staged := rfl
@[simp] theorem State.bump_recs : (s.bump).recs = s.recs := rfl
@[simp] theorem State.bump_out : (s.bump).out = s.out := rfl
@[simp] theorem State.bump_cur : (s.bump).cur = s.cur := rfl
@[simp] theorem State.bump_agenda : (s.bump).agenda = s.agenda := rfl
@[simp] theorem State.bump_free : (s.bump).free = s.free + 1 := rfl
@[simp] theorem State.bump_upsets : (s.bump).upsets = s.upsets := rfl
@[simp] theorem State.bump_cycles : (s.bump).cycles = s.cycles := rfl
@[simp] theorem State.bump_turn : (s.bump).turn = s.turn := rfl

/-! `State.say` -/
@[simp] theorem State.say_store (o : Out) : (s.say o).store = s.store := rfl
@[simp] theorem State.say_caches (o : Out) : (s.say o).caches = s.caches := rfl
@[simp] theorem State.say_coh (o : Out) : (s.say o).coh = s.coh := rfl
@[simp] theorem State.say_warps (o : Out) : (s.say o).warps = s.warps := rfl
@[simp] theorem State.say_contexts (o : Out) : (s.say o).contexts = s.contexts := rfl
@[simp] theorem State.say_slots (o : Out) : (s.say o).slots = s.slots := rfl
@[simp] theorem State.say_sched (o : Out) : (s.say o).sched = s.sched := rfl
@[simp] theorem State.say_eng (o : Out) : (s.say o).eng = s.eng := rfl
@[simp] theorem State.say_dies (o : Out) : (s.say o).dies = s.dies := rfl
@[simp] theorem State.say_stations (o : Out) : (s.say o).stations = s.stations := rfl
@[simp] theorem State.say_hub (o : Out) : (s.say o).hub = s.hub := rfl
@[simp] theorem State.say_staged (o : Out) : (s.say o).staged = s.staged := rfl
@[simp] theorem State.say_recs (o : Out) : (s.say o).recs = s.recs := rfl
@[simp] theorem State.say_out (o : Out) : (s.say o).out = o :: s.out := rfl
@[simp] theorem State.say_cur (o : Out) : (s.say o).cur = s.cur := rfl
@[simp] theorem State.say_agenda (o : Out) : (s.say o).agenda = s.agenda := rfl
@[simp] theorem State.say_free (o : Out) : (s.say o).free = s.free := rfl
@[simp] theorem State.say_upsets (o : Out) : (s.say o).upsets = s.upsets := rfl
@[simp] theorem State.say_cycles (o : Out) : (s.say o).cycles = s.cycles := rfl
@[simp] theorem State.say_turn (o : Out) : (s.say o).turn = s.turn := rfl

/-! `State.modCoh` -/
@[simp] theorem State.modCoh_store (g : Coherence → Coherence) : (s.modCoh g).store = s.store := rfl
@[simp] theorem State.modCoh_caches (g : Coherence → Coherence) : (s.modCoh g).caches = s.caches := rfl
@[simp] theorem State.modCoh_coh (g : Coherence → Coherence) : (s.modCoh g).coh = g s.coh := rfl
@[simp] theorem State.modCoh_warps (g : Coherence → Coherence) : (s.modCoh g).warps = s.warps := rfl
@[simp] theorem State.modCoh_contexts (g : Coherence → Coherence) : (s.modCoh g).contexts = s.contexts := rfl
@[simp] theorem State.modCoh_slots (g : Coherence → Coherence) : (s.modCoh g).slots = s.slots := rfl
@[simp] theorem State.modCoh_sched (g : Coherence → Coherence) : (s.modCoh g).sched = s.sched := rfl
@[simp] theorem State.modCoh_eng (g : Coherence → Coherence) : (s.modCoh g).eng = s.eng := rfl
@[simp] theorem State.modCoh_dies (g : Coherence → Coherence) : (s.modCoh g).dies = s.dies := rfl
@[simp] theorem State.modCoh_stations (g : Coherence → Coherence) : (s.modCoh g).stations = s.stations := rfl
@[simp] theorem State.modCoh_hub (g : Coherence → Coherence) : (s.modCoh g).hub = s.hub := rfl
@[simp] theorem State.modCoh_staged (g : Coherence → Coherence) : (s.modCoh g).staged = s.staged := rfl
@[simp] theorem State.modCoh_recs (g : Coherence → Coherence) : (s.modCoh g).recs = s.recs := rfl
@[simp] theorem State.modCoh_out (g : Coherence → Coherence) : (s.modCoh g).out = s.out := rfl
@[simp] theorem State.modCoh_cur (g : Coherence → Coherence) : (s.modCoh g).cur = s.cur := rfl
@[simp] theorem State.modCoh_agenda (g : Coherence → Coherence) : (s.modCoh g).agenda = s.agenda := rfl
@[simp] theorem State.modCoh_free (g : Coherence → Coherence) : (s.modCoh g).free = s.free := rfl
@[simp] theorem State.modCoh_upsets (g : Coherence → Coherence) : (s.modCoh g).upsets = s.upsets := rfl
@[simp] theorem State.modCoh_cycles (g : Coherence → Coherence) : (s.modCoh g).cycles = s.cycles := rfl
@[simp] theorem State.modCoh_turn (g : Coherence → Coherence) : (s.modCoh g).turn = s.turn := rfl

/-! `State.modSched` -/
@[simp] theorem State.modSched_store (g : Sched → Sched) : (s.modSched g).store = s.store := rfl
@[simp] theorem State.modSched_caches (g : Sched → Sched) : (s.modSched g).caches = s.caches := rfl
@[simp] theorem State.modSched_coh (g : Sched → Sched) : (s.modSched g).coh = s.coh := rfl
@[simp] theorem State.modSched_warps (g : Sched → Sched) : (s.modSched g).warps = s.warps := rfl
@[simp] theorem State.modSched_contexts (g : Sched → Sched) : (s.modSched g).contexts = s.contexts := rfl
@[simp] theorem State.modSched_slots (g : Sched → Sched) : (s.modSched g).slots = s.slots := rfl
@[simp] theorem State.modSched_sched (g : Sched → Sched) : (s.modSched g).sched = g s.sched := rfl
@[simp] theorem State.modSched_eng (g : Sched → Sched) : (s.modSched g).eng = s.eng := rfl
@[simp] theorem State.modSched_dies (g : Sched → Sched) : (s.modSched g).dies = s.dies := rfl
@[simp] theorem State.modSched_stations (g : Sched → Sched) : (s.modSched g).stations = s.stations := rfl
@[simp] theorem State.modSched_hub (g : Sched → Sched) : (s.modSched g).hub = s.hub := rfl
@[simp] theorem State.modSched_staged (g : Sched → Sched) : (s.modSched g).staged = s.staged := rfl
@[simp] theorem State.modSched_recs (g : Sched → Sched) : (s.modSched g).recs = s.recs := rfl
@[simp] theorem State.modSched_out (g : Sched → Sched) : (s.modSched g).out = s.out := rfl
@[simp] theorem State.modSched_cur (g : Sched → Sched) : (s.modSched g).cur = s.cur := rfl
@[simp] theorem State.modSched_agenda (g : Sched → Sched) : (s.modSched g).agenda = s.agenda := rfl
@[simp] theorem State.modSched_free (g : Sched → Sched) : (s.modSched g).free = s.free := rfl
@[simp] theorem State.modSched_upsets (g : Sched → Sched) : (s.modSched g).upsets = s.upsets := rfl
@[simp] theorem State.modSched_cycles (g : Sched → Sched) : (s.modSched g).cycles = s.cycles := rfl
@[simp] theorem State.modSched_turn (g : Sched → Sched) : (s.modSched g).turn = s.turn := rfl

/-! `State.modEng` -/
@[simp] theorem State.modEng_store (g : Engines → Engines) : (s.modEng g).store = s.store := rfl
@[simp] theorem State.modEng_caches (g : Engines → Engines) : (s.modEng g).caches = s.caches := rfl
@[simp] theorem State.modEng_coh (g : Engines → Engines) : (s.modEng g).coh = s.coh := rfl
@[simp] theorem State.modEng_warps (g : Engines → Engines) : (s.modEng g).warps = s.warps := rfl
@[simp] theorem State.modEng_contexts (g : Engines → Engines) : (s.modEng g).contexts = s.contexts := rfl
@[simp] theorem State.modEng_slots (g : Engines → Engines) : (s.modEng g).slots = s.slots := rfl
@[simp] theorem State.modEng_sched (g : Engines → Engines) : (s.modEng g).sched = s.sched := rfl
@[simp] theorem State.modEng_eng (g : Engines → Engines) : (s.modEng g).eng = g s.eng := rfl
@[simp] theorem State.modEng_dies (g : Engines → Engines) : (s.modEng g).dies = s.dies := rfl
@[simp] theorem State.modEng_stations (g : Engines → Engines) : (s.modEng g).stations = s.stations := rfl
@[simp] theorem State.modEng_hub (g : Engines → Engines) : (s.modEng g).hub = s.hub := rfl
@[simp] theorem State.modEng_staged (g : Engines → Engines) : (s.modEng g).staged = s.staged := rfl
@[simp] theorem State.modEng_recs (g : Engines → Engines) : (s.modEng g).recs = s.recs := rfl
@[simp] theorem State.modEng_out (g : Engines → Engines) : (s.modEng g).out = s.out := rfl
@[simp] theorem State.modEng_cur (g : Engines → Engines) : (s.modEng g).cur = s.cur := rfl
@[simp] theorem State.modEng_agenda (g : Engines → Engines) : (s.modEng g).agenda = s.agenda := rfl
@[simp] theorem State.modEng_free (g : Engines → Engines) : (s.modEng g).free = s.free := rfl
@[simp] theorem State.modEng_upsets (g : Engines → Engines) : (s.modEng g).upsets = s.upsets := rfl
@[simp] theorem State.modEng_cycles (g : Engines → Engines) : (s.modEng g).cycles = s.cycles := rfl
@[simp] theorem State.modEng_turn (g : Engines → Engines) : (s.modEng g).turn = s.turn := rfl

/-! `State.modStore` -/
@[simp] theorem State.modStore_store (g : Store → Store) : (s.modStore g).store = g s.store := rfl
@[simp] theorem State.modStore_caches (g : Store → Store) : (s.modStore g).caches = s.caches := rfl
@[simp] theorem State.modStore_coh (g : Store → Store) : (s.modStore g).coh = s.coh := rfl
@[simp] theorem State.modStore_warps (g : Store → Store) : (s.modStore g).warps = s.warps := rfl
@[simp] theorem State.modStore_contexts (g : Store → Store) : (s.modStore g).contexts = s.contexts := rfl
@[simp] theorem State.modStore_slots (g : Store → Store) : (s.modStore g).slots = s.slots := rfl
@[simp] theorem State.modStore_sched (g : Store → Store) : (s.modStore g).sched = s.sched := rfl
@[simp] theorem State.modStore_eng (g : Store → Store) : (s.modStore g).eng = s.eng := rfl
@[simp] theorem State.modStore_dies (g : Store → Store) : (s.modStore g).dies = s.dies := rfl
@[simp] theorem State.modStore_stations (g : Store → Store) : (s.modStore g).stations = s.stations := rfl
@[simp] theorem State.modStore_hub (g : Store → Store) : (s.modStore g).hub = s.hub := rfl
@[simp] theorem State.modStore_staged (g : Store → Store) : (s.modStore g).staged = s.staged := rfl
@[simp] theorem State.modStore_recs (g : Store → Store) : (s.modStore g).recs = s.recs := rfl
@[simp] theorem State.modStore_out (g : Store → Store) : (s.modStore g).out = s.out := rfl
@[simp] theorem State.modStore_cur (g : Store → Store) : (s.modStore g).cur = s.cur := rfl
@[simp] theorem State.modStore_agenda (g : Store → Store) : (s.modStore g).agenda = s.agenda := rfl
@[simp] theorem State.modStore_free (g : Store → Store) : (s.modStore g).free = s.free := rfl
@[simp] theorem State.modStore_upsets (g : Store → Store) : (s.modStore g).upsets = s.upsets := rfl
@[simp] theorem State.modStore_cycles (g : Store → Store) : (s.modStore g).cycles = s.cycles := rfl
@[simp] theorem State.modStore_turn (g : Store → Store) : (s.modStore g).turn = s.turn := rfl

/-! `State.modCaches` -/
@[simp] theorem State.modCaches_store (g : Caches → Caches) : (s.modCaches g).store = s.store := rfl
@[simp] theorem State.modCaches_caches (g : Caches → Caches) : (s.modCaches g).caches = g s.caches := rfl
@[simp] theorem State.modCaches_coh (g : Caches → Caches) : (s.modCaches g).coh = s.coh := rfl
@[simp] theorem State.modCaches_warps (g : Caches → Caches) : (s.modCaches g).warps = s.warps := rfl
@[simp] theorem State.modCaches_contexts (g : Caches → Caches) : (s.modCaches g).contexts = s.contexts := rfl
@[simp] theorem State.modCaches_slots (g : Caches → Caches) : (s.modCaches g).slots = s.slots := rfl
@[simp] theorem State.modCaches_sched (g : Caches → Caches) : (s.modCaches g).sched = s.sched := rfl
@[simp] theorem State.modCaches_eng (g : Caches → Caches) : (s.modCaches g).eng = s.eng := rfl
@[simp] theorem State.modCaches_dies (g : Caches → Caches) : (s.modCaches g).dies = s.dies := rfl
@[simp] theorem State.modCaches_stations (g : Caches → Caches) : (s.modCaches g).stations = s.stations := rfl
@[simp] theorem State.modCaches_hub (g : Caches → Caches) : (s.modCaches g).hub = s.hub := rfl
@[simp] theorem State.modCaches_staged (g : Caches → Caches) : (s.modCaches g).staged = s.staged := rfl
@[simp] theorem State.modCaches_recs (g : Caches → Caches) : (s.modCaches g).recs = s.recs := rfl
@[simp] theorem State.modCaches_out (g : Caches → Caches) : (s.modCaches g).out = s.out := rfl
@[simp] theorem State.modCaches_cur (g : Caches → Caches) : (s.modCaches g).cur = s.cur := rfl
@[simp] theorem State.modCaches_agenda (g : Caches → Caches) : (s.modCaches g).agenda = s.agenda := rfl
@[simp] theorem State.modCaches_free (g : Caches → Caches) : (s.modCaches g).free = s.free := rfl
@[simp] theorem State.modCaches_upsets (g : Caches → Caches) : (s.modCaches g).upsets = s.upsets := rfl
@[simp] theorem State.modCaches_cycles (g : Caches → Caches) : (s.modCaches g).cycles = s.cycles := rfl
@[simp] theorem State.modCaches_turn (g : Caches → Caches) : (s.modCaches g).turn = s.turn := rfl

/-! `State.modHub` -/
@[simp] theorem State.modHub_store (g : Hub → Hub) : (s.modHub g).store = s.store := rfl
@[simp] theorem State.modHub_caches (g : Hub → Hub) : (s.modHub g).caches = s.caches := rfl
@[simp] theorem State.modHub_coh (g : Hub → Hub) : (s.modHub g).coh = s.coh := rfl
@[simp] theorem State.modHub_warps (g : Hub → Hub) : (s.modHub g).warps = s.warps := rfl
@[simp] theorem State.modHub_contexts (g : Hub → Hub) : (s.modHub g).contexts = s.contexts := rfl
@[simp] theorem State.modHub_slots (g : Hub → Hub) : (s.modHub g).slots = s.slots := rfl
@[simp] theorem State.modHub_sched (g : Hub → Hub) : (s.modHub g).sched = s.sched := rfl
@[simp] theorem State.modHub_eng (g : Hub → Hub) : (s.modHub g).eng = s.eng := rfl
@[simp] theorem State.modHub_dies (g : Hub → Hub) : (s.modHub g).dies = s.dies := rfl
@[simp] theorem State.modHub_stations (g : Hub → Hub) : (s.modHub g).stations = s.stations := rfl
@[simp] theorem State.modHub_hub (g : Hub → Hub) : (s.modHub g).hub = g s.hub := rfl
@[simp] theorem State.modHub_staged (g : Hub → Hub) : (s.modHub g).staged = s.staged := rfl
@[simp] theorem State.modHub_recs (g : Hub → Hub) : (s.modHub g).recs = s.recs := rfl
@[simp] theorem State.modHub_out (g : Hub → Hub) : (s.modHub g).out = s.out := rfl
@[simp] theorem State.modHub_cur (g : Hub → Hub) : (s.modHub g).cur = s.cur := rfl
@[simp] theorem State.modHub_agenda (g : Hub → Hub) : (s.modHub g).agenda = s.agenda := rfl
@[simp] theorem State.modHub_free (g : Hub → Hub) : (s.modHub g).free = s.free := rfl
@[simp] theorem State.modHub_upsets (g : Hub → Hub) : (s.modHub g).upsets = s.upsets := rfl
@[simp] theorem State.modHub_cycles (g : Hub → Hub) : (s.modHub g).cycles = s.cycles := rfl
@[simp] theorem State.modHub_turn (g : Hub → Hub) : (s.modHub g).turn = s.turn := rfl

variable (w : Warp)

/-! `Warp.putV` -/
@[simp] theorem Warp.putV_core (n : Nat) (x : VReg) : (w.putV n x).core = w.core := rfl
@[simp] theorem Warp.putV_slot (n : Nat) (x : VReg) : (w.putV n x).slot = w.slot := rfl
@[simp] theorem Warp.putV_gang (n : Nat) (x : VReg) : (w.putV n x).gang = w.gang := rfl
@[simp] theorem Warp.putV_pos (n : Nat) (x : VReg) : (w.putV n x).pos = w.pos := rfl
@[simp] theorem Warp.putV_idx (n : Nat) (x : VReg) : (w.putV n x).idx = w.idx := rfl
@[simp] theorem Warp.putV_ctx (n : Nat) (x : VReg) : (w.putV n x).ctx = w.ctx := rfl
@[simp] theorem Warp.putV_vrc (n : Nat) (x : VReg) : (w.putV n x).vrc = w.vrc := rfl
@[simp] theorem Warp.putV_src (n : Nat) (x : VReg) : (w.putV n x).src = w.src := rfl
@[simp] theorem Warp.putV_v (n : Nat) (x : VReg) : (w.putV n x).v = w.v.set n x := rfl
@[simp] theorem Warp.putV_k (n : Nat) (x : VReg) : (w.putV n x).k = w.k := rfl
@[simp] theorem Warp.putV_s (n : Nat) (x : VReg) : (w.putV n x).s = w.s := rfl
@[simp] theorem Warp.putV_q (n : Nat) (x : VReg) : (w.putV n x).q = w.q := rfl
@[simp] theorem Warp.putV_mode (n : Nat) (x : VReg) : (w.putV n x).mode = w.mode := rfl
@[simp] theorem Warp.putV_flags (n : Nat) (x : VReg) : (w.putV n x).flags = w.flags := rfl
@[simp] theorem Warp.putV_mshape (n : Nat) (x : VReg) : (w.putV n x).mshape = w.mshape := rfl
@[simp] theorem Warp.putV_tvec (n : Nat) (x : VReg) : (w.putV n x).tvec = w.tvec := rfl
@[simp] theorem Warp.putV_slices (n : Nat) (x : VReg) : (w.putV n x).slices = w.slices := rfl
@[simp] theorem Warp.putV_handler (n : Nat) (x : VReg) : (w.putV n x).handler = w.handler := rfl
@[simp] theorem Warp.putV_halted (n : Nat) (x : VReg) : (w.putV n x).halted = w.halted := rfl
@[simp] theorem Warp.putV_log (n : Nat) (x : VReg) : (w.putV n x).log = w.log := rfl
@[simp] theorem Warp.putV_windows (n : Nat) (x : VReg) : (w.putV n x).windows = w.windows := rfl
@[simp] theorem Warp.putV_shared (n : Nat) (x : VReg) : (w.putV n x).shared = w.shared := rfl
@[simp] theorem Warp.putV_past (n : Nat) (x : VReg) : (w.putV n x).past = w.past := rfl
@[simp] theorem Warp.putV_entry (n : Nat) (x : VReg) : (w.putV n x).entry = w.entry := rfl
@[simp] theorem Warp.putV_frameSlot (n : Nat) (x : VReg) : (w.putV n x).frameSlot = w.frameSlot := rfl
@[simp] theorem Warp.putV_lpSlot (n : Nat) (x : VReg) : (w.putV n x).lpSlot = w.lpSlot := rfl
@[simp] theorem Warp.putV_stopping (n : Nat) (x : VReg) : (w.putV n x).stopping = w.stopping := rfl
@[simp] theorem Warp.putV_frameDone (n : Nat) (x : VReg) : (w.putV n x).frameDone = w.frameDone := rfl
@[simp] theorem Warp.putV_returning (n : Nat) (x : VReg) : (w.putV n x).returning = w.returning := rfl
@[simp] theorem Warp.putV_failed (n : Nat) (x : VReg) : (w.putV n x).failed = w.failed := rfl

/-! `Warp.setV` -/
@[simp] theorem Warp.setV_core (n : Nat) (m : LaneMask) (g : Nat → Word) : (w.setV n m g).core = w.core := rfl
@[simp] theorem Warp.setV_slot (n : Nat) (m : LaneMask) (g : Nat → Word) : (w.setV n m g).slot = w.slot := rfl
@[simp] theorem Warp.setV_gang (n : Nat) (m : LaneMask) (g : Nat → Word) : (w.setV n m g).gang = w.gang := rfl
@[simp] theorem Warp.setV_pos (n : Nat) (m : LaneMask) (g : Nat → Word) : (w.setV n m g).pos = w.pos := rfl
@[simp] theorem Warp.setV_idx (n : Nat) (m : LaneMask) (g : Nat → Word) : (w.setV n m g).idx = w.idx := rfl
@[simp] theorem Warp.setV_ctx (n : Nat) (m : LaneMask) (g : Nat → Word) : (w.setV n m g).ctx = w.ctx := rfl
@[simp] theorem Warp.setV_vrc (n : Nat) (m : LaneMask) (g : Nat → Word) : (w.setV n m g).vrc = w.vrc := rfl
@[simp] theorem Warp.setV_src (n : Nat) (m : LaneMask) (g : Nat → Word) : (w.setV n m g).src = w.src := rfl
@[simp] theorem Warp.setV_v (n : Nat) (m : LaneMask) (g : Nat → Word) : (w.setV n m g).v = w.v.set n (VReg.write (w.getV n) m g) := rfl
@[simp] theorem Warp.setV_k (n : Nat) (m : LaneMask) (g : Nat → Word) : (w.setV n m g).k = w.k := rfl
@[simp] theorem Warp.setV_s (n : Nat) (m : LaneMask) (g : Nat → Word) : (w.setV n m g).s = w.s := rfl
@[simp] theorem Warp.setV_q (n : Nat) (m : LaneMask) (g : Nat → Word) : (w.setV n m g).q = w.q := rfl
@[simp] theorem Warp.setV_mode (n : Nat) (m : LaneMask) (g : Nat → Word) : (w.setV n m g).mode = w.mode := rfl
@[simp] theorem Warp.setV_flags (n : Nat) (m : LaneMask) (g : Nat → Word) : (w.setV n m g).flags = w.flags := rfl
@[simp] theorem Warp.setV_mshape (n : Nat) (m : LaneMask) (g : Nat → Word) : (w.setV n m g).mshape = w.mshape := rfl
@[simp] theorem Warp.setV_tvec (n : Nat) (m : LaneMask) (g : Nat → Word) : (w.setV n m g).tvec = w.tvec := rfl
@[simp] theorem Warp.setV_slices (n : Nat) (m : LaneMask) (g : Nat → Word) : (w.setV n m g).slices = w.slices := rfl
@[simp] theorem Warp.setV_handler (n : Nat) (m : LaneMask) (g : Nat → Word) : (w.setV n m g).handler = w.handler := rfl
@[simp] theorem Warp.setV_halted (n : Nat) (m : LaneMask) (g : Nat → Word) : (w.setV n m g).halted = w.halted := rfl
@[simp] theorem Warp.setV_log (n : Nat) (m : LaneMask) (g : Nat → Word) : (w.setV n m g).log = w.log := rfl
@[simp] theorem Warp.setV_windows (n : Nat) (m : LaneMask) (g : Nat → Word) : (w.setV n m g).windows = w.windows := rfl
@[simp] theorem Warp.setV_shared (n : Nat) (m : LaneMask) (g : Nat → Word) : (w.setV n m g).shared = w.shared := rfl
@[simp] theorem Warp.setV_past (n : Nat) (m : LaneMask) (g : Nat → Word) : (w.setV n m g).past = w.past := rfl
@[simp] theorem Warp.setV_entry (n : Nat) (m : LaneMask) (g : Nat → Word) : (w.setV n m g).entry = w.entry := rfl
@[simp] theorem Warp.setV_frameSlot (n : Nat) (m : LaneMask) (g : Nat → Word) : (w.setV n m g).frameSlot = w.frameSlot := rfl
@[simp] theorem Warp.setV_lpSlot (n : Nat) (m : LaneMask) (g : Nat → Word) : (w.setV n m g).lpSlot = w.lpSlot := rfl
@[simp] theorem Warp.setV_stopping (n : Nat) (m : LaneMask) (g : Nat → Word) : (w.setV n m g).stopping = w.stopping := rfl
@[simp] theorem Warp.setV_frameDone (n : Nat) (m : LaneMask) (g : Nat → Word) : (w.setV n m g).frameDone = w.frameDone := rfl
@[simp] theorem Warp.setV_returning (n : Nat) (m : LaneMask) (g : Nat → Word) : (w.setV n m g).returning = w.returning := rfl
@[simp] theorem Warp.setV_failed (n : Nat) (m : LaneMask) (g : Nat → Word) : (w.setV n m g).failed = w.failed := rfl

/-! `Warp.putK` -/
@[simp] theorem Warp.putK_core (n : Nat) (x : KReg) : (w.putK n x).core = w.core := rfl
@[simp] theorem Warp.putK_slot (n : Nat) (x : KReg) : (w.putK n x).slot = w.slot := rfl
@[simp] theorem Warp.putK_gang (n : Nat) (x : KReg) : (w.putK n x).gang = w.gang := rfl
@[simp] theorem Warp.putK_pos (n : Nat) (x : KReg) : (w.putK n x).pos = w.pos := rfl
@[simp] theorem Warp.putK_idx (n : Nat) (x : KReg) : (w.putK n x).idx = w.idx := rfl
@[simp] theorem Warp.putK_ctx (n : Nat) (x : KReg) : (w.putK n x).ctx = w.ctx := rfl
@[simp] theorem Warp.putK_vrc (n : Nat) (x : KReg) : (w.putK n x).vrc = w.vrc := rfl
@[simp] theorem Warp.putK_src (n : Nat) (x : KReg) : (w.putK n x).src = w.src := rfl
@[simp] theorem Warp.putK_v (n : Nat) (x : KReg) : (w.putK n x).v = w.v := rfl
@[simp] theorem Warp.putK_k (n : Nat) (x : KReg) : (w.putK n x).k = w.k.set n x := rfl
@[simp] theorem Warp.putK_s (n : Nat) (x : KReg) : (w.putK n x).s = w.s := rfl
@[simp] theorem Warp.putK_q (n : Nat) (x : KReg) : (w.putK n x).q = w.q := rfl
@[simp] theorem Warp.putK_mode (n : Nat) (x : KReg) : (w.putK n x).mode = w.mode := rfl
@[simp] theorem Warp.putK_flags (n : Nat) (x : KReg) : (w.putK n x).flags = w.flags := rfl
@[simp] theorem Warp.putK_mshape (n : Nat) (x : KReg) : (w.putK n x).mshape = w.mshape := rfl
@[simp] theorem Warp.putK_tvec (n : Nat) (x : KReg) : (w.putK n x).tvec = w.tvec := rfl
@[simp] theorem Warp.putK_slices (n : Nat) (x : KReg) : (w.putK n x).slices = w.slices := rfl
@[simp] theorem Warp.putK_handler (n : Nat) (x : KReg) : (w.putK n x).handler = w.handler := rfl
@[simp] theorem Warp.putK_halted (n : Nat) (x : KReg) : (w.putK n x).halted = w.halted := rfl
@[simp] theorem Warp.putK_log (n : Nat) (x : KReg) : (w.putK n x).log = w.log := rfl
@[simp] theorem Warp.putK_windows (n : Nat) (x : KReg) : (w.putK n x).windows = w.windows := rfl
@[simp] theorem Warp.putK_shared (n : Nat) (x : KReg) : (w.putK n x).shared = w.shared := rfl
@[simp] theorem Warp.putK_past (n : Nat) (x : KReg) : (w.putK n x).past = w.past := rfl
@[simp] theorem Warp.putK_entry (n : Nat) (x : KReg) : (w.putK n x).entry = w.entry := rfl
@[simp] theorem Warp.putK_frameSlot (n : Nat) (x : KReg) : (w.putK n x).frameSlot = w.frameSlot := rfl
@[simp] theorem Warp.putK_lpSlot (n : Nat) (x : KReg) : (w.putK n x).lpSlot = w.lpSlot := rfl
@[simp] theorem Warp.putK_stopping (n : Nat) (x : KReg) : (w.putK n x).stopping = w.stopping := rfl
@[simp] theorem Warp.putK_frameDone (n : Nat) (x : KReg) : (w.putK n x).frameDone = w.frameDone := rfl
@[simp] theorem Warp.putK_returning (n : Nat) (x : KReg) : (w.putK n x).returning = w.returning := rfl
@[simp] theorem Warp.putK_failed (n : Nat) (x : KReg) : (w.putK n x).failed = w.failed := rfl

/-! `Warp.orFlags` -/
@[simp] theorem Warp.orFlags_core (n : Nat) : (w.orFlags n).core = w.core := rfl
@[simp] theorem Warp.orFlags_slot (n : Nat) : (w.orFlags n).slot = w.slot := rfl
@[simp] theorem Warp.orFlags_gang (n : Nat) : (w.orFlags n).gang = w.gang := rfl
@[simp] theorem Warp.orFlags_pos (n : Nat) : (w.orFlags n).pos = w.pos := rfl
@[simp] theorem Warp.orFlags_idx (n : Nat) : (w.orFlags n).idx = w.idx := rfl
@[simp] theorem Warp.orFlags_ctx (n : Nat) : (w.orFlags n).ctx = w.ctx := rfl
@[simp] theorem Warp.orFlags_vrc (n : Nat) : (w.orFlags n).vrc = w.vrc := rfl
@[simp] theorem Warp.orFlags_src (n : Nat) : (w.orFlags n).src = w.src := rfl
@[simp] theorem Warp.orFlags_v (n : Nat) : (w.orFlags n).v = w.v := rfl
@[simp] theorem Warp.orFlags_k (n : Nat) : (w.orFlags n).k = w.k := rfl
@[simp] theorem Warp.orFlags_s (n : Nat) : (w.orFlags n).s = w.s := rfl
@[simp] theorem Warp.orFlags_q (n : Nat) : (w.orFlags n).q = w.q := rfl
@[simp] theorem Warp.orFlags_mode (n : Nat) : (w.orFlags n).mode = w.mode := rfl
@[simp] theorem Warp.orFlags_flags (n : Nat) : (w.orFlags n).flags = w.flags ||| (BitVec.ofNat 32 n &&& 0xFF) := rfl
@[simp] theorem Warp.orFlags_mshape (n : Nat) : (w.orFlags n).mshape = w.mshape := rfl
@[simp] theorem Warp.orFlags_tvec (n : Nat) : (w.orFlags n).tvec = w.tvec := rfl
@[simp] theorem Warp.orFlags_slices (n : Nat) : (w.orFlags n).slices = w.slices := rfl
@[simp] theorem Warp.orFlags_handler (n : Nat) : (w.orFlags n).handler = w.handler := rfl
@[simp] theorem Warp.orFlags_halted (n : Nat) : (w.orFlags n).halted = w.halted := rfl
@[simp] theorem Warp.orFlags_log (n : Nat) : (w.orFlags n).log = w.log := rfl
@[simp] theorem Warp.orFlags_windows (n : Nat) : (w.orFlags n).windows = w.windows := rfl
@[simp] theorem Warp.orFlags_shared (n : Nat) : (w.orFlags n).shared = w.shared := rfl
@[simp] theorem Warp.orFlags_past (n : Nat) : (w.orFlags n).past = w.past := rfl
@[simp] theorem Warp.orFlags_entry (n : Nat) : (w.orFlags n).entry = w.entry := rfl
@[simp] theorem Warp.orFlags_frameSlot (n : Nat) : (w.orFlags n).frameSlot = w.frameSlot := rfl
@[simp] theorem Warp.orFlags_lpSlot (n : Nat) : (w.orFlags n).lpSlot = w.lpSlot := rfl
@[simp] theorem Warp.orFlags_stopping (n : Nat) : (w.orFlags n).stopping = w.stopping := rfl
@[simp] theorem Warp.orFlags_frameDone (n : Nat) : (w.orFlags n).frameDone = w.frameDone := rfl
@[simp] theorem Warp.orFlags_returning (n : Nat) : (w.orFlags n).returning = w.returning := rfl
@[simp] theorem Warp.orFlags_failed (n : Nat) : (w.orFlags n).failed = w.failed := rfl

/-! `Warp.mapSlices` -/
@[simp] theorem Warp.mapSlices_core (g : Nat → Slice → Slice) : (w.mapSlices g).core = w.core := rfl
@[simp] theorem Warp.mapSlices_slot (g : Nat → Slice → Slice) : (w.mapSlices g).slot = w.slot := rfl
@[simp] theorem Warp.mapSlices_gang (g : Nat → Slice → Slice) : (w.mapSlices g).gang = w.gang := rfl
@[simp] theorem Warp.mapSlices_pos (g : Nat → Slice → Slice) : (w.mapSlices g).pos = w.pos := rfl
@[simp] theorem Warp.mapSlices_idx (g : Nat → Slice → Slice) : (w.mapSlices g).idx = w.idx := rfl
@[simp] theorem Warp.mapSlices_ctx (g : Nat → Slice → Slice) : (w.mapSlices g).ctx = w.ctx := rfl
@[simp] theorem Warp.mapSlices_vrc (g : Nat → Slice → Slice) : (w.mapSlices g).vrc = w.vrc := rfl
@[simp] theorem Warp.mapSlices_src (g : Nat → Slice → Slice) : (w.mapSlices g).src = w.src := rfl
@[simp] theorem Warp.mapSlices_v (g : Nat → Slice → Slice) : (w.mapSlices g).v = w.v := rfl
@[simp] theorem Warp.mapSlices_k (g : Nat → Slice → Slice) : (w.mapSlices g).k = w.k := rfl
@[simp] theorem Warp.mapSlices_s (g : Nat → Slice → Slice) : (w.mapSlices g).s = w.s := rfl
@[simp] theorem Warp.mapSlices_q (g : Nat → Slice → Slice) : (w.mapSlices g).q = w.q := rfl
@[simp] theorem Warp.mapSlices_mode (g : Nat → Slice → Slice) : (w.mapSlices g).mode = w.mode := rfl
@[simp] theorem Warp.mapSlices_flags (g : Nat → Slice → Slice) : (w.mapSlices g).flags = w.flags := rfl
@[simp] theorem Warp.mapSlices_mshape (g : Nat → Slice → Slice) : (w.mapSlices g).mshape = w.mshape := rfl
@[simp] theorem Warp.mapSlices_tvec (g : Nat → Slice → Slice) : (w.mapSlices g).tvec = w.tvec := rfl
@[simp] theorem Warp.mapSlices_slices (g : Nat → Slice → Slice) : (w.mapSlices g).slices = (List.range 24).map fun i => g i (w.slice i) := rfl
@[simp] theorem Warp.mapSlices_handler (g : Nat → Slice → Slice) : (w.mapSlices g).handler = w.handler := rfl
@[simp] theorem Warp.mapSlices_halted (g : Nat → Slice → Slice) : (w.mapSlices g).halted = w.halted := rfl
@[simp] theorem Warp.mapSlices_log (g : Nat → Slice → Slice) : (w.mapSlices g).log = w.log := rfl
@[simp] theorem Warp.mapSlices_windows (g : Nat → Slice → Slice) : (w.mapSlices g).windows = w.windows := rfl
@[simp] theorem Warp.mapSlices_shared (g : Nat → Slice → Slice) : (w.mapSlices g).shared = w.shared := rfl
@[simp] theorem Warp.mapSlices_past (g : Nat → Slice → Slice) : (w.mapSlices g).past = w.past := rfl
@[simp] theorem Warp.mapSlices_entry (g : Nat → Slice → Slice) : (w.mapSlices g).entry = w.entry := rfl
@[simp] theorem Warp.mapSlices_frameSlot (g : Nat → Slice → Slice) : (w.mapSlices g).frameSlot = w.frameSlot := rfl
@[simp] theorem Warp.mapSlices_lpSlot (g : Nat → Slice → Slice) : (w.mapSlices g).lpSlot = w.lpSlot := rfl
@[simp] theorem Warp.mapSlices_stopping (g : Nat → Slice → Slice) : (w.mapSlices g).stopping = w.stopping := rfl
@[simp] theorem Warp.mapSlices_frameDone (g : Nat → Slice → Slice) : (w.mapSlices g).frameDone = w.frameDone := rfl
@[simp] theorem Warp.mapSlices_returning (g : Nat → Slice → Slice) : (w.mapSlices g).returning = w.returning := rfl
@[simp] theorem Warp.mapSlices_failed (g : Nat → Slice → Slice) : (w.mapSlices g).failed = w.failed := rfl

/-! `Warp.closeWindows` -/
@[simp] theorem Warp.closeWindows_core : (w.closeWindows).core = w.core := rfl
@[simp] theorem Warp.closeWindows_slot : (w.closeWindows).slot = w.slot := rfl
@[simp] theorem Warp.closeWindows_gang : (w.closeWindows).gang = w.gang := rfl
@[simp] theorem Warp.closeWindows_pos : (w.closeWindows).pos = w.pos := rfl
@[simp] theorem Warp.closeWindows_idx : (w.closeWindows).idx = w.idx := rfl
@[simp] theorem Warp.closeWindows_ctx : (w.closeWindows).ctx = w.ctx := rfl
@[simp] theorem Warp.closeWindows_vrc : (w.closeWindows).vrc = w.vrc := rfl
@[simp] theorem Warp.closeWindows_src : (w.closeWindows).src = w.src := rfl
@[simp] theorem Warp.closeWindows_v : (w.closeWindows).v = w.v := rfl
@[simp] theorem Warp.closeWindows_k : (w.closeWindows).k = w.k := rfl
@[simp] theorem Warp.closeWindows_s : (w.closeWindows).s = w.s := rfl
@[simp] theorem Warp.closeWindows_q : (w.closeWindows).q = w.q := rfl
@[simp] theorem Warp.closeWindows_mode : (w.closeWindows).mode = w.mode := rfl
@[simp] theorem Warp.closeWindows_flags : (w.closeWindows).flags = w.flags := rfl
@[simp] theorem Warp.closeWindows_mshape : (w.closeWindows).mshape = w.mshape := rfl
@[simp] theorem Warp.closeWindows_tvec : (w.closeWindows).tvec = w.tvec := rfl
@[simp] theorem Warp.closeWindows_slices : (w.closeWindows).slices = w.slices := rfl
@[simp] theorem Warp.closeWindows_handler : (w.closeWindows).handler = w.handler := rfl
@[simp] theorem Warp.closeWindows_halted : (w.closeWindows).halted = w.halted := rfl
@[simp] theorem Warp.closeWindows_log : (w.closeWindows).log = w.log := rfl
@[simp] theorem Warp.closeWindows_windows : (w.closeWindows).windows = [] := rfl
@[simp] theorem Warp.closeWindows_shared : (w.closeWindows).shared = [] := rfl
@[simp] theorem Warp.closeWindows_past : (w.closeWindows).past = w.past := rfl
@[simp] theorem Warp.closeWindows_entry : (w.closeWindows).entry = w.entry := rfl
@[simp] theorem Warp.closeWindows_frameSlot : (w.closeWindows).frameSlot = w.frameSlot := rfl
@[simp] theorem Warp.closeWindows_lpSlot : (w.closeWindows).lpSlot = w.lpSlot := rfl
@[simp] theorem Warp.closeWindows_stopping : (w.closeWindows).stopping = w.stopping := rfl
@[simp] theorem Warp.closeWindows_frameDone : (w.closeWindows).frameDone = w.frameDone := rfl
@[simp] theorem Warp.closeWindows_returning : (w.closeWindows).returning = w.returning := rfl
@[simp] theorem Warp.closeWindows_failed : (w.closeWindows).failed = w.failed := rfl

/-! `Warp.moveHood` -/
@[simp] theorem Warp.moveHood_core (h : Nat) (pc : DWord) : (w.moveHood h pc).core = w.core := rfl
@[simp] theorem Warp.moveHood_slot (h : Nat) (pc : DWord) : (w.moveHood h pc).slot = w.slot := rfl
@[simp] theorem Warp.moveHood_gang (h : Nat) (pc : DWord) : (w.moveHood h pc).gang = w.gang := rfl
@[simp] theorem Warp.moveHood_pos (h : Nat) (pc : DWord) : (w.moveHood h pc).pos = w.pos := rfl
@[simp] theorem Warp.moveHood_idx (h : Nat) (pc : DWord) : (w.moveHood h pc).idx = w.idx := rfl
@[simp] theorem Warp.moveHood_ctx (h : Nat) (pc : DWord) : (w.moveHood h pc).ctx = w.ctx := rfl
@[simp] theorem Warp.moveHood_vrc (h : Nat) (pc : DWord) : (w.moveHood h pc).vrc = w.vrc := rfl
@[simp] theorem Warp.moveHood_src (h : Nat) (pc : DWord) : (w.moveHood h pc).src = w.src := rfl
@[simp] theorem Warp.moveHood_v (h : Nat) (pc : DWord) : (w.moveHood h pc).v = w.v := rfl
@[simp] theorem Warp.moveHood_k (h : Nat) (pc : DWord) : (w.moveHood h pc).k = w.k := rfl
@[simp] theorem Warp.moveHood_s (h : Nat) (pc : DWord) : (w.moveHood h pc).s = w.s := rfl
@[simp] theorem Warp.moveHood_q (h : Nat) (pc : DWord) : (w.moveHood h pc).q = w.q := rfl
@[simp] theorem Warp.moveHood_mode (h : Nat) (pc : DWord) : (w.moveHood h pc).mode = w.mode := rfl
@[simp] theorem Warp.moveHood_flags (h : Nat) (pc : DWord) : (w.moveHood h pc).flags = w.flags := rfl
@[simp] theorem Warp.moveHood_mshape (h : Nat) (pc : DWord) : (w.moveHood h pc).mshape = w.mshape := rfl
@[simp] theorem Warp.moveHood_tvec (h : Nat) (pc : DWord) : (w.moveHood h pc).tvec = w.tvec := rfl
@[simp] theorem Warp.moveHood_handler (h : Nat) (pc : DWord) : (w.moveHood h pc).handler = w.handler := rfl
@[simp] theorem Warp.moveHood_halted (h : Nat) (pc : DWord) : (w.moveHood h pc).halted = w.halted := rfl
@[simp] theorem Warp.moveHood_log (h : Nat) (pc : DWord) : (w.moveHood h pc).log = w.log := rfl
@[simp] theorem Warp.moveHood_windows (h : Nat) (pc : DWord) : (w.moveHood h pc).windows = w.windows := rfl
@[simp] theorem Warp.moveHood_shared (h : Nat) (pc : DWord) : (w.moveHood h pc).shared = w.shared := rfl
@[simp] theorem Warp.moveHood_past (h : Nat) (pc : DWord) : (w.moveHood h pc).past = w.past := rfl
@[simp] theorem Warp.moveHood_entry (h : Nat) (pc : DWord) : (w.moveHood h pc).entry = w.entry := rfl
@[simp] theorem Warp.moveHood_frameSlot (h : Nat) (pc : DWord) : (w.moveHood h pc).frameSlot = w.frameSlot := rfl
@[simp] theorem Warp.moveHood_lpSlot (h : Nat) (pc : DWord) : (w.moveHood h pc).lpSlot = w.lpSlot := rfl
@[simp] theorem Warp.moveHood_stopping (h : Nat) (pc : DWord) : (w.moveHood h pc).stopping = w.stopping := rfl
@[simp] theorem Warp.moveHood_frameDone (h : Nat) (pc : DWord) : (w.moveHood h pc).frameDone = w.frameDone := rfl
@[simp] theorem Warp.moveHood_returning (h : Nat) (pc : DWord) : (w.moveHood h pc).returning = w.returning := rfl
@[simp] theorem Warp.moveHood_failed (h : Nat) (pc : DWord) : (w.moveHood h pc).failed = w.failed := rfl

/-! `Warp.waitHood` -/
@[simp] theorem Warp.waitHood_core (h : Nat) (x : Wait) : (w.waitHood h x).core = w.core := rfl
@[simp] theorem Warp.waitHood_slot (h : Nat) (x : Wait) : (w.waitHood h x).slot = w.slot := rfl
@[simp] theorem Warp.waitHood_gang (h : Nat) (x : Wait) : (w.waitHood h x).gang = w.gang := rfl
@[simp] theorem Warp.waitHood_pos (h : Nat) (x : Wait) : (w.waitHood h x).pos = w.pos := rfl
@[simp] theorem Warp.waitHood_idx (h : Nat) (x : Wait) : (w.waitHood h x).idx = w.idx := rfl
@[simp] theorem Warp.waitHood_ctx (h : Nat) (x : Wait) : (w.waitHood h x).ctx = w.ctx := rfl
@[simp] theorem Warp.waitHood_vrc (h : Nat) (x : Wait) : (w.waitHood h x).vrc = w.vrc := rfl
@[simp] theorem Warp.waitHood_src (h : Nat) (x : Wait) : (w.waitHood h x).src = w.src := rfl
@[simp] theorem Warp.waitHood_v (h : Nat) (x : Wait) : (w.waitHood h x).v = w.v := rfl
@[simp] theorem Warp.waitHood_k (h : Nat) (x : Wait) : (w.waitHood h x).k = w.k := rfl
@[simp] theorem Warp.waitHood_s (h : Nat) (x : Wait) : (w.waitHood h x).s = w.s := rfl
@[simp] theorem Warp.waitHood_q (h : Nat) (x : Wait) : (w.waitHood h x).q = w.q := rfl
@[simp] theorem Warp.waitHood_mode (h : Nat) (x : Wait) : (w.waitHood h x).mode = w.mode := rfl
@[simp] theorem Warp.waitHood_flags (h : Nat) (x : Wait) : (w.waitHood h x).flags = w.flags := rfl
@[simp] theorem Warp.waitHood_mshape (h : Nat) (x : Wait) : (w.waitHood h x).mshape = w.mshape := rfl
@[simp] theorem Warp.waitHood_tvec (h : Nat) (x : Wait) : (w.waitHood h x).tvec = w.tvec := rfl
@[simp] theorem Warp.waitHood_handler (h : Nat) (x : Wait) : (w.waitHood h x).handler = w.handler := rfl
@[simp] theorem Warp.waitHood_halted (h : Nat) (x : Wait) : (w.waitHood h x).halted = w.halted := rfl
@[simp] theorem Warp.waitHood_log (h : Nat) (x : Wait) : (w.waitHood h x).log = w.log := rfl
@[simp] theorem Warp.waitHood_windows (h : Nat) (x : Wait) : (w.waitHood h x).windows = w.windows := rfl
@[simp] theorem Warp.waitHood_shared (h : Nat) (x : Wait) : (w.waitHood h x).shared = w.shared := rfl
@[simp] theorem Warp.waitHood_past (h : Nat) (x : Wait) : (w.waitHood h x).past = w.past := rfl
@[simp] theorem Warp.waitHood_entry (h : Nat) (x : Wait) : (w.waitHood h x).entry = w.entry := rfl
@[simp] theorem Warp.waitHood_frameSlot (h : Nat) (x : Wait) : (w.waitHood h x).frameSlot = w.frameSlot := rfl
@[simp] theorem Warp.waitHood_lpSlot (h : Nat) (x : Wait) : (w.waitHood h x).lpSlot = w.lpSlot := rfl
@[simp] theorem Warp.waitHood_stopping (h : Nat) (x : Wait) : (w.waitHood h x).stopping = w.stopping := rfl
@[simp] theorem Warp.waitHood_frameDone (h : Nat) (x : Wait) : (w.waitHood h x).frameDone = w.frameDone := rfl
@[simp] theorem Warp.waitHood_returning (h : Nat) (x : Wait) : (w.waitHood h x).returning = w.returning := rfl
@[simp] theorem Warp.waitHood_failed (h : Nat) (x : Wait) : (w.waitHood h x).failed = w.failed := rfl

/-! `Warp.setQ` -/
@[simp] theorem Warp.setQ_core (n : Nat) (m x : LaneMask) : (w.setQ n m x).core = w.core := by unfold Warp.setQ; split <;> rfl
@[simp] theorem Warp.setQ_slot (n : Nat) (m x : LaneMask) : (w.setQ n m x).slot = w.slot := by unfold Warp.setQ; split <;> rfl
@[simp] theorem Warp.setQ_gang (n : Nat) (m x : LaneMask) : (w.setQ n m x).gang = w.gang := by unfold Warp.setQ; split <;> rfl
@[simp] theorem Warp.setQ_pos (n : Nat) (m x : LaneMask) : (w.setQ n m x).pos = w.pos := by unfold Warp.setQ; split <;> rfl
@[simp] theorem Warp.setQ_idx (n : Nat) (m x : LaneMask) : (w.setQ n m x).idx = w.idx := by unfold Warp.setQ; split <;> rfl
@[simp] theorem Warp.setQ_ctx (n : Nat) (m x : LaneMask) : (w.setQ n m x).ctx = w.ctx := by unfold Warp.setQ; split <;> rfl
@[simp] theorem Warp.setQ_vrc (n : Nat) (m x : LaneMask) : (w.setQ n m x).vrc = w.vrc := by unfold Warp.setQ; split <;> rfl
@[simp] theorem Warp.setQ_src (n : Nat) (m x : LaneMask) : (w.setQ n m x).src = w.src := by unfold Warp.setQ; split <;> rfl
@[simp] theorem Warp.setQ_v (n : Nat) (m x : LaneMask) : (w.setQ n m x).v = w.v := by unfold Warp.setQ; split <;> rfl
@[simp] theorem Warp.setQ_k (n : Nat) (m x : LaneMask) : (w.setQ n m x).k = w.k := by unfold Warp.setQ; split <;> rfl
@[simp] theorem Warp.setQ_s (n : Nat) (m x : LaneMask) : (w.setQ n m x).s = w.s := by unfold Warp.setQ; split <;> rfl
@[simp] theorem Warp.setQ_mode (n : Nat) (m x : LaneMask) : (w.setQ n m x).mode = w.mode := by unfold Warp.setQ; split <;> rfl
@[simp] theorem Warp.setQ_flags (n : Nat) (m x : LaneMask) : (w.setQ n m x).flags = w.flags := by unfold Warp.setQ; split <;> rfl
@[simp] theorem Warp.setQ_mshape (n : Nat) (m x : LaneMask) : (w.setQ n m x).mshape = w.mshape := by unfold Warp.setQ; split <;> rfl
@[simp] theorem Warp.setQ_tvec (n : Nat) (m x : LaneMask) : (w.setQ n m x).tvec = w.tvec := by unfold Warp.setQ; split <;> rfl
@[simp] theorem Warp.setQ_slices (n : Nat) (m x : LaneMask) : (w.setQ n m x).slices = w.slices := by unfold Warp.setQ; split <;> rfl
@[simp] theorem Warp.setQ_handler (n : Nat) (m x : LaneMask) : (w.setQ n m x).handler = w.handler := by unfold Warp.setQ; split <;> rfl
@[simp] theorem Warp.setQ_halted (n : Nat) (m x : LaneMask) : (w.setQ n m x).halted = w.halted := by unfold Warp.setQ; split <;> rfl
@[simp] theorem Warp.setQ_log (n : Nat) (m x : LaneMask) : (w.setQ n m x).log = w.log := by unfold Warp.setQ; split <;> rfl
@[simp] theorem Warp.setQ_windows (n : Nat) (m x : LaneMask) : (w.setQ n m x).windows = w.windows := by unfold Warp.setQ; split <;> rfl
@[simp] theorem Warp.setQ_shared (n : Nat) (m x : LaneMask) : (w.setQ n m x).shared = w.shared := by unfold Warp.setQ; split <;> rfl
@[simp] theorem Warp.setQ_past (n : Nat) (m x : LaneMask) : (w.setQ n m x).past = w.past := by unfold Warp.setQ; split <;> rfl
@[simp] theorem Warp.setQ_entry (n : Nat) (m x : LaneMask) : (w.setQ n m x).entry = w.entry := by unfold Warp.setQ; split <;> rfl
@[simp] theorem Warp.setQ_frameSlot (n : Nat) (m x : LaneMask) : (w.setQ n m x).frameSlot = w.frameSlot := by unfold Warp.setQ; split <;> rfl
@[simp] theorem Warp.setQ_lpSlot (n : Nat) (m x : LaneMask) : (w.setQ n m x).lpSlot = w.lpSlot := by unfold Warp.setQ; split <;> rfl
@[simp] theorem Warp.setQ_stopping (n : Nat) (m x : LaneMask) : (w.setQ n m x).stopping = w.stopping := by unfold Warp.setQ; split <;> rfl
@[simp] theorem Warp.setQ_frameDone (n : Nat) (m x : LaneMask) : (w.setQ n m x).frameDone = w.frameDone := by unfold Warp.setQ; split <;> rfl
@[simp] theorem Warp.setQ_returning (n : Nat) (m x : LaneMask) : (w.setQ n m x).returning = w.returning := by unfold Warp.setQ; split <;> rfl
@[simp] theorem Warp.setQ_failed (n : Nat) (m x : LaneMask) : (w.setQ n m x).failed = w.failed := by unfold Warp.setQ; split <;> rfl

/-! `Warp.setS` -/
@[simp] theorem Warp.setS_core (hood : LaneMask) (n : Nat) (x : Word) : (w.setS hood n x).core = w.core := by unfold Warp.setS; split; rfl; split <;> rfl
@[simp] theorem Warp.setS_slot (hood : LaneMask) (n : Nat) (x : Word) : (w.setS hood n x).slot = w.slot := by unfold Warp.setS; split; rfl; split <;> rfl
@[simp] theorem Warp.setS_gang (hood : LaneMask) (n : Nat) (x : Word) : (w.setS hood n x).gang = w.gang := by unfold Warp.setS; split; rfl; split <;> rfl
@[simp] theorem Warp.setS_pos (hood : LaneMask) (n : Nat) (x : Word) : (w.setS hood n x).pos = w.pos := by unfold Warp.setS; split; rfl; split <;> rfl
@[simp] theorem Warp.setS_idx (hood : LaneMask) (n : Nat) (x : Word) : (w.setS hood n x).idx = w.idx := by unfold Warp.setS; split; rfl; split <;> rfl
@[simp] theorem Warp.setS_ctx (hood : LaneMask) (n : Nat) (x : Word) : (w.setS hood n x).ctx = w.ctx := by unfold Warp.setS; split; rfl; split <;> rfl
@[simp] theorem Warp.setS_vrc (hood : LaneMask) (n : Nat) (x : Word) : (w.setS hood n x).vrc = w.vrc := by unfold Warp.setS; split; rfl; split <;> rfl
@[simp] theorem Warp.setS_src (hood : LaneMask) (n : Nat) (x : Word) : (w.setS hood n x).src = w.src := by unfold Warp.setS; split; rfl; split <;> rfl
@[simp] theorem Warp.setS_v (hood : LaneMask) (n : Nat) (x : Word) : (w.setS hood n x).v = w.v := by unfold Warp.setS; split; rfl; split <;> rfl
@[simp] theorem Warp.setS_k (hood : LaneMask) (n : Nat) (x : Word) : (w.setS hood n x).k = w.k := by unfold Warp.setS; split; rfl; split <;> rfl
@[simp] theorem Warp.setS_q (hood : LaneMask) (n : Nat) (x : Word) : (w.setS hood n x).q = w.q := by unfold Warp.setS; split; rfl; split <;> rfl
@[simp] theorem Warp.setS_mode (hood : LaneMask) (n : Nat) (x : Word) : (w.setS hood n x).mode = w.mode := by unfold Warp.setS; split; rfl; split <;> rfl
@[simp] theorem Warp.setS_flags (hood : LaneMask) (n : Nat) (x : Word) : (w.setS hood n x).flags = w.flags := by unfold Warp.setS; split; rfl; split <;> rfl
@[simp] theorem Warp.setS_mshape (hood : LaneMask) (n : Nat) (x : Word) : (w.setS hood n x).mshape = w.mshape := by unfold Warp.setS; split; rfl; split <;> rfl
@[simp] theorem Warp.setS_tvec (hood : LaneMask) (n : Nat) (x : Word) : (w.setS hood n x).tvec = w.tvec := by unfold Warp.setS; split; rfl; split <;> rfl
@[simp] theorem Warp.setS_slices (hood : LaneMask) (n : Nat) (x : Word) : (w.setS hood n x).slices = w.slices := by unfold Warp.setS; split; rfl; split <;> rfl
@[simp] theorem Warp.setS_handler (hood : LaneMask) (n : Nat) (x : Word) : (w.setS hood n x).handler = w.handler := by unfold Warp.setS; split; rfl; split <;> rfl
@[simp] theorem Warp.setS_halted (hood : LaneMask) (n : Nat) (x : Word) : (w.setS hood n x).halted = w.halted := by unfold Warp.setS; split; rfl; split <;> rfl
@[simp] theorem Warp.setS_log (hood : LaneMask) (n : Nat) (x : Word) : (w.setS hood n x).log = w.log := by unfold Warp.setS; split; rfl; split <;> rfl
@[simp] theorem Warp.setS_windows (hood : LaneMask) (n : Nat) (x : Word) : (w.setS hood n x).windows = w.windows := by unfold Warp.setS; split; rfl; split <;> rfl
@[simp] theorem Warp.setS_shared (hood : LaneMask) (n : Nat) (x : Word) : (w.setS hood n x).shared = w.shared := by unfold Warp.setS; split; rfl; split <;> rfl
@[simp] theorem Warp.setS_past (hood : LaneMask) (n : Nat) (x : Word) : (w.setS hood n x).past = w.past := by unfold Warp.setS; split; rfl; split <;> rfl
@[simp] theorem Warp.setS_entry (hood : LaneMask) (n : Nat) (x : Word) : (w.setS hood n x).entry = w.entry := by unfold Warp.setS; split; rfl; split <;> rfl
@[simp] theorem Warp.setS_frameSlot (hood : LaneMask) (n : Nat) (x : Word) : (w.setS hood n x).frameSlot = w.frameSlot := by unfold Warp.setS; split; rfl; split <;> rfl
@[simp] theorem Warp.setS_lpSlot (hood : LaneMask) (n : Nat) (x : Word) : (w.setS hood n x).lpSlot = w.lpSlot := by unfold Warp.setS; split; rfl; split <;> rfl
@[simp] theorem Warp.setS_stopping (hood : LaneMask) (n : Nat) (x : Word) : (w.setS hood n x).stopping = w.stopping := by unfold Warp.setS; split; rfl; split <;> rfl
@[simp] theorem Warp.setS_frameDone (hood : LaneMask) (n : Nat) (x : Word) : (w.setS hood n x).frameDone = w.frameDone := by unfold Warp.setS; split; rfl; split <;> rfl
@[simp] theorem Warp.setS_returning (hood : LaneMask) (n : Nat) (x : Word) : (w.setS hood n x).returning = w.returning := by unfold Warp.setS; split; rfl; split <;> rfl
@[simp] theorem Warp.setS_failed (hood : LaneMask) (n : Nat) (x : Word) : (w.setS hood n x).failed = w.failed := by unfold Warp.setS; split; rfl; split <;> rfl

/-! `Warp.setS64` -/
@[simp] theorem Warp.setS64_core (hood : LaneMask) (n : Nat) (x : DWord) : (w.setS64 hood n x).core = w.core := by simp [Warp.setS64]
@[simp] theorem Warp.setS64_slot (hood : LaneMask) (n : Nat) (x : DWord) : (w.setS64 hood n x).slot = w.slot := by simp [Warp.setS64]
@[simp] theorem Warp.setS64_gang (hood : LaneMask) (n : Nat) (x : DWord) : (w.setS64 hood n x).gang = w.gang := by simp [Warp.setS64]
@[simp] theorem Warp.setS64_pos (hood : LaneMask) (n : Nat) (x : DWord) : (w.setS64 hood n x).pos = w.pos := by simp [Warp.setS64]
@[simp] theorem Warp.setS64_idx (hood : LaneMask) (n : Nat) (x : DWord) : (w.setS64 hood n x).idx = w.idx := by simp [Warp.setS64]
@[simp] theorem Warp.setS64_ctx (hood : LaneMask) (n : Nat) (x : DWord) : (w.setS64 hood n x).ctx = w.ctx := by simp [Warp.setS64]
@[simp] theorem Warp.setS64_vrc (hood : LaneMask) (n : Nat) (x : DWord) : (w.setS64 hood n x).vrc = w.vrc := by simp [Warp.setS64]
@[simp] theorem Warp.setS64_src (hood : LaneMask) (n : Nat) (x : DWord) : (w.setS64 hood n x).src = w.src := by simp [Warp.setS64]
@[simp] theorem Warp.setS64_v (hood : LaneMask) (n : Nat) (x : DWord) : (w.setS64 hood n x).v = w.v := by simp [Warp.setS64]
@[simp] theorem Warp.setS64_k (hood : LaneMask) (n : Nat) (x : DWord) : (w.setS64 hood n x).k = w.k := by simp [Warp.setS64]
@[simp] theorem Warp.setS64_q (hood : LaneMask) (n : Nat) (x : DWord) : (w.setS64 hood n x).q = w.q := by simp [Warp.setS64]
@[simp] theorem Warp.setS64_mode (hood : LaneMask) (n : Nat) (x : DWord) : (w.setS64 hood n x).mode = w.mode := by simp [Warp.setS64]
@[simp] theorem Warp.setS64_flags (hood : LaneMask) (n : Nat) (x : DWord) : (w.setS64 hood n x).flags = w.flags := by simp [Warp.setS64]
@[simp] theorem Warp.setS64_mshape (hood : LaneMask) (n : Nat) (x : DWord) : (w.setS64 hood n x).mshape = w.mshape := by simp [Warp.setS64]
@[simp] theorem Warp.setS64_tvec (hood : LaneMask) (n : Nat) (x : DWord) : (w.setS64 hood n x).tvec = w.tvec := by simp [Warp.setS64]
@[simp] theorem Warp.setS64_slices (hood : LaneMask) (n : Nat) (x : DWord) : (w.setS64 hood n x).slices = w.slices := by simp [Warp.setS64]
@[simp] theorem Warp.setS64_handler (hood : LaneMask) (n : Nat) (x : DWord) : (w.setS64 hood n x).handler = w.handler := by simp [Warp.setS64]
@[simp] theorem Warp.setS64_halted (hood : LaneMask) (n : Nat) (x : DWord) : (w.setS64 hood n x).halted = w.halted := by simp [Warp.setS64]
@[simp] theorem Warp.setS64_log (hood : LaneMask) (n : Nat) (x : DWord) : (w.setS64 hood n x).log = w.log := by simp [Warp.setS64]
@[simp] theorem Warp.setS64_windows (hood : LaneMask) (n : Nat) (x : DWord) : (w.setS64 hood n x).windows = w.windows := by simp [Warp.setS64]
@[simp] theorem Warp.setS64_shared (hood : LaneMask) (n : Nat) (x : DWord) : (w.setS64 hood n x).shared = w.shared := by simp [Warp.setS64]
@[simp] theorem Warp.setS64_past (hood : LaneMask) (n : Nat) (x : DWord) : (w.setS64 hood n x).past = w.past := by simp [Warp.setS64]
@[simp] theorem Warp.setS64_entry (hood : LaneMask) (n : Nat) (x : DWord) : (w.setS64 hood n x).entry = w.entry := by simp [Warp.setS64]
@[simp] theorem Warp.setS64_frameSlot (hood : LaneMask) (n : Nat) (x : DWord) : (w.setS64 hood n x).frameSlot = w.frameSlot := by simp [Warp.setS64]
@[simp] theorem Warp.setS64_lpSlot (hood : LaneMask) (n : Nat) (x : DWord) : (w.setS64 hood n x).lpSlot = w.lpSlot := by simp [Warp.setS64]
@[simp] theorem Warp.setS64_stopping (hood : LaneMask) (n : Nat) (x : DWord) : (w.setS64 hood n x).stopping = w.stopping := by simp [Warp.setS64]
@[simp] theorem Warp.setS64_frameDone (hood : LaneMask) (n : Nat) (x : DWord) : (w.setS64 hood n x).frameDone = w.frameDone := by simp [Warp.setS64]
@[simp] theorem Warp.setS64_returning (hood : LaneMask) (n : Nat) (x : DWord) : (w.setS64 hood n x).returning = w.returning := by simp [Warp.setS64]
@[simp] theorem Warp.setS64_failed (hood : LaneMask) (n : Nat) (x : DWord) : (w.setS64 hood n x).failed = w.failed := by simp [Warp.setS64]

/-! `Warp.setV64` -/
@[simp] theorem Warp.setV64_core (n : Nat) (m : LaneMask) (g : Nat → DWord) : (w.setV64 n m g).core = w.core := rfl
@[simp] theorem Warp.setV64_slot (n : Nat) (m : LaneMask) (g : Nat → DWord) : (w.setV64 n m g).slot = w.slot := rfl
@[simp] theorem Warp.setV64_gang (n : Nat) (m : LaneMask) (g : Nat → DWord) : (w.setV64 n m g).gang = w.gang := rfl
@[simp] theorem Warp.setV64_pos (n : Nat) (m : LaneMask) (g : Nat → DWord) : (w.setV64 n m g).pos = w.pos := rfl
@[simp] theorem Warp.setV64_idx (n : Nat) (m : LaneMask) (g : Nat → DWord) : (w.setV64 n m g).idx = w.idx := rfl
@[simp] theorem Warp.setV64_ctx (n : Nat) (m : LaneMask) (g : Nat → DWord) : (w.setV64 n m g).ctx = w.ctx := rfl
@[simp] theorem Warp.setV64_vrc (n : Nat) (m : LaneMask) (g : Nat → DWord) : (w.setV64 n m g).vrc = w.vrc := rfl
@[simp] theorem Warp.setV64_src (n : Nat) (m : LaneMask) (g : Nat → DWord) : (w.setV64 n m g).src = w.src := rfl
@[simp] theorem Warp.setV64_k (n : Nat) (m : LaneMask) (g : Nat → DWord) : (w.setV64 n m g).k = w.k := rfl
@[simp] theorem Warp.setV64_s (n : Nat) (m : LaneMask) (g : Nat → DWord) : (w.setV64 n m g).s = w.s := rfl
@[simp] theorem Warp.setV64_q (n : Nat) (m : LaneMask) (g : Nat → DWord) : (w.setV64 n m g).q = w.q := rfl
@[simp] theorem Warp.setV64_mode (n : Nat) (m : LaneMask) (g : Nat → DWord) : (w.setV64 n m g).mode = w.mode := rfl
@[simp] theorem Warp.setV64_flags (n : Nat) (m : LaneMask) (g : Nat → DWord) : (w.setV64 n m g).flags = w.flags := rfl
@[simp] theorem Warp.setV64_mshape (n : Nat) (m : LaneMask) (g : Nat → DWord) : (w.setV64 n m g).mshape = w.mshape := rfl
@[simp] theorem Warp.setV64_tvec (n : Nat) (m : LaneMask) (g : Nat → DWord) : (w.setV64 n m g).tvec = w.tvec := rfl
@[simp] theorem Warp.setV64_slices (n : Nat) (m : LaneMask) (g : Nat → DWord) : (w.setV64 n m g).slices = w.slices := rfl
@[simp] theorem Warp.setV64_handler (n : Nat) (m : LaneMask) (g : Nat → DWord) : (w.setV64 n m g).handler = w.handler := rfl
@[simp] theorem Warp.setV64_halted (n : Nat) (m : LaneMask) (g : Nat → DWord) : (w.setV64 n m g).halted = w.halted := rfl
@[simp] theorem Warp.setV64_log (n : Nat) (m : LaneMask) (g : Nat → DWord) : (w.setV64 n m g).log = w.log := rfl
@[simp] theorem Warp.setV64_windows (n : Nat) (m : LaneMask) (g : Nat → DWord) : (w.setV64 n m g).windows = w.windows := rfl
@[simp] theorem Warp.setV64_shared (n : Nat) (m : LaneMask) (g : Nat → DWord) : (w.setV64 n m g).shared = w.shared := rfl
@[simp] theorem Warp.setV64_past (n : Nat) (m : LaneMask) (g : Nat → DWord) : (w.setV64 n m g).past = w.past := rfl
@[simp] theorem Warp.setV64_entry (n : Nat) (m : LaneMask) (g : Nat → DWord) : (w.setV64 n m g).entry = w.entry := rfl
@[simp] theorem Warp.setV64_frameSlot (n : Nat) (m : LaneMask) (g : Nat → DWord) : (w.setV64 n m g).frameSlot = w.frameSlot := rfl
@[simp] theorem Warp.setV64_lpSlot (n : Nat) (m : LaneMask) (g : Nat → DWord) : (w.setV64 n m g).lpSlot = w.lpSlot := rfl
@[simp] theorem Warp.setV64_stopping (n : Nat) (m : LaneMask) (g : Nat → DWord) : (w.setV64 n m g).stopping = w.stopping := rfl
@[simp] theorem Warp.setV64_frameDone (n : Nat) (m : LaneMask) (g : Nat → DWord) : (w.setV64 n m g).frameDone = w.frameDone := rfl
@[simp] theorem Warp.setV64_returning (n : Nat) (m : LaneMask) (g : Nat → DWord) : (w.setV64 n m g).returning = w.returning := rfl
@[simp] theorem Warp.setV64_failed (n : Nat) (m : LaneMask) (g : Nat → DWord) : (w.setV64 n m g).failed = w.failed := rfl

/-! `Warp.putScalar` -/
@[simp] theorem Warp.putScalar_core (lanes : LaneMask) (f : BitVec 10) (wide : Bool) (x : Nat) : (w.putScalar lanes f wide x).core = w.core := by unfold Warp.putScalar; split; split <;> simp; rfl
@[simp] theorem Warp.putScalar_slot (lanes : LaneMask) (f : BitVec 10) (wide : Bool) (x : Nat) : (w.putScalar lanes f wide x).slot = w.slot := by unfold Warp.putScalar; split; split <;> simp; rfl
@[simp] theorem Warp.putScalar_gang (lanes : LaneMask) (f : BitVec 10) (wide : Bool) (x : Nat) : (w.putScalar lanes f wide x).gang = w.gang := by unfold Warp.putScalar; split; split <;> simp; rfl
@[simp] theorem Warp.putScalar_pos (lanes : LaneMask) (f : BitVec 10) (wide : Bool) (x : Nat) : (w.putScalar lanes f wide x).pos = w.pos := by unfold Warp.putScalar; split; split <;> simp; rfl
@[simp] theorem Warp.putScalar_idx (lanes : LaneMask) (f : BitVec 10) (wide : Bool) (x : Nat) : (w.putScalar lanes f wide x).idx = w.idx := by unfold Warp.putScalar; split; split <;> simp; rfl
@[simp] theorem Warp.putScalar_ctx (lanes : LaneMask) (f : BitVec 10) (wide : Bool) (x : Nat) : (w.putScalar lanes f wide x).ctx = w.ctx := by unfold Warp.putScalar; split; split <;> simp; rfl
@[simp] theorem Warp.putScalar_vrc (lanes : LaneMask) (f : BitVec 10) (wide : Bool) (x : Nat) : (w.putScalar lanes f wide x).vrc = w.vrc := by unfold Warp.putScalar; split; split <;> simp; rfl
@[simp] theorem Warp.putScalar_src (lanes : LaneMask) (f : BitVec 10) (wide : Bool) (x : Nat) : (w.putScalar lanes f wide x).src = w.src := by unfold Warp.putScalar; split; split <;> simp; rfl
@[simp] theorem Warp.putScalar_v (lanes : LaneMask) (f : BitVec 10) (wide : Bool) (x : Nat) : (w.putScalar lanes f wide x).v = w.v := by unfold Warp.putScalar; split; split <;> simp; rfl
@[simp] theorem Warp.putScalar_k (lanes : LaneMask) (f : BitVec 10) (wide : Bool) (x : Nat) : (w.putScalar lanes f wide x).k = w.k := by unfold Warp.putScalar; split; split <;> simp; rfl
@[simp] theorem Warp.putScalar_q (lanes : LaneMask) (f : BitVec 10) (wide : Bool) (x : Nat) : (w.putScalar lanes f wide x).q = w.q := by unfold Warp.putScalar; split; split <;> simp; rfl
@[simp] theorem Warp.putScalar_mode (lanes : LaneMask) (f : BitVec 10) (wide : Bool) (x : Nat) : (w.putScalar lanes f wide x).mode = w.mode := by unfold Warp.putScalar; split; split <;> simp; rfl
@[simp] theorem Warp.putScalar_flags (lanes : LaneMask) (f : BitVec 10) (wide : Bool) (x : Nat) : (w.putScalar lanes f wide x).flags = w.flags := by unfold Warp.putScalar; split; split <;> simp; rfl
@[simp] theorem Warp.putScalar_mshape (lanes : LaneMask) (f : BitVec 10) (wide : Bool) (x : Nat) : (w.putScalar lanes f wide x).mshape = w.mshape := by unfold Warp.putScalar; split; split <;> simp; rfl
@[simp] theorem Warp.putScalar_tvec (lanes : LaneMask) (f : BitVec 10) (wide : Bool) (x : Nat) : (w.putScalar lanes f wide x).tvec = w.tvec := by unfold Warp.putScalar; split; split <;> simp; rfl
@[simp] theorem Warp.putScalar_slices (lanes : LaneMask) (f : BitVec 10) (wide : Bool) (x : Nat) : (w.putScalar lanes f wide x).slices = w.slices := by unfold Warp.putScalar; split; split <;> simp; rfl
@[simp] theorem Warp.putScalar_handler (lanes : LaneMask) (f : BitVec 10) (wide : Bool) (x : Nat) : (w.putScalar lanes f wide x).handler = w.handler := by unfold Warp.putScalar; split; split <;> simp; rfl
@[simp] theorem Warp.putScalar_halted (lanes : LaneMask) (f : BitVec 10) (wide : Bool) (x : Nat) : (w.putScalar lanes f wide x).halted = w.halted := by unfold Warp.putScalar; split; split <;> simp; rfl
@[simp] theorem Warp.putScalar_log (lanes : LaneMask) (f : BitVec 10) (wide : Bool) (x : Nat) : (w.putScalar lanes f wide x).log = w.log := by unfold Warp.putScalar; split; split <;> simp; rfl
@[simp] theorem Warp.putScalar_windows (lanes : LaneMask) (f : BitVec 10) (wide : Bool) (x : Nat) : (w.putScalar lanes f wide x).windows = w.windows := by unfold Warp.putScalar; split; split <;> simp; rfl
@[simp] theorem Warp.putScalar_shared (lanes : LaneMask) (f : BitVec 10) (wide : Bool) (x : Nat) : (w.putScalar lanes f wide x).shared = w.shared := by unfold Warp.putScalar; split; split <;> simp; rfl
@[simp] theorem Warp.putScalar_past (lanes : LaneMask) (f : BitVec 10) (wide : Bool) (x : Nat) : (w.putScalar lanes f wide x).past = w.past := by unfold Warp.putScalar; split; split <;> simp; rfl
@[simp] theorem Warp.putScalar_entry (lanes : LaneMask) (f : BitVec 10) (wide : Bool) (x : Nat) : (w.putScalar lanes f wide x).entry = w.entry := by unfold Warp.putScalar; split; split <;> simp; rfl
@[simp] theorem Warp.putScalar_frameSlot (lanes : LaneMask) (f : BitVec 10) (wide : Bool) (x : Nat) : (w.putScalar lanes f wide x).frameSlot = w.frameSlot := by unfold Warp.putScalar; split; split <;> simp; rfl
@[simp] theorem Warp.putScalar_lpSlot (lanes : LaneMask) (f : BitVec 10) (wide : Bool) (x : Nat) : (w.putScalar lanes f wide x).lpSlot = w.lpSlot := by unfold Warp.putScalar; split; split <;> simp; rfl
@[simp] theorem Warp.putScalar_stopping (lanes : LaneMask) (f : BitVec 10) (wide : Bool) (x : Nat) : (w.putScalar lanes f wide x).stopping = w.stopping := by unfold Warp.putScalar; split; split <;> simp; rfl
@[simp] theorem Warp.putScalar_frameDone (lanes : LaneMask) (f : BitVec 10) (wide : Bool) (x : Nat) : (w.putScalar lanes f wide x).frameDone = w.frameDone := by unfold Warp.putScalar; split; split <;> simp; rfl
@[simp] theorem Warp.putScalar_returning (lanes : LaneMask) (f : BitVec 10) (wide : Bool) (x : Nat) : (w.putScalar lanes f wide x).returning = w.returning := by unfold Warp.putScalar; split; split <;> simp; rfl
@[simp] theorem Warp.putScalar_failed (lanes : LaneMask) (f : BitVec 10) (wide : Bool) (x : Nat) : (w.putScalar lanes f wide x).failed = w.failed := by unfold Warp.putScalar; split; split <;> simp; rfl

/-! `Warp.putVector` -/
@[simp] theorem Warp.putVector_core (m : LaneMask) (f : BitVec 10) (wide : Bool) (g : Nat → Nat) : (w.putVector m f wide g).core = w.core := by unfold Warp.putVector; split; split <;> rfl; rfl
@[simp] theorem Warp.putVector_slot (m : LaneMask) (f : BitVec 10) (wide : Bool) (g : Nat → Nat) : (w.putVector m f wide g).slot = w.slot := by unfold Warp.putVector; split; split <;> rfl; rfl
@[simp] theorem Warp.putVector_gang (m : LaneMask) (f : BitVec 10) (wide : Bool) (g : Nat → Nat) : (w.putVector m f wide g).gang = w.gang := by unfold Warp.putVector; split; split <;> rfl; rfl
@[simp] theorem Warp.putVector_pos (m : LaneMask) (f : BitVec 10) (wide : Bool) (g : Nat → Nat) : (w.putVector m f wide g).pos = w.pos := by unfold Warp.putVector; split; split <;> rfl; rfl
@[simp] theorem Warp.putVector_idx (m : LaneMask) (f : BitVec 10) (wide : Bool) (g : Nat → Nat) : (w.putVector m f wide g).idx = w.idx := by unfold Warp.putVector; split; split <;> rfl; rfl
@[simp] theorem Warp.putVector_ctx (m : LaneMask) (f : BitVec 10) (wide : Bool) (g : Nat → Nat) : (w.putVector m f wide g).ctx = w.ctx := by unfold Warp.putVector; split; split <;> rfl; rfl
@[simp] theorem Warp.putVector_vrc (m : LaneMask) (f : BitVec 10) (wide : Bool) (g : Nat → Nat) : (w.putVector m f wide g).vrc = w.vrc := by unfold Warp.putVector; split; split <;> rfl; rfl
@[simp] theorem Warp.putVector_src (m : LaneMask) (f : BitVec 10) (wide : Bool) (g : Nat → Nat) : (w.putVector m f wide g).src = w.src := by unfold Warp.putVector; split; split <;> rfl; rfl
@[simp] theorem Warp.putVector_k (m : LaneMask) (f : BitVec 10) (wide : Bool) (g : Nat → Nat) : (w.putVector m f wide g).k = w.k := by unfold Warp.putVector; split; split <;> rfl; rfl
@[simp] theorem Warp.putVector_s (m : LaneMask) (f : BitVec 10) (wide : Bool) (g : Nat → Nat) : (w.putVector m f wide g).s = w.s := by unfold Warp.putVector; split; split <;> rfl; rfl
@[simp] theorem Warp.putVector_q (m : LaneMask) (f : BitVec 10) (wide : Bool) (g : Nat → Nat) : (w.putVector m f wide g).q = w.q := by unfold Warp.putVector; split; split <;> rfl; rfl
@[simp] theorem Warp.putVector_mode (m : LaneMask) (f : BitVec 10) (wide : Bool) (g : Nat → Nat) : (w.putVector m f wide g).mode = w.mode := by unfold Warp.putVector; split; split <;> rfl; rfl
@[simp] theorem Warp.putVector_flags (m : LaneMask) (f : BitVec 10) (wide : Bool) (g : Nat → Nat) : (w.putVector m f wide g).flags = w.flags := by unfold Warp.putVector; split; split <;> rfl; rfl
@[simp] theorem Warp.putVector_mshape (m : LaneMask) (f : BitVec 10) (wide : Bool) (g : Nat → Nat) : (w.putVector m f wide g).mshape = w.mshape := by unfold Warp.putVector; split; split <;> rfl; rfl
@[simp] theorem Warp.putVector_tvec (m : LaneMask) (f : BitVec 10) (wide : Bool) (g : Nat → Nat) : (w.putVector m f wide g).tvec = w.tvec := by unfold Warp.putVector; split; split <;> rfl; rfl
@[simp] theorem Warp.putVector_slices (m : LaneMask) (f : BitVec 10) (wide : Bool) (g : Nat → Nat) : (w.putVector m f wide g).slices = w.slices := by unfold Warp.putVector; split; split <;> rfl; rfl
@[simp] theorem Warp.putVector_handler (m : LaneMask) (f : BitVec 10) (wide : Bool) (g : Nat → Nat) : (w.putVector m f wide g).handler = w.handler := by unfold Warp.putVector; split; split <;> rfl; rfl
@[simp] theorem Warp.putVector_halted (m : LaneMask) (f : BitVec 10) (wide : Bool) (g : Nat → Nat) : (w.putVector m f wide g).halted = w.halted := by unfold Warp.putVector; split; split <;> rfl; rfl
@[simp] theorem Warp.putVector_log (m : LaneMask) (f : BitVec 10) (wide : Bool) (g : Nat → Nat) : (w.putVector m f wide g).log = w.log := by unfold Warp.putVector; split; split <;> rfl; rfl
@[simp] theorem Warp.putVector_windows (m : LaneMask) (f : BitVec 10) (wide : Bool) (g : Nat → Nat) : (w.putVector m f wide g).windows = w.windows := by unfold Warp.putVector; split; split <;> rfl; rfl
@[simp] theorem Warp.putVector_shared (m : LaneMask) (f : BitVec 10) (wide : Bool) (g : Nat → Nat) : (w.putVector m f wide g).shared = w.shared := by unfold Warp.putVector; split; split <;> rfl; rfl
@[simp] theorem Warp.putVector_past (m : LaneMask) (f : BitVec 10) (wide : Bool) (g : Nat → Nat) : (w.putVector m f wide g).past = w.past := by unfold Warp.putVector; split; split <;> rfl; rfl
@[simp] theorem Warp.putVector_entry (m : LaneMask) (f : BitVec 10) (wide : Bool) (g : Nat → Nat) : (w.putVector m f wide g).entry = w.entry := by unfold Warp.putVector; split; split <;> rfl; rfl
@[simp] theorem Warp.putVector_frameSlot (m : LaneMask) (f : BitVec 10) (wide : Bool) (g : Nat → Nat) : (w.putVector m f wide g).frameSlot = w.frameSlot := by unfold Warp.putVector; split; split <;> rfl; rfl
@[simp] theorem Warp.putVector_lpSlot (m : LaneMask) (f : BitVec 10) (wide : Bool) (g : Nat → Nat) : (w.putVector m f wide g).lpSlot = w.lpSlot := by unfold Warp.putVector; split; split <;> rfl; rfl
@[simp] theorem Warp.putVector_stopping (m : LaneMask) (f : BitVec 10) (wide : Bool) (g : Nat → Nat) : (w.putVector m f wide g).stopping = w.stopping := by unfold Warp.putVector; split; split <;> rfl; rfl
@[simp] theorem Warp.putVector_frameDone (m : LaneMask) (f : BitVec 10) (wide : Bool) (g : Nat → Nat) : (w.putVector m f wide g).frameDone = w.frameDone := by unfold Warp.putVector; split; split <;> rfl; rfl
@[simp] theorem Warp.putVector_returning (m : LaneMask) (f : BitVec 10) (wide : Bool) (g : Nat → Nat) : (w.putVector m f wide g).returning = w.returning := by unfold Warp.putVector; split; split <;> rfl; rfl
@[simp] theorem Warp.putVector_failed (m : LaneMask) (f : BitVec 10) (wide : Bool) (g : Nat → Nat) : (w.putVector m f wide g).failed = w.failed := by unfold Warp.putVector; split; split <;> rfl; rfl

end Sys2Proof.Machine
end

