-- ==== Sys2Proof/Laws/Issue.lean ====
section
/-! SUPPORT. How an instruction issues: one lemma that takes every meaning to its performance, one that says what a completion leaves,
and the frames of both. -/

namespace Sys2Proof

open Sys2Proof.Machine

/-! ## The context of an issue -/

/-- Everything that an issue fixes. -/
theorem Safety.issueOf_spec {i : Instr} {s : State} {b : Warp} {c : Issue} (h : Safety.issueOf i s = some (b, c)) :
    ∃ opc f w, i.code? = some (opc, f) ∧ s.issuer? = some w ∧ checkAll (s.envOf w) opc f = none ∧
      b = (if isCollective opc f then w.closeHoodWindows s.cur.hood else w) ∧
      c = { s := s, w := s.viewProducts (b.seenBy s.cur.hood (w.hoodLanes s.cur.hood) s.free), hood := s.cur.hood
            opc := opc, form := f, lanes := w.hoodLanes s.cur.hood
            act := (s.viewProducts (b.seenBy s.cur.hood (w.hoodLanes s.cur.hood) s.free)).activeIn (w.hoodLanes s.cur.hood) f.hdr
            pc := (w.slice (keyOf (w.hoodSlices s.cur.hood))).pc } ∧
      c.blocked = false := by
  unfold Safety.issueOf at h
  cases hi : i.code? with
  | none => simp [hi] at h
  | some x =>
    cases hw : s.issuer? with
    | none => simp [hi, hw] at h
    | some w =>
      obtain ⟨opc, f⟩ := x
      simp only [hi, hw, Option.ite_none_left_eq_some, Option.some.injEq] at h
      obtain ⟨hc, hb, he⟩ := h
      rw [he] at hb
      simp only [State.issueFor, Prod.mk.injEq] at he
      obtain ⟨rfl, rfl⟩ := he
      exact ⟨opc, f, w, rfl, rfl, by simpa using hc, rfl, rfl, by simpa using hb⟩

/-- An instruction that issues is performed, and ends as its performance asks. -/
theorem Safety.issue_eq {i : Instr} {s : State} {b : Warp} {c : Issue} (h : Safety.issueOf i s = some (b, c)) {opc : Nat} {f : Form}
    (hi : i.code? = some (opc, f)) (body : Issue → Res) : issue opc f s body = .next (Safety.after b c (body c)) := by
  obtain ⟨opc', f', w, h1, h2, h3, rfl, rfl, h4⟩ := Safety.issueOf_spec h
  rw [hi, Option.some.injEq, Prod.mk.injEq] at h1
  obtain ⟨rfl, rfl⟩ := h1
  unfold issue
  rw [h2]
  dsimp only
  rw [h3]
  dsimp only
  rw [if_neg (by unfold State.issueFor; rw [h4]; simp)]
  rfl

/-- The state of an issue is the state at which it is made. -/
theorem Safety.issueOf_s {i : Instr} {s : State} {b : Warp} {c : Issue} (h : Safety.issueOf i s = some (b, c)) : c.s = s := by
  obtain ⟨_, _, _, -, -, -, -, rfl, -⟩ := Safety.issueOf_spec h; rfl

/-- The form of an issue is the instruction's. -/
theorem Safety.issueOf_form {i : Instr} {s : State} {b : Warp} {c : Issue} (h : Safety.issueOf i s = some (b, c)) :
    i.code? = some (c.opc, c.form) := by
  obtain ⟨_, _, _, h1, -, -, -, rfl, -⟩ := Safety.issueOf_spec h; exact h1

/-- Putting an unchanged warp back changes nothing. -/
theorem Machine.Issue.put_id (c : Issue) : c.put (fun w => w) = c.s := by
  simp [Issue.put, State.modWarp]

/-! ## Where the issuing warp stands -/

theorem Machine.Warp.foldl_place {α : Type} {f : Warp → α → Warp} (hf : ∀ w a, (f w a).core = w.core ∧ (f w a).slot = w.slot) (l : List α)
    (w : Warp) : (l.foldl f w).core = w.core ∧ (l.foldl f w).slot = w.slot := by
  induction l generalizing w with
  | nil => exact ⟨rfl, rfl⟩
  | cons a l ih => rw [List.foldl_cons]; exact ⟨(ih _).1.trans (hf w a).1, (ih _).2.trans (hf w a).2⟩

theorem Machine.Product.putD_place (p : Product) (g : Nat → Nat → Nat) (w : Warp) :
    (p.putD w g).core = w.core ∧ (p.putD w g).slot = w.slot := by
  unfold Product.putD
  split
  · exact ⟨rfl, rfl⟩
  · exact Warp.foldl_place (fun w a => by split <;> exact ⟨rfl, rfl⟩) _ _

theorem Machine.State.viewProducts_place (s : State) (w : Warp) :
    (s.viewProducts w).core = w.core ∧ (s.viewProducts w).slot = w.slot :=
  Warp.foldl_place (fun _ _ => Product.putD_place _ _ _) _ _

theorem Machine.Warp.blur_place (w : Warp) (h n : Nat) : (w.blur h n).core = w.core ∧ (w.blur h n).slot = w.slot := by
  unfold Warp.blur
  generalize hw0 : w = w0
  refine Warp.foldl_place (fun w x => ?_) _ _
  have k1 := Warp.foldl_place (f := fun (w : Warp) (r : Nat × VReg) => w.putV r.1 (mixV n r.1 (w.getV r.1) r.2))
    (fun _ _ => ⟨rfl, rfl⟩) x.oldV w
  have k2 := Warp.foldl_place (f := fun (w : Warp) (r : Nat × KReg) => w.putK r.1 (mixK n (1000 + r.1) (fun i => x.kb.contains (r.1, i)) (w.getK r.1) r.2))
    (fun _ _ => ⟨rfl, rfl⟩) x.oldK (x.oldV.foldl (fun w r => w.putV r.1 (mixV n r.1 (w.getV r.1) r.2)) w)
  have k3 := fun w' => Warp.foldl_place
    (f := fun (a : Warp) (r : Nat × Word) => { a with s := a.s.set r.1 (mix n (2000 + r.1) (a.s.getD r.1 0) (Word.merge (a.s.getD r.1 0) (hoodBits (w0.hoodLanes h) r.1) r.2)) })
    (fun _ _ => ⟨rfl, rfl⟩) x.oldS w'
  have k4 := fun w' => Warp.foldl_place
    (f := fun (w : Warp) (r : Nat × LaneMask) => { w with q := w.q.set r.1 (mixQ n (3000 + r.1) (w.q.getD r.1 0) r.2) })
    (fun _ _ => ⟨rfl, rfl⟩) x.oldQ w'
  exact ⟨((k4 _).1.trans (k3 _).1).trans (k2.1.trans k1.1), ((k4 _).2.trans (k3 _).2).trans (k2.2.trans k1.2)⟩

theorem Machine.Warp.putShared_place (w : Warp) (x : SharedLoc) (v : Word) : (w.putShared x v).core = w.core ∧ (w.putShared x v).slot = w.slot := by
  cases x <;> exact ⟨rfl, rfl⟩

theorem Machine.Warp.raced_place (w : Warp) (lanes : LaneMask) (n : Nat) : (w.raced lanes n).core = w.core ∧ (w.raced lanes n).slot = w.slot :=
  Warp.foldl_place (fun a x => by
    dsimp only
    split
    · exact Warp.foldl_place (fun _ _ => Warp.putShared_place _ _ _) _ _
    · exact Warp.putShared_place _ _ _) _ _

theorem Machine.Warp.seenBy_place (w : Warp) (h : Nat) (lanes : LaneMask) (n : Nat) :
    (w.seenBy h lanes n).core = w.core ∧ (w.seenBy h lanes n).slot = w.slot := by
  have k : (if w.inWindow h then w.blur h n else w).core = w.core ∧ (if w.inWindow h then w.blur h n else w).slot = w.slot := by
    split
    · exact Warp.blur_place w h n
    · exact ⟨rfl, rfl⟩
  unfold Warp.seenBy
  generalize (if w.inWindow h then w.blur h n else w) = v at k
  dsimp only
  by_cases e : v.shared.isEmpty = true
  · rw [if_pos e]; exact k
  · rw [if_neg e]; exact ⟨(Warp.raced_place _ _ _).1.trans k.1, (Warp.raced_place _ _ _).2.trans k.2⟩

/-- The warp as it stood and the warp as the instruction reads it are the warp in the place that `cur` names. -/
theorem Safety.issueOf_place {i : Instr} {s : State} {b : Warp} {c : Issue} (h : Safety.issueOf i s = some (b, c)) :
    b.core = s.cur.core ∧ b.slot = s.cur.slot ∧ c.w.core = s.cur.core ∧ c.w.slot = s.cur.slot := by
  obtain ⟨opc, f, w, -, hw, -, rfl, rfl, -⟩ := Safety.issueOf_spec h
  have hp : w.core = s.cur.core ∧ w.slot = s.cur.slot := by
    unfold State.issuer? at hw
    split at hw
    · cases hw
    · rename_i w' hf
      have := List.find?_some hf
      dsimp only at hw
      split at hw
      · cases hw
      · split at hw
        · cases hw; simpa using this
        · cases hw
  generalize hb : (if isCollective opc f then w.closeHoodWindows s.cur.hood else w) = b
  have hp' : b.core = s.cur.core ∧ b.slot = s.cur.slot := by rw [← hb]; split <;> exact hp
  have hv := Warp.seenBy_place b s.cur.hood (w.hoodLanes s.cur.hood) s.free
  exact ⟨hp'.1, hp'.2, (s.viewProducts_place _).1.trans (hv.1.trans hp'.1), (s.viewProducts_place _).2.trans (hv.2.trans hp'.2)⟩

/-! ## Completion -/

theorem Machine.State.settle_of_recs {s : State} (h : s.recs = []) : s.settle = s := by
  unfold State.settle; rw [State.flushRecs, h]

theorem Machine.State.clearWords_of_upsets {s : State} {core slot : Nat} {p : WarpWord → Bool} (h : s.upsets = []) :
    s.clearWords core slot p = s := by simp [State.clearWords, h]

theorem Machine.State.modWarp_modWarp (s : State) (core slot : Nat) (f g : Warp → Warp)
    (hf : ∀ w, (f w).core = w.core ∧ (f w).slot = w.slot) :
    (s.modWarp core slot f).modWarp core slot g = s.modWarp core slot fun w => g (f w) := by
  simp only [State.modWarp, List.map_map]
  congr 1
  apply List.map_congr_left
  intro w _
  by_cases h : w.core = core ∧ w.slot = slot
  · simp [h.1, h.2, hf]
  · simp [h]

/-- What closing an issue does to its warp, when nothing is under way around it. -/
theorem Safety.close_quiet {b : Warp} {c : Issue} (q : Safety.quiet b c) (a : Warp) :
    c.close b (a.moveHood c.hood (nextPc c.pc)) = Safety.moved b c a := by
  have hw : b.inWindow c.hood = false := by simp [Warp.inWindow, q.1]
  unfold Issue.close Safety.moved
  have hwr : ∀ v : Warp, c.wrote b v = Warp.notePast b (Warp.noteShared b v v c.lanes c.sharedWritten) c.s.free c.wroteLanes c.written := fun v => by
    simp [Issue.wrote, q.2.1]
  simp only [hw, hwr, Bool.and_false, Bool.false_eq_true, if_false, if_true, Warp.countWindows, q.1, Warp.inheritWindows,
    List.map_nil, List.filter_nil, List.flatMap_nil, Warp.notePast, List.nil_append]
  by_cases h1 : formLa c.form = 0 <;> by_cases h2 : b.hoods.length < 2 <;> simp [h1, h2, Warp.noteShared, q.2.1] <;>
    (intro x _; cases x <;> rfl)

/-- An instruction that changes no storage signs nothing. -/
theorem Machine.Issue.signed_of_store {c : Issue} {s : State} (h : s.store = c.s.store) : c.signed s = s := by
  simp [Issue.signed, h]

/-- What a completed instruction leaves, when no window stood open and no record is due: its effect on its warp, the hood at the next
PC, and its own lookahead window. -/
theorem Safety.after_next {i : Instr} {s : State} {b : Warp} {c : Issue} (h : Safety.issueOf i s = some (b, c)) (q : Safety.quiet b c)
    {g : Warp → Warp} (hg : ∀ w, (g w).core = w.core ∧ (g w).slot = w.slot) :
    Safety.after b c (.next (c.put g)) = Safety.retired b c g := by
  obtain ⟨p1, p2, p3, p4⟩ := Safety.issueOf_place h
  have hs := Safety.issueOf_s h
  unfold Safety.after Issue.finish closeIssue State.advance
  dsimp only
  rw [p1, p2, p3, p4, Issue.put, p3, p4]
  rw [if_pos rfl, Issue.signed_of_store (by rfl), State.clearWords_of_upsets (by simpa using q.2.2.2), State.settle_of_recs (by simpa using q.2.2.1)]
  show State.modWarp (State.modWarp (State.modWarp { c.s with free := c.s.free + 1 } _ _ g) _ _ _) _ _ _ = _
  rw [State.modWarp_modWarp _ _ _ _ _ hg, State.modWarp_modWarp _ _ _ (fun w => (g w).moveHood c.hood (nextPc c.pc)) _ fun w => hg w, Safety.retired, p3, p4]
  show State.modWarp { c.s with free := c.s.free + 1 } _ _ _ = State.modWarp { c.s with free := c.s.free + 1 } _ _ _
  congr 1
  funext w
  exact Safety.close_quiet q (g w)

/-! ## From a performance to what the instruction changes -/

/-- A scalar completion: nothing with an empty active set, else the destination. -/
theorem Machine.Issue.scalarDone_eq (c : Issue) (d : BitVec 10) (wide : Bool) (x : Nat) :
    c.scalarDone d wide x = .next (c.put fun w => if c.act = 0 then w else w.putScalar c.lanes d wide x) := by
  unfold Issue.scalarDone Issue.idle Issue.done
  by_cases h : c.act = 0#96
  · simp [h, Issue.put_id]
  · simp [h]

/-- An instruction whose performance completes with the change `g` of its warp changes it so wherever it issues. -/
theorem Safety.changes_of {i : Instr} {opc : Nat} {f : Form} {body : Issue → Res} {g : Issue → Warp → Warp}
    {m : State → Host.Outcome State Fault Refusal} (hi : i.code? = some (opc, f)) (he : ∀ s, exec i s = m s)
    (hm : ∀ s, m s = issue opc f s body) (hb : ∀ c : Issue, body c = .next (c.put (g c))) : Safety.Changes i g := fun s b c h => by
  rw [he, hm, Safety.issue_eq h hi, hb]

/-- The same for an instruction that writes a scalar. -/
theorem Safety.writesScalar_of {i : Instr} {opc : Nat} {f : Form} {body : Issue → Res} {d : BitVec 10} {wide : Bool} {x : Issue → Nat}
    {m : State → Host.Outcome State Fault Refusal} (hi : i.code? = some (opc, f)) (he : ∀ s, exec i s = m s)
    (hm : ∀ s, m s = issue opc f s body) (hb : ∀ c : Issue, body c = c.scalarDone d wide (x c)) : Safety.WritesScalar i d wide x :=
  Safety.changes_of hi he hm fun c => (hb c).trans (c.scalarDone_eq d wide (x c))

/-- An instruction that raises flags: without an enabled trap among them it completes, and the flags are ORed in (R77 to R79). -/
theorem Safety.changesRaising_of {i : Instr} {opc : Nat} {f : Form} {body : Issue → Res} {r : Issue → List (Nat × Nat)}
    {g : Issue → Warp → Warp} {m : State → Host.Outcome State Fault Refusal} (hi : i.code? = some (opc, f))
    (he : ∀ s, exec i s = m s) (hm : ∀ s, m s = issue opc f s body)
    (hb : ∀ c : Issue, body c = c.doneFlags (r c) (g c)) : Safety.ChangesRaising i r g := fun s b c h ht => by
  rw [he, hm, Safety.issue_eq h hi, hb, Issue.doneFlags, ht]

/-- A lane of a mask is below 96. -/
theorem Machine.LaneMask.mem_lanes {m : LaneMask} {l : Nat} : l ∈ LaneMask.lanes m ↔ l < 96 ∧ m.getLsbD l = true := by
  simp [LaneMask.lanes]

/-- A masked register write reads its values only in the lanes of the mask. -/
theorem Machine.VReg.write_congr {v : VReg} {m : LaneMask} {g h : Nat → Word} (e : ∀ l, l < 96 → m.getLsbD l = true → g l = h l) :
    VReg.write v m g = VReg.write v m h := by
  unfold VReg.write
  apply List.foldl_ext
  intro a l hl
  by_cases k : m.getLsbD l = true
  · simp [k, e l (by simpa using hl) k]
  · simp [k]

theorem Machine.Warp.setV_congr {w : Warp} {n : Nat} {m : LaneMask} {g h : Nat → Word}
    (e : ∀ l, l < 96 → m.getLsbD l = true → g l = h l) : w.setV n m g = w.setV n m h := by
  unfold Warp.setV; rw [VReg.write_congr e]

theorem Machine.Warp.putVector_congr {w : Warp} {m : LaneMask} {d : BitVec 10} {wide : Bool} {g h : Nat → Nat}
    (e : ∀ l, l < 96 → m.getLsbD l = true → g l = h l) : w.putVector m d wide g = w.putVector m d wide h := by
  unfold Warp.putVector
  split
  · split
    · unfold Warp.setV64
      rw [Warp.setV_congr (g := fun l => (BitVec.ofNat 64 (g l)).extractLsb' 0 32) fun l h1 h2 => by rw [e l h1 h2],
        Warp.setV_congr (g := fun l => (BitVec.ofNat 64 (g l)).extractLsb' 32 32) fun l h1 h2 => by rw [e l h1 h2]]
    · exact Warp.setV_congr fun l h1 h2 => by rw [e l h1 h2]
  · rfl

/-- A float completion, lane by lane. -/
theorem Machine.Issue.floatDone_eq (c : Issue) (d : BitVec 10) (wide : Bool) (g : Nat → FRes) :
    c.floatDone d wide g = c.doneFlags ((LaneMask.lanes c.act).map fun l => (l, (g l).2)) fun w =>
      w.putVector c.act d wide fun l => (g l).1 := by
  have e : ∀ l, l < 96 → c.act.getLsbD l = true →
      ((List.range 96).map fun l => if c.act.getLsbD l then g l else (0, 0)).getD l (0, 0) = g l := by
    intro l h1 h2; simp [List.getD, h1, h2]
  unfold Issue.floatDone
  dsimp only
  congr 1
  · apply List.map_congr_left
    intro l hl
    obtain ⟨h1, h2⟩ := LaneMask.mem_lanes.mp hl
    rw [e l h1 h2]
  · funext w
    exact Warp.putVector_congr fun l h1 h2 => by rw [e l h1 h2]

/-- An instruction that completes as a float instruction does. -/
theorem Safety.writesFloatLanes_of {i : Instr} {opc : Nat} {f : Form} {body : Issue → Res} {d : BitVec 10} {wide : Bool}
    {x : Issue → Nat → FRes} {m : State → Host.Outcome State Fault Refusal} (hi : i.code? = some (opc, f))
    (he : ∀ s, exec i s = m s) (hm : ∀ s, m s = issue opc f s body) (hb : ∀ c : Issue, body c = c.floatDone d wide (x c)) :
    Safety.WritesFloatLanes i d wide x :=
  Safety.changesRaising_of hi he hm fun c => (hb c).trans (c.floatDone_eq d wide (x c))

end Sys2Proof
end

