-- ==== Sys2Proof/Laws/Complete.lean ====
section
/-! SUPPORT. Completion: from what an instruction's performance ends as to what executing it answers. -/

namespace Sys2Proof

open Sys2Proof.Machine

/-- An instruction ends as its performance does. -/
theorem Safety.completes_of {i : Instr} {opc : Nat} {f : Form} {body : Issue → Res} {p : Issue → Prop} {r : Issue → Res}
    {m : State → Host.Outcome State Fault Refusal} (hi : i.code? = some (opc, f)) (he : ∀ s, exec i s = m s)
    (hm : ∀ s, m s = issue opc f s body) (hb : ∀ c : Issue, p c → body c = r c) : Safety.Completes i p r := fun s b c h hp => by
  rw [he, hm, Safety.issue_eq h hi, hb c hp]

/-- The same where a sweep follows. -/
theorem Safety.completesSweeping_of {i : Instr} {opc : Nat} {f : Form} {body : Issue → Res} {p : Issue → Prop} {r : Issue → Res}
    {m : State → Host.Outcome State Fault Refusal} (hi : i.code? = some (opc, f)) (he : ∀ s, exec i s = m s)
    (hm : ∀ s, m s = issueSweep opc f s body) (hb : ∀ c : Issue, p c → body c = r c) : Safety.CompletesSweeping i p r :=
  fun s b c h hp => by
    rw [he, hm, issueSweep, Safety.issue_eq h hi, hb c hp]

/-- The last hood to arrive at a collective instruction performs it for the warp. -/
theorem Machine.Issue.collective_last {c : Issue} (h : c.waiting.atCollective = true) (k : Issue → Res) :
    c.collective k = Safety.passed c (k c.whole) := by
  unfold Issue.collective
  dsimp only
  rw [if_pos h]
  unfold Safety.passed
  cases k c.whole <;> rfl

/-- A hood that arrives earlier waits. -/
theorem Machine.Issue.collective_early {c : Issue} (h : c.waiting.atCollective = false) (k : Issue → Res) :
    c.collective k = .hold ((c.put fun w => w.waitHood c.hood .collective).resolveFelt c.w.core c.w.slot) := by
  unfold Issue.collective
  dsimp only
  rw [if_neg (by simp [h])]

/-- A collective instruction. -/
theorem Safety.completesTogether_of {i : Instr} {opc : Nat} {f : Form} {k : Issue → Res} {p : Issue → Prop} {r : Issue → Res}
    {m : State → Host.Outcome State Fault Refusal} (hi : i.code? = some (opc, f)) (he : ∀ s, exec i s = m s)
    (hm : ∀ s, m s = issue opc f s fun c => c.collective k) (hb : ∀ c : Issue, p c → k c = r c) : Safety.CompletesTogether i p r :=
  Safety.completes_of hi he hm fun c h => by rw [Issue.collective_last h.1, hb _ h.2]

end Sys2Proof
end

