-- ==== Sys2Proof/Laws/Memory.lean ====
section
/-! SUPPORT. The storage: a read after a write, and the canonical form that every operation keeps (R27, R37, R59). -/

namespace Sys2Proof.Machine

open Sys2Proof

section
variable {β : Type} [DecidableEq β] {d : β}

theorem Memory.wf_nil : Memory.wf d ([] : List (Nat × β)) := by simp [Memory.wf]

theorem Memory.wf_cons {c : Nat × β} {m : List (Nat × β)} :
    Memory.wf d (c :: m) ↔ (∀ x ∈ m, c.1 < x.1) ∧ c.2 ≠ d ∧ Memory.wf d m := by
  simp only [Memory.wf, List.map_cons, List.pairwise_cons, List.mem_map, List.mem_cons, forall_exists_index, and_imp,
    forall_apply_eq_imp_iff₂, forall_eq_or_imp]
  tauto

/-- Every key of a map after a write is the written one or an old one. -/
theorem Memory.mem_put {m : List (Nat × β)} {k : Nat} {b : β} {x : Nat × β} (h : x ∈ Memory.put d m k b) :
    (x = (k, b) ∧ b ≠ d) ∨ x ∈ m := by
  induction m with
  | nil => simp only [Memory.put] at h; split at h <;> simp_all
  | cons c m ih =>
    simp only [Memory.put] at h
    split at h
    · split at h <;> simp_all
    · split at h
      · split at h <;> simp_all
        tauto
      · rcases List.mem_cons.mp h with rfl | h
        · simp
        · rcases ih h with h | h <;> simp_all

/-- A write keeps the canonical form. -/
theorem Memory.put_wf {m : List (Nat × β)} (h : Memory.wf d m) (k : Nat) (b : β) : Memory.wf d (Memory.put d m k b) := by
  induction m with
  | nil => simp only [Memory.put]; split <;> simp_all [Memory.wf]
  | cons c m ih =>
    obtain ⟨h1, h2, h3⟩ := Memory.wf_cons.mp h
    simp only [Memory.put]
    split
    · rename_i hk
      split
      · exact h
      · rename_i hb
        refine Memory.wf_cons.mpr ⟨fun x hx => ?_, hb, h⟩
        rcases List.mem_cons.mp hx with rfl | hx
        · exact hk
        · exact Nat.lt_trans hk (h1 x hx)
    · split
      · rename_i hk
        split
        · exact h3
        · rename_i hb
          exact Memory.wf_cons.mpr ⟨fun x hx => hk ▸ h1 x hx, hb, h3⟩
      · rename_i hk hk'
        refine Memory.wf_cons.mpr ⟨fun x hx => ?_, h2, ih h3⟩
        rcases Memory.mem_put hx with ⟨rfl, -⟩ | hx
        · simp only; omega
        · exact h1 x hx

/-- Dropping entries keeps the canonical form. -/
theorem Memory.filter_wf {m : List (Nat × β)} (h : Memory.wf d m) (p : Nat × β → Bool) : Memory.wf d (m.filter p) :=
  ⟨h.1.sublist (List.filter_sublist.map _), fun c hc => h.2 c (List.mem_of_mem_filter hc)⟩

omit [DecidableEq β] in
theorem Memory.get_cons (c : Nat × β) (m : List (Nat × β)) (k : Nat) :
    Memory.get d (c :: m) k = if k = c.1 then c.2 else Memory.get d m k := by
  obtain ⟨a, b⟩ := c
  by_cases h : k = a
  · simp [Memory.get, h]
  · have : (k == a) = false := by simpa using h
    simp [Memory.get, List.lookup, this, h]

omit [DecidableEq β] in
theorem Memory.get_of_lt {m : List (Nat × β)} {k : Nat} (h : ∀ x ∈ m, k < x.1) : Memory.get d m k = d := by
  induction m with
  | nil => rfl
  | cons c m ih =>
    have := h c (by simp)
    rw [Memory.get_cons, if_neg (by omega), ih fun x hx => h x (by simp [hx])]

/-- A read after a write: the written key has the value, every other key what it had. -/
theorem Memory.get_put {m : List (Nat × β)} (h : Memory.wf d m) (k j : Nat) (b : β) :
    Memory.get d (Memory.put d m k b) j = if j = k then b else Memory.get d m j := by
  induction m with
  | nil =>
    simp only [Memory.put]
    split
    · rename_i hb; subst hb; simp [Memory.get]
    · rw [Memory.get_cons]
  | cons c m ih =>
    obtain ⟨h1, h2, h3⟩ := Memory.wf_cons.mp h
    simp only [Memory.put]
    split
    · rename_i hk
      split
      · rename_i hb
        split
        · rename_i hj
          subst hb hj
          refine Memory.get_of_lt fun x hx => ?_
          rcases List.mem_cons.mp hx with rfl | hx
          · exact hk
          · exact Nat.lt_trans hk (h1 x hx)
        · rfl
      · rw [Memory.get_cons]
    · split
      · rename_i hk
        split
        · rename_i hb
          rw [Memory.get_cons]
          split
          · rename_i hj
            rw [hb]; exact Memory.get_of_lt fun x hx => by rw [hj, hk]; exact h1 x hx
          · rename_i hj
            rw [if_neg (by omega)]
        · rw [Memory.get_cons, Memory.get_cons]
          split
          · rfl
          · rename_i hj; rw [if_neg (by simpa [hk] using hj)]
      · rename_i hk hk'
        rw [Memory.get_cons, Memory.get_cons, ih h3]
        split
        · rename_i hj; rw [if_neg (by omega)]
        · rfl
end

/-! ## Bytes -/

theorem Store.byte_setByte {s : Store} (h : Memory.wf 0 s.mem) (k j : Nat) (b : Byte) :
    (s.setByte k b).byte j = if j = k then b else s.byte j := Memory.get_put h k j b

theorem Store.setByte_wf {s : Store} (h : Memory.wf 0 s.mem) (k : Nat) (b : Byte) : Memory.wf 0 (s.setByte k b).mem :=
  Memory.put_wf h k b

theorem Store.write_wf {s : Store} (h : Memory.wf 0 s.mem) (k n v : Nat) : Memory.wf 0 (s.write k n v).mem := by
  induction n generalizing s k v with
  | zero => exact h
  | succ n ih => exact ih (Store.setByte_wf h k _) _ _

/-- A write changes only the bytes that it names. -/
theorem Store.byte_write_other {s : Store} (h : Memory.wf 0 s.mem) (k n v j : Nat) (hj : j < k ∨ k + n ≤ j) :
    (s.write k n v).byte j = s.byte j := by
  induction n generalizing s k v with
  | zero => rfl
  | succ n ih =>
    rw [Store.write, ih (Store.setByte_wf h k _) _ _ (by omega), Store.byte_setByte h, if_neg (by omega)]

/-- A write is read back, little-endian (R10). -/
theorem Store.read_write {s : Store} (h : Memory.wf 0 s.mem) (k n v : Nat) : (s.write k n v).read k n = v % 256 ^ n := by
  induction n generalizing s k v with
  | zero => simp [Store.read, Nat.mod_one]
  | succ n ih =>
    have e : ((s.write k (n + 1) v).byte k).toNat = v % 256 := by
      rw [Store.write, Store.byte_write_other (Store.setByte_wf h k _) _ _ _ _ (by omega), Store.byte_setByte h, if_pos rfl]
      simp
    have e2 : (s.write k (n + 1) v).read (k + 1) n = v / 256 % 256 ^ n := by
      rw [Store.write]; exact ih (Store.setByte_wf h k _) _ _
    rw [Store.read, e, e2, pow_succ, Nat.mul_comm (256 ^ n), Nat.mod_mul]

/-- A read depends only on the bytes that it reads. -/
theorem Store.read_congr {s t : Store} {k n : Nat} (h : ∀ j, k ≤ j → j < k + n → s.byte j = t.byte j) : s.read k n = t.read k n := by
  induction n generalizing k with
  | zero => rfl
  | succ n ih =>
    rw [Store.read, Store.read, h k (by omega) (by omega), ih fun j h1 h2 => h j (by omega) (by omega)]

end Sys2Proof.Machine

namespace Sys2Proof

open Sys2Proof.Machine

/-! ## Operations keep the storage sound -/

theorem Safety.storeSound_setByte {s : Store} (h : Safety.storeSound s) (k : Nat) (b : Byte) : Safety.storeSound (s.setByte k b) :=
  ⟨Memory.put_wf h.1 k b, h.2⟩

theorem Safety.storeSound_write {s : Store} (h : Safety.storeSound s) (k n v : Nat) : Safety.storeSound (s.write k n v) := by
  induction n generalizing s k v with
  | zero => exact h
  | succ n ih => exact ih (Safety.storeSound_setByte h _ _) _ _

theorem Safety.storeSound_zero {s : Store} (h : Safety.storeSound s) (k n : Nat) : Safety.storeSound (s.zero k n) :=
  ⟨Memory.filter_wf h.1 _, h.2⟩

/-- A fold of operations that keep the storage sound keeps it sound. -/
theorem Safety.storeSound_foldl {α : Type} {f : Store → α → Store} (hf : ∀ s a, Safety.storeSound s → Safety.storeSound (f s a))
    (l : List α) {s : Store} (h : Safety.storeSound s) : Safety.storeSound (l.foldl f s) := by
  induction l generalizing s with
  | nil => exact h
  | cons a l ih => exact ih (hf s a h)

theorem Safety.storeSound_putLine {s : Store} (h : Safety.storeSound s) (l : Nat) (m : BitVec 128) (d : LineData) :
    Safety.storeSound (s.putLine l m d) :=
  Safety.storeSound_foldl (fun s i hs => by split; exacts [Safety.storeSound_setByte hs _ _, hs]) _ h

theorem Safety.storeSound_setTag {s : Store} (h : Safety.storeSound s) (l : Nat) (t : TagWord) : Safety.storeSound (s.setTag l t) :=
  ⟨h.1, Memory.put_wf h.2.1 l t, h.2.2⟩

theorem Safety.storeSound_setWordPoison {s : Store} (h : Safety.storeSound s) (w p : Nat) :
    Safety.storeSound (s.setWordPoison w p) := ⟨h.1, h.2.1, Memory.put_wf h.2.2.1 w p, h.2.2.2⟩

theorem Safety.storeSound_clearPoison {s : Store} (h : Safety.storeSound s) (l : Nat) : Safety.storeSound (s.clearPoison l) :=
  ⟨h.1, h.2.1, Memory.filter_wf h.2.2.1 _, h.2.2.2⟩

theorem Safety.storeSound_poisonLine {s : Store} (h : Safety.storeSound s) (l p : Nat) : Safety.storeSound (s.poisonLine l p) :=
  Safety.storeSound_foldl (fun _ _ hs => Safety.storeSound_setWordPoison hs _ _) _ h

theorem Safety.storeSound_writeLine {s : Store} (h : Safety.storeSound s) (l : Nat) (m : BitVec 128) (d : LineData) :
    Safety.storeSound (s.writeLine l m d) := by
  unfold Store.writeLine
  dsimp only
  split
  · exact Safety.storeSound_clearPoison (Safety.storeSound_putLine h _ _ _) _
  · exact Safety.storeSound_putLine h _ _ _

theorem Safety.storeSound_writeTagged {s : Store} (h : Safety.storeSound s) (l : Nat) (d : LineData) (t : TagWord) :
    Safety.storeSound (s.writeTagged l d t) :=
  Safety.storeSound_clearPoison (Safety.storeSound_setTag (Safety.storeSound_putLine h _ _ _) _ _) _

theorem Safety.storeSound_copyLine {s : Store} (h : Safety.storeSound s) (a b : Nat) : Safety.storeSound (s.copyLine a b) :=
  Safety.storeSound_foldl (fun _ _ hs => Safety.storeSound_setWordPoison hs _ _) _ (Safety.storeSound_writeTagged h _ _ _)

theorem Safety.storeSound_wipe {s : Store} (h : Safety.storeSound s) (k n : Nat) : Safety.storeSound (s.wipe k n) :=
  ⟨Memory.filter_wf h.1 _, Memory.filter_wf h.2.1 _, Memory.filter_wf h.2.2.1 _, h.2.2.2⟩

end Sys2Proof
end

