-- ==== Sys2Proof/Tests/Slice0.lean ====
section
/-! SUPPORT. Tests of the model and witnesses of its statements' premises.
The words of the decode tests are written out from the encoding tables of R218 to R227 and the opcode table, or are words the manual prints.
Each test runs one step or one operation; each expected value comes from the manual's examples or from hand calculation by the rule its
comment names. Each witness shows, by a state and operands written out, that the premises of a statement can be met together. -/
namespace Sys2Proof.Tests
set_option maxRecDepth 100000
set_option Elab.async false
open Sys2Proof Sys2Proof.Machine Sys2Proof.Safety
def readsAs (x : Nat × Instr) : Bool := decide (decodeTableWord 96 x.1 = some x.2) && decide ((encode x.2).toNat = x.1)

def controlWords : List (Nat × Instr) := [
    (0x0029_2230_1D9B_7130_B0DE_3465, .nop { hdr := { la := 0xA, gai := 4, gan := 1, gbi := 1, rnd := 1, ch := 2 }, d := 0x76, s1 := 0x1B7, s2 := 0x4C, s3 := 0xB0, s4 := 0x378, ty := 0x1A, aux := 3, sub := 5 }),
    (0x0074_4EC0_7105_F442_51D6_928B, .exit { hdr := { la := 0xD, gai := 1, gbi := 7, rnd := 6 }, d := 0x1C4, s1 := 0x5F, s2 := 0x110, s3 := 0x251, s4 := 0x35A, ty := 9, aux := 4, sub := 0xB }),
    (0x008D_A60B_FE14_1AFC_BBF9_97B0, .bra { hdr := { la := 3, gai := 6, gan := 1, gbi := 3, ch := 1 }, c := 0x3F8, off := 0x506BF2EF, bmode := 3, z := 0x997B0 }),
    (0x00DD_45F3_E5FE_BB2F_4E05_475E, .brx { hdr := { la := 7, gai := 5, gbi := 2, gbn := 1, rnd := 7, ch := 2 }, c := 0x397, off := 0xFAECBD38, z := 0x5475E }),
    (0x0129_3A33_AE2C_7FB8_23F2_334E, .call { hdr := { la := 0xA, gai := 4, gan := 1, gbi := 0xD, rnd := 1, ch := 2 }, c := 0x2B8, off := 0xB1FEE08F, bmode := 3, z := 0x2334E }),
    (0x014A_2498_91B1_6B18_2EEC_6C3F, .ret { hdr := { la := 2, gai := 8, gan := 1, gbi := 2, rnd := 4, ch := 3 }, d := 0x246, s1 := 0x316, s2 := 0x2C6, s3 := 0x2E, s4 := 0x3B1, ty := 0x16, aux := 1, sub := 0x1F }),
    (0x0185_A8D9_FE0A_52A9_6FB1_ACFB, .felt { hdr := { la := 1, gai := 6, gan := 1, gbi := 4, rnd := 6, ch := 3 }, d := 0x3F8, s1 := 0xA5, imm := 0x2A96FB1A, ty := 0x19, sat := 1, z := 1, sub := 0x1B }),
    (0x01F6_EE28_4D5D_B774_18F8_5780, .yield { hdr := { la := 0xD, gai := 0xB, gan := 1, gbi := 7, rnd := 1, ch := 1 }, d := 0x135, s1 := 0x1DB, s2 := 0x1DD, s3 := 0x18, s4 := 0x3E1, ty := 0xB, sat := 1, aux := 4 }),
    (0x0213_741C_C8F2_FCC7_2735_3DA2, .phase { hdr := { la := 4, gai := 0xD, gan := 1, gbi := 0xA, ch := 3 }, d := 0x323, s1 := 0x32F, s2 := 0x331, s3 := 0x327, s4 := 0xD4, xf := 0x3DA2 }),
    (0x0270_44E9_386B_899C_9430_9326, .sleep { hdr := { la := 0xC, gai := 1, gbi := 2, rnd := 7, ch := 1 }, d := 0xE1, s1 := 0x2B8, imm := 0x99C94309, ty := 6, z := 1, sub := 6 }),
    (0x0280_9891_BA7C_B1F7_296A_BFFE, .bar { hdr := { gai := 2, gbi := 0xC, rnd := 4, ch := 2 }, d := 0x2E9, s1 := 0x3CB, imm := 0x1F7296AB, ty := 0x1F, sat := 1, z := 1, sub := 0x1E }),
    (0x02C9_15E9_0BDA_4873_BE07_84A5, .barh { hdr := { la := 2, gai := 4, gbi := 0xA, gbn := 1, rnd := 7, ch := 1 }, d := 0x2F, s1 := 0x1A4, imm := 0x873BE078, ty := 9, z := 1, sub := 5 }),
    (0x032D_6F69_7AB3_43A0_B996_5FE1, .trap { hdr := { la := 0xB, gai := 5, gan := 1, gbi := 7, gbn := 1, rnd := 3, ch := 1 }, d := 0x1EA, s1 := 0x334, imm := 0x3A0B9965, ty := 0x1F, sat := 1, z := 1, sub := 1 }),
    (0x037E_17B0_291C_3345_D0F0_997E, .tret { hdr := { la := 0xF, gai := 8, gbi := 0xB, gbn := 1, rnd := 5, ch := 2 }, d := 0xA4, s1 := 0x1C3, s2 := 0xD1, s3 := 0x1D0, s4 := 0x3C2, ty := 0xC, sat := 1, aux := 3, sub := 0x1E }),
    (0x0383_E4C9_F4D6_DA2C_68E4_52D9, .bkpt { hdr := { gai := 0xF, gan := 1, gbi := 2, rnd := 6, ch := 1 }, d := 0x3D3, s1 := 0x16D, imm := 0xA2C68E45, ty := 5, sat := 1, sub := 0x19 }),
    (0x03D5_40E9_F2EC_D8C5_C715_F0A8, .srget { hdr := { la := 5, gai := 5, rnd := 7, ch := 1 }, d := 0x3CB, s1 := 0x2CD, imm := 0x8C5C715F, ty := 1, z := 1, sub := 8 }),
    (0x0419_9089_A6E1_38B5_AB3E_E43D, .srset { hdr := { la := 6, gai := 6, gbi := 8, rnd := 4, ch := 1 }, d := 0x29B, s1 := 0x213, imm := 0x8B5AB3EE, ty := 8, z := 1, sub := 0x1D }),
    (0x0451_1C08_5812_1F24_F61F_A920, .migr { hdr := { la := 4, gai := 4, gbi := 0xE, ch := 1 }, d := 0x160, s1 := 0x121, s2 := 0x3C9, s3 := 0xF6, s4 := 0x7E, ty := 0x14, sat := 1, aux := 1 }),
    (0x045D_A2E0_2078_BA69_988D_F961, .migrSwap { hdr := { la := 7, gai := 6, gan := 1, gbi := 1, rnd := 7 }, d := 0x81, s1 := 0x38B, s2 := 0x29A, s3 := 0x198, s4 := 0x237, ty := 0x1C, sat := 1, aux := 3, sub := 1 }),
    (0x049B_9AD8_A1C9_47B3_6D25_5B29, .trace { hdr := { la := 6, gai := 0xE, gbi := 0xD, rnd := 6, ch := 3 }, d := 0x287, s1 := 0x94, s2 := 0x1EC, s3 := 0x36D, s4 := 0x95, ty := 0xD, sat := 1, aux := 1, sub := 9 }),
    (0x04AD_2961_CBFE_5394_5336_BDDA, .traceImm { hdr := { la := 0xB, gai := 4, gan := 1, gbi := 4, gbn := 1, rnd := 3 }, d := 0x32F, s1 := 0x3E5, imm := 0x3945336B, ty := 0x1B, sat := 1, sub := 0x1A }),
    (0x04EE_96B8_E182_5C4E_A697_4860, .trctlSet { hdr := { la := 0xB, gai := 0xA, gbi := 0xB, rnd := 5, ch := 3 }, d := 0x386, s1 := 0x25, s2 := 0x313, s3 := 0x2A6, s4 := 0x25D, ty := 4, aux := 3 }),
    (0x04CA_2288_D821_1CFD_31FD_2881, .trctlFlush { hdr := { la := 2, gai := 8, gan := 1, gbi := 1, rnd := 4, ch := 1 }, d := 0x360, s1 := 0x211, s2 := 0x33F, s3 := 0x131, s4 := 0x3F4, ty := 0x14, aux := 4, sub := 1 }),
    (0x0517_5030_2ADC_7222_1D3E_7ABA, .evset { hdr := { la := 5, gai := 0xD, gbi := 8, rnd := 1, ch := 2 }, d := 0xAB, s1 := 0x1C7, s2 := 0x88, s3 := 0x21D, s4 := 0xF9, ty := 0x1D, aux := 5, sub := 0x1A }),
    (0x0521_0E51_19D7_2C26_E7A4_2971, .evsetImm { hdr := { la := 8, gai := 4, gbi := 7, rnd := 2, ch := 2 }, d := 0x67, s1 := 0x172, imm := 0xC26E7A42, ty := 0x12, sat := 1, z := 1, sub := 0x11 }),
    (0x0542_0078_7DF9_3367_75FD_736E, .evwait { hdr := { gai := 8, rnd := 3, ch := 3 }, d := 0x1F7, s1 := 0x393, s2 := 0xD9, s3 := 0x375, s4 := 0x3F5, ty := 0x19, sat := 1, aux := 3, sub := 0xE }),
    (0x0569_9909_0749_0E13_E213_EDA5, .evwaitImm { hdr := { la := 0xA, gai := 6, gbi := 0xC, gbn := 1, ch := 1 }, d := 0x1D, s1 := 0x90, imm := 0xE13E213E, ty := 0x1B, z := 1, sub := 5 })]

theorem test_decode_control : controlWords.all readsAs = true := by decide +kernel

def scalar_arithWords : List (Nat × Instr) := [
    (0x0825_E348_89B9_101E_1BBA_6B62, .smov { hdr := { la := 9, gai := 7, gan := 1, gbi := 1, gbn := 1, rnd := 2, ch := 1 }, d := 0x226, s1 := 0x391, s2 := 7, s3 := 0x21B, s4 := 0x2E9, ty := 0x15, sat := 1, aux := 3, sub := 2 }),
    (0x0865_AAB9_2AFC_CA7F_0C99_E790, .smovi { hdr := { la := 9, gai := 6, gan := 1, gbi := 5, rnd := 5, ch := 3 }, d := 0xAB, s1 := 0x3CC, imm := 0xA7F0C99E, ty := 0xF, sub := 0x10 }),
    (0x0893_1891_770A_DC02_36E4_9C69, .smovih { hdr := { la := 4, gai := 0xC, gbi := 0xC, rnd := 4, ch := 2 }, d := 0x1DC, s1 := 0xAD, imm := 0xC0236E49, ty := 0x18, sat := 1, z := 1, sub := 9 }),
    (0x08D0_6860_0FC5_5442_E235_B101, .sadd { hdr := { la := 4, gai := 1, gan := 1, gbi := 4, rnd := 3 }, d := 0x3F, s1 := 0x55, s2 := 0x110, s3 := 0x2E2, s4 := 0xD6, ty := 0x18, sat := 1, sub := 1 }),
    (0x08DF_E121_21FC_A43F_B9FB_C6BF, .saddImm { hdr := { la := 7, gai := 0xF, gan := 1, gbn := 1, rnd := 1 }, d := 0x87, s1 := 0x3CA, imm := 0x43FB9FBC, ty := 0xD, z := 1, sub := 0x1F }),
    (0x090B_E228_A9E0_89BD_1106_7CF1, .ssub { hdr := { la := 2, gai := 0xF, gan := 1, gbi := 1, rnd := 1, ch := 1 }, d := 0x2A7, s1 := 0x208, s2 := 0x26F, s3 := 0x111, s4 := 0x19, ty := 0x1E, aux := 7, sub := 0x11 }),
    (0x090D_B3F9_EECF_28C9_0473_E9A1, .ssubImm { hdr := { la := 3, gai := 6, gan := 1, gbi := 9, gbn := 1, rnd := 7, ch := 3 }, d := 0x3BB, s1 := 0xF2, imm := 0x8C90473E, ty := 0x13, z := 1, sub := 1 }),
    (0x0978_B168_260B_848A_18B8_1137, .smul { hdr := { la := 0xE, gai := 2, gan := 1, gbi := 8, gbn := 1, rnd := 3, ch := 1 }, d := 0x98, s1 := 0xB8, s2 := 0x122, s3 := 0x218, s4 := 0x2E0, ty := 8, sat := 1, aux := 1, sub := 0x17 }),
    (0x095F_F841_FBB9_B67C_98FB_94F8, .smulImm { hdr := { la := 7, gai := 0xF, gan := 1, gbi := 0xC, rnd := 2 }, d := 0x3EE, s1 := 0x39B, imm := 0x67C98FB9, ty := 9, sat := 1, z := 1, sub := 0x18 }),
    (0x098E_95C0_6401_8946_06BE_89C4, .smulh { hdr := { la := 3, gai := 0xA, gbi := 0xA, gbn := 1, rnd := 6 }, d := 0x190, s1 := 0x18, s2 := 0x251, s3 := 0x206, s4 := 0x2FA, ty := 4, sat := 1, aux := 6, sub := 4 }),
    (0x09AF_6321_9213_0440_6C05_3A1B, .smulhImm { hdr := { la := 0xB, gai := 0xD, gan := 1, gbi := 1, gbn := 1, rnd := 1 }, d := 0x248, s1 := 0x130, imm := 0x4406C053, ty := 0x14, sub := 0x1B }),
    (0x09F1_83E8_92BE_2191_0457_7DB2, .smad { hdr := { la := 0xC, gai := 6, gbi := 1, gbn := 1, rnd := 7, ch := 1 }, d := 0x24A, s1 := 0x3E2, s2 := 0x64, s3 := 0x104, s4 := 0x15D, ty := 0x1E, sat := 1, aux := 5, sub := 0x12 }),
    (0x0A26_3898_C9CF_5559_4B26_5B7C, .sdiv { hdr := { la := 9, gai := 8, gan := 1, gbi := 0xC, rnd := 4, ch := 3 }, d := 0x327, s1 := 0xF5, s2 := 0x156, s3 := 0x14B, s4 := 0x99, ty := 0xD, sat := 1, aux := 3, sub := 0x1C }),
    (0x0A2B_A861_596B_C8E4_DC3A_3A10, .sdivImm { hdr := { la := 0xA, gai := 0xE, gan := 1, gbi := 4, rnd := 3 }, d := 0x165, s1 := 0x2BC, imm := 0x8E4DC3A3, ty := 0x14, sub := 0x10 }),
    (0x0A43_7AD0_AD07_FFF2_38B8_5031, .srem { hdr := { gai := 0xD, gan := 1, gbi := 0xD, rnd := 6, ch := 2 }, d := 0x2B4, s1 := 0x7F, s2 := 0x3FC, s3 := 0x238, s4 := 0x2E1, ty := 8, aux := 1, sub := 0x11 }),
    (0x0A5F_3D81_4104_2CDE_347A_BFB9, .sremImm { hdr := { la := 7, gai := 0xC, gan := 1, gbi := 0xE, gbn := 1, rnd := 4 }, d := 0x104, s1 := 0x42, imm := 0xCDE347AB, ty := 0x1F, z := 1, sub := 0x19 }),
    (0x0AB9_CE40_EA0A_E140_0240_5C88, .sand { hdr := { la := 0xE, gai := 7, gbi := 7, rnd := 2 }, d := 0x3A8, s1 := 0xAE, s2 := 0x50, s3 := 2, s4 := 0x101, ty := 0xE, aux := 4, sub := 8 }),
    (0x0AA3_4689_C6A1_699D_F209_B071, .sandImm { hdr := { la := 8, gai := 0xD, gbi := 3, rnd := 4, ch := 1 }, d := 0x31A, s1 := 0x216, imm := 0x99DF209B, sat := 1, z := 1, sub := 0x11 }),
    (0x0ADF_CED0_1C42_C637_FCD7_0B7B, .sor { hdr := { la := 7, gai := 0xF, gbi := 7, rnd := 6, ch := 2 }, d := 0x71, s1 := 0x2C, s2 := 0x18D, s3 := 0x3FC, s4 := 0x35C, ty := 5, sat := 1, aux := 3, sub := 0x1B }),
    (0x0AED_E3D1_CAD9_5114_340F_FF8C, .sorImm { hdr := { la := 0xB, gai := 7, gan := 1, gbi := 1, gbn := 1, rnd := 6, ch := 2 }, d := 0x32B, s1 := 0x195, imm := 0x114340FF, ty := 0x1F, sub := 0xC })]

theorem test_decode_scalar_arith : scalar_arithWords.all readsAs = true := by decide +kernel

def scalar_logicWords : List (Nat × Instr) := [
    (0x0B39_F2E8_727E_1D58_734A_F261, .sxor { hdr := { la := 0xE, gai := 7, gan := 1, gbi := 9, rnd := 7, ch := 1 }, d := 0x1C9, s1 := 0x3E1, s2 := 0x356, s3 := 0x73, s4 := 0x12B, ty := 0x19, aux := 3, sub := 1 }),
    (0x0B13_42D9_A0CE_7FF5_E1D1_F56B, .sxorImm { hdr := { la := 4, gai := 0xD, gbi := 1, rnd := 6, ch := 3 }, d := 0x283, s1 := 0xE7, imm := 0xFF5E1D1F, ty := 0xA, sat := 1, z := 1, sub := 0xB }),
    (0x0B46_77E8_37C0_5282_3D29_6D2D, .sshl { hdr := { la := 1, gai := 9, gan := 1, gbi := 0xB, gbn := 1, rnd := 7, ch := 1 }, d := 0xDF, s1 := 5, s2 := 0xA0, s3 := 0x23D, s4 := 0xA5, ty := 0x16, sat := 1, aux := 1, sub := 0xD }),
    (0x0B72_FA19_642F_B724_3D47_CA61, .sshlImm { hdr := { la := 0xC, gai := 0xB, gan := 1, gbi := 0xD, ch := 3 }, d := 0x190, s1 := 0x2FB, imm := 0x7243D47C, ty := 0x14, sat := 1, z := 1, sub := 1 }),
    (0x0B9F_18E0_1FA0_E63C_80AD_AFA2, .sshr { hdr := { la := 7, gai := 0xC, gbi := 0xC, rnd := 7 }, d := 0x7E, s1 := 0x20E, s2 := 0x18F, s3 := 0x80, s4 := 0x2B6, ty := 0x17, sat := 1, aux := 5, sub := 2 }),
    (0x0BA2_B221_778D_BF4E_F614_2C5F, .sshrImm { hdr := { la := 8, gai := 0xA, gan := 1, gbi := 9, rnd := 1 }, d := 0x1DE, s1 := 0xDB, imm := 0xF4EF6142, ty := 0x18, sat := 1, sub := 0x1F }),
    (0x0BFD_5270_A3BA_FB94_A165_327A, .ssra { hdr := { la := 0xF, gai := 5, gbi := 9, rnd := 3, ch := 2 }, d := 0x28E, s1 := 0x3AF, s2 := 0x2E5, s3 := 0xA1, s4 := 0x194, ty := 0x19, aux := 3, sub := 0x1A }),
    (0x0BC8_74C1_24E1_E9FE_5E39_96BF, .ssraImm { hdr := { la := 2, gai := 1, gan := 1, gbi := 0xA, rnd := 6 }, d := 0x93, s1 := 0x21E, imm := 0x9FE5E399, ty := 0xD, z := 1, sub := 0x1F }),
    (0x0C15_DB60_9665_98F2_24BE_E17C, .smin { hdr := { la := 5, gai := 7, gbi := 0xD, gbn := 1, rnd := 3 }, d := 0x259, s1 := 0x259, s2 := 0x23C, s3 := 0x224, s4 := 0x2FB, ty := 0x10, sat := 1, aux := 3, sub := 0x1C }),
    (0x0C1D_4E89_A708_4656_4D13_479D, .sminImm { hdr := { la := 7, gai := 5, gbi := 7, rnd := 4, ch := 1 }, d := 0x29C, s1 := 0x84, imm := 0x6564D134, ty := 0xF, sub := 0x1D }),
    (0x0C4C_2FA0_965D_C3D0_6761_18AB, .smax { hdr := { la := 3, gan := 1, gbi := 7, gbn := 1, rnd := 5 }, d := 0x259, s1 := 0x1DC, s2 := 0xF4, s3 := 0x67, s4 := 0x184, ty := 0xC, aux := 5, sub := 0xB }),
    (0x0C7A_0761_BCEB_8243_0CA6_D6CD, .smaxImm { hdr := { la := 0xE, gai := 8, gbi := 3, gbn := 1, rnd := 3 }, d := 0x2F3, s1 := 0x2B8, imm := 0x2430CA6D, ty := 0xD, sat := 1, sub := 0xD }),
    (0x0CAB_6B28_103F_7F78_81D0_CD45, .scmp { hdr := { la := 0xA, gai := 0xD, gan := 1, gbi := 5, gbn := 1, rnd := 1, ch := 1 }, d := 0x40, s1 := 0x3F7, s2 := 0x3DE, s3 := 0x81, s4 := 0x343, ty := 6, sat := 1, aux := 2, sub := 5 }),
    (0x0C97_3B99_1A67_FE23_9D3D_7D57, .scmpImm { hdr := { la := 5, gai := 0xC, gan := 1, gbi := 0xD, gbn := 1, rnd := 4, ch := 3 }, d := 0x69, s1 := 0x27F, imm := 0xE239D3D7, ty := 0x1A, sat := 1, sub := 0x17 }),
    (0x0CF3_0158_3A0B_9CFE_EAEB_D403, .ssel { hdr := { la := 0xC, gai := 0xC, gbn := 1, rnd := 2, ch := 3 }, d := 0xE8, s1 := 0xB9, s2 := 0x33F, s3 := 0x2EA, s4 := 0x3AF, ty := 0xA, sub := 3 }),
    (0x0D13_1650_9114_B57C_8937_B173, .sclz { hdr := { la := 4, gai := 0xC, gbi := 0xB, rnd := 2, ch := 2 }, d := 0x244, s1 := 0x14B, s2 := 0x15F, s3 := 0x89, s4 := 0xDE, ty := 0x18, sat := 1, aux := 3, sub := 0x13 }),
    (0x0D50_74C0_521C_6CF1_91F2_1619, .spopc { hdr := { la := 4, gai := 1, gan := 1, gbi := 0xA, rnd := 6 }, d := 0x148, s1 := 0x1C6, s2 := 0x33C, s3 := 0x191, s4 := 0x3C8, ty := 0xB, sub := 0x19 }),
    (0x0D97_2668_1504_EA5C_F1C7_BBD3, .sbfe { hdr := { la := 5, gai := 0xC, gan := 1, gbi := 3, rnd := 3, ch := 1 }, d := 0x54, s1 := 0x4E, s2 := 0x297, s3 := 0xF1, s4 := 0x31E, ty := 0x1D, sat := 1, aux := 6, sub := 0x13 }),
    (0x0D9F_77E9_0BC0_77D4_FFA0_F7EB, .sbfeImm { hdr := { la := 7, gai := 0xD, gan := 1, gbi := 0xB, gbn := 1, rnd := 7, ch := 1 }, d := 0x2F, s1 := 7, imm := 0x7D4FFA0F, ty := 0xF, sat := 1, z := 1, sub := 0xB }),
    (0x0DF0_C9D0_2EF8_914C_5342_8B23, .sbfi { hdr := { la := 0xC, gai := 3, gbi := 4, gbn := 1, rnd := 6, ch := 2 }, d := 0xBB, s1 := 0x389, s2 := 0x53, s3 := 0x53, s4 := 0x10A, ty := 5, sat := 1, aux := 1, sub := 3 }),
    (0x0E31_0468_FBE4_D549_C421_AD54, .slea { hdr := { la := 0xC, gai := 4, gbi := 2, rnd := 3, ch := 1 }, d := 0x3EF, s1 := 0x24D, s2 := 0x152, s3 := 0x1C4, s4 := 0x86, ty := 0x16, sat := 1, aux := 2, sub := 0x14 }),
    (0x0E63_9170_79A8_DBE8_4B65_D751, .scvt { hdr := { la := 8, gai := 0xE, gbi := 8, gbn := 1, rnd := 3, ch := 2 }, d := 0x1E6, s1 := 0x28D, s2 := 0x2FA, s3 := 0x4B, s4 := 0x197, ty := 0xB, sat := 1, aux := 2, sub := 0x11 })]

theorem test_decode_scalar_logic : scalar_logicWords.all readsAs = true := by decide +kernel

def vector_arithWords : List (Nat × Instr) := [
    (0x102B_1010_E7CD_6813_27BE_21A9, .vmov { hdr := { la := 0xA, gai := 0xC, gbi := 8, ch := 2 }, d := 0x39F, s1 := 0xD6, s2 := 0x204, s3 := 0x327, s4 := 0x2F8, ty := 0x10, sat := 1, aux := 5, sub := 9 }),
    (0x106E_9C41_97A0_7E54_E19E_5029, .vmovi { hdr := { la := 0xB, gai := 0xA, gbi := 0xE, rnd := 2 }, d := 0x25E, s1 := 0x207, imm := 0xE54E19E5, z := 1, sub := 9 }),
    (0x10B7_62E8_1742_D1BC_05B5_A6AE, .vbcst { hdr := { la := 0xD, gai := 0xD, gan := 1, gbi := 1, rnd := 7, ch := 1 }, d := 0x5D, s1 := 0x2D, s2 := 0x6F, s3 := 5, s4 := 0x2D6, ty := 0x13, aux := 5, sub := 0xE }),
    (0x10F6_4DE8_44C1_C7C9_31E6_CC51, .vidx { hdr := { la := 0xD, gai := 9, gbi := 6, gbn := 1, rnd := 7, ch := 1 }, d := 0x113, s1 := 0x1C, s2 := 0x1F2, s3 := 0x131, s4 := 0x39B, ty := 6, aux := 2, sub := 0x11 }),
    (0x1132_03F8_7F15_2000_5A1F_834F, .vadd { hdr := { la := 0xC, gai := 8, gbi := 1, gbn := 1, rnd := 7, ch := 3 }, d := 0x1FC, s1 := 0x152, s3 := 0x5A, s4 := 0x7E, ty := 1, sat := 1, aux := 2, sub := 0xF }),
    (0x1114_4059_6635_24F3_3B0E_E9A0, .vaddImm { hdr := { la := 5, gai := 1, rnd := 2, ch := 3 }, d := 0x198, s1 := 0x352, imm := 0x4F33B0EE, ty := 0x13, z := 1 }),
    (0x1177_9C60_85DD_B13C_FCAB_E09B, .vsub { hdr := { la := 0xD, gai := 0xE, gbi := 0xE, rnd := 3 }, d := 0x217, s1 := 0x1DB, s2 := 0x4F, s3 := 0xFC, s4 := 0x2AF, ty := 0x10, aux := 4, sub := 0x1B }),
    (0x1162_4451_78D9_FF1D_7B8A_AA15, .vsubImm { hdr := { la := 8, gai := 9, gbi := 2, rnd := 2, ch := 2 }, d := 0x1E3, s1 := 0x19F, imm := 0xF1D7B8AA, ty := 0x14, sub := 0x15 }),
    (0x11B3_E0C8_9D9B_2C84_9F57_D207, .vmul { hdr := { la := 0xC, gai := 0xF, gan := 1, rnd := 6, ch := 1 }, d := 0x276, s1 := 0x1B2, s2 := 0x321, s3 := 0x9F, s4 := 0x15F, ty := 9, sub := 7 }),
    (0x118D_6801_46C5_7B26_F192_810C, .vmulImm { hdr := { la := 3, gai := 5, gan := 1, gbi := 4 }, d := 0x11B, s1 := 0x57, imm := 0xB26F1928, ty := 2, sub := 0xC }),
    (0x11F0_CC20_118B_3933_D133_1072, .vmulh { hdr := { la := 0xC, gai := 3, gbi := 6, rnd := 1 }, d := 0x46, s1 := 0xB3, s2 := 0x24C, s3 := 0x3D1, s4 := 0xCC, ty := 8, aux := 3, sub := 0x12 }),
    (0x11EA_B0B1_9086_380F_4EDD_8921, .vmulhImm { hdr := { la := 0xA, gai := 0xA, gan := 1, gbi := 8, rnd := 5, ch := 2 }, d := 0x242, s1 := 0x63, imm := 0x80F4EDD8, ty := 0x12, z := 1, sub := 1 }),
    (0x120E_E230_5737_D009_9D93_86BF, .vmad { hdr := { la := 3, gai := 0xB, gan := 1, gbi := 1, rnd := 1, ch := 2 }, d := 0x15C, s1 := 0x37D, s2 := 2, s3 := 0x19D, s4 := 0x24E, ty := 3, aux := 5, sub := 0x1F }),
    (0x124F_DF88_915B_776B_FC54_CEE6, .vand { hdr := { la := 3, gai := 0xF, gbi := 0xF, gbn := 1, rnd := 4, ch := 1 }, d := 0x245, s1 := 0x1B7, s2 := 0x1DA, s3 := 0x3FC, s4 := 0x153, ty := 7, aux := 7, sub := 6 }),
    (0x126A_D939_0CEF_934C_411C_3858, .vandImm { hdr := { la := 0xA, gai := 0xB, gbi := 0xC, gbn := 1, rnd := 1, ch := 3 }, d := 0x33, s1 := 0x2F9, imm := 0x34C411C3, ty := 0x10, sat := 1, sub := 0x18 }),
    (0x12B9_1758_A595_BED3_8283_9CBD, .vor { hdr := { la := 0xE, gai := 4, gbi := 0xB, gbn := 1, rnd := 2, ch := 3 }, d := 0x296, s1 := 0x15B, s2 := 0x3B4, s3 := 0x382, s4 := 0x20E, ty := 0xE, aux := 5, sub := 0x1D }),
    (0x129D_B249_A72C_9293_256B_6A06, .vorImm { hdr := { la := 7, gai := 6, gan := 1, gbi := 9, rnd := 2, ch := 1 }, d := 0x29C, s1 := 0x2C9, imm := 0x293256B6, ty := 0x14, sub := 6 }),
    (0x12CD_A890_DEA3_0644_DF36_A2DD, .vxor { hdr := { la := 3, gai := 6, gan := 1, gbi := 4, rnd := 4, ch := 2 }, d := 0x37A, s1 := 0x230, s2 := 0x191, s3 := 0xDF, s4 := 0xDA, ty := 0x11, aux := 6, sub := 0x1D }),
    (0x12C4_3A99_0B52_2BCF_D527_B01A, .vxorImm { hdr := { la := 1, gan := 1, gbi := 0xD, rnd := 4, ch := 3 }, d := 0x2D, s1 := 0x122, imm := 0xBCFD527B, sub := 0x1A })]

theorem test_decode_vector_arith : vector_arithWords.all readsAs = true := by decide +kernel

def vector_logicWords : List (Nat × Instr) := [
    (0x131D_5DB0_3235_B7C3_3350_21FD, .vshl { hdr := { la := 7, gai := 5, gbi := 0xE, gbn := 1, rnd := 5, ch := 2 }, d := 0xC8, s1 := 0x35B, s2 := 0x1F0, s3 := 0x333, s4 := 0x140, ty := 0x10, sat := 1, aux := 7, sub := 0x1D }),
    (0x1303_54D9_3644_E37C_714C_F65D, .vshlImm { hdr := { gai := 0xD, gbi := 0xA, rnd := 6, ch := 3 }, d := 0xD9, s1 := 0x4E, imm := 0x37C714CF, ty := 0xC, sat := 1, sub := 0x1D }),
    (0x137C_35E8_5E32_33EA_D81C_E1D9, .vshr { hdr := { la := 0xF, gan := 1, gbi := 0xA, gbn := 1, rnd := 7, ch := 1 }, d := 0x178, s1 := 0x323, s2 := 0xFA, s3 := 0x2D8, s4 := 0x73, ty := 0x10, sat := 1, aux := 6, sub := 0x19 }),
    (0x1344_1BB1_37DC_BF8B_44BC_2CCA, .vshrImm { hdr := { la := 1, gbi := 0xD, gbn := 1, rnd := 5, ch := 2 }, d := 0xDF, s1 := 0x1CB, imm := 0xF8B44BC2, ty := 0x19, sat := 1, sub := 0xA }),
    (0x1389_AEB8_EFA5_A403_C1B5_9DD0, .vsra { hdr := { la := 2, gai := 6, gan := 1, gbi := 7, rnd := 5, ch := 3 }, d := 0x3BE, s1 := 0x25A, s2 := 0x100, s3 := 0x3C1, s4 := 0x2D6, ty := 0xE, sat := 1, aux := 6, sub := 0x10 }),
    (0x13B5_61A9_9AA9_07AC_3CAF_8DA9, .vsraImm { hdr := { la := 0xD, gai := 5, gan := 1, gbn := 1, rnd := 5, ch := 1 }, d := 0x26A, s1 := 0x290, imm := 0x7AC3CAF8, ty := 0x1B, z := 1, sub := 9 }),
    (0x13F0_54A0_05DA_D24E_5880_0C6B, .vmin { hdr := { la := 0xC, gai := 1, gbi := 0xA, rnd := 5 }, d := 0x17, s1 := 0x1AD, s2 := 0x93, s3 := 0x258, s4 := 0x200, ty := 6, aux := 3, sub := 0xB }),
    (0x13FA_CD41_9819_4D6D_B010_639A, .vminImm { hdr := { la := 0xE, gai := 0xB, gbi := 6, gbn := 1, rnd := 2 }, d := 0x260, s1 := 0x194, imm := 0xD6DB0106, ty := 7, sub := 0x1A }),
    (0x1413_E3E8_FB9F_8FF1_5103_55FF, .vmax { hdr := { la := 4, gai := 0xF, gan := 1, gbi := 1, gbn := 1, rnd := 7, ch := 1 }, d := 0x3EE, s1 := 0x1F8, s2 := 0x3FC, s3 := 0x151, s4 := 0xD, ty := 0xA, sat := 1, aux := 7, sub := 0x1F }),
    (0x1427_BB29_B883_AFFB_D8D4_A349, .vmaxImm { hdr := { la := 9, gai := 0xE, gan := 1, gbi := 0xD, gbn := 1, rnd := 1, ch := 1 }, d := 0x2E2, s1 := 0x3A, imm := 0xFFBD8D4A, ty := 6, sat := 1, sub := 9 }),
    (0x145B_54B0_F2DA_F917_7BAF_3712, .vabs { hdr := { la := 6, gai := 0xD, gbi := 0xA, rnd := 5, ch := 2 }, d := 0x3CB, s1 := 0x1AF, s2 := 0x245, s3 := 0x37B, s4 := 0x2BC, ty := 0x1B, sat := 1, sub := 0x12 }),
    (0x14A6_F990_683F_03C6_A562_6945, .vcmp { hdr := { la := 9, gai := 0xB, gan := 1, gbi := 0xC, gbn := 1, rnd := 4, ch := 2 }, d := 0x1A0, s1 := 0x3F0, s2 := 0xF1, s3 := 0x2A5, s4 := 0x189, ty := 0x14, sat := 1, aux := 2, sub := 5 }),
    (0x1487_2381_0305_FEBE_2EB3_B1C5, .vcmpImm { hdr := { la := 1, gai := 0xC, gan := 1, gbi := 1, gbn := 1, rnd := 4 }, d := 0xC, s1 := 0x5F, imm := 0xEBE2EB3B, ty := 3, sat := 1, sub := 5 }),
    (0x14C7_8618_3381_BBCD_1C9E_615A, .vsel { hdr := { la := 1, gai := 0xE, gbi := 3, ch := 3 }, d := 0xCE, s1 := 0x1B, s2 := 0x2F3, s3 := 0x11C, s4 := 0x279, ty := 0x10, sat := 1, aux := 2, sub := 0x1A }),
    (0x1506_9AE0_3CF5_ECF3_9222_415E, .vclz { hdr := { la := 1, gai := 0xA, gbi := 0xD, rnd := 7 }, d := 0xF3, s1 := 0x35E, s2 := 0x33C, s3 := 0x392, s4 := 0x89, sat := 1, aux := 2, sub := 0x1E }),
    (0x1574_DE40_DA80_904C_F92D_1A5E, .vpopc { hdr := { la := 0xD, gai := 3, gbi := 0xF, rnd := 2 }, d := 0x36A, s1 := 9, s2 := 0x13, s3 := 0xF9, s4 := 0xB4, ty := 0xD, aux := 2, sub := 0x1E }),
    (0x1582_1C10_4A0A_C963_FCEB_E000, .vbfe { hdr := { gai := 8, gbi := 0xE, ch := 2 }, d := 0x128, s1 := 0xAC, s2 := 0x258, s3 := 0x3FC, s4 := 0x3AF, ty := 0x10 }),
    (0x1584_1989_F907_A50F_7B16_8E49, .vbfeImm { hdr := { la := 1, gbi := 0xC, gbn := 1, rnd := 4, ch := 1 }, d := 0x3E4, s1 := 0x7A, imm := 0x50F7B168, ty := 0x1C, sat := 1, sub := 9 }),
    (0x15ED_7FF0_AAE5_68F4_7CAA_009B, .vbfi { hdr := { la := 0xB, gai := 5, gan := 1, gbi := 0xF, gbn := 1, rnd := 7, ch := 2 }, d := 0x2AB, s1 := 0x256, s2 := 0x23D, s3 := 0x7C, s4 := 0x2A8, aux := 4, sub := 0x1B }),
    (0x161F_38F0_00E9_286A_24D8_5489, .vdot4 { hdr := { la := 7, gai := 0xC, gan := 1, gbi := 0xC, rnd := 7, ch := 2 }, d := 3, s1 := 0x292, s2 := 0x21A, s3 := 0x224, s4 := 0x361, ty := 0xA, aux := 4, sub := 9 }),
    (0x1652_36F8_669D_F9E4_75CA_7A80, .philox { hdr := { la := 4, gai := 8, gan := 1, gbi := 0xB, rnd := 7, ch := 3 }, d := 0x19A, s1 := 0x1DF, s2 := 0x279, s3 := 0x75, s4 := 0x329, ty := 0x1D, aux := 4 })]

theorem test_decode_vector_logic : vector_logicWords.all readsAs = true := by decide +kernel

def floatWords : List (Nat × Instr) := [
    (0x1833_9678_84E9_1F41_9D60_DA2B, .fadd { hdr := { la := 0xC, gai := 0xE, gbi := 0xB, rnd := 3, ch := 3 }, d := 0x213, s1 := 0x291, s2 := 0x3D0, s3 := 0x19D, s4 := 0x183, ty := 0xD, aux := 1, sub := 0xB }),
    (0x1866_F860_FCAF_E366_F9ED_4AA1, .fsub { hdr := { la := 9, gai := 0xB, gan := 1, gbi := 0xC, rnd := 3 }, d := 0x3F2, s1 := 0x2FE, s2 := 0xD9, s3 := 0x2F9, s4 := 0x3B5, ty := 5, aux := 5, sub := 1 }),
    (0x18AE_0678_6D61_78F7_6831_B882, .fmul { hdr := { la := 0xB, gai := 8, gbi := 3, rnd := 3, ch := 3 }, d := 0x1B5, s1 := 0x217, s2 := 0x23D, s3 := 0x368, s4 := 0xC6, ty := 0x1C, aux := 4, sub := 2 }),
    (0x18E9_9800_11EF_5EAB_E520_F230, .ffma { hdr := { la := 0xA, gai := 6, gbi := 0xC }, d := 0x47, s1 := 0x2F5, s2 := 0x3AA, s3 := 0x3E5, s4 := 0x83, ty := 0x19, aux := 1, sub := 0x10 }),
    (0x1929_D8E8_BDDE_1719_6013_E101, .fmin { hdr := { la := 0xA, gai := 7, gbi := 0xC, rnd := 7, ch := 1 }, d := 0x2F7, s1 := 0x1E1, s2 := 0x1C6, s3 := 0x160, s4 := 0x4F, ty := 0x10, sat := 1, sub := 1 }),
    (0x1946_2250_02D9_798F_8735_FDB0, .fmax { hdr := { la := 1, gai := 8, gan := 1, gbi := 1, rnd := 2, ch := 2 }, d := 0xB, s1 := 0x197, s2 := 0x263, s3 := 0x387, s4 := 0xD7, ty := 0x1E, sat := 1, aux := 5, sub := 0x10 }),
    (0x19B0_FF58_7A12_5067_BE63_C464, .fcmp { hdr := { la := 0xC, gai := 3, gan := 1, gbi := 0xF, gbn := 1, rnd := 2, ch := 3 }, d := 0x1E8, s1 := 0x125, s2 := 0x19, s3 := 0x3BE, s4 := 0x18F, ty := 2, aux := 3, sub := 4 }),
    (0x19ED_2700_E7AB_7A51_DEF4_4F55, .fclass { hdr := { la := 0xB, gai := 4, gan := 1, gbi := 3, gbn := 1 }, d := 0x39E, s1 := 0x2B7, s2 := 0x294, s3 := 0x1DE, s4 := 0x3D1, ty := 7, sat := 1, aux := 2, sub := 0x15 }),
    (0x1A1C_5CE8_8875_8D2D_F94F_8395, .frcp { hdr := { la := 7, gai := 1, gbi := 0xE, rnd := 7, ch := 1 }, d := 0x221, s1 := 0x358, s2 := 0x34B, s3 := 0x1F9, s4 := 0x13E, ty := 1, sat := 1, aux := 4, sub := 0x15 }),
    (0x1A56_27F8_3A53_A1D1_B0F4_648C, .frsq { hdr := { la := 5, gai := 8, gan := 1, gbi := 3, gbn := 1, rnd := 7, ch := 3 }, d := 0xE9, s1 := 0x13A, s2 := 0x74, s3 := 0x1B0, s4 := 0x3D1, ty := 0x12, aux := 4, sub := 0xC }),
    (0x1AAF_6E38_9435_3530_7596_52F5, .fsqrt { hdr := { la := 0xB, gai := 0xD, gan := 1, gbi := 7, rnd := 1, ch := 3 }, d := 0x250, s1 := 0x353, s2 := 0x14C, s3 := 0x75, s4 := 0x259, ty := 9, aux := 7, sub := 0x15 }),
    (0x1AD3_92B8_14F4_56FE_365C_906B, .fdiv { hdr := { la := 4, gai := 0xE, gbi := 9, rnd := 5, ch := 3 }, d := 0x53, s1 := 0x345, s2 := 0x1BF, s3 := 0x236, s4 := 0x172, ty := 8, aux := 3, sub := 0xB }),
    (0x1B18_9F48_4618_99D9_9E05_0916, .fexp2 { hdr := { la := 6, gai := 2, gbi := 0xF, gbn := 1, rnd := 2, ch := 1 }, d := 0x118, s1 := 0x189, s2 := 0x276, s3 := 0x19E, s4 := 0x14, ty := 4, sat := 1, sub := 0x16 }),
    (0x1B6A_64D8_4422_17F1_7DBB_C4A0, .flog2 { hdr := { la := 0xA, gai := 9, gan := 1, gbi := 2, rnd := 6, ch := 3 }, d := 0x110, s1 := 0x221, s2 := 0x1FC, s3 := 0x17D, s4 := 0x2EF, ty := 2, aux := 5 }),
    (0x1BAF_8770_C347_D954_DCFD_7841, .fsin { hdr := { la := 0xB, gai := 0xE, gbi := 3, gbn := 1, rnd := 3, ch := 2 }, d := 0x30D, s1 := 0x7D, s2 := 0x255, s3 := 0xDC, s4 := 0x3F5, ty := 0x1C, aux := 2, sub := 1 }),
    (0x1BDC_8A30_8003_D09C_C563_E0EF, .fcos { hdr := { la := 7, gai := 2, gbi := 5, rnd := 1, ch := 2 }, d := 0x200, s1 := 0x3D, s2 := 0x27, s3 := 0xC5, s4 := 0x18F, ty := 0x10, aux := 7, sub := 0xF }),
    (0x1C38_E610_3F3B_8FCA_3C38_4EC8, .ftanh { hdr := { la := 0xE, gai := 3, gan := 1, gbi := 3, ch := 2 }, d := 0xFC, s1 := 0x3B8, s2 := 0x3F2, s3 := 0x23C, s4 := 0xE1, ty := 7, aux := 6, sub := 8 }),
    (0x1C5D_DD40_C735_D12B_2A1A_AFCF, .fcvt { hdr := { la := 7, gai := 7, gbi := 0xE, gbn := 1, rnd := 2 }, d := 0x31C, s1 := 0x35D, s2 := 0x4A, s3 := 0x32A, s4 := 0x6A, ty := 0x17, sat := 1, aux := 6, sub := 0xF }),
    (0x1CAB_78A8_B4DF_ED80_17BA_8C34, .frint { hdr := { la := 0xA, gai := 0xD, gan := 1, gbi := 0xC, rnd := 5, ch := 1 }, d := 0x2D3, s1 := 0x1FE, s2 := 0x360, s3 := 0x17, s4 := 0x2EA, ty := 6, aux := 1, sub := 0x14 }),
    (0x1CF5_8ED8_E845_F148_4688_2230, .fscale { hdr := { la := 0xD, gai := 6, gbi := 7, rnd := 6, ch := 3 }, d := 0x3A1, s1 := 0x5F, s2 := 0x52, s3 := 0x46, s4 := 0x220, ty := 0x11, aux := 1, sub := 0x10 }),
    (0x1D0C_2E80_9C6C_7554_F61E_E2E9, .fsmxu { hdr := { la := 3, gan := 1, gbi := 7, rnd := 4 }, d := 0x271, s1 := 0x2C7, s2 := 0x155, s3 := 0xF6, s4 := 0x7B, ty := 0x11, aux := 7, sub := 9 }),
    (0x1D78_D390_7C8B_3933_A271_70BD, .fsmxf { hdr := { la := 0xE, gai := 3, gbi := 9, gbn := 1, rnd := 4, ch := 2 }, d := 0x1F2, s1 := 0xB3, s2 := 0x24C, s3 := 0x3A2, s4 := 0x1C5, ty := 0x18, aux := 5, sub := 0x1D })]

theorem test_decode_float : floatWords.all readsAs = true := by decide +kernel

def laneWords : List (Nat × Instr) := [
    (0x2027_F270_7158_2C43_2B06_2C74, .vshfl { hdr := { la := 9, gai := 0xF, gan := 1, gbi := 9, rnd := 3, ch := 2 }, d := 0x1C5, s1 := 0x182, s2 := 0x310, s3 := 0x32B, s4 := 0x18, ty := 0x16, aux := 3, sub := 0x14 }),
    (0x206B_F280_0B14_4222_C8E1_47F6, .vred { hdr := { la := 0xA, gai := 0xF, gan := 1, gbi := 9, rnd := 4 }, d := 0x2C, s1 := 0x144, s2 := 0x88, s3 := 0x2C8, s4 := 0x385, ty := 3, sat := 1, aux := 7, sub := 0x16 }),
    (0x208D_DBA8_67A3_630B_CD89_9120, .vscan { hdr := { la := 3, gai := 7, gbi := 0xD, gbn := 1, rnd := 5, ch := 1 }, d := 0x19E, s1 := 0x236, s2 := 0xC2, s3 := 0x3CD, s4 := 0x226, ty := 8, sat := 1, aux := 1 }),
    (0x20F4_F8D0_38F0_9E7B_A993_6DB9, .vvote { hdr := { la := 0xD, gai := 3, gan := 1, gbi := 0xC, rnd := 6, ch := 2 }, d := 0xE3, s1 := 0x309, s2 := 0x39E, s3 := 0x3A9, s4 := 0x24D, ty := 0x16, sat := 1, aux := 5, sub := 0x19 }),
    (0x2132_9FF0_5E66_E4A3_7CC1_1CB4, .vcmpr { hdr := { la := 0xC, gai := 0xA, gbi := 0xF, gbn := 1, rnd := 7, ch := 2 }, d := 0x179, s1 := 0x26E, s2 := 0x128, s3 := 0x37C, s4 := 0x304, ty := 0xE, aux := 5, sub := 0x14 })]

theorem test_decode_lane : laneWords.all readsAs = true := by decide +kernel

def scaleWords : List (Nat × Instr) := [
    (0x241E_9A00_837F_A99A_7FDF_F7F6, .kmov { hdr := { la := 7, gai := 0xA, gbi := 0xD }, d := 0x20D, s1 := 0x3FA, s2 := 0x266, s3 := 0x27F, s4 := 0x37F, ty := 0x1B, sat := 1, aux := 7, sub := 0x16 }),
    (0x2446_E060_D1AF_ECD5_3B60_75DC, .kget { hdr := { la := 1, gai := 0xB, gan := 1, rnd := 3 }, d := 0x346, s1 := 0x2FE, s2 := 0x335, s3 := 0x13B, s4 := 0x181, ty := 0x1A, sat := 1, aux := 6, sub := 0x1C }),
    (0x2468_97A1_9F16_7E4F_EAD8_0AD2, .kgetImm { hdr := { la := 0xA, gai := 2, gbi := 0xB, gbn := 1, rnd := 5 }, d := 0x27C, s1 := 0x167, imm := 0xE4FEAD80, ty := 0x15, sat := 1, sub := 0x12 }),
    (0x249B_42A0_D281_5016_7402_2720, .kset { hdr := { la := 6, gai := 0xD, gbi := 1, rnd := 5 }, d := 0x34A, s1 := 0x15, s2 := 5, s3 := 0x274, s4 := 8, ty := 0x13, sat := 1, aux := 1 }),
    (0x2481_9F49_D24F_8253_5EA0_C304, .ksetImm { hdr := { gai := 6, gbi := 0xF, gbn := 1, rnd := 2, ch := 1 }, d := 0x349, s1 := 0xF8, imm := 0x2535EA0C, ty := 6, sub := 4 }),
    (0x24FF_A2A8_79ED_48D1_5A10_E236, .kfill { hdr := { la := 0xF, gai := 0xE, gan := 1, gbi := 1, rnd := 5, ch := 1 }, d := 0x1E7, s1 := 0x2D4, s2 := 0x234, s3 := 0x15A, s4 := 0x43, ty := 0x11, aux := 1, sub := 0x16 }),
    (0x24DB_A079_1678_43D0_0BDF_772B, .kfillImm { hdr := { la := 6, gai := 0xE, gan := 1, rnd := 3, ch := 3 }, d := 0x59, s1 := 0x384, imm := 0x3D00BDF7, ty := 0xE, z := 1, sub := 0xB }),
    (0x2503_BBE0_7C71_E717_4E9E_730F, .kadd { hdr := { gai := 0xE, gan := 1, gbi := 0xD, gbn := 1, rnd := 7 }, d := 0x1F1, s1 := 0x31E, s2 := 0x1C5, s3 := 0x34E, s4 := 0x279, ty := 0x19, sat := 1, sub := 0xF }),
    (0x2509_5741_94F2_B8FC_0B1B_63F5, .kaddImm { hdr := { la := 2, gai := 5, gbi := 0xB, gbn := 1, rnd := 2 }, d := 0x253, s1 := 0x32B, imm := 0x8FC0B1B6, ty := 7, sat := 1, z := 1, sub := 0x15 }),
    (0x2548_F6CC_EF24_4B05_E5DF_2080, .vqntLane { hdr := { la := 2, gai := 3, gan := 1, gbi := 0xB, rnd := 6, ch := 1 }, d := 0x3BC, s1 := 0x244, s2 := 0x2C1, s3 := 0x1E5, s4 := 0x37C, xf := 0x2080 }),
    (0x2560_2844_64A2_8417_8BEF_20C0, .vqntRow { hdr := { la := 8, gan := 1, gbi := 4, rnd := 2 }, d := 0x192, s1 := 0x228, s2 := 0x105, s3 := 0x38B, s4 := 0x3BC, xf := 0x20C0 }),
    (0x2596_EDC8_983C_E689_D1E7_D1F7, .vdqnt { hdr := { la := 5, gai := 0xB, gan := 1, gbi := 6, gbn := 1, rnd := 6, ch := 1 }, d := 0x260, s1 := 0x3CE, s2 := 0x1A2, s3 := 0x1D1, s4 := 0x39F, ty := 8, sat := 1, aux := 7, sub := 0x17 }),
    (0x25DF_0830_C503_A4A6_7C07_B04E, .vamax { hdr := { la := 7, gai := 0xC, gbi := 4, rnd := 1, ch := 2 }, d := 0x314, s1 := 0x3A, s2 := 0x129, s3 := 0x27C, s4 := 0x1E, ty := 0x18, aux := 2, sub := 0xE }),
    (0x2629_8588_21A7_D2D1_CF93_9196, .amxpush { hdr := { la := 0xA, gai := 6, gbi := 2, gbn := 1, rnd := 4, ch := 1 }, d := 0x86, s1 := 0x27D, s2 := 0xB4, s3 := 0x1CF, s4 := 0x24E, ty := 8, sat := 1, aux := 4, sub := 0x16 }),
    (0x2673_9010_B3F4_C0CF_B37F_332B, .amxget { hdr := { la := 0xC, gai := 0xE, gbi := 8, ch := 2 }, d := 0x2CF, s1 := 0x34C, s2 := 0x33, s3 := 0x3B3, s4 := 0x1FC, ty := 0x19, sat := 1, aux := 1, sub := 0xB }),
    (0x26A4_EEC0_52F7_2656_6C4F_F08B, .amxclr { hdr := { la := 9, gai := 3, gan := 1, gbi := 7, rnd := 6 }, d := 0x14B, s1 := 0x372, s2 := 0x195, s3 := 0x26C, s4 := 0x13F, ty := 0x18, aux := 4, sub := 0xB }),
    (0x269F_FB01_9285_7B22_D572_8794, .amxclrImm { hdr := { la := 7, gai := 0xF, gan := 1, gbi := 0xD, gbn := 1 }, d := 0x24A, s1 := 0x57, imm := 0xB22D5728, ty := 0xF, sub := 0x14 })]

theorem test_decode_scale : scaleWords.all readsAs = true := by decide +kernel

def memoryWords : List (Nat × Instr) := [
    (0x302C_B882_B2B6_4E2A_B8EE_F81C, .sld { hdr := { la := 0xB, gai := 2, gan := 1, gbi := 0xC, rnd := 4 }, d := 0x2CA, a := 0x364, s := 0x38A, off := 0xAE3BB, ty := 0x1C, ord := 1, space := 3 }),
    (0x3046_0A8A_1E55_8B72_C720_3459, .sst { hdr := { la := 1, gai := 8, gbi := 5, rnd := 4, ch := 1 }, d := 0x79, a := 0x158, s := 0x2DC, off := 0xB1C80, ty := 0x1A, scope := 1, ord := 1, space := 2, z := 1 }),
    (0x30BD_C152_9951_1489_ED19_6A75, .vld { hdr := { la := 0xF, gai := 7, gbn := 1, rnd := 2, ch := 2 }, d := 0x265, a := 0x111, s := 0x122, off := 0x7B465, ty := 0x15, scope := 1, ord := 3, space := 1, z := 1 }),
    (0x30D8_E1EA_1607_B8FE_6E65_186D, .vst { hdr := { la := 6, gai := 3, gan := 1, gbn := 1, rnd := 7, ch := 1 }, d := 0x58, a := 0x7B, s := 0x23F, off := 0x9B994, ty := 0xC, scope := 1, ord := 2, space := 3, z := 1 }),
    (0x313B_B222_05BB_FF88_ABF9_6B0E, .vldl { hdr := { la := 0xE, gai := 0xE, gan := 1, gbi := 9, rnd := 1 }, d := 0x16, a := 0x3BF, s := 0x3E2, off := 0x2AFE5, ty := 0x15, scope := 4, space := 3, promo := 1 }),
    (0x3168_258A_2811_B0E0_33CC_F2A8, .vstl { hdr := { la := 0xA, gan := 1, gbi := 2, gbn := 1, rnd := 4, ch := 1 }, d := 0xA0, a := 0x11B, s := 0x38, off := 0xCF33, ty := 0x19, scope := 2, ord := 2, space := 2 }),
    (0x31A6_ABAA_BC91_7BD2_0745_1E02, .pref { hdr := { la := 9, gai := 0xA, gan := 1, gbi := 5, gbn := 1, rnd := 5, ch := 1 }, d := 0x2F2, a := 0x117, s := 0x2F4, off := 0x81D14, ty := 0xF, promo := 1 }),
    (0x31FF_6B2A_7454_F46F_8BA6_724E, .cctl { hdr := { la := 0xF, gai := 0xD, gan := 1, gbi := 5, gbn := 1, rnd := 1, ch := 1 }, d := 0x1D1, a := 0x14F, s := 0x11B, off := 0xE2E99, ty := 0x19, scope := 1, space := 3, promo := 1 }),
    (0x322C_1A80_1C75_EAD4_80E0_8058, .fence { hdr := { la := 0xB, gbi := 0xD, rnd := 4 }, d := 0x71, s1 := 0x35E, s2 := 0x2B5, s3 := 0x80, s4 := 0x382, aux := 2, sub := 0x18 }),
    (0x3264_36E2_A5BA_FDB5_3C23_B24B, .tfence { hdr := { la := 9, gan := 1, gbi := 0xB, rnd := 7 }, d := 0x296, a := 0x3AF, s := 0x36D, off := 0x4F08E, ty := 0x19, scope := 1, space := 2, promo := 1, z := 1 }),
    (0x32BD_346A_E50A_E4B2_F9E0_755E, .waitv { hdr := { la := 0xF, gai := 4, gan := 1, gbi := 0xA, rnd := 3, ch := 1 }, d := 0x394, a := 0xAE, s := 0x12C, off := 0xBE781, ty := 0x1A, scope := 5, ord := 1, space := 3, promo := 1 }),
    (0x32DD_4682_6020_3FA9_D0E0_3AC3, .watch { hdr := { la := 7, gai := 5, gbi := 3, rnd := 4 }, d := 0x180, a := 0x203, s := 0x3EA, off := 0x74380, ty := 0x1D, scope := 3, promo := 1, z := 1 }),
    (0x3310_DD4A_F34B_E462_FCA6_4792, .unwatch { hdr := { la := 4, gai := 3, gbi := 0xE, gbn := 1, rnd := 2, ch := 1 }, d := 0x3CD, a := 0xBE, s := 0x118, off := 0xBF299, ty := 3, scope := 6, ord := 1, promo := 1 })]

theorem test_decode_memory : memoryWords.all readsAs = true := by decide +kernel

def atomWords : List (Nat × Instr) := [
    (0x381B_A6C2_670E_AB59_5813_2F49, .atomAdd { hdr := { la := 6, gai := 0xE, gan := 1, gbi := 3, rnd := 6 }, d := 0x19C, a := 0xEA, s := 0x2D6, off := 0x5604C, ty := 0x17, scope := 5, space := 2, z := 1 }),
    (0x386F_D6B2_39C4_57C2_096C_ECF2, .atomAnd { hdr := { la := 0xB, gai := 0xF, gbi := 0xB, rnd := 5, ch := 2 }, d := 0xE7, a := 0x45, s := 0x1F0, off := 0x825B3, ty := 0x16, scope := 3, ord := 3, promo := 1 }),
    (0x38BC_D052_C2D2_7802_2653_B809, .atomOr { hdr := { la := 0xF, gai := 3, gbi := 8, rnd := 2, ch := 2 }, d := 0x30B, a := 0x127, s := 0x200, off := 0x8994E, ty := 0x1C, space := 2, z := 1 }),
    (0x38C4_4BEA_E5B2_5754_9B68_EF58, .atomXor { hdr := { la := 1, gai := 1, gbi := 5, gbn := 1, rnd := 7, ch := 1 }, d := 0x396, a := 0x325, s := 0x1D5, off := 0x26DA3, ty := 0x17, scope := 5, ord := 1, space := 2 }),
    (0x3916_F5D2_A0C0_CABF_DE14_AAC6, .atomMin { hdr := { la := 5, gai := 0xB, gan := 1, gbi := 0xA, gbn := 1, rnd := 6, ch := 2 }, d := 0x283, a := 0xC, s := 0x2AF, off := 0xF7852, ty := 0x15, scope := 3, space := 1, promo := 1 }),
    (0x3952_3092_4704_530D_980D_3668, .atomMax { hdr := { la := 4, gai := 8, gan := 1, gbi := 8, rnd := 4, ch := 2 }, d := 0x11C, a := 0x45, s := 0xC3, off := 0x66034, ty := 0x1B, scope := 1, ord := 2, space := 2 }),
    (0x39A6_AFD2_1EEB_2A57_DA0A_EED8, .atomExch { hdr := { la := 9, gai := 0xA, gan := 1, gbi := 7, gbn := 1, rnd := 6, ch := 2 }, d := 0x7B, a := 0x2B2, s := 0x295, off := 0xF682B, ty := 0x17, scope := 3, ord := 1, space := 2 }),
    (0x39C3_BD8A_21D2_69A6_77CC_E145, .atomCas { hdr := { gai := 0xE, gan := 1, gbi := 0xE, gbn := 1, rnd := 4, ch := 1 }, d := 0x87, a := 0x126, s := 0x269, off := 0x9DF33, ty := 0x10, scope := 5, space := 1, z := 1 }),
    (0x3A2F_BAF2_59A3_483C_2F40_5511, .atomIncw { hdr := { la := 0xB, gai := 0xE, gan := 1, gbi := 0xD, rnd := 7, ch := 2 }, d := 0x166, a := 0x234, s := 0x20F, off := 0xBD01, ty := 0xA, scope := 4, ord := 1, z := 1 }),
    (0x3A79_A662_4206_3288_966A_2A87, .atomDecw { hdr := { la := 0xE, gai := 6, gan := 1, gbi := 3, rnd := 3 }, d := 0x108, a := 0x63, s := 0xA2, off := 0x259A8, ty := 0x15, scope := 2, space := 1, promo := 1, z := 1 }),
    (0x3A81_B4FA_ACD6_51D7_506D_C46F, .atomFaddF32 { hdr := { gai := 6, gan := 1, gbi := 0xA, rnd := 7, ch := 3 }, d := 0x2B3, a := 0x165, s := 0x75, off := 0xD41B7, ty := 2, scope := 1, ord := 2, space := 3, promo := 1, z := 1 }),
    (0x3AC0_34D2_500B_F099_3FE1_5A8B, .atomFaddBf16x2 { hdr := { gan := 1, gbi := 0xA, rnd := 6, ch := 2 }, d := 0x140, a := 0xBF, s := 0x26, off := 0x4FF85, ty := 0xD, scope := 2, space := 2, promo := 1, z := 1 }),
    (0x3B12_9112_E823_9B92_3101_510C, .atomFminF32 { hdr := { la := 4, gai := 0xA, gbi := 8, gbn := 1, ch := 2 }, d := 0x3A0, a := 0x239, s := 0x2E4, off := 0x8C405, ty := 8, scope := 4, space := 3 }),
    (0x3B5F_0022_68D7_484A_ECC4_9293, .atomFmaxF32 { hdr := { la := 7, gai := 0xC, rnd := 1 }, d := 0x1A3, a := 0x174, s := 0x212, off := 0xBB312, ty := 9, scope := 2, ord := 1, promo := 1, z := 1 })]

theorem test_decode_atom : atomWords.all readsAs = true := by decide +kernel

def satomWords : List (Nat × Instr) := [
    (0x3C3D_B972_0D8D_C07C_8604_F347, .satomAdd { hdr := { la := 0xF, gai := 6, gan := 1, gbi := 0xC, gbn := 1, rnd := 3, ch := 2 }, d := 0x36, a := 0xDC, s := 0x1F, off := 0x21813, ty := 0x19, scope := 5, space := 1, promo := 1, z := 1 }),
    (0x3C5C_21CA_766D_5682_9BBD_B72D, .satomAnd { hdr := { la := 7, gan := 1, gbn := 1, rnd := 6, ch := 1 }, d := 0x1D9, a := 0x2D5, s := 0x1A0, off := 0xA6EF6, ty := 0x1B, scope := 4, ord := 2, space := 3, z := 1 }),
    (0x3CA1_32A2_F89F_F52A_8EE2_B8C7, .satomOr { hdr := { la := 8, gai := 4, gan := 1, gbi := 9, rnd := 5 }, d := 0x3E2, a := 0x1FF, s := 0x14A, off := 0xA3B8A, ty := 0x1C, scope := 3, space := 1, promo := 1, z := 1 }),
    (0x3CD7_522A_04D1_19AD_34D7_EC5F, .satomXor { hdr := { la := 5, gai := 0xD, gbi := 9, rnd := 1, ch := 1 }, d := 0x13, a := 0x111, s := 0x26B, off := 0x4D35F, ty := 0x16, scope := 1, ord := 1, space := 3, promo := 1, z := 1 }),
    (0x3D2B_2262_1351_476B_71A8_0C08, .satomMin { hdr := { la := 0xA, gai := 0xC, gan := 1, gbi := 1, rnd := 3 }, d := 0x4D, a := 0x114, s := 0x1DA, off := 0xDC6A0, ty := 6, space := 2 }),
    (0x3D7D_206A_39AD_4FE0_9E5D_ECD2, .satomMax { hdr := { la := 0xF, gai := 4, gan := 1, rnd := 3, ch := 1 }, d := 0xE6, a := 0x2D4, s := 0x3F8, off := 0x27977, ty := 0x16, scope := 3, ord := 1, promo := 1 }),
    (0x3DA2_021A_B9A2_3056_9B0E_C5EB, .satomExch { hdr := { la := 8, gai := 8, gbi := 1, ch := 3 }, d := 0x2E6, a := 0x223, s := 0x15, off := 0xA6C3B, ty := 2, scope := 7, ord := 2, space := 2, promo := 1, z := 1 }),
    (0x3DF6_B8DA_D1D2_4029_E9A8_E194, .satomCas { hdr := { la := 0xD, gai := 0xA, gan := 1, gbi := 0xC, rnd := 6, ch := 3 }, d := 0x347, a := 0x124, s := 0xA, off := 0x7A6A3, ty := 0x10, scope := 6, ord := 1, space := 1 }),
    (0x3E07_3DE2_F27C_3AF7_0A05_1FA3, .satomIncw { hdr := { la := 1, gai := 0xC, gan := 1, gbi := 0xE, gbn := 1, rnd := 7 }, d := 0x3C9, a := 0x3C3, s := 0x2BD, off := 0xC2814, ty := 0xF, scope := 6, ord := 2, promo := 1, z := 1 }),
    (0x3E49_F1BA_7152_221A_E9AA_DAA5, .satomDecw { hdr := { la := 2, gai := 7, gan := 1, gbi := 8, gbn := 1, rnd := 5, ch := 3 }, d := 0x1C5, a := 0x122, s := 0x86, off := 0xBA6AB, ty := 0xD, scope := 2, ord := 2, space := 1, z := 1 }),
    (0x3E94_79C2_D1D3_B80F_004D_0D6B, .satomFaddF32 { hdr := { la := 5, gai := 1, gan := 1, gbi := 0xC, gbn := 1, rnd := 6 }, d := 0x347, a := 0x13B, s := 0x203, off := 0xC0134, ty := 6, scope := 5, ord := 2, space := 2, promo := 1, z := 1 }),
    (0x3EF2_67EA_4C80_C42E_EF76_BEEA, .satomFaddBf16x2 { hdr := { la := 0xC, gai := 9, gan := 1, gbi := 3, gbn := 1, rnd := 7, ch := 1 }, d := 0x132, a := 0xC, s := 0x10B, off := 0xBBDDA, ty := 0x1F, scope := 3, ord := 2, space := 2, promo := 1 }),
    (0x3F18_2292_A5E0_B7BE_1F8C_3871, .satomFminF32 { hdr := { la := 6, gan := 1, gbi := 1, rnd := 4, ch := 2 }, d := 0x297, a := 0x20B, s := 0x1EF, off := 0x87E30, ty := 0x1C, scope := 1, ord := 3, z := 1 }),
    (0x3F66_DDA2_9734_3DCA_0DE8_ECF4, .satomFmaxF32 { hdr := { la := 9, gai := 0xB, gbi := 0xE, gbn := 1, rnd := 5 }, d := 0x25C, a := 0x343, s := 0x372, off := 0x837A3, ty := 0x16, scope := 3, ord := 3, space := 1 })]

theorem test_decode_satom : satomWords.all readsAs = true := by decide +kernel

def engineWords : List (Nat × Instr) := [
    (0x401A_85DA_D47F_90D0_DCCA_FBFE, .bandi { hdr := { la := 6, gai := 0xA, gbi := 2, gbn := 1, rnd := 6, ch := 3 }, d := 0x351, a := 0x3F9, s := 0x34, off := 0x3732B, ty := 0x1D, scope := 7, ord := 3, space := 3, promo := 1 }),
    (0x407B_286A_CD85_396A_A426_B1C0, .bandx { hdr := { la := 0xE, gai := 0xC, gan := 1, gbi := 4, rnd := 3, ch := 1 }, d := 0x336, a := 0x53, s := 0x25A, off := 0xA909A, ty := 0x18, scope := 7 }),
    (0x408F_CD0A_ABFD_C1C3_57E8_9186, .banda { hdr := { la := 3, gai := 0xF, gbi := 6, gbn := 1, ch := 1 }, d := 0x2AF, a := 0x3DC, s := 0x70, off := 0xD5FA2, ty := 8, scope := 6, space := 1, promo := 1 }),
    (0x40C1_70BA_82A6_3CA3_5C9C_0727, .bandw { hdr := { gai := 5, gan := 1, gbi := 8, rnd := 5, ch := 3 }, d := 0x20A, a := 0x263, s := 0x328, off := 0xD7270, ty := 3, scope := 4, ord := 2, space := 1, promo := 1, z := 1 }),
    (0x4125_82BA_FA52_1BB6_BBEA_19C9, .bandt { hdr := { la := 9, gai := 6, gbi := 1, rnd := 5, ch := 3 }, d := 0x3E9, a := 0x121, s := 0x2ED, off := 0xAEFA8, ty := 0xC, scope := 7, space := 2, z := 1 }),
    (0x4228_6F88_6B3A_3CFF_8F68_5A40, .xlayNew { hdr := { la := 0xA, gai := 1, gan := 1, gbi := 7, gbn := 1, rnd := 4, ch := 1 }, d := 0x1AC, s1 := 0x3A3, s2 := 0x33F, s3 := 0x38F, s4 := 0x1A1, ty := 0xD, aux := 2 }),
    (0x420C_4540_543F_C712_5B6C_1461, .xlaySet { hdr := { la := 3, gai := 1, gbi := 2, gbn := 1, rnd := 2 }, d := 0x150, s1 := 0x3FC, s2 := 0x1C4, s3 := 0x25B, s4 := 0x1B0, ty := 0xA, aux := 3, sub := 1 }),
    (0x4238_C4C8_83F8_AD95_3D1D_1042, .xlayFree { hdr := { la := 0xE, gai := 3, gbi := 2, rnd := 6, ch := 1 }, d := 0x20F, s1 := 0x38A, s2 := 0x365, s3 := 0x13D, s4 := 0x74, ty := 8, aux := 2, sub := 2 }),
    (0x4265_E994_6DD3_7763_2110_E9EF, .xcopy { hdr := { la := 9, gai := 7, gan := 1, gbi := 4, gbn := 1, rnd := 4, ch := 2 }, d := 0x1B7, s1 := 0x137, s2 := 0x1D8, s3 := 0x321, s4 := 0x43, xf := 0x29EF }),
    (0x42B1_2E7A_4C17_8602_AA5B_3248, .qinitInit { hdr := { la := 0xC, gai := 4, gan := 1, gbi := 7, rnd := 3, ch := 3 }, d := 0x130, a := 0x178, s := 0x180, off := 0xAA96C, ty := 0x19, scope := 1, space := 2 }),
    (0x42A7_E12A_F823_D604_B51C_D8B8, .qinitFini { hdr := { la := 9, gai := 0xF, gan := 1, gbn := 1, rnd := 1, ch := 1 }, d := 0x3E0, a := 0x23D, s := 0x181, off := 0x2D473, ty := 0xC, scope := 2, ord := 3, space := 2 }),
    (0x42CC_2C82_582A_AB37_98D4_7CC9, .qputResv { hdr := { la := 3, gan := 1, gbi := 6, rnd := 4 }, d := 0x160, a := 0x2AA, s := 0x2CD, off := 0xE6351, ty := 0x1E, scope := 3, space := 2, z := 1 }),
    (0x42CB_86DA_1244_5144_C71E_F4A8, .qputCommit { hdr := { la := 2, gai := 0xE, gbi := 3, rnd := 6, ch := 3 }, d := 0x49, a := 0x45, s := 0x51, off := 0x31C7B, ty := 0x1A, scope := 2, ord := 2, space := 2 }),
    (0x432D_54F2_4C61_7300_DA2F_5E5F, .qgetAcq { hdr := { la := 0xB, gai := 5, gbi := 0xA, rnd := 7, ch := 2 }, d := 0x131, a := 0x217, s := 0xC0, off := 0x368BD, ty := 0xF, scope := 1, ord := 1, space := 3, promo := 1, z := 1 }),
    (0x4339_C3AA_9133_A681_0454_1EC1, .qgetFree { hdr := { la := 0xE, gai := 7, gbi := 1, gbn := 1, rnd := 5, ch := 1 }, d := 0x244, a := 0x33A, s := 0x1A0, off := 0x41150, ty := 0xF, scope := 3, z := 1 }),
    (0x4359_CA80_D932_5382_553D_CA6F, .spawn { hdr := { la := 6, gai := 7, gbi := 5, rnd := 4 }, d := 0x364, s1 := 0x325, s2 := 0xE0, s3 := 0x255, s4 := 0xF7, ty := 5, aux := 3, sub := 0xF })]

theorem test_decode_engine : engineWords.all readsAs = true := by decide +kernel

def matrixWords : List (Nat × Instr) := [
    (0x5005_D408_5966_DAF0_ACEC_56BA, .mshape { hdr := { la := 1, gai := 7, gbi := 0xA, ch := 1 }, d := 0x165, s1 := 0x26D, s2 := 0x2BC, s3 := 0xAC, s4 := 0x3B1, ty := 0xB, aux := 5, sub := 0x1A }),
    (0x5074_4E4C_B051_F685_9570_6A60, .mma { hdr := { la := 0xD, gai := 1, gbi := 7, rnd := 2, ch := 1 }, d := 0x2C1, s1 := 0x11F, s2 := 0x1A1, s3 := 0x195, s4 := 0x1C1, xf := 0x2A60 }),
    (0x5088_23A0_2019_719E_ECD2_8B5F, .mmaw { hdr := { la := 2, gan := 1, gbi := 1, gbn := 1, rnd := 5 }, d := 0x80, s1 := 0x197, s2 := 0x67, s3 := 0x2EC, s4 := 0x34A, ty := 5, sat := 1, aux := 2, sub := 0x1F }),
    (0x50FD_32E8_DEF1_6990_ED22_E06C, .mzero { hdr := { la := 0xF, gai := 4, gan := 1, gbi := 9, rnd := 7, ch := 1 }, d := 0x37B, s1 := 0x316, s2 := 0x264, s3 := 0xED, s4 := 0x8B, ty := 0x10, aux := 3, sub := 0xC }),
    (0x5139_E3D4_C233_F2C9_D3AD_F69A, .dmma { hdr := { la := 0xE, gai := 7, gan := 1, gbi := 1, gbn := 1, rnd := 6, ch := 2 }, d := 0x308, s1 := 0x33F, s2 := 0xB2, s3 := 0x1D3, s4 := 0x2B7, xf := 0x369A }),
    (0x5164_3E38_D674_9997_A84A_AA36, .mfence { hdr := { la := 9, gan := 1, gbi := 0xF, rnd := 1, ch := 3 }, d := 0x359, s1 := 0x349, s2 := 0x265, s3 := 0x3A8, s4 := 0x12A, ty := 0x15, aux := 1, sub := 0x16 })]

theorem test_decode_matrix : matrixWords.all readsAs = true := by decide +kernel

def refusedAs (x : Instr × Cause) : Bool := decide (x.1.illFormed? = some x.2)

/-- Checks 4 to 7 of R238, one ill-formed term for each field that they read. -/
def illFields : List (Instr × Cause) := [
  (.vadd { d := 1, s1 := 1, s2 := 2, s3 := 1 }, (0x01, 0x06)), (.vadd { d := 1, s1 := 1, s2 := 2, aux := 1 }, (0x01, 0x06)),
  (.vand { d := 1, s1 := 1, s2 := 2, sat := 1 }, (0x01, 0x06)), (.exit { ty := 1 }, (0x01, 0x06)), (.exit { sub := 1 }, (0x01, 0x06)),
  (.vadd { hdr := { ch := 1 }, d := 1, s1 := 1, s2 := 2 }, (0x01, 0x06)), (.felt { hdr := { gai := 1 }, imm := 1 }, (0x01, 0x06)),
  (.vaddImm { d := 1, s1 := 1, z := 1 }, (0x01, 0x06)), (.bra { c := 0x301, z := 1 }, (0x01, 0x06)), (.brx { c := 0x104, off := 1 }, (0x01, 0x06)),
  (.sld { d := 0x104, a := 0x108, s := 0x1FF, ty := 0x12, z := 1 }, (0x01, 0x06)), (.dmma { d := 0x10, s1 := 0x105, s2 := 0x106, s3 := 0x1FF, s4 := 0x1FF, xf := 1 }, (0x01, 0x06)),
  (.vadd { hdr := { rnd := 1 }, d := 1, s1 := 1, s2 := 2 }, (0x01, 0x04)), (.fence { hdr := { rnd := 1 } }, (0x01, 0x06)), (.fadd { hdr := { rnd := 7 }, d := 4, s1 := 5, s2 := 6, s3 := 0x1FF, ty := 8 }, (0x01, 0x04)),
  (.fadd { hdr := { rnd := 6 }, d := 4, s1 := 5, s2 := 6, s3 := 0x1FF, ty := 8 }, (0x01, 0x04)), (.vadd { hdr := { la := 1 }, d := 2, s1 := 1, s2 := 0x181 }, (0x01, 0x05)),
  (.vcmp { d := 0x303, s1 := 1, s2 := 2, sub := 6 }, (0x01, 0x07)), (.migr { d := 0x104, s1 := 0x106, s2 := 0x108, s3 := 0x10A, sub := 2 }, (0x01, 0x07)),
  (.fence { aux := 6 }, (0x01, 0x07)), (.sld { d := 0x104, a := 0x108, s := 0x1FF, ty := 0x12, scope := 6 }, (0x01, 0x07)),
  (.sld { d := 0x104, a := 0x108, s := 0x1FF, ty := 0x12, ord := 2 }, (0x01, 0x07)), (.sst { d := 0x1FF, a := 0x108, s := 0x104, ty := 0x12, ord := 1 }, (0x01, 0x07)),
  (.sld { d := 0x104, a := 0x108, s := 0x1FF, ty := 0x12, scope := 1, ord := 1, promo := 1 }, (0x01, 0x07)), (.bra { c := 0x301, bmode := 3 }, (0x01, 0x07)),
  (.xcopy { d := 0x104, s1 := 0x105, s2 := 0x108, s3 := 0x110, s4 := 0x118, xf := 0x1200 }, (0x01, 0x07)), (.vqntLane { d := 4, s1 := 8, s3 := 0x1FF, xf := 0x1980 }, (0x01, 0x07))]

/-- Check 8, and check 9 one rule of R228 and R231 after the other. -/
def illOperands : List (Instr × Cause) := [
  (.vadd { d := 1, s1 := 1, s2 := 2, ty := 0x14 }, (0x02, 0x01)), (.vadd { d := 1, s1 := 1, s2 := 2, ty := 8 }, (0x02, 0x02)),
  (.sld { d := 0x104, a := 0x108, s := 0x181, ty := 8 }, (0x02, 0x02)), (.vqntLane { d := 4, s1 := 8, s3 := 0x1FF, xf := 0x1080 }, (0x02, 0x02)),
  (.vadd { d := 3, s1 := 4, s2 := 6, ty := 2 }, (0x03, 0x02)), (.smov { d := 0x105, s1 := 0x106, ty := 0x13 }, (0x03, 0x02)),
  (.vadd { d := 0x180, s1 := 1, s2 := 2 }, (0x03, 0x03)), (.vadd { d := 0x1FF, s1 := 1, s2 := 2 }, (0x03, 0x06)), (.watch { d := 0x1FF, a := 0x108 }, (0x03, 0x06)), (.vadd { d := 0x310, s1 := 1, s2 := 2 }, (0x03, 0x03)),
  (.vadd { d := 1, s1 := 1, s2 := 0x1D1 }, (0x03, 0x04)), (.vadd { d := 1, s1 := 1, s2 := 0x310 }, (0x03, 0x05)),
  (.vadd { d := 0x104, s1 := 1, s2 := 2 }, (0x03, 0x06)), (.vadd { d := 1, s1 := 0x301, s2 := 2 }, (0x03, 0x06)), (.kmov { d := 0x203, s1 := 4 }, (0x03, 0x06)),
  (.bra { c := 0x104 }, (0x03, 0x06)), (.vldl { d := 4, a := 0x109, ty := 0x12 }, (0x03, 0x02)), (.sld { d := 0x104, a := 0x108, s := 0x183, ty := 0x12 }, (0x03, 0x10)),
  (.cctl { a := 8, s := 0x187 }, (0x03, 0x10)), (.philox { d := 0xFD, s1 := 12, s2 := 0x104, ty := 0x12 }, (0x03, 0x01)),
  (.trap { imm := 0x100 }, (0x03, 0x10)), (.bar { imm := 0x10 }, (0x03, 0x10)), (.traceImm { imm := 0x1000000 }, (0x03, 0x10)),
  (.sbfeImm { d := 0x104, s1 := 0x105, imm := 0x10000 }, (0x03, 0x10)), (.srget { d := 0x104, imm := 0x1E }, (0x03, 0x10)), (.srset { s1 := 0x104, imm := 0x11 }, (0x03, 0x11)),
  (.mmaw { s1 := 0x188 }, (0x03, 0x10)), (.mzero { d := 4, s1 := 0x1A1, ty := 9 }, (0x03, 0x10)), (.banda { a := 0x108, s := 0x180, space := 1 }, (0x03, 0x10)),
  (.tfence { d := 0x1FF, a := 0x108, s := 0x1FF, scope := 1 }, (0x03, 0x06)), (.qinitInit { d := 0x104, a := 0x108, s := 0x181, space := 1 }, (0x01, 0x07))]

theorem test_illformed_fields_refused : illFields.all refusedAs = true := by decide +kernel
theorem test_illformed_operands_refused : illOperands.all refusedAs = true := by decide +kernel

/-- Words that are no row of the table: a FMT code of 5, an opcode that R240 leaves unassigned, a format that the opcode does not allow, a
selector that names no form; and registers that the warp does not own (R168, R228), with the mode and context of R241. -/
theorem test_rejected_words :
    decode 0x0000_0005_0000_0000_0000_0000 = .error .badFormat ∧ decode 0x0580_0000_0000_0000_0000_0000 = .error .unassigned ∧
    decode 0x0040_0001_0000_0000_0000_0000 = .error .formatNotAllowed ∧ decodeTableWord 96 0x0440_0000_0000_0000_0000_0002 = none := by
  decide +kernel
theorem test_checks_of_the_warp :
    checkAll { vrc := 8, src := 16 } 0x044 (.a { d := 8, s1 := 1, s2 := 2 }) = some (0x03, 0x01) ∧
    checkAll { vrc := 8, src := 16 } 0x044 (.a { d := 6, s1 := 8, s2 := 2, ty := 2 }) = some (0x03, 0x01) ∧
    checkAll { handler := false } 0x00D (.a {}) = some (0x08, 0x01) ∧
    checkAll { system := false } 0x011 (.a { d := 0x104, s1 := 0x106, s2 := 0x108, s3 := 0x10A }) = some (0x08, 0x02) ∧
    checkAll { system := false } 0x010 (.i { s1 := 0x104, imm := 0x16 }) = some (0x08, 0x03) ∧
    checkAll {} 0x010 (.i { s1 := 0x104, imm := 0x16 }) = none := by decide +kernel

/-- The words that the manual writes out beside its assembly (chapters 10, 11, 13, 15, 16 and 21 to 25), each read from the assembly. -/
def manualWords : List (Nat × Instr) := [
    (0x08C0_0001_4150_6000_003E_8040, .saddImm { d := 0x105, s1 := 0x106, imm := 1000, sat := 1 }),
    (0x0180_0001_0000_0000_0000_1000, .felt { imm := 1 }),
    (0x0140_0000_0000_0000_0000_0000, .ret {}),
    (0x0200_0004_0010_8609_9042_8200, .phase { s1 := 0x108, s2 := 0x182, s3 := 0x190, s4 := 0x10A, xf := 0x200 }),
    (0x2040_0020_4100_2C14_0000_1000, .vred { hdr := { rnd := 1 }, d := 0x104, s1 := 2, s2 := 0x305, ty := 8 }),
    (0x1640_0000_0501_0420_0000_2400, .philox { d := 20, s1 := 16, s2 := 0x108, ty := 0x12 }),
    (0x3800_0002_0281_4604_0000_00F0, .atomAdd { d := 10, a := 20, s := 0x181, scope := 3, ord := 3 }),
    (0x3280_0002_4151_4600_0000_02D0, .waitv { d := 0x105, a := 0x114, s := 0x180, ty := 1, scope := 3, ord := 1 }),
    (0x5000_0000_0010_6000_0000_0000, .mshape { s1 := 0x106 }),
    (0x5040_0004_0A01_0421_FF00_2000, .mma { d := 40, s1 := 16, s2 := 0x108, s3 := 0x1FF, xf := 0x2000 }),
    (0x5080_0000_0018_0000_0000_0000, .mmaw { s1 := 0x180 }),
    (0x0400_0001_0010_4000_0001_0000, .srset { s1 := 0x104, imm := 0x10 }),
    (0x03C0_0001_4500_0000_0001_D000, .srget { d := 0x114, imm := 0x1D }),
    (0x0300_0001_0000_0000_0000_5000, .trap { imm := 5 }),
    (0x3800_4002_0110_8418_0000_00F0, .atomAdd { hdr := { gai := 1 }, d := 4, a := 0x108, s := 0x106, scope := 3, ord := 3 }),
    (0x3280_0002_4151_0600_0000_02D0, .waitv { d := 0x105, a := 0x110, s := 0x180, ty := 1, scope := 3, ord := 1 }),
    (0x3040_0002_7FD1_0604_0000_02E0, .sst { d := 0x1FF, a := 0x110, s := 0x181, ty := 1, scope := 3, ord := 2 }),
    (0x0400_0001_0011_4000_0001_0000, .srset { s1 := 0x114, imm := 0x10 }),
    (0x4240_0004_4650_8429_1045_8800, .xcopy { d := 0x119, s1 := 0x108, s2 := 0x10A, s3 := 0x110, s4 := 0x116, xf := 0x800 }),
    (0x3100_8002_0251_C000_0060_2404, .vldl { hdr := { gai := 2 }, d := 9, a := 0x11C, off := 0x180, ty := 0x12, space := 1 }),
    (0x2580_0000_0300_87FC_0000_1C00, .vdqnt { d := 12, s1 := 8, s2 := 0x1FF, ty := 0xE }),
    (0x4240_0004_4650_6421_0845_81E0, .xcopy { d := 0x119, s1 := 0x106, s2 := 0x108, s3 := 0x108, s4 := 0x116, xf := 0x1E0 }),
    (0x4040_0002_4611_645C_0000_0004, .bandx { d := 0x118, a := 0x116, s := 0x117, space := 1 }),
    (0x5040_0004_0206_0471_FF00_0000, .mma { d := 8, s1 := 96, s2 := 0x11C, s3 := 0x1FF }),
    (0x32C0_0002_4210_6000_0000_0000, .watch { d := 0x108, a := 0x106 }),
    (0x3040_0002_7FD0_A440_0001_02E0, .sst { d := 0x1FF, a := 0x10A, s := 0x110, off := 4, ty := 1, scope := 3, ord := 2 }),
    (0x3000_0002_4250_C7FC_0000_02D0, .sld { d := 0x109, a := 0x10C, s := 0x1FF, ty := 1, scope := 3, ord := 1 }),
    (0x0440_0000_4110_6421_0A00_0000, .migr { d := 0x104, s1 := 0x106, s2 := 0x108, s3 := 0x10A }),
    (0x0200_0004_0010_4601_8360_0200, .phase { s1 := 0x104, s2 := 0x180, s3 := 0x183, s4 := 0x180, xf := 0x200 }),
    (0x42C0_0002_4191_4C0C_0010_0000, .qputResv { d := 0x106, a := 0x114, s := 0x303, off := 0x40 }),
    (0x3000_0002_4211_47FC_0005_0290, .sld { d := 0x108, a := 0x114, s := 0x1FF, off := 0x14, ty := 1, scope := 2, ord := 1 })]

theorem test_decode_manual_words : manualWords.all readsAs = true := by decide +kernel

/-- The state whose next step fetches and runs `i`, with the registers of its warp set by `g`. -/
def placed (i : Instr) (g : Warp → Warp) : State := (State.reset.withFetchWord 96 (encode i).toNat).modWarp 0 0 g

/-- The state after that step, and its warp. -/
def stepped (i : Instr) (g : Warp → Warp) : State := match step (placed i g) with | .next t => t | _ => State.reset
def warpAfter (i : Instr) (g : Warp → Warp) : Warp := ((stepped i g).warp? 0 0).getD placeWarp

/-- s6 and s7 of the second example of chapter 10. -/
def edges (w : Warp) : Warp := (w.setS 0 6 0x80000000).setS 0 7 0xFFFFFFFF
def s4Of (i : Instr) : Word := (warpAfter i edges).getS 4

/-- The table of that example. -/
theorem test_scalar_edges :
    s4Of (.sdiv { d := 0x104, s1 := 0x106, s2 := 0x107 }) = 0x80000000 ∧ s4Of (.srem { d := 0x104, s1 := 0x106, s2 := 0x107 }) = 0 ∧
    s4Of (.sdiv { d := 0x104, s1 := 0x106, s2 := 0x180, ty := 1 }) = 0xFFFFFFFF ∧
    s4Of (.srem { d := 0x104, s1 := 0x107, s2 := 0x180, ty := 1 }) = 0xFFFFFFFF ∧
    s4Of (.ssra { d := 0x104, s1 := 0x106, s2 := 0x1A8, ty := 1 }) = 0xFFFFFFFF := by decide +kernel
theorem test_scalar_edges_sat_and_fields :
    s4Of (.sadd { d := 0x104, s1 := 0x106, s2 := 0x107, sat := 1 }) = 0x80000000 ∧
    s4Of (.sadd { d := 0x104, s1 := 0x107, s2 := 0x181, ty := 1, sat := 1 }) = 0xFFFFFFFF ∧
    s4Of (.sbfeImm { d := 0x104, s1 := 0x106, imm := 0x0431 }) = 0 ∧
    s4Of (.sbfeImm { d := 0x104, s1 := 0x106, imm := 0x041C }) = 0xFFFFFFF8 := by decide +kernel

/-- The known answer of R283: zero counters and a zero key. -/
theorem test_philox_zero : let w := warpAfter (.philox { d := 20, s1 := 16, s2 := 0x108, ty := 0x12 }) id
    (VReg.lane (w.getV 20) 0, VReg.lane (w.getV 21) 0, VReg.lane (w.getV 22) 95, VReg.lane (w.getV 23) 0) =
      (0x6627E8D5, 0xE169C58D, 0xBC57AC4C, 0x9B00DBD8) := by decide +kernel

/-- The warp of the third example of chapter 11: hood X holds lanes 0 to 39, the other slices form hood 10; v2 holds the lane number. -/
def split (w : Warp) : Warp :=
  (w.mapSlices fun n s => if 10 ≤ n then { s with hood := 10 } else s).setV 2 (BitVec.allOnes 96) fun l => BitVec.ofNat 32 l
theorem test_shuffle_in_a_split_warp : let w := warpAfter (.vshfl { d := 3, s1 := 2, s2 := 0x181, s3 := 0x306, ty := 0x12, sub := 2 }) split
    VReg.lane (w.getV 3) 39 = 39 ∧ (w.getQ 6).getLsbD 39 = false ∧ VReg.lane (w.getV 3) 0 = 1 ∧ (w.getQ 6).getLsbD 0 = true := by
  decide +kernel
theorem test_reduce_in_a_split_warp : (warpAfter (.vred { d := 0x104, s1 := 2, s2 := 0x307 }) split).getS 4 = 780 := by decide +kernel

/-- The first example of chapter 12: v4 and v5 of lane 0 hold 7.875 and 2.5. -/
def quantArgs (w : Warp) : Warp := (w.setV 4 1 fun _ => 0x40FC0000).setV 5 1 fun _ => 0x40200000
theorem test_quantise_search : let w := warpAfter (.vqntLane { d := 4, s1 := 4, s3 := 0x1FF, xf := 0x2100 }) quantArgs
    (VReg.lane (w.getV 4) 0, KReg.byte (w.getK 4) 0, w.flags) = (0x26, 0x80, 0x10) := by decide +kernel

/-- The second example of chapter 13: a word that holds 10, and lanes 0, 5 and 40 that add 1, 2 and 4. -/
def atomicArgs3 (w : Warp) : Warp :=
  (((w.setS (BitVec.allOnes 96) 125 0x21).setS (BitVec.allOnes 96) 126 0x100).setS (BitVec.allOnes 96) 127 0).setV 2 (BitVec.allOnes 96)
    fun l => if l = 0 then 1 else if l = 5 then 2 else 4
def withWord (s : State) : State := { s with store := s.store.write scratchKeys 4 10 }
def addLanes : State :=
  match step (withWord (placed (.atomAdd { d := 3, a := 0x108, s := 2, space := 1 }) atomicArgs3)) with | .next t => t | _ => State.reset
theorem test_atomic_add_lanes :
    (addLanes.warp? 0 0).map (fun w => (VReg.lane (w.getV 3) 0, VReg.lane (w.getV 3) 5, VReg.lane (w.getV 3) 40)) = some (10, 11, 13) ∧
    addLanes.store.read scratchKeys 4 = 17 := by decide +kernel

/-- A state in which the warp's one hood may issue, in handler mode, so that TRET may run too; and the same with an empty active set. -/
def ready : State := (State.reset.placeWord 0).modWarp 0 0 fun w => { w with handler := true }
def idle : State := ready.modWarp 0 0 fun w => { w with s := List.replicate 128 0 }

/-- An instruction issues at a state and the issue meets `p`. -/
def meets (i : Instr) (s : State) (p : Issue → Bool) : Bool := (issueOf i s).any fun x => p x.2

/-- The instruction is legal, and issues with an active set that is empty or not, as the state has it: what the statements about completing
ask of it. -/
def issues (i : Instr) : Bool :=
  i.wellFormed && i.code?.isSome && meets i ready (fun c => c.act ≠ 0) && meets i idle (fun c => decide (c.act = 0))

def controlForms : List Instr := [
    .nop {},
    .exit {},
    .bra { c := 0x301 },
    .brx { c := 0x104 },
    .call { c := 0x301 },
    .ret {},
    .felt { imm := 1 },
    .yield {},
    .phase { s1 := 0x104, s2 := 0x180, s3 := 0x180, s4 := 0x180 },
    .sleep { imm := 4, s1 := 0x1FF },
    .bar { imm := 1 },
    .barh { imm := 1 },
    .trap { imm := 3 },
    .tret {},
    .bkpt { imm := 3 },
    .srget { d := 0x104, imm := 0xE },
    .srset { s1 := 0x104, imm := 0xE },
    .migr { d := 0x104, s1 := 0x106, s2 := 0x108, s3 := 0x10A },
    .migrSwap { sub := 1, d := 0x104, s1 := 0x106, s2 := 0x108, s3 := 0x10A, s4 := 0x10B },
    .trace { s1 := 0x104 },
    .traceImm { imm := 5 },
    .trctlSet { d := 0x104, s1 := 0x105 },
    .trctlFlush { sub := 1 },
    .evset { d := 0x104, s1 := 0x105 },
    .evsetImm { d := 0x104, imm := 7 },
    .evwait { s1 := 0x105 },
    .evwaitImm { imm := 7 }]
theorem witness_control_forms_issue : controlForms.all issues = true := by decide +kernel

def scalar_arithForms : List Instr := [
    .smov { d := 0x104, s1 := 0x105, ty := 0x12 },
    .smovi { d := 0x104, imm := 9, ty := 0x12 },
    .smovih { d := 0x104, imm := 9 },
    .sadd { d := 0x104, s1 := 0x105, s2 := 0x106 },
    .saddImm { d := 0x104, s1 := 0x105, imm := 3 },
    .ssub { d := 0x104, s1 := 0x105, s2 := 0x106 },
    .ssubImm { d := 0x104, s1 := 0x105, imm := 3 },
    .smul { d := 0x104, s1 := 0x105, s2 := 0x106 },
    .smulImm { d := 0x104, s1 := 0x105, imm := 3 },
    .smulh { d := 0x104, s1 := 0x105, s2 := 0x106 },
    .smulhImm { d := 0x104, s1 := 0x105, imm := 3 },
    .smad { d := 0x104, s1 := 0x105, s2 := 0x106, s3 := 0x107 },
    .sdiv { d := 0x104, s1 := 0x105, s2 := 0x106 },
    .sdivImm { d := 0x104, s1 := 0x105, imm := 3 },
    .srem { d := 0x104, s1 := 0x105, s2 := 0x106 },
    .sremImm { d := 0x104, s1 := 0x105, imm := 3 },
    .sand { d := 0x104, s1 := 0x105, s2 := 0x106 },
    .sandImm { d := 0x104, s1 := 0x105, imm := 3 },
    .sor { d := 0x104, s1 := 0x105, s2 := 0x106 },
    .sorImm { d := 0x104, s1 := 0x105, imm := 3 }]
theorem witness_scalar_arith_forms_issue : scalar_arithForms.all issues = true := by decide +kernel

def scalar_logicForms : List Instr := [
    .sxor { d := 0x104, s1 := 0x105, s2 := 0x106 },
    .sxorImm { d := 0x104, s1 := 0x105, imm := 3 },
    .sshl { d := 0x104, s1 := 0x105, s2 := 0x106 },
    .sshlImm { d := 0x104, s1 := 0x105, imm := 3 },
    .sshr { d := 0x104, s1 := 0x105, s2 := 0x106 },
    .sshrImm { d := 0x104, s1 := 0x105, imm := 3 },
    .ssra { d := 0x104, s1 := 0x105, s2 := 0x106 },
    .ssraImm { d := 0x104, s1 := 0x105, imm := 3 },
    .smin { d := 0x104, s1 := 0x105, s2 := 0x106 },
    .sminImm { d := 0x104, s1 := 0x105, imm := 3 },
    .smax { d := 0x104, s1 := 0x105, s2 := 0x106 },
    .smaxImm { d := 0x104, s1 := 0x105, imm := 3 },
    .scmp { d := 0x104, s1 := 0x105, s2 := 0x106 },
    .scmpImm { d := 0x104, s1 := 0x105, imm := 3 },
    .ssel { d := 0x104, s1 := 0x105, s2 := 0x106, s3 := 0x107, ty := 0x12 },
    .sclz { d := 0x104, s1 := 0x105, ty := 0x12 },
    .spopc { d := 0x104, s1 := 0x105, ty := 0x12 },
    .sbfe { d := 0x104, s1 := 0x105, s2 := 0x106, s3 := 0x107 },
    .sbfeImm { d := 0x104, s1 := 0x105, imm := 0x804 },
    .sbfi { d := 0x104, s1 := 0x105, s2 := 0x106, s3 := 0x107, s4 := 0x108, ty := 0x12 },
    .slea { d := 0x104, s1 := 0x106, s2 := 0x108 },
    .scvt { d := 0x104, s1 := 0x105, sub := 8 }]
theorem witness_scalar_logic_forms_issue : scalar_logicForms.all issues = true := by decide +kernel

def vector_arithForms : List Instr := [
    .vmov { d := 4, s1 := 5, ty := 0x12 },
    .vmovi { d := 4, imm := 9, ty := 0x12 },
    .vbcst { d := 4, s1 := 5, s2 := 0x106, ty := 0x12 },
    .vidx { d := 4, s1 := 0x105, s2 := 0x106 },
    .vadd { d := 4, s1 := 5, s2 := 6 },
    .vaddImm { d := 4, s1 := 5, imm := 3 },
    .vsub { d := 4, s1 := 5, s2 := 6 },
    .vsubImm { d := 4, s1 := 5, imm := 3 },
    .vmul { d := 4, s1 := 5, s2 := 6 },
    .vmulImm { d := 4, s1 := 5, imm := 3 },
    .vmulh { d := 4, s1 := 5, s2 := 6 },
    .vmulhImm { d := 4, s1 := 5, imm := 3 },
    .vmad { d := 4, s1 := 5, s2 := 6, s3 := 7 },
    .vand { d := 4, s1 := 5, s2 := 6 },
    .vandImm { d := 4, s1 := 5, imm := 3 },
    .vor { d := 4, s1 := 5, s2 := 6 },
    .vorImm { d := 4, s1 := 5, imm := 3 },
    .vxor { d := 4, s1 := 5, s2 := 6 },
    .vxorImm { d := 4, s1 := 5, imm := 3 }]
theorem witness_vector_arith_forms_issue : vector_arithForms.all issues = true := by decide +kernel

def vector_logicForms : List Instr := [
    .vshl { d := 4, s1 := 5, s2 := 6 },
    .vshlImm { d := 4, s1 := 5, imm := 3 },
    .vshr { d := 4, s1 := 5, s2 := 6 },
    .vshrImm { d := 4, s1 := 5, imm := 3 },
    .vsra { d := 4, s1 := 5, s2 := 6 },
    .vsraImm { d := 4, s1 := 5, imm := 3 },
    .vmin { d := 4, s1 := 5, s2 := 6 },
    .vminImm { d := 4, s1 := 5, imm := 3 },
    .vmax { d := 4, s1 := 5, s2 := 6 },
    .vmaxImm { d := 4, s1 := 5, imm := 3 },
    .vabs { d := 4, s1 := 5 },
    .vcmp { d := 0x303, s1 := 5, s2 := 6 },
    .vcmpImm { d := 0x303, s1 := 5, imm := 3 },
    .vsel { d := 4, s1 := 5, s2 := 6, s3 := 0x303, ty := 0x12 },
    .vclz { d := 4, s1 := 5, ty := 0x12 },
    .vpopc { d := 4, s1 := 5, ty := 0x12 },
    .vbfe { d := 4, s1 := 5, s2 := 6, s3 := 7 },
    .vbfeImm { d := 4, s1 := 5, imm := 0x804 },
    .vbfi { d := 4, s1 := 5, s2 := 6, s3 := 7, s4 := 8, ty := 0x12 },
    .vdot4 { d := 4, s1 := 5, s2 := 6, s3 := 7, ty := 6 },
    .philox { d := 8, s1 := 0xC, s2 := 0x104, ty := 0x12 }]
theorem witness_vector_logic_forms_issue : vector_logicForms.all issues = true := by decide +kernel

def floatForms : List Instr := [
    .fadd { d := 4, s1 := 5, s2 := 6, s3 := 0x1FF, ty := 8 },
    .fsub { d := 4, s1 := 5, s2 := 6, s3 := 0x1FF, ty := 8 },
    .fmul { d := 4, s1 := 5, s2 := 6, s3 := 0x1FF, ty := 8 },
    .ffma { d := 4, s1 := 5, s2 := 6, s3 := 7, s4 := 0x1FF, ty := 8 },
    .fmin { d := 4, s1 := 5, s2 := 6, ty := 8 },
    .fmax { d := 4, s1 := 5, s2 := 6, ty := 8 },
    .fcmp { d := 0x303, s1 := 5, s2 := 6, ty := 8 },
    .fclass { d := 4, s1 := 5, ty := 8 },
    .frcp { d := 4, s1 := 5, ty := 8 },
    .frsq { d := 4, s1 := 5, ty := 8 },
    .fsqrt { d := 4, s1 := 5, ty := 8 },
    .fdiv { d := 4, s1 := 5, s2 := 6, s3 := 0x1FF, ty := 8 },
    .fexp2 { d := 4, s1 := 5, ty := 8 },
    .flog2 { d := 4, s1 := 5, ty := 8 },
    .fsin { d := 4, s1 := 5, ty := 8 },
    .fcos { d := 4, s1 := 5, ty := 8 },
    .ftanh { d := 4, s1 := 5, ty := 8 },
    .fcvt { d := 4, s1 := 5, s3 := 0x1FF, sub := 8 },
    .frint { d := 4, s1 := 5, s2 := 0x1FF, ty := 8 },
    .fscale { d := 4, s1 := 5, s2 := 6, s3 := 0x1FF, ty := 8 },
    .fsmxu { d := 4, s1 := 5, ty := 8 },
    .fsmxf { d := 4, s1 := 5, s2 := 6, ty := 8 }]
theorem witness_float_forms_issue : floatForms.all issues = true := by decide +kernel

def scaleForms : List Instr := [
    .vshfl { d := 4, s1 := 5, s2 := 6, s3 := 0x1FF, ty := 0x12 },
    .vred { d := 0x104, s1 := 5, s2 := 0x1FF },
    .vscan { d := 4, s1 := 5 },
    .vvote { d := 0x104, s1 := 0x303, ty := 0x12 },
    .vcmpr { d := 4, s1 := 5, s2 := 0x303, s3 := 0x104, ty := 0x12 },
    .kmov { d := 0x204, s1 := 0x205 },
    .kget { d := 0x104, s1 := 0x205, s2 := 0x106 },
    .kgetImm { d := 0x104, s1 := 0x205, imm := 3 },
    .kset { d := 0x204, s1 := 0x105, s2 := 0x106 },
    .ksetImm { d := 0x204, s1 := 0x105, imm := 3 },
    .kfill { d := 0x204, s1 := 0x105, ty := 0xC },
    .kfillImm { d := 0x204, imm := 0x7F, ty := 0xC },
    .kadd { d := 0x204, s1 := 0x205, s2 := 0x106, ty := 0xC },
    .kaddImm { d := 0x204, s1 := 0x205, imm := 3, ty := 0xC },
    .vqntLane { d := 4, s1 := 8, s3 := 0x1FF, xf := 0x1880 },
    .vqntRow { d := 4, s1 := 0x20, s2 := 0x104, s3 := 0x1FF, xf := 0x18C0 },
    .vdqnt { d := 8, s1 := 4, s2 := 0x1FF, ty := 0xC },
    .vamax { d := 0x104, s1 := 5, s2 := 0x181, s3 := 0x180, ty := 8 },
    .amxpush { s1 := 0x104, s2 := 0x105, ty := 8 },
    .amxget { d := 0x104, s1 := 0x105 },
    .amxclr { s1 := 0x105 },
    .amxclrImm {}]
theorem witness_scale_forms_issue : scaleForms.all issues = true := by decide +kernel

def memoryForms : List Instr := [
    .sld { d := 0x104, a := 0x108, s := 0x1FF, ty := 0x12, space := 1 },
    .sst { d := 0x1FF, a := 0x108, s := 0x104, ty := 0x12, space := 1 },
    .vld { d := 4, a := 0x108, s := 0x1FF, ty := 0x12, space := 1 },
    .vst { d := 0x1FF, a := 0x108, s := 4, ty := 0x12, space := 1 },
    .vldl { d := 4, a := 0x108, ty := 0x12, space := 1 },
    .vstl { a := 0x108, s := 4, ty := 0x12, space := 1 },
    .pref { a := 8, space := 1 },
    .cctl { a := 8, s := 0x180 },
    .fence { aux := 1 },
    .tfence { d := 0x1FF, a := 0x1FF, s := 0x1FF, scope := 1 },
    .waitv { d := 0x104, a := 0x108, s := 0x106, ty := 0x12, space := 1 },
    .watch { d := 0x104, a := 0x108 },
    .unwatch { d := 0x104, s := 0x105 }]
theorem witness_memory_forms_issue : memoryForms.all issues = true := by decide +kernel

def atomForms : List Instr := [
    .atomAdd { d := 4, a := 8, s := 0xA, space := 1 },
    .atomAnd { d := 4, a := 8, s := 0xA, space := 1 },
    .atomOr { d := 4, a := 8, s := 0xA, space := 1 },
    .atomXor { d := 4, a := 8, s := 0xA, space := 1 },
    .atomMin { d := 4, a := 8, s := 0xA, space := 1 },
    .atomMax { d := 4, a := 8, s := 0xA, space := 1 },
    .atomExch { d := 4, a := 8, s := 0xA, ty := 0x12, space := 1 },
    .atomCas { d := 4, a := 8, s := 0xA, ty := 0x12, space := 1 },
    .atomIncw { d := 4, a := 8, s := 0xA, ty := 1, space := 1 },
    .atomDecw { d := 4, a := 8, s := 0xA, ty := 1, space := 1 },
    .atomFaddF32 { d := 4, a := 8, s := 0xA, ty := 8, space := 1 },
    .atomFaddBf16x2 { d := 4, a := 8, s := 0xA, ty := 0xB, space := 1 },
    .atomFminF32 { d := 4, a := 8, s := 0xA, ty := 8, space := 1 },
    .atomFmaxF32 { d := 4, a := 8, s := 0xA, ty := 8, space := 1 }]
theorem witness_atom_forms_issue : atomForms.all issues = true := by decide +kernel

def satomForms : List Instr := [
    .satomAdd { d := 0x104, a := 0x108, s := 0x10A, space := 1 },
    .satomAnd { d := 0x104, a := 0x108, s := 0x10A, space := 1 },
    .satomOr { d := 0x104, a := 0x108, s := 0x10A, space := 1 },
    .satomXor { d := 0x104, a := 0x108, s := 0x10A, space := 1 },
    .satomMin { d := 0x104, a := 0x108, s := 0x10A, space := 1 },
    .satomMax { d := 0x104, a := 0x108, s := 0x10A, space := 1 },
    .satomExch { d := 0x104, a := 0x108, s := 0x10A, ty := 0x12, space := 1 },
    .satomCas { d := 0x104, a := 0x108, s := 0x10A, ty := 0x12, space := 1 },
    .satomIncw { d := 0x104, a := 0x108, s := 0x10A, ty := 1, space := 1 },
    .satomDecw { d := 0x104, a := 0x108, s := 0x10A, ty := 1, space := 1 },
    .satomFaddF32 { d := 0x104, a := 0x108, s := 0x10A, ty := 8, space := 1 },
    .satomFaddBf16x2 { d := 0x104, a := 0x108, s := 0x10A, ty := 0xB, space := 1 },
    .satomFminF32 { d := 0x104, a := 0x108, s := 0x10A, ty := 8, space := 1 },
    .satomFmaxF32 { d := 0x104, a := 0x108, s := 0x10A, ty := 8, space := 1 }]
theorem witness_satom_forms_issue : satomForms.all issues = true := by decide +kernel

def engineForms : List Instr := [
    .bandi { a := 0x108, space := 1 },
    .bandx { d := 0x1FF, a := 0x108, s := 0x105, space := 1 },
    .banda { a := 0x108, s := 0x105, space := 1 },
    .bandw { d := 0x104, a := 0x108, s := 0x105, space := 1 },
    .bandt { d := 0x303, a := 0x108, s := 5, space := 1 },
    .xlayNew { d := 0x104, s1 := 0x106 },
    .xlaySet { sub := 1, d := 0x104, s1 := 0x106, s2 := 0x108 },
    .xlayFree { sub := 2, d := 0x104, s1 := 0x1FF, s2 := 0x108 },
    .xcopy { d := 0x104, s1 := 0x105, s2 := 0x108, s3 := 0x110, s4 := 0x118 },
    .qinitInit { d := 0x104, a := 0x108, s := 0x180, space := 1 },
    .qinitFini { d := 0x104, a := 0x108, s := 0x181, space := 1 },
    .qputResv { d := 0x104, a := 0x108, s := 0x1FF, space := 1 },
    .qputCommit { a := 0x108, s := 0x104, ord := 2, space := 1 },
    .qgetAcq { d := 0x104, a := 0x108, s := 0x1FF, ord := 1, space := 1 },
    .qgetFree { a := 0x108, s := 0x104, space := 1 },
    .spawn { d := 0x104, s1 := 0x106, s2 := 0x1FF, s3 := 0x180 },
    .mshape { s1 := 0x104 },
    .mma { d := 0x10, s1 := 0x20, s2 := 0x130, s3 := 0x1FF, xf := 0x2000 },
    .mmaw { s1 := 0x180 },
    .mzero { d := 4, s1 := 0x181, ty := 8 },
    .dmma { d := 0x10, s1 := 0x105, s2 := 0x106, s3 := 0x1FF, s4 := 0x1FF },
    .mfence {}]
theorem witness_engine_forms_issue : engineForms.all issues = true := by decide +kernel

/-! ## What the statements about instructions ask for

Each `witness_` theorem names a state and operands that meet the hypotheses of a statement, or of clauses of one; ranges at their ends. -/

/-- `ready` with its scalar registers set. -/
def withS (l : List (Nat × Word)) : State := ready.modWarp 0 0 fun w => l.foldl (fun w x => w.setS 0 x.1 x.2) w

/-- `ready` with the warp in two hoods, the second of which waits at the same PC or runs. -/
def twoHoods (wait : Wait) : State := ready.modWarp 0 0 fun w => w.mapSlices fun n s => if 10 ≤ n then { s with hood := 10, wait := wait } else s

/-- No trap is enabled at reset, so that no result raises a trap (R78, R79). -/
theorem no_trap_records (w : Warp) (pc : DWord) (l : List (Nat × Nat)) (h : w.fpEnabled = 0) (m : w.mxEnabled = false) :
    trapRecords w pc l = [] := by simp [trapRecords, h, m]
theorem witness_no_traps : meets (.fadd { d := 4, s1 := 5, s2 := 6, s3 := 0x1FF, ty := 8 }) ready (fun c => c.w.fpEnabled = 0 && !c.w.mxEnabled) = true ∧
    meets (.kadd { d := 0x204, s1 := 0x205, s2 := 0x106, ty := 0xC }) ready (fun c => c.w.fpEnabled = 0 && !c.w.mxEnabled) = true := by decide +kernel

theorem witness_scalar_moves : meets (.smovi { d := 0x104, imm := 9, ty := 0x13, sub := 1 }) ready (fun c => c.act ≠ 0) = true ∧
    operand 0x104 = .s 4 ∧ operand 0x17A = .s 122 := by decide +kernel
theorem witness_compare_destinations : operand 0x303 = .q 3 ∧ operand 0x104 = .s 4 ∧
    meets (.scmp { d := 0x303, s1 := 0x105, s2 := 0x106 }) ready (fun c => c.act ≠ 0) = true ∧
    meets (.scmpImm { d := 0x303, s1 := 0x105, imm := 3 }) ready (fun c => c.act ≠ 0) = true := by decide +kernel
theorem witness_bits : (∃ k < 32, (8 : Word).getLsbD k = true ∧ ∀ j < 32, k < j → (8 : Word).getLsbD j = false) ∧ 0 + 32 ≤ 32 ∧ 31 + 1 ≤ 32 := by
  decide +kernel

theorem witness_float_specials : fdecode fF32 false 0x3F800000 = .fin false 0x800000 (-23) ∧ 0x3F800000 < 2 ^ fF32.width ∧
    (fdecode fF32 false 0x3F800000).isNan = false ∧ (fdecode fF32 false 0).isNan = false ∧ fdecode fF32 false 0x7FC00000 = fdecode fF32 false 0x7FC00000 := by
  decide +kernel

theorem witness_votes :
    meets (.vvote { d := 0x104, s1 := 0x303, ty := 0x12, sub := 3 }) ready (fun c => c.act ≠ 0) = true ∧
    meets (.vvote { d := 0x104, s1 := 0x303, ty := 0x12, sub := 4 }) ready (fun c => c.act ≠ 0) = true ∧
    meets (.vvote { d := 0x304, s1 := 0x303, ty := 0x12, sub := 2 }) ready (fun c => c.act ≠ 0) = true ∧
    meets (.vvote { d := 0x104, s1 := 0x303, ty := 0x12 }) ready (fun c => c.act ≠ 0) = true := by decide +kernel

theorem witness_scale_index :
    meets (.kget { d := 4, s1 := 0x205, sub := 2 }) ready (fun c => c.act ≠ 0) = true ∧
    meets (.kget { d := 0x104, s1 := 0x205, s2 := 0x106 }) (withS [(6, 23)]) (fun c => c.scalar 0x106 false 0 < 24) = true ∧
    meets (.kget { d := 0x104, s1 := 0x205, s2 := 0x106, sub := 1 }) (withS [(6, 2)]) (fun c => c.scalar 0x106 false 0 < 3) = true ∧
    meets (.kgetImm { d := 0x104, s1 := 0x205, imm := 23 }) ready (fun c => c.act ≠ 0) = true ∧
    meets (.kset { d := 0x204, s1 := 5, sub := 2 }) ready (fun c => c.act ≠ 0) = true ∧
    meets (.kset { d := 0x204, s1 := 0x105, s2 := 0x106 }) (withS [(6, 23)]) (fun c => c.scalar 0x106 false 0 < 24) = true ∧
    meets (.ksetImm { d := 0x204, s1 := 0x105, imm := 23 }) ready (fun c => c.act ≠ 0) = true := by decide +kernel
theorem witness_scale_index_faults :
    meets (.kget { d := 0x104, s1 := 0x205, s2 := 0x106 }) (withS [(6, 24)]) (fun c => c.act ≠ 0 && decide (24 ≤ c.scalar 0x106 false 0)) = true ∧
    meets (.kget { d := 0x104, s1 := 0x205, s2 := 0x106, sub := 1 }) (withS [(6, 3)]) (fun c => c.act ≠ 0 && decide (3 ≤ c.scalar 0x106 false 0)) = true ∧
    meets (.kset { d := 0x204, s1 := 0x105, s2 := 0x106 }) (withS [(6, 24)]) (fun c => c.act ≠ 0 && decide (24 ≤ c.scalar 0x106 false 0)) = true := by
  decide +kernel
theorem witness_add_scale : (0x7F : Byte) ≠ 0xFF ∧ 0 ≤ ((0x7F : Byte).toNat : Int) + 127 ∧ ((0x7F : Byte).toNat : Int) + 127 ≤ 0xFE ∧
    0 ≤ ((0x7F : Byte).toNat : Int) + (-127) := by decide

theorem witness_amax_ring : ({} : AmaxRing).e.length = 16 ∧ ({} : AmaxRing).wp < 16 ∧ ({} : AmaxRing).cnt ≤ 16 := by decide
theorem witness_amax :
    meets (.vamax { d := 0x104, s1 := 0xE0, s2 := 0x105, s3 := 0x106, ty := 8 }) (withS [(5, 32), (6, 31)]) (fun c => c.act ≠ 0 &&
      decide (0 < c.scalar 0x105 false 0 ∧ c.scalar 0x105 false 0 ≤ 32 ∧ 0xE0 + c.scalar 0x105 false 0 ≤ c.w.vrc ∧ c.scalar 0x106 false 0 < 32)) = true ∧
    meets (.amxpush { s1 := 0x104, s2 := 0x105, ty := 8 }) (withS [(4, 0x3F800000), (5, 31)]) (fun c => c.act ≠ 0 &&
      decide (c.scalar 0x105 false 0 < 32) && (amaxEntry c.w.daz (c.scalar 0x104 false 8)).isSome) = true ∧
    meets (.amxget { d := 0x104, s1 := 0x105, s2 := 0x106, sub := 1 }) (withS [(5, 31), (6, 15)]) (fun c =>
      decide (c.scalar 0x105 false 0 < 32 ∧ c.scalar 0x106 false 0 < 16)) = true := by decide +kernel

theorem witness_quantise_row : meets (.vqntRow { d := 4, s1 := 32, s2 := 0x104, s3 := 0x1FF, xf := 0x18C0 }) (withS [(4, 84)]) (fun c =>
    c.waiting.atCollective && decide (c.whole.scalar 0x104 false 0 % blocksPerReg 0xC = 0 ∧ c.whole.scalar 0x104 false 0 ≤ 96 - blocksPerReg 0xC) &&
    c.w.fpEnabled = 0 && !c.w.mxEnabled) = true := by decide +kernel

/-! ### Checks, branches and hoods -/

theorem witness_check_fails :
    let s := ready.modWarp 0 0 fun w => { w with vrc := 8 }
    (Instr.code? (.vadd { d := 8, s1 := 1, s2 := 2 })).isSome ∧
    s.issuer?.any (fun w => (checkAll (s.envOf w) 0x044 (.a { d := 8, s1 := 1, s2 := 2 })).isSome) = true := by decide +kernel

theorem witness_branches :
    meets (.bra { c := 0x301 }) (ready.modWarp 0 0 fun w => w.setQ 1 (BitVec.allOnes 96) (BitVec.allOnes 96)) (fun c =>
      takers c { c := 0x301 } ≠ [] && (legalTargets c.w.core c.w.ctx (group (takers c { c := 0x301 }) (branchTarget c.pc 0)) c.s).isSome) = true ∧
    meets (.call { c := 0x301, bmode := 2 }) ready (fun c => takers c { c := 0x301, bmode := 2 } ≠ [] &&
      (legalTargets c.w.core c.w.ctx (group (takers c { c := 0x301, bmode := 2 }) (branchTarget c.pc 0)) c.s).isSome) = true ∧
    meets (.bra { c := 0x301 }) ready (fun c => takers c { c := 0x301 } = [] &&
      (legalTargets c.w.core c.w.ctx (group (takers c { c := 0x301 }) (branchTarget c.pc 0)) c.s).isSome) = true := by decide +kernel
theorem witness_register_branches :
    meets (.brx { c := 0x104 }) (withS [(4, 0x10000)]) (fun c => (legalTargets c.w.core c.w.ctx (group (active c)
      (BitVec.ofNat 64 (c.scalar 0x104 true 3))) c.s).isSome) = true ∧
    meets (.brx { c := 4 }) (ready.modWarp 0 0 fun w => w.setV 4 (BitVec.allOnes 96) fun _ => 0x10000) (fun c =>
      (legalTargets c.w.core c.w.ctx ((groupBy (active c) (c.battTarget { c := 4 })).map fun l => (l, c.battTarget { c := 4 } (keyOf l))) c.s).isSome) = true ∧
    meets (.ret {}) (withS [(122, 0x10000)]) (fun c => (legalTargets c.w.core c.w.ctx (group (active c) (c.w.getS64 122)) c.s).isSome) = true ∧
    operand 4 = .v 4 ∧ operand 0x104 = .s 4 := by decide +kernel
theorem witness_illegal_target : meets (.bra { c := 0x301, bmode := 2 }) { ready with store := ready.store.write placeVa 64 0 } (fun c =>
    takers c { c := 0x301, bmode := 2 } ≠ [] && (match (c.s.targetFault c.w.core c.w.ctx (branchTarget c.pc 0)).2 with | some (.fault _) => true | _ => false) &&
    !c.s.fetchWaits c.w.core c.w.ctx ((branchTarget c.pc 0).toNat / 64)) = true := by decide +kernel

theorem witness_split_and_rejoin : placeWarp.hoodSlices 0 = List.range 24 ∧ placeWarp.liveSlices ≠ [] ∧
    (let w := placeWarp.mapSlices fun _ s => { s with wait := .felt 7 }
     w.liveSlices ≠ [] ∧ ∀ i < 24, w.isLive i = true → (w.slice i).wait = .felt 7) := by decide +kernel

theorem witness_barriers : let all := fun (c : Issue) => c.waiting.atCollective
    meets (.bar { imm := 15 }) ready all = true ∧ meets (.barh { imm := 15 }) (twoHoods .collective) all = true ∧
    meets (.phase { s1 := 0x104, s2 := 0x180, s3 := 0x180, s4 := 0x180 })
      { ready with sched := { ready.sched with gangs := ready.sched.gangs.map fun g => { g with phased := true } } }
      (fun c => all c && (c.s.gang? c.w.gang).any Gang.phased && c.whole.phaseLimits { s1 := 0x104, s2 := 0x180, s3 := 0x180, s4 := 0x180 }) = true := by
  decide +kernel
theorem witness_yield : meets (.yield {}) ready (fun c => c.otherHoods = []) = true ∧ meets (.yield {}) (twoHoods .run) (fun c => c.otherHoods ≠ []) = true := by
  decide +kernel
theorem witness_sleep : (((ready.modWarp 0 0 fun w => w.waitHood 0 (.sleep 5)).warp? 0 0).any fun w => (w.slice 23).wait = .sleep 5) = true := by decide +kernel
theorem witness_quiet : (issueOf (.nop {}) ready).any (fun x => x.1.windows = [] && x.1.shared = [] && x.2.s.recs = [] && x.2.s.upsets.isEmpty) = true := by decide +kernel
theorem witness_collective_waits : [Instr.vldl { d := 4, a := 0x108, ty := 0x12, space := 1 }, .vstl { a := 0x108, s := 4, ty := 0x12, space := 1 },
    .mshape { s1 := 0x104 }, .mma { d := 0x10, s1 := 0x20, s2 := 0x130, s3 := 0x1FF, xf := 0x2000 },
    .dmma { d := 0x10, s1 := 0x105, s2 := 0x106, s3 := 0x1FF, s4 := 0x1FF }, .mmaw { s1 := 0x180 },
    .vqntRow { d := 4, s1 := 32, s2 := 0x104, s3 := 0x1FF, xf := 0x18C0 }, .bar { imm := 1 }, .barh { imm := 1 },
    .phase { s1 := 0x104, s2 := 0x180, s3 := 0x180, s4 := 0x180 }].all (fun i => meets i (twoHoods .run) fun c => !c.waiting.atCollective) = true := by
  decide +kernel

/-! ### Accesses -/

/-- Decides `Reaches`: the state and the pieces. -/
def reaches? (c : Issue) (a : PrepArgs) (store : Bool) (addrs : List (Nat × DWord)) : Option (State × List Piece) :=
  match c.s.prep c.w a c.pc addrs with
  | .ok u qs =>
    let r := u.relayAll c.w qs
    if (decide (r.2 = qs)) && r.2.all fun p => !(p.hit.isNone && r.1.scoreHolds store p.at p.n) then some r else none
  | _ => none

/-- Decides `Opens`: the state. -/
def opens? (c : Issue) (g : Gate) (ps : List Piece) : Option State :=
  match g with
  | .ready u => if (u.timedOut c.agent ps).isEmpty && !(c.promoted && u.unsettledRelease ps) then some u else none
  | _ => none

/-- Decides `Loads`: the state and the values. -/
def loads? (c : Issue) (a : PrepArgs) (ch : Nat) (fill : Bool) (addrs : List (Nat × DWord)) : Option (State × List (Nat × Nat)) :=
  match reaches? c a false addrs with
  | none => none
  | some (t, ps) =>
    match opens? c (c.readGate t (t.splitUc ps)) (t.splitUc ps) with
    | none => none
    | some u =>
      let r := u.fetchAll c.agent c.w (t.splitUc ps) ch fill
      if r.2.2.isEmpty then some (c.bypassed a (t.splitUc ps) (r.1.dropAnswers c.agent), r.2.1) else none

theorem zip_self_eq {α : Type} {l : List α} {x : α × α} (h : x ∈ l.zip l) : x.1 = x.2 := by
  induction l with
  | nil => simp at h
  | cons a l ih => simp only [List.zip_cons_cons, List.mem_cons] at h; rcases h with rfl | h <;> [rfl; exact ih h]

theorem reaches?_sound {c : Issue} {a : PrepArgs} {store : Bool} {addrs : List (Nat × DWord)} {t : State} {ps : List Piece}
    (h : reaches? c a store addrs = some (t, ps)) : Reaches c a store addrs t ps := by
  unfold reaches? at h
  split at h
  · next u qs he =>
    dsimp only at h
    split at h
    · next ha =>
      have e : u.relayAll c.w qs = (t, ps) := by simpa using h
      rw [e] at ha
      simp only [Bool.and_eq_true, decide_eq_true_eq] at ha
      refine ⟨u, qs, he, e, fun x hx hk => ?_, fun p hp => (Bool.not_eq_true' _).mp (List.all_eq_true.1 ha.2 p hp)⟩
      rw [ha.1] at hx
      exact absurd (congrArg Piece.key (zip_self_eq hx)) hk
    · cases h
  · cases h

theorem opens?_sound {c : Issue} {g : Gate} {ps : List Piece} {u : State} (h : opens? c g ps = some u) : Opens c g ps u := by
  unfold opens? at h
  split at h
  · split at h
    · next he =>
      cases h
      simp only [Bool.and_eq_true, List.isEmpty_iff, Bool.not_eq_true'] at he
      exact ⟨rfl, he⟩
    · cases h
  · cases h

theorem loads?_sound {c : Issue} {a : PrepArgs} {ch : Nat} {fill : Bool} {addrs : List (Nat × DWord)} {v : State} {vals : List (Nat × Nat)}
    (h : loads? c a ch fill addrs = some (v, vals)) : Loads c a ch fill addrs v vals := by
  unfold loads? at h
  split at h
  · cases h
  · next t ps hr =>
    split at h
    · cases h
    · next u ho =>
      dsimp only at h
      split at h
      · next he =>
        obtain ⟨rfl, rfl⟩ := Prod.mk.inj (Option.some.inj h)
        exact ⟨t, ps, u, _, reaches?_sound hr, opens?_sound ho, Prod.ext rfl (Prod.ext rfl (by simpa using he)), rfl⟩
      · cases h

/-- `ready` with two more pages mapped, VA 0x20000 and 0x30000, writable, the first pinned and with a save area. -/
def mapped : State := { ready with
  store := (ready.store.write 0x5010 8 (0x20000 + 0x723)).write 0x5018 8 (0x30000 + 0x623)
  contexts := ready.contexts.map fun c => { c with saveBase := 0x20000, wslots := 1, bslots := 1, fqhdr := 0x30000 }
  warps := ready.warps.map fun w => { w with vrc := 8, handler := false } }

def sldAt : FormM := { d := 0x104, a := 0x108, s := 0x1FF, ty := 0x12 }
def vldSp : FormM := { d := 4, a := 0x108, s := 0x1FF, ty := 0x12, space := 1 }
def withM (l : List (Nat × Word)) : State := mapped.modWarp 0 0 fun w => l.foldl (fun w x => w.setS 0 x.1 x.2) w

/-- A load of the scratchpad by every lane, and one of mapped memory with an acquire at `.dev`. -/
theorem witness_loads :
    meets (.vld vldSp) ready (fun c => c.act ≠ 0 && (loads? c (plainArgs vldSp .read 4 false) 0 true (c.addresses vldSp false)).isSome) = true ∧
    (let f := { sldAt with scope := 3, ord := 1 }
     meets (.sld f) (withM [(8, 0x2FFFC)]) (fun c => c.act ≠ 0 && (loads? c (plainArgs f .read 4 true) 0 false (c.addresses f true)).isSome)) = true := by
  decide +kernel
theorem witness_stores :
    (let f : FormM := { d := 0x1FF, a := 0x108, s := 4, ty := 0x12, space := 1 }
     meets (.vst f) ready (fun c => c.act ≠ 0 && !(ordReleases f.ord && c.podWritesOut f.scope.toNat) &&
       (reaches? c (plainArgs f .write 4 false) true (c.addresses f false)).any fun r => !c.tailHeld f r.1 r.2 && (opens? c (c.writeGate r.1 r.2 .write) r.2).isSome)) = true ∧
    (let f : FormM := { d := 0x1FF, a := 0x108, s := 0x104, ty := 0x12, scope := 3, ord := 2 }
     meets (.sst f) (withM [(8, 0x20000)]) (fun c => c.act ≠ 0 && !(ordReleases f.ord && c.podWritesOut f.scope.toNat) &&
       (reaches? c (plainArgs f .write 4 true) true (c.addresses f true)).any fun r => !c.tailHeld f r.1 r.2 && (opens? c (c.writeGate r.1 r.2 .write) r.2).isSome)) = true := by
  decide +kernel
theorem witness_lines :
    (let f : FormM := { d := 4, a := 0x108, ty := 0x12, space := 1 }
     meets (.vldl f) ready (fun c => c.waiting.atCollective && c.whole.act ≠ 0 &&
       (reaches? c.whole (lineArgs f .read) false (c.whole.lineAddresses f)).any fun r =>
         (opens? c.whole (c.whole.readGate r.1 (r.1.splitUc ((c.whole.beatPieces r.2).map Prod.snd))) r.2).any fun u =>
           (c.whole.fetchBeats f (c.whole.beatPieces r.2) u).2.2.isEmpty)) = true ∧
    (let f : FormM := { a := 0x108, s := 4, ty := 0x12, space := 1 }
     meets (.vstl f) ready (fun c => c.waiting.atCollective && c.whole.act ≠ 0 && !(ordReleases f.ord && c.whole.podWritesOut f.scope.toNat) &&
       (reaches? c.whole (lineArgs f .write) true (c.whole.lineAddresses f)).any fun r =>
         !c.whole.tailHeld f r.1 ((c.whole.beatPieces r.2).map Prod.snd) && (opens? c.whole (c.whole.writeGate r.1 ((c.whole.beatPieces r.2).map Prod.snd) .write) r.2).isSome)) = true := by decide +kernel
theorem witness_atomics :
    (let f : FormM := { d := 4, a := 8, s := 10, space := 1 }
     meets (.atomAdd f) ready (fun c => c.act ≠ 0 && !(ordReleases f.ord && c.podWritesOut f.scope.toNat) &&
       (reaches? c (atomicArgs f 0) true (c.addresses f false)).any fun r => !c.tailHeld f r.1 r.2 && (opens? c (c.atomicGate f 0 r.1 r.2) r.2).any fun u =>
         (c.atomicAll f 0 r.2 u).2.2.isEmpty)) = true ∧
    (let f : FormM := { d := 0x104, a := 0x108, s := 0x10A, scope := 3, ord := 3 }
     meets (.satomAdd f) (withM [(8, 0x20000)]) (fun c => c.act ≠ 0 && !(ordReleases f.ord && c.podWritesOut f.scope.toNat) &&
       (reaches? c (atomicArgs f 0) true (c.addresses f true)).any fun r => !c.tailHeld f r.1 r.2 && (opens? c (c.atomicGate f 0 r.1 r.2) r.2).any fun u =>
         (c.atomicAll f 0 r.2 u).2.2.isEmpty)) = true := by decide +kernel

/-- A lane whose address no window holds, and a page that is not mapped. -/
theorem witness_address_faults :
    (let f : FormM := { d := 0x1FF, a := 0x108, s := 4, ty := 0x12 }
     meets (.vst f) (withM [(9, 0x01000000)]) (fun c => c.act ≠ 0 && !(ordReleases f.ord && c.podWritesOut f.scope.toNat) &&
       !(c.s.classifyAll c.w (plainArgs f .write 4 false) (c.addresses f false)).2.isEmpty)) = true ∧
    (let f : FormM := { d := 4, a := 0x108, s := 0x1FF, ty := 0x12 }
     meets (.vld f) (withM [(8, 0x80000)]) (fun c => c.act ≠ 0 &&
       let r := c.s.classifyAll c.w (plainArgs f .read 4 false) (c.addresses f false)
       r.2.isEmpty && !(c.s.translateAll c.w (plainArgs f .read 4 false) r.1).2.2.isEmpty)) = true := by decide +kernel

theorem witness_sound : sound mapped := by
  unfold sound storeSound
  decide +kernel
def twoPieces : List Piece := [{ lane := 0, va := 0x20000, n := 4, key := some 0x20000 }, { lane := 95, va := 0x2007C, n := 4, key := some 0x2007C }]
theorem witness_store_lanes : (twoPieces.map Piece.lane).Nodup ∧ ∀ p ∈ twoPieces, p.hit = none ∧ p.shift = 0 ∧ mapped.region p.at = .hbm 0 ∧
    mapped.store.poisonAt p.at p.n = none ∧ p.at % 128 + p.n ≤ 128 ∧ mapped.storeTo p = .store := by decide +kernel

def controlArgs : PrepArgs := { accept := { sp := false, ds := false }, space := 0, n := 1, acc := .read, user := .control }
theorem witness_control_and_fences :
    meets (.cctl { a := 4, s := 0x180 }) (mapped.modWarp 0 0 fun w => w.setV 4 (BitVec.allOnes 96) fun _ => 0x20000) (fun c => c.act ≠ 0 &&
       (reaches? c controlArgs false (c.addresses { a := 4, s := 0x180 } false)).isSome) = true ∧
    meets (.fence { aux := 5 }) ready (fun c => !c.podWritesOut 5) = true ∧
    meets (.tfence { d := 0x1FF, a := 0x1FF, s := 0x1FF, scope := 4 }) ready (fun c => c.act ≠ 0 && !c.podWritesOut 4 && (c.s.ctx? c.w.ctx).isSome) = true ∧
    meets (.tfence { d := 0x104, a := 0x106, s := 0x108, scope := 1 }) (withS [(8, 1), (7, 0x00FFFFFF)]) (fun c => c.act ≠ 0 &&
      (c.s.ctx? (c.scalar 0x104 false 1)).isSome && c.scalar 0x108 false 1 ≠ 0 && canonical (BitVec.ofNat 64 (c.scalar 0x106 true 3))) = true := by
  decide +kernel

/-- A watch descriptor for one line, at VA 0x20000, for a context with a phase pool on die 0. -/
def watching : State := { mapped with
  store := mapped.store.write 0x20000 64 (0x30080 + 128 * 2 ^ 64 + 2 ^ 112 + 2 ^ 128 + 0x00200101 * 2 ^ 160)
  contexts := mapped.contexts.map fun c => { c with poolSize := [0x10000, 0, 0, 0] }
  warps := mapped.warps.map fun w => w.setS 0 8 0x20000 }
def watchF : FormM := { d := 0x104, a := 0x108 }

def watchArgs : PrepArgs := { accept := { sp := false, ds := false, lp := false }, n := 64, acc := .read, align := 64, useL1 := true }
theorem witness_watch : meets (.watch watchF) watching (fun c => c.act ≠ 0 && (loads? c watchArgs 0 true (c.addresses watchF true)).any fun v =>
    let d := laneVal v.2 c.lane
    let r := v.1.watchPages c.w c.lane (natBits d 0 64) (natBits d 64 32)
    let lines := watchLines (natBits d 0 64) (natBits d 64 32) r.2.1
    !v.1.watchRefused c.w.ctx d && r.2.2.isEmpty && (r.2.1.all fun p => r.1.watchable p.2.1 p.2.2) && (r.1.freeWatch c.w.ctx).isSome &&
      (lines.filterMap fun l => r.1.homeOf l.2).dedup.all fun x => decide (r.1.watchesOn x < Config.watchEntries)) = true := by decide +kernel
def watched : State := { ready with sched := { ready.sched with watches := [{ ctx := 0, id := 0, lines := [(0x601, 0x601)], home := 0 }] } }
theorem witness_unwatch : let f : FormM := { d := 0x104, s := 0x105 }
    meets (.unwatch f) watched (fun c => c.act ≠ 0 && (c.s.sched.watches.find? fun w => w.ctx = c.w.ctx && w.id = c.scalar 0x105 false 1 && w.queue.isNone).isSome) = true ∧
    meets (.unwatch f) (watched.modWarp 0 0 fun w => w.setS 0 5 1) (fun c => c.act ≠ 0 &&
      c.s.sched.watches.all fun w => !(w.ctx = c.w.ctx && w.id = c.scalar 0x105 false 1 && w.queue.isNone)) = true := by decide +kernel

def waitF : FormM := { d := 0x104, a := 0x108, s := 0x106, ty := 0x12, space := 1 }
def waitArgs : PrepArgs := { space := 1, n := 4, acc := .read, align := 4 }
/-- WAITV on a word that holds zero, against a comparand that equals it and one that differs; and a hood that waits. -/
theorem witness_waitv :
    meets (.waitv waitF) ready (fun c => c.act ≠ 0 && (loads? c waitArgs 0 false (c.addresses waitF true)).any fun v =>
      laneVal v.2 c.lane = c.scalar 0x106 false 0x12) = true ∧
    meets (.waitv waitF) (withS [(6, 1)]) (fun c => c.act ≠ 0 && (loads? c waitArgs 0 false (c.addresses waitF true)).any fun v =>
      decide (laneVal v.2 c.lane ≠ c.scalar 0x106 false 0x12)) = true ∧
    meets (.waitv { waitF with hdr := { la := 1 } }) ready (fun c => c.act ≠ 0 && (loads? c waitArgs 0 false (c.addresses waitF true)).any fun v =>
      laneVal v.2 c.lane = c.scalar 0x106 false 0x12) = true := by decide +kernel

/-- The hood of `ready` waiting as `x` says. -/
def waitingAt (x : Wait) : State := ready.modWarp 0 0 fun w => w.waitHood 0 x
def flight : InFlight := { pc := 0x10000, insn := 0, act := 1, data := 0, pieces := [] }
theorem witness_hoods_that_wait :
    (((waitingAt (.value flight)).warp? 0 0).any fun w => w.hoodSlices 0 ≠ [] && (w.slice (keyOf (w.hoodSlices 0))).wait = .value flight &&
      w.parked.isEmpty) = true ∧
    (((ready.modFlights 0 0 fun _ => [{ hood := 0, lanes := 1, x := flight, value := true }]).warp? 0 0).any fun w =>
      w.flights.any fun x => x.hood = 0 && x.value) = true ∧
    ((waitingAt (.band flight)).waits ⟨0, 0, 0⟩ fun x => match x with | .band _ => true | _ => false) = true ∧
    ((waitingAt (.ringResv flight)).waits ⟨0, 0, 0⟩ fun x => match x with | .ringResv _ => true | _ => false) = true ∧
    ((waitingAt (.ringCommit flight)).waits ⟨0, 0, 0⟩ fun x => match x with | .ringCommit _ => true | _ => false) = true ∧
    ((waitingAt (.ringAcq flight)).waits ⟨0, 0, 0⟩ fun x => match x with | .ringAcq _ => true | _ => false) = true ∧
    ((waitingAt (.ringFree flight)).waits ⟨0, 0, 0⟩ fun x => match x with | .ringFree _ => true | _ => false) = true ∧
    (((waitingAt (.event 255 true)).warp? 0 0).any fun w => w.hoodSlices 0 ≠ [] && (w.slice (keyOf (w.hoodSlices 0))).wait = .event 255 true) = true := by
  decide +kernel

/-! ### Bands, rings and phases -/

def spF : FormM := { a := 0x108, s := 0x105, space := 1 }
def banded : State := { (withS [(5, 1)]) with store := ready.store.write scratchKeys 32 Band.init.toNat }
def isOk (r : Except FaultRec Nat) : Bool := match r with | .ok _ => true | .error _ => false
/-- The key of the object that an instruction names. -/
def keyIs (c : Issue) (f : FormM) (n align sub : Nat) (p : Nat → Bool) : Bool :=
  match c.objectKey f n align sub with | .ok k => p k | .error _ => false
theorem witness_bands :
    meets (.bandi { a := 0x108, space := 1 }) ready (fun c => c.act ≠ 0 && keyIs c { a := 0x108, space := 1 } 32 32 3 fun k => !c.s.scoreHolds true k 32) = true ∧
    meets (.banda spF) banded (fun c => c.act ≠ 0 && decide (c.scalar spF.s false 1 ≠ 0) && keyIs c spF 32 32 3 fun k =>
      !c.s.scoreHolds true k 32 && decide ((c.s.band k).magic = bandMagic)) = true ∧
    meets (.banda spF) (withS [(5, 1)]) (fun c => c.act ≠ 0 && decide (c.scalar spF.s false 1 ≠ 0) && keyIs c spF 32 32 3 fun k =>
      !c.s.scoreHolds true k 32 && decide ((c.s.band k).magic ≠ bandMagic)) = true := by decide +kernel
theorem witness_band_arming :
    meets (.bandx { spF with d := 0x106 }) (banded.modWarp 0 0 fun w => w.setS 0 6 0x7FE00) (fun c => c.act ≠ 0 &&
      decide (c.scalar 0x106 false 1 % 512 = 0 ∧ c.scalar 0x106 false 1 < 0x80000) && keyIs c { spF with d := 0x106 } 32 32 3 fun k =>
        !c.s.scoreHolds true k 32 && decide ((c.s.band k).magic = bandMagic)) = true ∧
    meets (.bandw { spF with d := 0x104 }) (banded.modWarp 0 0 fun w => w.setS 0 5 255) (fun c => c.act ≠ 0 && decide (c.scalar spF.s false 1 ≤ 255) &&
      keyIs c { spF with d := 0x104 } 32 32 3 fun k => !c.s.scoreHolds false k 32 && decide ((c.s.band k).magic = bandMagic) &&
        !(c.s.band k).completed (c.scalar spF.s false 1)) = false ∧
    meets (.bandw { spF with d := 0x104 }) (banded.modWarp 0 0 fun w => w.setS 0 5 0) (fun c => c.act ≠ 0 && keyIs c { spF with d := 0x104 } 32 32 3 fun k =>
        !c.s.scoreHolds false k 32 && (c.s.band k).completed (c.scalar spF.s false 1)) = true ∧
    meets (.bandt { d := 0x303, a := 0x108, s := 5, space := 1 }) banded (fun c => c.act ≠ 0 && keyIs c { d := 0x303, a := 0x108, s := 5, space := 1 } 32 32 3 fun k =>
        !c.s.scoreHolds false k 32 && decide ((c.s.band k).magic = bandMagic)) = true := by decide +kernel
theorem witness_band_bounds : (let b : Band := { expect := 2 ^ 32 - 1, arrived := 2 ^ 32 - 2, done := 255, magic := bandMagic, err := 0, chunks := 0 }
    b.expect < 2 ^ 32 ∧ b.done < 256 ∧ b.magic < 2 ^ 24 ∧ 0 < b.expect ∧ b.arrived + 1 = b.expect ∧ b.arrived + 1 ≤ 0xFFFFFFFF ∧ 0xFFFFFFFF < b.arrived + 2) := by
  decide

/-- A ring header of depth 2 and 16-byte slots in the scratchpad: not live, or live with one slot taken and one filled. -/
def ringHead (live : Nat) (tail rsv acq : Nat) : Nat :=
  0x20000 + 2 ^ 64 + 2 * 2 ^ 80 + 0 * 2 ^ 96 + 2 * 2 ^ 112 + tail * 2 ^ 160 + 0xFFFF * 2 ^ 192 + live * 2 ^ 208 + rsv * 2 ^ 224 + acq * 2 ^ 256
def ringed (live tail rsv acq : Nat) (regs : List (Nat × Word)) : State :=
  { (withS regs) with store := ready.store.write scratchKeys 64 (ringHead live tail rsv acq) }
def ringF : FormM := { d := 0x104, a := 0x108, s := 0x106, space := 1 }
def ringMeets (i : Instr) (f : FormM) (s : State) (p : Issue → Ring → Bool) : Bool :=
  meets i s fun c => c.act ≠ 0 && keyIs c f 64 64 5 fun k => !c.s.scoreHolds true k 64 && p c (Ring.ofNat (c.s.store.read k 64))
theorem witness_rings :
    (let f := { ringF with s := 0x180 }
     ringMeets (.qinitInit f) f (ringed 0 0 0 0 []) fun c r => !r.live && !r.bad && ((List.range 64).find? fun i =>
       !(c.s.ringIndices c.w.ctx (dieOfCore c.w.core)).contains i).isSome) = true ∧
    (let f := { ringF with s := 0x181 }
     ringMeets (.qinitFini f) f (ringed 1 0 0 0 []) fun _ r => r.live) = true ∧
    (let f := { ringF with s := 0x1FF }
     ringMeets (.qputResv f) f (ringed 1 0 1 0 []) fun _ r => r.live && decide (ctrSub r.rsv r.head < r.depth)) = true ∧
    (let f := { ringF with s := 0x1FF }
     ringMeets (.qputResv f) f (ringed 1 0 2 0 []) fun _ r => r.live && decide (¬ctrSub r.rsv r.head < r.depth)) = true := by decide +kernel
theorem witness_ring_slots :
    (let f : FormM := { a := 0x108, s := 0x106, ord := 2, space := 1 }
     ringMeets (.qputCommit f) f (ringed 1 0 1 0 [(6, 0x20000)]) fun c r => r.live && (r.find r.tail (ctrSub r.rsv r.tail) (c.scalar f.s true 3)).isSome) = true ∧
    (let f := { ringF with s := 0x1FF, ord := 1 }
     ringMeets (.qgetAcq f) f (ringed 1 1 1 0 []) fun _ r => r.live && decide (0 < ctrSub r.tail r.acq)) = true ∧
    (let f : FormM := { a := 0x108, s := 0x106, space := 1 }
     ringMeets (.qgetFree f) f (ringed 1 1 1 1 [(6, 0x20000)]) fun c r => r.live && (r.find r.head (ctrSub r.acq r.head) (c.scalar f.s true 3)).isSome) = true ∧
    (let r := Ring.ofNat (ringHead 1 0 0 0)
     2 ≤ r.depth ∧ r.base + r.depth * r.slotBytes ≤ 2 ^ 64 ∧ 1 - 0 < r.depth) := by decide +kernel

/-- The hood of `ringed` waiting at a ring instruction whose slot address is that of slot 0. -/
def ringWaiting (opc : Nat) (f : FormM) (x : InFlight → Wait) (s : State) : State :=
  s.modWarp 0 0 fun w => w.waitHood 0 (x { flight with insn := encodeForm opc (.m f), data := (packSources w opc (.m f)).1 })
/-- Whether it would go on with a live ring of which `p` holds. -/
def ringReturns (f : FormM) (s : State) (p : Issue → Ring → Bool) : Bool :=
  (s.keptIssue 0 0 0).any fun x => x.1.act ≠ 0 && keyIs x.1 f 64 64 5 fun k => !x.1.s.scoreHolds true k 64 &&
    (let r := Ring.ofNat (x.1.s.store.read k 64); r.live && p x.1 r)
theorem witness_ring_returns :
    (let f := { ringF with s := 0x1FF }
     ringReturns f (ringWaiting 0x10B f .ringResv (ringed 1 0 1 0 [])) fun _ r => decide (ctrSub r.rsv r.head < r.depth)) = true ∧
    (let f : FormM := { a := 0x108, s := 0x106, ord := 2, space := 1 }
     ringReturns f (ringWaiting 0x10B f .ringCommit (ringed 1 0 1 0 [(6, 0x20000)])) fun c r =>
       r.find r.tail (ctrSub r.rsv r.tail) (c.scalar f.s true 3) = some r.tail) = true ∧
    (let f := { ringF with s := 0x1FF, ord := 1 }
     ringReturns f (ringWaiting 0x10C f .ringAcq (ringed 1 1 1 0 [])) fun _ r => decide (ctrSub r.tail r.acq ≠ 0)) = true ∧
    (let f : FormM := { a := 0x108, s := 0x106, space := 1 }
     ringReturns f (ringWaiting 0x10C f .ringFree (ringed 1 1 1 1 [(6, 0x20000)])) fun c r =>
       r.find r.head (ctrSub r.acq r.head) (c.scalar f.s true 3) = some r.head) = true := by decide +kernel

/-- A gang of a phased launch, with a phase pool that has room or none. -/
def phased (pool : Nat) : State := { ready with
  sched := { ready.sched with gangs := ready.sched.gangs.map fun g => { g with phased := true } }
  contexts := ready.contexts.map fun c => { c with poolSize := [pool, 0, 0, 0] } }
def spawnF : FormA := { d := 0x104, s1 := 0x106, s2 := 0x1FF, s3 := 0x105 }
def spawns (room : Bool) (c : Issue) : Bool := c.act ≠ 0 && decide (c.scalar spawnF.s3 false 1 ≤ 63) && c.w.parked.isEmpty &&
  (c.s.gang? c.w.gang).any fun g => (g.phased || g.triggered) && c.s.poolRoom g.ctx g.die headerRecord = room
theorem witness_spawn : meets (.spawn spawnF) ((phased 0x10000).modWarp 0 0 fun w => w.setS 0 5 63) (spawns true) = true ∧
    meets (.spawn spawnF) (phased 0) (spawns false) = true := by decide +kernel

/-! ### Layouts, copies and products -/

/-- A layout record of 128 words in one line of elements (R340, R342). -/
def layoutRec (base : Nat) : Nat :=
  base + 0x32 * 2 ^ 64 + (128 + 2 ^ 32 + 2 ^ 64 + 2 ^ 96 + 2 ^ 128) * 2 ^ 128 + (128 + 2 ^ 16 + 2 ^ 32 + 2 ^ 48 + 2 ^ 64) * 2 ^ 288 +
    0x4688 * 2 ^ 368 + (512 + 512 * 2 ^ 64 + 512 * 2 ^ 128 + 512 * 2 ^ 192) * 2 ^ 384 + (base + 512) * 2 ^ 640
def scratchVa : Nat := 0xFE00000000001000
def layoutArgs : PrepArgs := { n := 128, acc := .read, align := 128, useL1 := true }
def xlayState (r : Nat) : State := { (withM [(6, 0x20000), (8, 4095)]) with store := mapped.store.write 0x20000 128 r }
def xlays (f : FormA) (p : Nat → Bool) (c : Issue) : Bool := c.act ≠ 0 &&
  (loads? c layoutArgs 0 true [(c.lane, BitVec.ofNat 64 (c.scalar f.s1 true 3))]).any fun v => p (Layout.ofRec (BitVec.ofNat 1024 (laneVal v.2 c.lane))).status
theorem witness_layouts : let new : FormA := { d := 0x104, s1 := 0x106 }
    meets (.xlayNew new) (xlayState (layoutRec 0x30000)) (fun c => xlays new (fun st => st = 0) c && (freeHandle c.layouts).isSome) = true ∧
    meets (.xlayNew new) (xlayState 0) (xlays new fun st => st ≠ 0) = true ∧
    meets (.xlaySet { new with sub := 1, s2 := 0x108 }) (xlayState (layoutRec 0x30000)) (fun c => xlays new (fun st => st = 0) c &&
      decide (c.scalar 0x108 false 1 ≤ 4095)) = true := by decide +kernel

/-- A context with two layouts, one of mapped memory and one of the own scratchpad, and the copy from the one to the other. -/
def copying : State := { (withM [(5, 0x10000)]) with
  contexts := mapped.contexts.map fun c => { c with layouts := [(0, BitVec.ofNat 1024 (layoutRec 0x30000)), (1, BitVec.ofNat 1024 (layoutRec scratchVa))] } }
def copyF : FormX := { d := 0x104, s1 := 0x105, s2 := 0x110, s3 := 0x118, s4 := 0x180 }
def planned (c : Issue) : Bool :=
  match c.layouts.lookup (c.scalar copyF.s1 false 1 % 65536), c.layouts.lookup (c.scalar copyF.s1 false 1 / 65536) with
  | some src, some dst => match c.s.checkCopy c.w ⟨Layout.ofRec src, Layout.ofRec dst, 0, c.five copyF.s2, c.five copyF.s3⟩ 0 0 with
    | .ok p => (p.arr.map Prod.snd).sum = 512
    | .error _ => false
  | _, _ => false
theorem witness_copy : meets (.xcopy copyF) copying (fun c => c.act ≠ 0 && planned c) = true := by decide +kernel

/-- The state after the copy has been issued: its next chunk can be read and written. -/
def issued : State := match exec (.xcopy copyF) copying with | .next t => t | _ => ready
def chunkReady (c : Copy) : Bool :=
  c.taken && !c.heldSave && !issued.copyHeld c 0x09 && c.spilled.isEmpty && !c.heldSrc && !c.heldFull &&
  c.nextChunk.any fun k => match (issued.traceCopy c).readChunk c k with
    | .data u d => (match u.writeChunk c k d with | .done _ => true | _ => false)
    | _ => false

def copyOf : Copy := (issued.copy? 1).getD { id := 0, core := 0, slot := 0, widx := 0, gang := 0, pos := 0, ctx := 0, srec := 0, drec := 0, sc := [], dc := [], xop := 0, mcast := 0, rnd := 0, ch := 0, band := 0, pc := 0, mode := 0, number := 0, receivers := [], scratch := false }
theorem witness_chunk : (issued.copy? 1).any chunkReady = true := by decide +kernel
def spilled : State := issued.modCopy 1 fun c => { c with spilled := [{ chunk := 35747322042253320, batch := 1, va := 0x30000, ready := true, data := {} }] }
theorem witness_spill : ((spilled.copy? 1).any fun c => c.taken && !c.heldSave && !spilled.copyHeld c 0x09 && (c.spilled.find? fun x => x.ready).isSome) = true ∧
    spilled.spillOf 0 + 512 ≤ Config.spillBytes := by decide +kernel
def chunkWritten : State := issued.modCopy 1 fun c => { c with written := [35747322042253320] }
theorem witness_landing : ((chunkWritten.copy? 1).any fun c => c.taken && !c.heldSave && c.written.contains 35747322042253320 &&
    (chunkWritten.eng.pend.all fun o => !(o.write && o.copy = 1 && o.chunk = 35747322042253320)) && c.receivers.contains 0 && !c.landed.contains (0, 35747322042253320) &&
    (c.arr.any fun x => x.1 = 35747322042253320) && !chunkWritten.copyHeld c 0x0A && (chunkWritten.copyBlock? c 0).isSome) = true := by decide +kernel
def copyWaits : State := issued.modWarp 0 0 fun w => w.waitHood 0 (.copy 1)
theorem witness_copy_accepted : ((copyWaits.warp? 0 0).any fun w => (w.slice (keyOf (w.hoodSlices 0))).wait = .copy 1) = true ∧
    (copyWaits.copy? 1).any copyWaits.copyRoom = true := by decide +kernel
theorem witness_engine_reset : (1 : Nat) ≠ 0 ∧ ({ issued with hub := { issued.hub with holder := 1 } } : State).hub.holder = 1 := by decide

/-- The first example of chapter 15: one column of an MXFP8 by MXFP4 product. -/
def lineB : Nat := (List.range 32).foldl (fun a i => a + 0x22 * 256 ^ i) 0
def lanesOf (x : Nat) : VReg := BitVec.ofNat 3072 ((List.range 96).foldl (fun a i => a + x * 2 ^ (32 * i)) 0)
def scalesOf (x : Nat) : KReg := BitVec.ofNat 192 ((List.range 4).foldl (fun a i => a + (x * 256 ^ i) * (1 + 2 ^ 64 + 2 ^ 128)) 0)
def productState : State := { (ready.modWarp 0 0 fun w =>
    { ((((((w.putV 16 (lanesOf 0x38383838)).putV 24 (lanesOf 0x38383838)).putK 16 (scalesOf 0x7F)).putK 24 (scalesOf 0x80)).putV 40 (lanesOf 0x41200000)).setS 0 8 0x1000) with
      mshape := 0x0000020C0010008C }) with
  store := { ready.store with mem := (ready.store.write (scratchKeys + 0x1000) 128 lineB).mem, tags := [((scratchKeys + 0x1000) / 128, 0x7E7F)] } }
def mmaF : FormX := { d := 40, s1 := 16, s2 := 0x108, s3 := 0x1FF, xf := 0x2000 }
def nextOf (i : Instr) (s : State) : State := match exec i s with | .next t => t | _ => State.reset
def productTaken : State := nextOf (.mma mmaF) productState
def productStarted : State := nextOf (.mmaStart 0) productTaken
/-- The product that has started, with the operands that the unit has read. -/
def productRead : Option Product := (productStarted.openProducts 0 none).head?.bind fun p => (productStarted.warp? p.core p.slot).map (productStarted.readProduct p)
theorem test_matrix_product : productRead.map (fun p => (p.run 0 0 (p.acc0 0 0) 0 p.steps, p.rows)) = some ((0x42940000, 0), 0xFFF) := by decide +kernel
theorem witness_products :
    meets (.mma mmaF) productState (fun c => c.waiting.atCollective && (c.whole.product mmaF false).fault? c.w.vrc (((c.s.blockOf? c.w).map Block.scratch).getD 0) = none &&
      decide ((c.s.openProducts c.w.core none).length < 16 ∧ (c.s.openProducts c.w.core (some c.w.slot)).length < 8)) = true ∧
    (let f : FormX := { d := 40, s1 := 0x108, s2 := 0x108, s3 := 0x1FF, s4 := 0x1FF }
     meets (.dmma f) (productState.modWarp 0 0 fun w => { w with mshape := 0x000001080002008C }) (fun c => c.waiting.atCollective &&
      (c.whole.product f true).fault? c.w.vrc (((c.s.blockOf? c.w).map Block.scratch).getD 0) = none)) = true := by decide +kernel
theorem witness_shapes :
    meets (.mshape { s1 := 0x106 }) (withS [(6, 0x01FFFFFF), (7, 0x3FF)]) (fun c => c.waiting.atCollective &&
      decide (BitVec.ofNat 64 (c.whole.scalar 0x106 true 2) &&& ~~~mshapeMask = 0#64)) = true ∧
    meets (.mmaw { s1 := 0x105 }) (withS [(5, 7)]) (fun c => c.waiting.atCollective && decide (c.scalar 0x105 false 1 ≤ 7 ∧
      (c.s.openProducts c.w.core (some c.w.slot)).length ≤ c.scalar 0x105 false 1 ∧ (c.s.reportProducts c.w.core c.w.slot).2 = 0#96)) = true ∧
    meets (.mmaw { s1 := 0x180 }) { productStarted with cur := ⟨0, 0, 0⟩ } (fun c => c.waiting.atCollective && decide (0 < (c.s.openProducts c.w.core (some c.w.slot)).length)) = true ∧
    meets (.mzero { d := 4, s1 := 0x105, ty := 9 }) (withS [(5, 32)]) (fun c => decide (c.scalar 0x105 false 1 ≤ 32 ∧ 4 + 64 ≤ c.w.vrc) &&
      (c.s.openProducts c.w.core (some c.w.slot)).isEmpty) = true ∧
    meets (.mfence {}) ready (fun c => c.w.parked.isEmpty) = true := by decide +kernel
theorem witness_product_events :
    ((productTaken.openProducts 0 none).find? fun p => !p.started).any (fun p => (productTaken.openProducts 0 none).all (fun q => !q.started) &&
      !productTaken.traceHeld 0 (((productTaken.warp? p.core p.slot).map Warp.ctx).getD 0) 0x0C p.lossless) = true ∧
    ((productStarted.openProducts 0 none).head?).any (fun p => p.started && (productStarted.warp? p.core p.slot).isSome) = true ∧
    (((waitingAt (.products 7)).warp? 0 0).any fun w => (w.slice (keyOf w.liveSlices)).wait = .products 7) = true ∧
    ((waitingAt (.products 7)).openProducts 0 (some 0)).length ≤ 7 ∧ ((waitingAt (.products 7)).reportProducts 0 0).2 = 0#96 := by decide +kernel
theorem witness_completed_product : ((productStarted.openProducts 0 none).head?).any (fun p => (productStarted.warp? p.core p.slot).any fun w =>
    p.started && (p.dSpan.all fun r => (p.since w r).all RegPast.unit) && productStarted.recs.isEmpty) = true := by decide +kernel
/-- A line written after a product was accepted, and one written before it with no MFENCE between. -/
def pastAt (n : Nat) : PastWrite := { line := 7, mask := 0, data := 0, at_ := n, oldData := 1, oldTag := 2, oldPoison := 0 }
theorem witness_line_contents : let s : State := { ready with store := { ready.store with past := [pastAt 9] } }
    pastAt 9 ∈ s.store.past ∧ (productRead.any fun r =>
      let p : Product := { r with fence := 9, fences := [9, 10] }
      p.mayMiss (pastAt 9) && !p.mayMiss (pastAt 8) && p.mayMiss { pastAt 9 with by_ := some (p.core, p.slot, 1) } &&
        !p.mayMiss { pastAt 9 with by_ := some (p.core, p.slot, 0x10) }) = true ∧ ready.store.past = [] := by decide +kernel
theorem test_two_missed_writes : let y : PastWrite := { pastAt 10 with mask := 2, data := 0x500 }
    let s : State := { ready with store := { ready.store with past := [pastAt 9, y] } }
    (productRead.any fun r => let p : Product := { r with fence := 9 }
      p.mayMiss (pastAt 9) && p.mayMiss y && (s.lineWith p 0 7 fun j => j = 1).data = 0x501) = true := by decide +kernel
/-! ### Traps, special registers, events, trace and frames -/

theorem witness_return : ((ready.warp? 0 0).any fun w => w.drained && w.parked.isEmpty) = true ∧ ready.hasAccess 0 0 = false ∧
    meets (.tret {}) ready (fun c => c.act ≠ 0) = true := by decide +kernel

/-! The handler's premises: a warp with a handler at VA 0x10000 and a save area. -/

def handled : State := mapped.modWarp 0 0 fun w => { w with tvec := 0x10000 }
def entryOf : Entry := { recs := [], reason := 1, pc := 0x10000 }

/-- A and D bits set, and stores with no watch and no migration about, change the storage and, of the caches, what walks may still read. -/
def Quiet (s t : State) : Prop := ∃ x y, t = { s with store := x, caches := y }
theorem quiet_refl (s : State) : Quiet s s := ⟨s.store, s.caches, rfl⟩
theorem quiet_trans {s t u : State} (h : Quiet s t) (g : Quiet t u) : Quiet s u := by
  obtain ⟨x, y, rfl⟩ := h
  obtain ⟨x', y', rfl⟩ := g
  exact ⟨x', y', rfl⟩
theorem notePtes_quiet {s t : State} (u : State) (l : Nat) (h : Quiet s t) : Quiet s (u.notePtes t l) := by
  obtain ⟨x, y, rfl⟩ := h
  unfold State.notePtes
  dsimp only
  split
  · exact ⟨x, y, rfl⟩
  · exact ⟨x, _, rfl⟩

theorem writeLine_quiet {s t : State} (l : Nat) (mask : BitVec 128) (d : LineData) (depth : Nat) (h : s.sched.watches = []) (m : s.eng.migs = [])
    (f : s.eng.fields = []) (q : Quiet s t) : Quiet s (t.writeLine l mask d depth) := by
  obtain ⟨x, y, rfl⟩ := q
  generalize e : ({ s with store := x, caches := y } : State) = t
  have h' : t.sched.watches = [] := by rw [← e]; exact h
  have m' : t.eng.migs = [] := by rw [← e]; exact m
  have f' : t.eng.fields = [] := by rw [← e]; exact f
  have q' : Quiet s t := ⟨x, y, e.symm⟩
  clear e
  have store : ∀ (u : State) (g : Store → Store), Quiet s u → Quiet s (u.modStore g) := by
    rintro _ g ⟨x, y, rfl⟩
    exact ⟨g x, y, rfl⟩
  unfold State.writeLine
  rw [show (t.modStore fun m => m.writeLine l mask d).settleFields l mask = t.modStore fun m => m.writeLine l mask d by
    unfold State.settleFields; rw [if_pos (by simp [State.modStore, f'])]]
  dsimp only
  split
  · exact store _ _ (store _ _ q')
  · have n := notePtes_quiet t l (store t (fun m => m.writeLine l mask d) q')
    have w : ∀ u, Quiet s u → u.sched.watches = [] ∧ u.eng.migs = [] := by
      rintro _ ⟨x, y, rfl⟩
      exact ⟨h, m⟩
    generalize t.notePtes (t.modStore fun m => m.writeLine l mask d) l = u at n
    have e : u.markDirty l = u := by
      unfold State.markDirty
      split
      · simp only [State.modEng, (w u n).2, List.map_nil]
        rw [← (w u n).2]
      · rfl
    rw [e]
    unfold State.compareLine
    split
    · exact n
    · rw [(w u n).1]
      exact n

theorem writeKey_quiet {s t : State} (k n v depth : Nat) (h : s.sched.watches = []) (m : s.eng.migs = []) (f : s.eng.fields = [])
    (q : Quiet s t) : Quiet s (t.writeKey k n v depth) := by
  unfold State.writeKey
  generalize List.range (n / 128 + 2) = l
  induction l generalizing t with
  | nil => exact q
  | cons i l ih =>
    simp only [List.foldl_cons]
    apply ih
    split
    · exact writeLine_quiet _ _ _ _ h m f q
    · exact q

theorem setAD_quiet {s t : State} (pa : Nat) (d : Bool) (h : s.sched.watches = []) (m : s.eng.migs = []) (f : s.eng.fields = [])
    (n : s.hub.snoop = []) (q : Quiet s t) : Quiet s (t.setAD pa d) := by
  have n' : t.hub.snoop = [] := by obtain ⟨x, y, rfl⟩ := q; exact n
  unfold State.setAD
  rw [n']
  generalize useBits d = bits
  split
  · exact q
  · rw [if_neg (by simp)]
    obtain ⟨x, y, e⟩ := writeKey_quiet pa 8 (t.pteNow pa ||| bits).toNat 1 h m f q
    rw [e]
    exact ⟨x, _, rfl⟩

theorem hubWrite_quiet {s t : State} (w : LateWrite) (h : s.sched.watches = []) (m : s.eng.migs = []) (f : s.eng.fields = [])
    (n : s.hub.snoop = []) (l : s.hub.late = []) (a : w.after = []) (q : Quiet s t) : Quiet s (t.hubWrite w) := by
  have n' : t.hub.snoop = [] := by obtain ⟨x, y, rfl⟩ := q; exact n
  have l' : t.hub.late = [] := by obtain ⟨x, y, rfl⟩ := q; exact l
  unfold State.hubWrite State.lateReady State.hostLines
  rw [n', l', a, if_pos (by simp)]
  exact writeKey_quiet _ _ _ _ h m f q

theorem deviceWrite_alone (s : State) (ctx va n v : Nat) (pin : Bool) (h : s.sched.watches = []) (m : s.eng.migs = []) (f : s.eng.fields = [])
    (hs : s.hub.snoop = []) (hl : s.hub.late = []) (p : (s.deviceSpan ctx va n pin).isSome = true) : ∃ t, s.deviceWrite ctx va n v pin = some t ∧ Quiet s t := by
  obtain ⟨l, e⟩ := Option.isSome_iff_exists.1 p
  unfold State.deviceWrite
  rw [e]
  refine ⟨_, rfl, ?_⟩
  have marked : Quiet s (s.markPages ctx va n true) := by
    unfold State.markPages
    generalize List.range (n / 2 ^ 16 + 2) = r
    suffices ∀ t, Quiet s t → Quiet s (r.foldl (fun t i =>
        let lo := max va (2 ^ 16 * (va / 2 ^ 16 + i))
        if lo < va + n then
          match t.translateBare ctx lo (if true then .write else .read) with
          | .ok (_, lf) => t.setAD (t.relayPa lf.pa) true
          | .error _ => t
        else t) t) from this s (quiet_refl s)
    induction r with
    | nil => exact fun t q => q
    | cons i r ih =>
      intro t q
      simp only [List.foldl_cons]
      apply ih
      split
      · split
        · exact setAD_quiet _ _ h m f hs q
        · exact q
      · exact q
  clear e
  generalize s.markPages ctx va n true = t at marked
  induction l generalizing t with
  | nil => exact marked
  | cons i l ih => exact ih _ (hubWrite_quiet _ h m f hs hl rfl marked)

theorem writeFrame_alone (s : State) (w : Warp) (reason : Nat) (pc : DWord) (h : s.sched.watches = []) (m : s.eng.migs = [])
    (f : s.eng.fields = []) (u : s.upsets = []) (hs : s.hub.snoop = []) (hl : s.hub.late = [])
    (p : ((s.ctx? w.ctx).any fun c => (s.deviceSpan w.ctx (c.warpSlot w.frameSlot) (frameBytes w.vrc) true).isSome) = true) :
    ∃ t, s.writeFrame w reason pc = .ok t ∧ Quiet s t := by
  have k : s.checkWords w.core w.slot (fun _ => true) = some s := by unfold State.checkWords; rw [u]; rfl
  unfold State.writeFrame
  rw [k]
  match e : s.ctx? w.ctx with
  | none => simp [e] at p
  | some c =>
    obtain ⟨t, ht, q⟩ := deviceWrite_alone s w.ctx (c.warpSlot w.frameSlot) (frameBytes w.vrc)
      (fieldsValue (w.rewound.frameFields s.free reason pc (((s.gang? w.gang).map Gang.phaseReg).getD 0)
        (((s.gang? w.gang).map fun g => if g.phased || g.triggered then g.sq else 0).getD 0))) true h m f hs hl (by simpa [e] using p)
    exact ⟨t, by simp only [State.writeFields, ht]; simp [u], q⟩

/-- A warp with a handler and nothing under way, whose frame can be written. -/
theorem witness_handler : ∃ (w : Warp) (t : State), handled.warp? 0 0 = some w ∧ w.entry = none ∧ w.drained = true ∧ handled.hasAccess 0 0 = false ∧
    handled.hasProducts 0 0 = false ∧
    w.handler = false ∧ w.tvec ≠ 0 ∧
    ((handled.modWarp 0 0 fun x => { x with entry := some entryOf }).writeBatch w.ctx (.warp 0 0) []).writeFrame { w with entry := some entryOf } 1 0x10000 = .ok t ∧
    ∃ x, t.warp? 0 0 = some x := by
  have a : ((handled.warp? 0 0).any fun w => w.entry.isNone && w.drained && !w.handler && decide (w.tvec ≠ 0) &&
      (let s := (handled.modWarp 0 0 fun x => { x with entry := some entryOf }).writeBatch w.ctx (.warp 0 0) []
       s.sched.watches.isEmpty && s.eng.migs.isEmpty && s.eng.fields.isEmpty && s.upsets.isEmpty && s.hub.snoop.isEmpty && s.hub.late.isEmpty && (s.warp? 0 0).isSome &&
       (s.ctx? w.ctx).any fun c => (s.deviceSpan w.ctx (c.warpSlot w.frameSlot) (frameBytes w.vrc) true).isSome)) = true := by decide +kernel
  obtain ⟨w, e, a⟩ := (Option.any_eq_true _ _).1 a
  simp only [Bool.and_eq_true, decide_eq_true_eq, Option.isNone_iff_eq_none, List.isEmpty_iff, Bool.not_eq_true'] at a
  obtain ⟨⟨⟨⟨a1, a2⟩, a3⟩, a4⟩, ⟨⟨⟨⟨⟨⟨b1, b2⟩, b3⟩, b4⟩, b7⟩, b8⟩, b5⟩, b6⟩ := a
  obtain ⟨t, ht, x, y, rfl⟩ := writeFrame_alone _ { w with entry := some entryOf } 1 0x10000 b1 b2 b3 b4 b7 b8 b6
  exact ⟨w, _, e, a1, a2, by decide +kernel, by decide +kernel, a3, a4, ht, Option.isSome_iff_exists.1 b5⟩

theorem witness_no_handler : ((mapped.warp? 0 0).any fun w => w.entry.isNone && w.drained && w.tvec = 0) = true ∧ mapped.hasAccess 0 0 = false ∧ mapped.hasProducts 0 0 = false ∧
    ((ready.warp? 0 0).any fun w => w.entry.isNone && w.drained && w.handler) = true := by decide +kernel

theorem witness_special_registers :
    let mode := fun (c : Issue) => BitVec.ofNat 32 (c.scalar 0x104 false 1)
    meets (.srset { s1 := 0x104, imm := 0x0E }) (withS [(4, 0x1FFE)]) (fun c => c.act ≠ 0 && decide (mode c &&& 0xFFFFE000 = 0 ∧ mode c &&& 7 ≠ 0 ∧ mode c &&& 7 ≠ 7)) = true ∧
    meets (.srset { s1 := 0x104, imm := 0x0E }) (withS [(4, 1)]) (fun c => decide (mode c &&& 0xFFFFE000 = 0 ∧ mode c &&& 7 ≠ 0 ∧ mode c &&& 7 ≠ 7)) = true ∧
    [(0 : Word), 7, 0x2001].all (fun x => meets (.srset { s1 := 0x104, imm := 0x0E }) (withS [(4, x)]) (fun c => c.act ≠ 0 &&
      decide (mode c &&& 0xFFFFE000 ≠ 0 ∨ mode c &&& 7 = 0 ∨ mode c &&& 7 = 7))) = true ∧
    [(0x0F : Word), 0x10, 0x16, 0x1B].all (fun n => meets (.srset { s1 := 0x104, imm := n }) ready fun c => c.act ≠ 0) = true := by decide +kernel
theorem witness_special_reads : [(0 : Word), 1].all (fun n => meets (.srget { d := 4, imm := n }) ready fun c => c.act ≠ 0) = true ∧
    [(2 : Word), 0x10, 0x1D].all (fun n => meets (.srget { d := 0x104, imm := n }) ready fun c => c.act ≠ 0) = true ∧
    meets (.srget { d := 0x104, imm := 0x0F }) ready (fun c => c.act ≠ 0 && !c.w.bandwOut) = true ∧
    meets (.srget { d := 0x104, imm := 0x0F })
      (ready.modWarp 0 0 fun w => { w with log := [{ ctl := 1, insn := encodeForm 0x103 (.m { a := 0x108, space := 1 }), pc := 0x10040, lanes := 1 }] })
      (fun c => c.act ≠ 0 && c.w.bandwOut) = true := by decide +kernel

theorem witness_events :
    meets (.evset { d := 0x104, s1 := 0x105 }) (withS [(5, 255)]) (fun c => c.act ≠ 0 && decide (c.scalar 0x105 false 1 ≤ 255) && c.w.parked.isEmpty) = true ∧
    meets (.evsetImm { d := 0x104, imm := 255 }) ready (fun c => c.act ≠ 0 && c.w.parked.isEmpty) = true ∧
    meets (.evwait { s1 := 0x105 }) (withS [(5, 255)]) (fun c => c.act ≠ 0 && decide (c.scalar 0x105 false 1 ≤ 255)) = true := by decide +kernel
theorem witness_event_comes : let s := (waitingAt (.event 255 true)).modCtx 0 fun c => { c with events := 1 <<< 255 }
    ((s.ctx? 0).any fun k => k.events.getLsbD 255) = true ∧
    (s.warp? 0 0).any (fun w => w.hoodSlices 0 ≠ [] && (w.slice (keyOf (w.hoodSlices 0))).wait = .event 255 true) = true := by decide +kernel
theorem witness_trace :
    meets (.trace { s1 := 0x104 }) ready (fun c => c.act ≠ 0 && !c.s.traceHeld (dieOfCore c.w.core) c.w.ctx 0x14 ((c.s.gang? c.w.gang).any Gang.lossless)) = true ∧
    meets (.trctlSet { d := 0x104, s1 := 0x105 }) (withS [(5, 0x00FFFFFE)]) (fun c => c.act ≠ 0 && decide (BitVec.ofNat 32 (c.scalar 0x105 false 1) &&& 0xFF000001 = 0)) = true ∧
    meets (.trctlFlush { sub := 1 }) ready (fun c => c.act ≠ 0 && c.s.staged.all fun r => decide (r.warp ≠ some c.w.identity)) = true := by decide +kernel

/-- The frame's premises: an instruction of each range completes with nothing under way, and its warp neither enters a handler nor halts. -/
def frames (i : Instr) (lo hi : Nat) : Bool :=
  (issueOf i mapped).any fun x => lo ≤ x.2.opc && x.2.opc ≤ hi && registerOnly x.2.opc x.2.form && x.1.windows.isEmpty && x.2.s.recs.isEmpty &&
    match exec i mapped with
    | .next t => (t.warp? mapped.cur.core mapped.cur.slot).any fun a => a.ctx = x.1.ctx && a.handler = x.1.handler && a.entry.isNone && !a.halted
    | _ => false
theorem witness_frames : frames (.nop {}) 0 0x03F = true ∧ frames (.sadd { d := 0x104, s1 := 0x105, s2 := 0x106 }) 0 0x03F = true ∧
    frames (.vadd { d := 4, s1 := 5, s2 := 6 }) 0x040 0x05F = true ∧ frames (.fadd { d := 4, s1 := 5, s2 := 6, s3 := 0x1FF, ty := 8 }) 0x060 0x08F = true ∧
    frames (.kmov { d := 0x204, s1 := 0x205 }) 0x090 0x099 = true := by decide +kernel

theorem witness_migration_request (h : Config.migQueueFull 0 = false) : mapped.pageLeaf 0 0x80000 = none ∧
    mapped.requestMove (mapped.movePages 0 0x80000 0x90000) none 0x1FF = (mapped, some 6) ∧
    (mapped.requestMove (mapped.movePages 0 0x30000 0x90000) none 0x1FF).2 = none := by
  have e : mapped.eng.migs.length = 0 := by decide +kernel
  refine ⟨by decide +kernel, ?_, ?_⟩
  · have p : mapped.pageLeaf 0 0x80000 = none := by decide +kernel
    simp [State.requestMove, State.moveStatus, State.movePages, p, e, h, migInvalid, migOk]
  · unfold State.requestMove State.moveStatus
    rw [e, h]
    decide +kernel
theorem witness_migr : meets (.migr { d := 0x104, s1 := 0x106, s2 := 0x108, s3 := 0x10A }) ready (fun c => c.act ≠ 0 && c.w.parked.isEmpty) = true ∧
    meets (.migrSwap { sub := 1, d := 0x104, s1 := 0x106, s2 := 0x108, s3 := 0x10A, s4 := 0x10B }) ready (fun c => c.act ≠ 0 && c.w.parked.isEmpty) = true := by
  decide +kernel

/-- A migration of the page at VA 0x30000, in its `passes`th pass. -/
def moving (passes : Nat) (dirty : List Nat) (cut : Bool) : State := { mapped with eng := { mapped.eng with
  migs := [{ id := 1, ctxP := 0, vaP := 0x30000, ptePa := 0x5018, oldFrame := 0x30000, newFrame := 0x90000, size := 65536, passes := passes, dirty := dirty, cut := cut, tf := 7 }]
  stubs := if cut then [{ die := 0, oldFrame := 0x30000, newFrame := 0x90000, gen := 0, size := 65536, ctx := 0, vpn := 3, due := 9 }] else [] } }
def migOf (s : State) (p : Migration → Bool) : Bool := (s.eng.migs.find? fun m => m.id = 1).any p
theorem witness_migration_passes : migOf (moving 3 [0x600] false) (fun m => !m.cut && decide (m.dirty ≠ [] ∧ m.passes < 4)) = true ∧
    migOf (moving 1 [] false) (fun m => !m.cut && m.dirty.isEmpty && m.swap.isNone) = true ∧
    migOf (moving 4 [0x600] false) (fun m => !m.cut && decide (4 ≤ m.passes)) = true ∧
    migOf (moving 4 [] true) (fun m => m.cut && (moving 4 [] true).eng.tfences.all fun x => decide (x.id ≠ m.tf)) = true := by decide +kernel
def stubbed (relays : Nat) : State := { moving 4 [] true with
  eng := { (moving 4 [] true).eng with stubs := (moving 4 [] true).eng.stubs.map fun t => { t with relays := relays } }
  dies := mapped.dies.map fun d => { d with tick := 9 } }
def stubOf (s : State) (p : Stub → Bool) : Bool := (s.eng.stubs.find? fun t => t.die = 0 && t.oldFrame = 0x30000).any p
theorem witness_stubs : stubOf (stubbed 0) (fun t => decide (t.due ≠ 0 ∧ t.due ≤ ((stubbed 0).die 0).tick) && (stubbed 0).stubClean t) = true ∧
    stubOf (stubbed 1) (fun t => decide (t.due ≠ 0 ∧ t.due ≤ ((stubbed 1).die 0).tick) && !(stubbed 1).stubClean t) = true := by decide +kernel
def fencing (l : List Nat) : State := { mapped with eng := { mapped.eng with
  tfences := [{ id := 5, ctx := 0, all := true, lo := 0, hi := 2 ^ 64, clusters := l, hood := none }] } }
theorem witness_tfence_answers : ((fencing [0, 1]).eng.tfences.any fun t => t.id = 5 && t.clusters.contains 1 && t.clusters.any (· ≠ 1)) = true ∧
    ((fencing [1]).eng.tfences.any fun t => t.id = 5 && t.clusters.contains 1 && t.clusters.all (· = 1)) = true := by decide

/-! ### Ownership, registers, bring-up and time -/

/-- The device after bring-up: four dies, master 1 its owner, stations with their links up. -/
def owned : State := { mapped with
  hub := { boot := 8, ready := true, closed := true, holder := 1, lease := 5 }
  dies := List.replicate 4 { present := true, tmHub := 4, tmLow := 12, tmHigh := 12 }
  stations := List.replicate 72 { up := true, lanes := 4 } }
/-- The same with no owner, and an election in which two claims stand. -/
def vacant : State := { owned with hub := { owned.hub with holder := 0, lease := 0 } }
def electing : State := { vacant with hub := { vacant.hub with elect := true, claims := [(1, 15), (3, 15)], osc := 1000000 } }
theorem witness_ownership : [1, 3].all vacant.reachable = true ∧ vacant.hub.holder = 0 ∧ owned.reachable 1 = true ∧ owned.hub.holder = 1 ∧ owned.reachable 3 = true ∧
    owned.hub.holder ≠ 3 ∧ electing.hub.elect = true ∧ electing.hub.claims ≠ [] ∧ electing.hub.electAt + 1000000 ≤ electing.hub.osc ∧
    ({ owned with hub := { owned.hub with lease := 0 } } : State).hub.lease = 0 := by decide +kernel

theorem witness_registers : (owned.ctx? 9).any Context.system = false ∧ owned.isOwner (.master 3) = false ∧ (MmioReg.podcfg ≠ .claim) ∧ owned.isOwner (.master 1) = true ∧
    (owned.mayWrite (.master 1) && owned.mayWrite (.warpOf 0)) = true ∧ (0 : Nat) < owned.dies.length ∧ (4 : Word).toNat % 8 ≠ (owned.die 0).carve ∧
    owned.carveFits 0 4 = true ∧ (5 : Word).toNat % 8 ≠ (owned.die 0).carve ∧ owned.carveFits 0 5 = false := by decide +kernel
def carving : State := { owned with dies := owned.dies.map fun d => { d with busy := true, carveTo := 4 } }
theorem witness_carve_change : 0 < carving.dies.length ∧ (carving.die 0).busy = true := by decide +kernel

def createTry (id : Word) : State := { owned with slots := [{ slot := 3, desc := [0, id] ++ List.replicate 30 0 }] }
theorem witness_contexts : ((createTry 7).slots.find? fun x => x.slot = 3).any (fun x => (createTry 7).createStatus x = 0) = true ∧
    ((createTry 0xFFFF).slots.find? fun x => x.slot = 3).any (fun x => decide ((createTry 0xFFFF).createStatus x ≠ 0)) = true ∧
    (owned.slotCtx? 0).isSome = true := by decide +kernel

/-- A device in discovery, one whose records are in, and one whose first stage did not verify. -/
def booting (boot : Nat) (closed : Bool) : State := { owned with hub := { boot := boot, closed := closed, tick := 10000000, discovered := [(0, { cls := 0, ports := 0, caps := 0, ident := 0 }), (3, { cls := 0, ports := 0, caps := 0, ident := 0 })] } }
theorem witness_bring_up : let s := booting 4 false
    s.hub.boot = 4 ∧ s.hub.closed = false ∧ s.hub.bootFail = false ∧ (s.die 1).tmHub ≠ 0 ∧ s.hub.discovered.lookup 1 = none ∧ s.hub.discovered.length < 3 ∧
    10000000 ≤ s.hub.tick ∧ (booting 5 true).hub.closed = true ∧ (booting 5 true).hub.ready = false ∧ (booting 5 true).present 3 = true ∧
    (((booting 5 true).modDie 3 fun d => { d with topo := true }).die 3).topo = true := by decide +kernel
theorem witness_bring_up_supplies :
    (owned.released { stages := [{ stage := 1, signatureOk := false }] }).hub.stageOk 1 = false ∧
    (∀ k, k ≤ 4 → 1 ≤ k → (owned.released {}).hub.stageOk k = true) ∧
    (({ owned with hub := { owned.hub with minVersion := [1, 0, 0, 0] } } : State).released {}).hub.stageOk 1 = false ∧
    (({ owned with hub := { owned.hub with revoked := 1 } } : State).released {}).hub.stageOk 2 = false ∧
    ({} : BringUp).hbmOk = true ∧ ({} : BringUp).cxlTrained = true ∧ ({} : BringUp).trained = [(4, 12, 12), (4, 12, 12), (4, 12, 12), (4, 12, 12)] ∧
    ({} : BringUp).election = [] := by decide
def image (stage : Nat) : FirmwareImage := { stage := stage, length := 4096 }
def recovering (stage : Nat) : State := { owned with hub := { boot := 2, bootFail := true, recovery := some stage } }
theorem witness_recovery : (∀ k ∈ [1, 4], (recovering k).hub.recovery = some (image k).stage ∧ 1 ≤ (image k).stage ∧ (image k).stage ≤ 4) ∧
    (recovering 1).hub.accepts (image 1) = true ∧ (recovering 4).hub.accepts (image 4) = true ∧
    owned.isOwner (.master ({ master := 1, signatureOk := true, revoke := 8, minVersion := [0, 0, 0, 9] } : RevocationCmd).master) = true := by
  decide +kernel
theorem witness_attestation : owned.reachable 1 = true ∧ owned.reachable 2 = true ∧ owned.reachable 3 = true ∧ 1 ≤ 1 ∧ 7 ≤ 7 := by decide +kernel

theorem witness_time : owned.halted = false ∧ owned.hub.held = 0 ∧ owned.hub.slew = 0 ∧ owned.present 3 = true ∧ owned.hub.tick % 1024 = 0 ∧
    ({ owned with hub := { owned.hub with tick := 1024 } } : State).hub.syncAt ≠ 1024 ∧ (0 : Int).natAbs ≤ 1000000 ∧ (1000000 : Int).natAbs ≤ 1000000 ∧
    (1000000 : Int) < 1000001 ∧ (-1000001 : Int) < -1000000 ∧ 600 ≤ (owned.die 0).freq ∧ (owned.die 0).freq ≤ 1200 ∧ 700 ≤ (owned.die 0).freq ∧
    ((owned.modDie 0 fun d => { d with freq := 600 }).die 0).freq = 600 := by decide +kernel
theorem witness_timesync : let s := { owned with hub := { owned.hub with tick := 1024, ns := 10240, syncs := [(3, 1024, 10240)] } }
    (3, 1024, 10240) ∈ s.hub.syncs ∧ 3 < s.dies.length ∧ 1024 ≤ s.hub.tick ∧ 10240 ≤ s.hub.ns := by decide +kernel

/-! ### The host and the pod -/

theorem witness_host_memory : owned.hdmPa? 0x30040 = some (owned.relayPa (0x30040 / 64 * 64)) ∧ owned.hdmPa? (2 ^ 40) = none ∧
    ({ owned with hub := { owned.hub with bring := { decoder := 1 } } } : State).hdmPa? (0x10000000 + 0x30040) = some 0x30040 ∧
    let l := owned.relayPa (0x30040 / 64 * 64) / 128
    (owned.hdmHome l).isSome = true ∧ owned.lineBusy l = false ∧ l ∉ owned.hub.hostWait ∧ owned.hub.snoop.length < snoopEntries := by decide +kernel
theorem witness_host_snoops : owned.region (128 * (0x1000000000000 / 128)) = .host ∧ (∀ x ∈ owned.coh.l2, x.line ≠ 0x1000000000000 / 128) ∧
    (let s := { owned with coh := { owned.coh with l2 := [{ die := 2, line := 0x1000000000000 / 128, st := .m }] } }
     s.region (128 * (0x1000000000000 / 128)) = .host ∧
     (s.coh.l2.filter fun x => x.line = 0x1000000000000 / 128) = [{ die := 2, line := 0x1000000000000 / 128, st := .m }]) := by decide +kernel

/-- An access outstanding to the host or the pod. -/
def pendOf (kind : PendKind) (write : Bool) (target : Nat) : Outstanding :=
  { txn := 9, die := 2, core := 80, slot := 0, hood := 0, ctx := 0, pc := 0x10000, line := 0x2000000000, kind := kind, write := write, target := target, lanes := 1 }
def pending (kind : PendKind) (write : Bool) (target : Nat) : State := { owned with
  eng := { owned.eng with pend := [pendOf kind write target] }, dies := owned.dies.map fun d => { d with tick := 200000 }
  hub := { owned.hub with hostWait := [0x600], podIdv := true, podDevid := 5 } }
theorem witness_host_answers : 0x600 ∈ (pending .hostCoh false 0).hub.hostWait ∧
    ((pending .hostCoh false 0).eng.pend.filter fun o => o.kind = .hostCoh && o.die = 2 && o.line = 0x2000000000 && !o.answered && o.mask = 0) =
      [pendOf .hostCoh false 0] ∧
    ((pending .hostUc false 0).eng.pend.find? fun o => o.txn = 9 && o.kind = .hostUc && !o.answered) = some (pendOf .hostUc false 0) := by decide +kernel

theorem witness_stations : ({ owned with stations := [{}] } : State).stations.getD 0 {} = {} ∧ (owned.stations.getD 71 {}).up = true ∧ owned.sysCtx?.isSome = true ∧
    owned.isOwner (.master 1) = true ∧ (let s := { owned with stations := [{ retraining := true, trims := 4 }] }
      0 < s.stations.length ∧ (s.stations.getD 0 {}).retraining = true) := by decide +kernel
/-- PODCFG at the ends of its ranges: device 191, time-outs of 10 and 100,000; and one value beyond each. -/
theorem witness_podcfg : let f := fun (v : BitVec 64) => (v.toNat % 2 ^ 17, v.toNat / 2 ^ 32 % 256)
    f 0xBF_0000000A = (10, 191) ∧ f 0x0_000186A0 = (100000, 0) ∧ f 0xC0_0000000A = (10, 192) ∧ f 0x0_00000009 = (9, 0) ∧ f 0x0_000186A1 = (100001, 0) ∧
    owned.hub.podIdv = false ∧ (pending .pod false 7).hub.podIdv = true ∧ (pending .pod false 7).hub.podDevid = 5 := by decide +kernel
def podUp : State := { owned with hub := { owned.hub with podIdv := true } }
theorem witness_pod_requests : let l := podUp.relayPa (0x30000 % 2 ^ 43) / 128
    (podUp.stations.getD 71 {}).up = true ∧ podUp.hub.podIdv = true ∧ (podUp.homeOf l).isSome = true ∧ podUp.lineBusy l = false ∧
    podUp.hostBlocks 0 l .read = false ∧ podUp.hostBlocks 0 l .write = false ∧ podUp.store.poisonAt (128 * l) 128 = none ∧ 0x30000 % 128 + 128 ≤ 128 ∧
    podUp.homeOf (podUp.relayPa (0x1000000000000 % 2 ^ 43 + 0x20000000000) / 128) = none ∧ owned.hub.podIdv = false := by decide +kernel
theorem witness_pod_answers : ((pending .pod false 7).podPend? 9).any (fun o => !o.write && o.op.isNone && decide (o.since + 200 * 1000 ≤ 200000 ∧ o.target < 192)) = true ∧
    ((pending .pod true 7).podPend? 9).any (fun o => o.write) = true ∧ ((pending .pod true 192).podPend? 9).any (fun o => decide (192 ≤ o.target)) = true ∧
    (pending .pod false 7).hub.podTout = 200 ∧ ((pending .pod false 7).die 2).tick = 200000 := by decide +kernel

/-! ### Coesk -/

/-- A request of die 2 on a line of die 0, and the directory, copies and watches of that line. -/
def req : CoeskReq := { src := 2, txn := 4095, line := 0x600, cluster := 35 }
def lineState (dir : List DirEntry) (l2 : List L2Line) (home : List HomeExec) : State :=
  { owned with coh := { owned.coh with dir := dir, l2 := l2, home := home } }
def served (s : State) : Bool := s.requestHome req = some 0 && !s.pathDown 2 0 && !s.holds 2 0x600 && !s.hub.snoop.contains 0x600
def shared (l : List Nat) : List DirEntry := [{ line := 0x600, owned := false, dies := l }]
def ownedBy (d : Nat) : List DirEntry := [{ line := 0x600, owned := true, dies := [d] }]
/-- The line's slice in home-execute mode. -/
def homeMode : List HomeExec := [{ line := 0x600, until_ := 100 }]
theorem witness_reads : req.src ≠ hubDie ∧
    (let s := lineState [] [] []; served s = true ∧ s.dir? req.line = none ∧ s.wtOnly req.line = false) ∧
    (let s := lineState [] [] homeMode; served s = true ∧ s.dir? req.line = none ∧ s.wtOnly req.line = true) ∧
    (let s := lineState (shared [1, 3]) [] []; served s = true ∧ (s.dir? req.line).any (fun e => !e.owned && !e.dies.contains req.src) = true ∧ s.wtOnly req.line = false) ∧
    (let s := lineState (shared [1]) [] homeMode; served s = true ∧ (s.dir? req.line).any (fun e => !e.owned) = true ∧ s.wtOnly req.line = true) ∧
    (let s := lineState (ownedBy 3) [] []; served s = true ∧ (s.dir? req.line).any (fun e => e.owned) = true) := by decide +kernel
theorem witness_upgrades : let held := fun (dies : List Nat) (h : List HomeExec) => lineState (shared dies) [{ die := 2, line := 0x600, st := .s }] h
    (held [2, 3] []).requestHome req = some 0 ∧ ((held [2, 3] []).l2? req.src req.line).any (fun x => x.st = .s) = true ∧
    ((held [2, 3] []).dir? req.line).any (fun e => !e.owned && e.dies.contains req.src) = true ∧ (held [2, 3] []).wtOnly req.line = false ∧
    (held [3] homeMode).wtOnly req.line = true ∧ (held [3] homeMode).requestHome req = some 0 := by decide +kernel
theorem witness_write_backs : let s := fun (st : CacheState) => lineState (ownedBy 2) [{ die := 2, line := 0x600, st := st }] []
    (s .e).l2? 2 0x600 = some { die := 2, line := 0x600, st := .e } ∧ (s .m).l2? 2 0x600 = some { die := 2, line := 0x600, st := .m } ∧
    (s .m).homeOf 0x600 = some 0 ∧ (0 : Nat) ≠ req.src ∧ (∀ o ∈ (s .m).coh.outs, o.die = req.src → o.txn ≠ req.txn) ∧ (s .m).pathDown 2 0 = false := by decide +kernel
theorem witness_home_writes : soundAtomic { op := 0, width := 4, offset := 0, v1 := 1 } = true ∧ soundAtomic { op := 0, width := 8, offset := 120, v1 := 1 } = true ∧
    (∀ x, (lineState (ownedBy 3) [] []).l2? 2 0x600 = some x → x.st = .s) ∧ served (lineState (ownedBy 3) [] []) = true ∧ served (lineState (shared [1]) [] []) = true ∧
    served (lineState [] [] []) = true := by
  refine ⟨by decide, by decide, ?_, by decide +kernel, by decide +kernel, by decide +kernel⟩
  intro x h
  have e : (lineState (ownedBy 3) [] []).l2? 2 0x600 = none := by decide +kernel
  simp [e] at h
theorem witness_lost_request : let s := { lineState [] [] [] with hub := { owned.hub with linksDown := [(0, 2)] } }
    s.requestHome req = some 0 ∧ s.pathDown 2 0 = true ∧ s.holds 2 0x600 = false := by decide +kernel

/-- The dies at tick 5000, and at clock 100. -/
def lateDies : List DieRegs := owned.dies.map fun d => { d with tick := 5000 }
def clockedDies : List DieRegs := owned.dies.map fun d => { d with clock := 100 }
/-- One message under way, with the copies and requests it concerns. -/
def under (m : CoeskMsg) (l2 : List L2Line) : State := { owned with coh := { owned.coh with msgs := [m], l2 := l2, outs := [{ die := 2, txn := 7, line := 0x600, target := 0, pending := 1 }] }, dies := lateDies }
def snoop : CoeskSnoop := { die := 3, req := 2, txn := 7, line := 0x600 }
def answer (keep : Bool) : CoeskResp := { die := 2, src := 0, txn := 7, line := 0x600, keep := keep }
theorem witness_messages :
    (under (.inv snoop) []).arrives (.inv snoop) = true ∧
    (under (.fwds snoop) [{ die := 3, line := 0x600, st := .s }]).arrives (.fwds snoop) = true ∧
    ((under (.fwds snoop) [{ die := 3, line := 0x600, st := .m }]).l2? 3 0x600).any (fun x => x.st ≠ .s) = true ∧
    (under (.fwds snoop) []).l2? 3 0x600 = none ∧
    (under (.fwdx snoop) [{ die := 3, line := 0x600, st := .e }]).arrives (.fwdx snoop) = true ∧
    ((under (.fwdx snoop) [{ die := 3, line := 0x600, st := .s }]).l2? 3 0x600).any (fun x => x.st = .s) = true ∧
    (under (.ack (answer true)) []).arrives (.ack (answer true)) = true ∧ (under (.ack (answer false)) []).arrives (.ack (answer false)) = true ∧
    (under (.data (answer false)) []).arrives (.data (answer false)) = true := by decide +kernel
def redirectTo : RedirectMsg := { cluster := 72, ctx := 0, vpn := 3, oldFrame := 0x30000, newFrame := 0x90000, gen := 1 }
theorem witness_relays : (under (.redirect redirectTo) []).arrives (.redirect redirectTo) = true ∧
    (let s := { moving 4 [] true with dies := owned.dies }
     (s.stubFor (128 * 0x600) 0 (3 * 2 ^ 16)).any (fun t => s.homeOf ((t.newFrame + (128 * 0x600 - t.oldFrame)) / 128) = some 0 &&
       !s.lineBusy ((t.newFrame + (128 * 0x600 - t.oldFrame)) / 128)) = true ∧ s.traceHeld 0 0 0x11 true = false ∧ 3 < hubDie ∧ 35 < Config.clustersPerDie) := by decide +kernel
theorem witness_response_due : ((under (.data (answer false)) []).coh.outs.find? fun o => o.die = 2 && o.txn = 7 && o.line = 0x600).isSome = true ∧
    (((under (.data (answer false)) []).coh.outs.find? fun o => o.die = 2 && o.txn = 7).any fun o => !o.lost && decide (o.pending ≠ 0) &&
      decide (o.kept + 2048 ≤ (under (.data (answer false)) []).tickOf o.target)) = true ∧
    (let s := { owned with eng := { owned.eng with pend := [pendOf .coesk false 0] }, dies := lateDies }
     (s.eng.pend.find? fun o => o.kind = .coesk && o.die = 2 && o.txn = 9 && !o.answered && o.since + 5000 ≤ s.tickOf 2).isSome = true) ∧
    (let s := under (.data (answer false)) []
     (s.eng.pend.find? fun o => o.kind = .coesk && o.die = 2 && o.txn = 7 && !o.answered && o.since + 5000 ≤ s.tickOf 2).isNone = true ∧
     (s.coh.outs.find? fun o => o.die = 2 && o.txn = 7 && o.since + 5000 ≤ s.tickOf 2).isSome = true) := by decide +kernel
theorem witness_links_and_modes : (let s := { lineState [] [] homeMode with dies := clockedDies }
     (s.homeExec? 0x600).any (fun e => decide (e.until_ ≠ 0 ∧ e.until_ ≤ (s.die 0).clock)) = true ∧ s.homeOf 0x600 = some 0) ∧
    0x12 ≤ 0x12 ∧ 0x1F ≤ 0x1F ∧ 4095 < 4096 ∧ (0 : Nat) ≠ hubDie ∧ owned.linkDown 0 hubDie = false ∧ owned.linkDown 1 2 = false := by decide +kernel

/-! ### Launches, placement, pre-emption, caches and trace -/

/-- A queue of `size` entries with its header at VA 0x30000 and TAIL `n` entries past HEAD, whose processor has been fired. -/
def queued (n : Nat) : State := { owned with
  store := owned.store.write 0x30000 128 (0x30080 + 16 * 2 ^ 64 + n * 2 ^ 512)
  contexts := owned.contexts.map fun c => { c with queues := [{ idx := 7, hdr := 0x30000, tailPa := 0x600, fired := true }] } }
def fires (n : Nat) (p : Nat → Nat → Bool) : Bool :=
  (queued n).nextQueue = some (0, 7) && ((queued n).queue? 0 7).any fun q =>
    ((({ queued n with hub := { (queued n).hub with rrCtx := 0 } } : State).modQueue 0 7 fun q => { q with fired := false }).bump.deviceRead 0 q.hdr 128).any fun h =>
      p (natBits h 64 32) (ctrSub (natBits h 512 32) q.head)
theorem witness_command_processor : fires 0 (fun _ n => n = 0) = true ∧ fires 16 (fun size n => decide (n ≠ 0 ∧ n ≤ size)) = true ∧
    fires 17 (fun size n => decide (n ≠ 0 ∧ size < n)) = true := by decide +kernel
theorem witness_queue_register : owned.mayWrite (.master 1) = true ∧ (owned.ctx? 0).any (fun c => !c.killed) = true ∧
    (match owned.translateBare 0 0x30000 .read with | .ok (x, _) => owned.region x.pa = .hbm 0 | .error _ => False) ∧ 7 < 8 ∧ 0x30000 % 128 = 0 ∧
    owned.watchesOn 0 < Config.watchEntries := by
  refine ⟨by decide +kernel, by decide +kernel, ?_, by decide, by decide, by decide +kernel⟩
  have h : (match owned.translateBare 0 0x30000 .read with | .ok (x, _) => decide (owned.region x.pa = .hbm 0) | .error _ => false) = true := by decide +kernel
  revert h
  split <;> simp
def holding : State := { owned with contexts := owned.contexts.map fun c => { c with events := 4, queues := [{ idx := 7, hdr := 0x30000, tailPa := 0x600, held := some { va := 0x30100, data := BitVec.ofNat 2048 (0x10000 + 1 * 2 ^ 128 + 2 ^ 160 + 2 ^ 192 + 0x200101 * 2 ^ 224 + 4 * 2 ^ 640) } }] } }
theorem witness_admission : ((holding.ctx? 0).any fun c => (holding.queue? 0 7).any fun q => q.held.any fun h => !c.hold && !c.killed &&
    decide (launchWait h.data.toNat &&& ~~~c.events = 0) && decide (launchWait h.data.toNat ≠ 0) && !holding.traceHeld hubDie 0 0x01 (launchLossless h.data.toNat) &&
    (holding.launchHead 0 q h).isSome && !launchCoop h.data.toNat) = true := by decide +kernel
def launched : State := { holding with sched := { holding.sched with launches := [{ id := 1, ctx := 0, queue := 7, set := 2 ^ 255, record := 0x30100 }] } }
theorem witness_retirement : ((launched.sched.launches.find? fun l => l.id = 1).any fun l => !launched.launchAlive l && !launched.traceHeld hubDie l.ctx 0x02 l.lossless) = true ∧
    (launched.ctx? 0).isSome = true ∧ (launched.queue? 0 7).isSome = true := by decide +kernel
def noted (pool : Nat) (passed : Option Nat) : State := { owned with
  contexts := owned.contexts.map fun c => { c with poolSize := [pool, 0, 0, 0] },
  sched := { owned.sched with triggers := [{ ctx := 0, die := 0, sq := 0, pc := 0, param := 0, launch := none, first := 0, shape := 0, scratch := 0, order := 3, passedAt := passed }] } }
theorem witness_triggers : let note := fun (s : State) => s.sched.triggers.find? fun r => r.die = 0 && r.passedAt.isNone
    ((note (noted 0x10000 none)).any fun r => !(noted 0x10000 none).noteHeld r && (noted 0x10000 none).poolRoom r.ctx 0 headerRecord) = true ∧
    ((note (noted 0 none)).any fun r => !(noted 0 none).noteHeld r && !(noted 0 none).poolRoom r.ctx 0 headerRecord) = true ∧
    ((noted 0x10000 (some 4)).sched.triggers.find? fun r => r.die = 0 && r.passedAt.isSome && (noted 0x10000 (some 4)).poolRoom r.ctx 0 headerRecord).isSome = true ∧
    ({ owned with hub := { owned.hub with ns := 1000000 } } : State).hub.ns / 1000000 ≠ owned.sched.windowStart ∧ owned.hub.ns / 1000000 = owned.sched.windowStart := by
  decide +kernel

/-- A gang that waits, passed over at cycle 0, on a die that has run 65,536 cycles. -/
def passedOver : State := { owned with
  dies := owned.dies.map fun d => { d with clock := 65536 }
  sched := { owned.sched with gangs := [{ placeGang with id := 4, status := .waiting, passedAt := some 0 }] } }
theorem witness_placement : owned.placementOrder 1 = [] ∧ ((passedOver.firstWaiting 0).any fun x => x.passedAt.any fun a =>
    decide (a + 65536 ≤ (passedOver.die 0).clock ∧ 0 < passedOver.dies.length) && ((passedOver.die 0).reserved.all fun r => decide (r.2 ≠ x.order))) = true := by decide +kernel
theorem witness_preemption : owned.mayWrite (.master 1) = true ∧ (passedOver.ctx? 0).any (fun c => passedOver.sched.gangs.all fun g => decide (g.ctx = c.id → g.status ≠ .resident)) = true ∧
    ((owned.ctx? 0).any fun c => !(owned.goGangs c true).isEmpty) = true ∧ (owned.gang? 0).isSome = true := by decide +kernel

/-- A gang at rest that is being stopped, with a save area that holds its frame or none. -/
def stopping (save : Nat) : State := { mapped with
  contexts := mapped.contexts.map fun c => { c with saveBase := save }
  warps := mapped.warps.map fun w => { w with stopping := true }
  sched := { mapped.sched with gangs := mapped.sched.gangs.map fun g => { g with status := .stopping } } }
theorem witness_save : ((stopping 0x80000).gang? 0).any (fun g => g.status = .stopping && (stopping 0x80000).gangAtRest g && ((stopping 0x80000).drainProducts 0).gangAtRest g) = true ∧
    ((stopping 0x20000).gang? 0).any (fun g => g.status = .stopping && (stopping 0x20000).gangAtRest g && ((stopping 0x20000).drainProducts 0).gangAtRest g) = true ∧
    (match ((stopping 0x80000).drainProducts 0).writeFrames 0 with | .error _ => true | .ok _ => false) = true := by decide +kernel

theorem witness_caches : (ready.warp? 0 0).isSome = true ∧
    (match ready.translate (clusterOfCore 0) 0 (64 * (0x10000 / 64)) .exec with | (_, .ok _) => true | _ => false) = true ∧
    (let s := { mapped with caches := { mapped.caches with misses := [{ cluster := 0, ctx := 0, page := 2, waits := [{ core := 0, line := 0x400, prio := 0 }] }] } }
     (s.caches.misses.find? fun m => m.cluster = 0).isSome = true ∧
     (match ({ s with caches := { s.caches with misses := [] } } : State).translate 0 0 0x20000 .read with | (_, .ok x) => x.attr = attrWB | _ => false) = true ∧
     (match ({ s with caches := { s.caches with misses := [] } } : State).translate 0 0 0x80000 .read with | (_, .error _) => true | _ => false) = true) := by decide +kernel
def filling (toL1 cancelled : Bool) : State := { mapped with caches := { mapped.caches with
  fills := [{ core := 0, ctx := 0, va := 0x400, pa := 0x400, prio := 0, toL1 := toL1, toL2 := true, cancelled := cancelled }] } }
theorem witness_fills : ((filling true false).caches.fills[0]?).any (fun f => f.toL1 && !f.cancelled &&
      (((filling true false).touch (dieOfCore f.core) f.pa f.prio .read).store.poisonAt (128 * f.pa) 128).isNone) = true ∧
    ((filling true true).caches.fills[0]?).any (fun f => f.cancelled) = true ∧ ((filling false false).caches.fills[0]?).any (fun f => !f.toL1) = true ∧
    owned.mayWrite (.warpOf 0) = true := by decide +kernel

/-- A context that traces, losslessly and held since the start, and a staged record. -/
def tracing : State := { owned with
  store := owned.store.write 0x30000 128 (0x20000 + 4096 * 2 ^ 64)
  hub := { owned.hub with ns := 3000000 }
  contexts := owned.contexts.map fun c => { c with en := true, ll := true, llwait := 3, holds := [{ die := 0, code := 0x14, n := 1, since := 0 }], trchdr := 0x30000, trcBase := 0x20000, trcSize := 4096 }
  staged := [{ die := 0, time := 0, source := 0, ctx := 0, code := 0x14, payload := 5, lossless := true, takers := [0] }] }
theorem witness_trace_fabric : (0 : Nat) ≠ hubDie ∧ (tracing.staged.findIdx? fun r => r.die = 0 && !r.sent) = some 0 ∧
    (({ tracing with staged := tracing.staged.map fun r => { r with sent := true } } : State).nextRec 0).isSome = true ∧
    tracing.nextRec 1 = none ∧ ((tracing.ctx? 0).any fun c => c.holds.any fun h => decide (c.llwait ≠ 0 ∧ h.since + c.llwait * 1000000 ≤ tracing.hub.ns)) = true := by
  decide +kernel
theorem witness_trace_registers : (owned.ctx? 0).isSome = true ∧ ((9 : BitVec 32).getLsbD 3 = true ∧ (9 : BitVec 32).getLsbD 0 = true) ∧
    ((owned.ctx? 0).any fun c => c.system && !c.en && (owned.traceHeader { c with trchdr := 0x80000 }).isNone) = true ∧
    ((tracing.ctx? 0).any fun c => (tracing.traceHeader c) = some (0x20000, 4096, 0) && decide (c.overflow = 0) && !c.fellBack) = true ∧
    ((tracing.ctx? 0).any fun c => (tracing.staged.head?).any fun r => (tracing.writeTrace c r).isSome) = true := by decide +kernel

/-! ### Further premises: waiting fetches, errors in storage, homes that hold requests -/

theorem witness_no_fields : mapped.eng.fields = [] ∧ mapped.upsets = [] ∧
    meets (.nop {}) mapped (fun c => !mapped.ownSlot c.w { lane := 0, va := 0x20000, n := 4, virt := true } && !mapped.ownSlot c.w { lane := 0, va := 0x2007C, n := 4, virt := true }) = true ∧
    (issueOf (.nop {}) mapped).any (fun x => x.1.shared = []) = true := by decide +kernel
/-- A branch whose target's page has no entry, and one whose target the core holds. -/
theorem witness_target_fetch :
    (match (mapped.targetFault 0 0 0x80000).2 with | some (.fetch _) => true | _ => false) = true ∧ mapped.fetchWaits 0 0 (0x80000 / 64) = false ∧
    mapped.fetchWaits 0 0 (0x10000 / 64) = false := by decide +kernel
theorem witness_migr_windows :
    meets (.migr { d := 0x104, s1 := 0x106, s2 := 0x108, s3 := 0x10A }) (withS [(6, 0), (7, 0xFE000000)]) (fun c => c.act ≠ 0 && c.w.parked.isEmpty &&
      match c.s.classify c.w { sp := false, ds := false, lp := false } 0 (BitVec.ofNat 64 (c.scalar 0x106 true 3)) 1 c.lane with
      | .error x => x.1 = 0x15 | .ok _ => false) = true ∧
    meets (.migr { d := 0x104, s1 := 0x106, s2 := 0x108, s3 := 0x10A }) (withS [(6, 0x30000), (7, 0)]) (fun c =>
      match c.s.classify c.w { sp := false, ds := false, lp := false } 0 (BitVec.ofNat 64 (c.scalar 0x106 true 3)) 1 c.lane with
      | .error x => x.1 ≠ 0x15 | .ok _ => true) = true := by decide +kernel
theorem witness_tfence_waits : (fencing [0, 1]).accessing 1 0 0 (2 ^ 64) = false ∧
    ({ fencing [0, 1] with eng := { (fencing [0, 1]).eng with pend := [{ pendOf .pod false 7 with core := 4, va := 0x30000 }] } } : State).accessing 1 0 0 (2 ^ 64) = true := by
  decide +kernel
theorem witness_discovery : (let s := { booting 4 false with hub := { (booting 4 false).hub with tick := 9999999 } }
    s.hub.tick < 10000000 ∧ s.hub.discovered.length < 3 ∧ (s.die 1).tmHub ≠ 0 ∧ s.hub.discovered.lookup 1 = none) ∧
    ({ cls := 1, ports := 0, caps := 16, ident := 0 } : DiscoverRec).cls ≠ 0 ∧ (16 : BitVec 32).getLsbD 4 = true := by decide +kernel
/-- An error in a word of a warp's state. -/
def struckWord (double : Bool) : State := { ready with upsets := [.warp 0 0 (.s 4) (if double then [3, 7] else [3])] }
theorem witness_errors : (∃ u ∈ (struckWord true).upsets, u.inWarp 0 0 (fun _ => true) = true ∧ u.double = true) ∧
    (∀ u ∈ (struckWord false).upsets, u.inWarp 0 0 (fun _ => true) = true → u.double = false) ∧
    ((struckWord true).checkWords 0 0 fun _ => true) = none ∧ ((struckWord false).checkWords 0 0 fun _ => true).isSome = true ∧
    ((struckWord true).warp? 0 0).any (fun w => ((struckWord true).readWords w 0 (encode (.sadd { d := 0x104, s1 := 0x104, s2 := 0x106 }))).isNone &&
      ((struckWord true).readWords w 0 (encode (.nop {}))).isSome) = true := by decide +kernel
/-- A line of which a home's dies hold a copy under home-execute mode, one that an earlier request holds, one that the host holds, and one
whose frame has moved. -/
theorem witness_held_requests :
    (let s := lineState (ownedBy 3) [] homeMode; served s = true ∧ (s.dir? req.line).any (fun e => e.owned) = true ∧ s.wtOnly req.line = true) ∧
    (let s := { lineState [] [] [] with coh := { (lineState [] [] []).coh with outs := [{ die := 3, txn := 1, line := 0x600, target := 0, pending := 1 }] } }
     s.madeHome req = some 0 ∧ s.pathDown 2 0 = false ∧ s.holds 2 0x600 = false ∧ s.behind (s.outOf req 0) = true ∧
     s.stubFor (128 * req.line) req.ctx (req.vpn * 2 ^ 16) = none) ∧
    (let s := { lineState [] [] [] with hub := { owned.hub with snoop := [0x600] } }
     s.requestHome req = some 0 ∧ 0x600 ∈ s.hub.snoop ∧ 0x600 ∉ s.hub.hostWait ∧ s.holds 2 0x600 = false) ∧
    (let s := { owned with eng := { owned.eng with stubs := (moving 4 [] true).eng.stubs } }
     let m := { req with vpn := 3 }
     (s.stubFor (128 * m.line) m.ctx (m.vpn * 2 ^ 16)).any (fun t =>
       let l := (t.newFrame + (128 * m.line - t.oldFrame)) / 128
       let o := { s.outOf m 0 with line := l, target := 0 }
       s.madeHome m = some 0 && s.homeOf l = some 0 && !s.behind o && !s.hostHolds o .rds && !s.relayHeld t.die 0 && !s.traceHeld 0 m.ctx 0x11 true) = true) ∧
    (let s := { under (.data (answer false)) [] with coh := { (under (.data (answer false)) []).coh with
       outs := [{ die := 2, txn := 7, line := 0x600, target := 0, queued := some .rds }] } }
     (s.coh.outs.find? fun o => o.die = 2 && o.txn = 7).any fun o => !o.lost && o.queued.isSome && decide (o.kept + 2048 ≤ s.tickOf o.target)) = true := by
  decide +kernel
theorem witness_pod_marks : (pending .pod false 7).eng.tfences = [] ∧ ((pending .pod true 7).podPend? 9).any (fun o => ((pending .pod true 7).copy? o.copy).isNone) = true := by
  decide +kernel
theorem witness_choice : (let m := ({ ready with agenda := [] } : State).meetUpsets.wakeYields.noteReady
    m.nextTurn = some 0 ∧ m.choices 0 = [⟨0, 0, 0⟩]) ∧
    ({ ready with agenda := [.second ⟨0, 0, 0⟩] } : State).before.halted = false := by decide +kernel
theorem witness_no_wait : meets (.vld vldSp) ready (fun c => !c.s.missHeld c.w { n := 4, acc := .read } []) = true := by decide +kernel

/-! ### Premises of the clauses on forwarding, waiting writes, halted packages and supplies -/

/-- A frame of this device that a stub forwards to device 7 of the pod. -/
def forwarding : State := { podUp with eng := { podUp.eng with
  stubs := [{ die := 0, oldFrame := 0x30000, newFrame := 0x2000000000000 + 7 * 2 ^ 43, gen := 0, size := 65536, ctx := 0, vpn := 3, pod := true }] } }
theorem witness_pod_forwarding :
    (let l := forwarding.relayPa (0x30000 % 2 ^ 43) / 128
     forwarding.homeOf l = none ∧ l ≠ 0x30000 % 2 ^ 43 / 128 ∧ (forwarding.stations.getD 71 {}).up = true ∧ forwarding.hub.podIdv = true ∧
     (podHead (.read 7 0x30000 128)).2.2 = true ∧ (podHead (.read 7 0x30000 128)).2.1 < controlWindow) ∧
    (let a : AtomicReq := { op := 9, width := 8, offset := 120, v1 := 1 }
     soundAtomic a = true ∧ a.op ≤ 9 ∧ ((podUp.homeWrite 0 0x600 (if 71 / 5 = 0 then none else some (71 / 5))).homeAtomic 0x600 a 1).2 = some 0) ∧
    controlWindow ≤ 2 ^ 43 ∧
    (let o := { pendOf .pod true 7 with reply := some (3, 9) }
     ({ (pending .pod true 7) with eng := { (pending .pod true 7).eng with pend := [o] } } : State).podPend? 9 = some o ∧ o.reply = some (3, 9) ∧ o.write = true) ∧
    (let o := { pendOf .pod false 7 with op := some { op := 0, width := 4, offset := 0, v1 := 1 } }
     ({ (pending .pod false 7) with eng := { (pending .pod false 7).eng with pend := [o] } } : State).podPend? 9 = some o ∧ o.write = false ∧ o.op ≠ none) := by
  decide +kernel

/-- A write of a device's agent that waits for a line of the host's, which the host gives up. -/
theorem witness_late_write : let late : LateWrite := { key := 0x30000, n := 4, val := 5, depth := 1 }
    let s : State := { owned with hub := { owned.hub with hostWait := [0x600], snoop := [0x600], late := [late] } }
    let t : State := { s with hub := { s.hub with hostWait := s.hub.hostWait.filter (· ≠ 0x600), snoop := s.hub.snoop.filter (· ≠ 0x600) } }
    0x600 ∈ s.hub.hostWait ∧ s.hub.late = [late] ∧ s.lateReady late = false ∧ t.lateReady late = true := by decide +kernel

theorem witness_moves_that_wait :
    (let s := { moving 1 [] false with hub := { owned.hub with snoop := [0x1200] } }
     migOf s (fun m => !m.cut && (s.moveSpans m).any fun x => !(s.hostLines x.1 x.2).isEmpty) = true) ∧
    migOf (moving 1 [] false) (fun m => (moving 1 [] false).hub.late.isEmpty &&
      ((moving 1 [] false).moveSpans m).all fun x => ((moving 1 [] false).hostLines x.1 x.2).isEmpty) = true ∧
    (let s := { forwarding with eng := { forwarding.eng with stubs := forwarding.eng.stubs.map fun t => { t with due := 9 } }
                                dies := owned.dies.map fun d => { d with tick := 9 } }
     stubOf s (fun t => decide (t.due ≠ 0 ∧ t.due ≤ (s.die 0).tick) && s.stubClean t && t.asked.isNone && !(s.reclaimPeers t).isEmpty) = true) ∧
    (let s := { owned with eng := { owned.eng with stubs := (moving 4 [] true).eng.stubs } }
     let m := { req with vpn := 3 }
     (s.stubFor (128 * m.line) m.ctx (m.vpn * 2 ^ 16)).any (fun t =>
       let l := (t.newFrame + (128 * m.line - t.oldFrame)) / 128
       !s.behind (s.outOf m 0) && !s.behind { s.outOf m 0 with line := l, target := 0, relayed := some t } && s.canSend m 0 && decide (m.src < hubDie)) = true) := by
  decide +kernel

/-- A log entry whose replay is due is what a step does, and the step performs it: s4 becomes the sum of
the values in the entry (R101, R102), and the entry ends. -/
def replaying : State := (withS [(5, 1), (6, 1)]).modWarp 0 0 fun w =>
  { w with log := [{ pc := 0x10000, insn := encode (.sadd { d := 0x104, s1 := 0x105, s2 := 0x106 }), ctl := 1, lanes := BitVec.allOnes 96
                     hood := BitVec.allOnes 96, due := true, data := BitVec.ofNat 9216 (20 + 22 * 2 ^ 64) }] ++ List.replicate 7 {} }
theorem witness_replay : replaying.before.halted = false ∧
    replaying.before.dueEntry? = some (⟨0, 0, logHood 0⟩, .sadd { d := 0x104, s1 := 0x105, s2 := 0x106 }) := by decide +kernel
theorem test_replay : (match step replaying with
    | .next t => (t.warp? 0 0).any fun w => decide (w.getS 4 = 42 ∧ (w.slice 0).pc = 0x10000) && w.parked.isEmpty
    | _ => false) = true := by decide +kernel

theorem witness_halted : let s := fun (l : List Move) => ({ owned with hub := { owned.hub with tripped := true }, agenda := l } : State)
    (s [.event .thermalTrip]).before.halted = true ∧ Instr.awake .thermalTrip = true ∧ Instr.awake .timesyncSend = false ∧
    (s [.event .timesyncSend]).before.agenda = [.event .timesyncSend] ∧ (s []).before.agenda = [] ∧
    (s [.issue ⟨0, 0, 0⟩]).before.agenda = [.issue ⟨0, 0, 0⟩] := by decide +kernel
theorem witness_nothing_before : owned.upsets = [] ∧ (∀ e ∈ owned.coh.dir, e.bad = false) ∧ (∀ c ∈ owned.contexts, c.dropPend = 0 ∧ c.holds = []) ∧
    ({ owned with agenda := [.event .timesyncSend] } : State).before.dueEntry? = none ∧
    (match stepHood { ready with agenda := [], cur := ⟨0, 0, 0⟩ } with | .next _ => true | _ => false) = true := by decide +kernel

/-- Two quiet NaNs with different fractions. -/
theorem witness_two_nans : (match fdecode fF32 false 0x7FC00001, fdecode fF32 false 0xFFC00002 with
    | .nan _ s y k, .nan _ t z j => !s && !t && y ≠ z && k = j | _, _ => false) = true := by decide +kernel
theorem witness_measured : ({ owned with hub := { owned.hub with measured := [(1, 5), (4, 9)] } } : State).hub.measured.lookup 4 = some 9 := by decide
theorem witness_register_writes : 2 < 3 % 16 ∧ owned.slotCtx? 63 = none ∧ (16 : Nat).testBit 4 = true ∧ owned.mayWrite (.master 1) = true ∧
    ({ owned with hub := { owned.hub with tbsource := 2 } } : State).hub.tbsource ≥ 2 ∧ owned.hub.tbsource < 2 ∧
    (0x10400004 : Nat) ≥ 0x10400000 + 4 := by decide +kernel
theorem witness_hdm_refused : let s := { owned with hub := { owned.hub with boot := 7 } }
    s.hub.boot < 8 ∧ ({ owned with hub := { owned.hub with bootFail := true } } : State).hub.bootFail = true ∧ owned.hub.bootFail = false ∧ 8 ≤ owned.hub.boot ∧
    owned.hub.decoder + 2 ^ 40 ≤ 2 ^ 40 := by decide +kernel
def struckFrame : State := { mapped with upsets := [.frame 0 0] }
theorem witness_struck_frame : (Upset.frame 0 0) ∈ struckFrame.upsets ∧ (struckFrame.ctx? 0).isSome = true ∧
    (match (struckFrame.warp? 0 0).map fun w => struckFrame.writeFrame w 0 0 with | some (.error 3) => true | _ => false) = true := by decide +kernel

end Sys2Proof.Tests
end

section
/-! # What leaves the storage alone

The caches and the directory follow an access without touching what is stored (R51, R53, R61), and so do the watches that a write is
compared with (R213). -/

namespace Sys2Proof.Machine

open Sys2Proof

variable {b s t : State} {α : Type}

/-! ### Caches and directory -/

/-- Only the caches, the directory and the messages sent to the host differ. -/
structure State.Recached (s t : State) : Prop where
  eq : t = { s with caches := t.caches, coh := t.coh, out := t.out }

theorem State.Recached.refl : b.Recached b := ⟨rfl⟩

theorem State.Recached.frame {caches coh out} (h : b.Recached s) : b.Recached { s with caches := caches, coh := coh, out := out } := by
  constructor
  conv_lhs => rw [h.eq]

theorem State.Recached.trans (h : b.Recached s) (h' : s.Recached t) : b.Recached t := by
  constructor
  rw [h'.eq, h.eq]

theorem State.Recached.ite {p : Prop} {_ : Decidable p} (hs : b.Recached s) (ht : b.Recached t) : b.Recached (if p then s else t) :=
  iteInduction (fun _ => hs) fun _ => ht

theorem State.Recached.elim {o : Option α} {f : α → State} (hs : b.Recached s) (hf : ∀ a, b.Recached (f a)) :
    b.Recached (o.elim s f) := by
  cases o with
  | none => exact hs
  | some a => exact hf a

theorem State.Recached.foldl {f : State → α → State} {l : List α} (hs : b.Recached s)
    (hf : ∀ t a, b.Recached t → b.Recached (f t a)) : b.Recached (l.foldl f s) :=
  List.foldlRecOn l f hs fun t ht a _ => hf t a ht

theorem State.Recached.modCoh {g} (h : b.Recached s) : b.Recached (s.modCoh g) := h.frame

theorem State.Recached.modCaches {g} (h : b.Recached s) : b.Recached (s.modCaches g) := h.frame

theorem State.Recached.say {o} (h : b.Recached s) : b.Recached (s.say o) := h.frame

theorem State.Recached.l2Drop {die l} (h : b.Recached s) : b.Recached (s.l2Drop die l) := .modCoh h

theorem State.Recached.l2Evict {x} (h : b.Recached s) : b.Recached (s.l2Evict x) := by
  unfold State.l2Evict
  dsimp only
  split
  · exact .ite (.say (.l2Drop h)) (.l2Drop h)
  · exact .ite (.l2Drop h) (.modCoh (.l2Drop h))

theorem State.Recached.l2Install {x} (h : b.Recached s) : b.Recached (s.l2Install x) := by
  unfold State.l2Install
  dsimp only
  refine .ite ?_ (.modCoh (.l2Drop h))
  split
  · exact .modCoh (.l2Evict (.l2Drop h))
  · exact .l2Evict (.l2Drop h)

theorem State.Recached.l2Use {die l ch st wt dirty} (h : b.Recached s) : b.Recached (s.l2Use die l ch st wt dirty) := by
  unfold State.l2Use
  split
  · exact .l2Install h
  · exact .ite h (.l2Install h)

theorem State.Recached.countTransfer {home l new} (h : b.Recached s) : b.Recached (s.countTransfer home l new) :=
  .ite h (.ite (.modCoh (.foldl h fun _ _ hs => .l2Drop hs)) (.modCoh h))

theorem State.Recached.l2SetState {die l st} (h : b.Recached s) : b.Recached (s.l2SetState die l st) := .modCoh h

theorem State.Recached.homeRead {l} (h : b.Recached s) : b.Recached (s.homeRead l) := by
  unfold State.homeRead
  split
  · exact .ite (.modCoh (.foldl h fun _ _ hs => .l2SetState hs)) h
  · exact h

theorem State.Recached.homeWrite {home l keep} (h : b.Recached s) : b.Recached (s.homeWrite home l keep) := by
  unfold State.homeWrite
  split
  · exact h
  · dsimp only
    exact .ite (.countTransfer (.modCoh (.foldl h fun _ _ hs => .l2Drop hs))) (.modCoh (.foldl h fun _ _ hs => .l2Drop hs))

theorem State.Recached.remoteRead {d home l ch} (h : b.Recached s) : b.Recached (s.remoteRead d home l ch) := by
  unfold State.remoteRead
  split
  · exact .l2Use h
  · refine .ite (.homeRead h) ?_
    split
    · exact .ite (.l2Use (.modCoh h)) (.countTransfer (.l2Use (.modCoh h)))
    · dsimp only
      exact .l2Use (.modCoh (.ite (.foldl h fun _ _ hs => .l2SetState hs) h))

theorem State.Recached.remoteWrite {d home l ch atomic} (h : b.Recached s) : b.Recached (s.remoteWrite d home l ch atomic) := by
  unfold State.remoteWrite
  dsimp only
  split
  · refine .ite (.l2Use h) (.ite ?_ ?_)
    · split
      · exact .l2Use (.homeWrite h)
      · exact .homeWrite h
    · refine .ite ?_ (.countTransfer (.l2Use (.modCoh (.foldl h fun _ _ hs => .ite hs (.l2Drop hs)))))
      split
      · exact .l2Use (.homeWrite h)
      · exact .homeWrite h
  · refine .ite ?_ ?_
    · split
      · exact .l2Use (.homeWrite h)
      · exact .homeWrite h
    · refine .ite ?_ (.countTransfer (.l2Use (.modCoh (.foldl h fun _ _ hs => .ite hs (.l2Drop hs)))))
      split
      · exact .l2Use (.homeWrite h)
      · exact .homeWrite h

theorem State.Recached.touch {d l ch u} (h : b.Recached s) : b.Recached (s.touch d l ch u) := by
  unfold State.touch
  split
  · refine .ite ?_ ?_
    · split
      · exact .l2Use (.homeRead h)
      · exact .l2Use (.homeWrite h)
    · split
      · exact .remoteRead h
      · exact .remoteWrite h
      · exact .remoteWrite h
  · split <;> exact .l2Use h
  · exact h

theorem State.Recached.l1Keep {p} (h : b.Recached s) : b.Recached (s.l1Keep p) := .modCaches h

theorem State.Recached.l1Inval {core ctx vl} (h : b.Recached s) : b.Recached (s.l1Inval core ctx vl) := .l1Keep h

theorem State.Recached.l1Fill {x ch} (h : b.Recached s) : b.Recached (s.l1Fill x ch) := by
  unfold State.l1Fill
  refine .ite h ?_
  dsimp only
  exact .modCaches (.ite (by
    split
    · exact .modCaches (.l1Inval h)
    · exact .l1Inval h) (.l1Inval h))

theorem State.Recached.l1Touch {x ch} (h : b.Recached s) : b.Recached (s.l1Touch x ch) := .modCaches (.l1Inval h)

theorem State.Recached.l1Store {core ctx vl mask d tag ch} (h : b.Recached s) : b.Recached (s.l1Store core ctx vl mask d tag ch) := by
  unfold State.l1Store
  split
  · exact h
  · dsimp only
    exact .l1Touch h

theorem State.Recached.hostThrough {die l} (h : b.Recached s) : b.Recached (s.hostThrough die l) := by
  unfold State.hostThrough
  split
  · exact .ite (.say h) h
  · exact h

/-! ### Watches, records and engines -/

/-- The storage and the device-written fields in it are the same. -/
structure State.SameStore (s t : State) : Prop where
  store : t.store = s.store
  fields : t.eng.fields = s.eng.fields

theorem State.SameStore.refl : b.SameStore b := ⟨rfl, rfl⟩

theorem State.SameStore.frame {caches coh warps contexts slots sched dies stations hub staged recs out cur agenda upsets free cycles turn}
    (h : b.SameStore s) : b.SameStore ⟨s.store, caches, coh, warps, contexts, slots, sched, s.eng, dies, stations, hub, staged, recs, out,
      cur, agenda, upsets, free, cycles, turn⟩ := ⟨h.store, h.fields⟩

theorem State.SameStore.ite {p : Prop} {_ : Decidable p} (hs : b.SameStore s) (ht : b.SameStore t) :
    b.SameStore (if p then s else t) :=
  iteInduction (fun _ => hs) fun _ => ht

theorem State.SameStore.foldl {f : State → α → State} {l : List α} (hs : b.SameStore s)
    (hf : ∀ t a, b.SameStore t → b.SameStore (f t a)) : b.SameStore (l.foldl f s) :=
  List.foldlRecOn l f hs fun t ht a _ => hf t a ht

theorem State.Recached.sameStore (h : s.Recached t) : s.SameStore t :=
  ⟨by rw [h.eq], by rw [h.eq]⟩

theorem State.SameStore.trans (h : b.SameStore s) (h' : s.SameStore t) : b.SameStore t :=
  ⟨h'.store.trans h.store, h'.fields.trans h.fields⟩

theorem State.SameStore.modSched {g} (h : b.SameStore s) : b.SameStore (s.modSched g) := .frame h

theorem State.SameStore.noteHold {die ctx code n} (h : b.SameStore s) : b.SameStore (s.noteHold die ctx code n) := .frame h

theorem State.SameStore.emit {die unit sub ctx code payload body lossless warp gang} (h : b.SameStore s) :
    b.SameStore (s.emit die unit sub ctx code payload body lossless warp gang) :=
  .ite (.ite h (.frame h)) (.ite (.frame (.ite h (.frame h))) (.noteHold (.frame (.ite h (.frame h)))))

theorem State.SameStore.modCtx {id g} (h : b.SameStore s) : b.SameStore (s.modCtx id g) := .frame h

theorem State.SameStore.pendRec {ctx die slice r} (h : b.SameStore s) : b.SameStore (s.pendRec ctx die slice r) := .frame h

theorem State.SameStore.modWatch {ctx id home g} (h : b.SameStore s) : b.SameStore (s.modWatch ctx id home g) := .modSched h

theorem State.SameStore.fireQueue {ctx idx} (h : b.SameStore s) : b.SameStore (s.fireQueue ctx idx) := .modCtx h

theorem State.SameStore.watchCount {w addr val depth slice} (h : b.SameStore s) : b.SameStore (s.watchCount w addr val depth slice) := by
  unfold State.watchCount
  split
  · exact .fireQueue h
  · split
    · exact h
    · dsimp only
      exact .emit (.modWatch h)
    · exact .ite (.pendRec (.modWatch h)) (.ite (.pendRec (.modWatch h)) (.emit (.modSched (.modWatch h))))

theorem State.SameStore.compareLine {l old new depth} (h : b.SameStore s) : b.SameStore (s.compareLine l old new depth) := by
  unfold State.compareLine
  split
  · exact h
  · exact .foldl h (fun _ _ hs => by
      split
      · exact .watchCount hs
      · exact hs)

theorem State.SameStore.notePtes {l} (ht : b.SameStore t) : b.SameStore (s.notePtes t l) := .ite ht (.frame ht)

theorem State.SameStore.markDirty {l} (h : b.SameStore s) : b.SameStore (s.markDirty l) := .ite ⟨h.store, h.fields⟩ h

end Sys2Proof.Machine
end

section
/-! # The storage keeps its canonical form (O5)

One lemma for each function of the model that yields a state: from a sound state it yields a sound one. A proof names, from the outside
in, the lemmas of the functions that the definition applies, and splits where the definition does. What is claimed of a result depends
on its type: a state is `sound`, and every other result holds a sound state wherever it holds one (`OptSound`, `ResSound`, …);
those predicates are structures so that the unifier compares the values and never unfolds what is claimed of them. -/

namespace Sys2Proof

open Sys2Proof.Machine Sys2Proof.Safety

/-! ### Results that hold a state -/

/-- A state, where there is one, is sound. -/
structure Safety.OptSound (o : Option State) : Prop where
  state : match o with
    | some s => sound s
    | none => True

/-- What an instruction leaves is sound. -/
structure Safety.ResSound (r : Res) : Prop where
  state : match r with
    | .next s | .jump s | .again s | .hold s | .fault s _ | .trap s _ | .park s _ | .parkSome s _ _ | .fly s _ => sound s
    | .stall => True

/-- What a gate leaves is sound. -/
structure Safety.GateSound (g : Gate) : Prop where
  state : match g with
    | .ready s | .wait s | .again s => sound s

/-- What the preparation of an access leaves is sound. -/
structure Safety.PrepSound (p : Prep) : Prop where
  state : match p with
    | .fault s _ | .park s _ | .ok s _ | .again s => sound s
    | .wait => True

/-- What a fetch leaves is sound. -/
structure Safety.FetchedSound (f : Fetched) : Prop where
  state : match f with
    | .word s _ _ | .done s => sound s

/-- What a move of an engine leaves is sound. -/
structure Safety.MovedSound (m : Moved) : Prop where
  state : match m with
    | .data s _ | .done s | .wait s | .page s _ | .lost s _ => sound s

/-- A result, where there is one, is sound. -/
structure Safety.OptResSound (o : Option Res) : Prop where
  state : match o with
    | some r => ResSound r
    | none => True

/-- The state of an issue, where there is one, is sound. -/
structure Safety.OptIssueSound (o : Option (Issue × Warp)) : Prop where
  state : match o with
    | some r => sound r.1.s
    | none => True

/-- The state of a pair, where there is one, is sound. -/
structure Safety.OptFstSound (o : Option (State × Nat)) : Prop where
  state : match o with
    | some r => sound r.1
    | none => True

/-- What the resolution of an engine's addresses leaves is sound. -/
structure Safety.ResolvedSound (e : Except Moved (State × List Piece)) : Prop where
  state : match e with
    | .ok r => sound r.1
    | .error m => MovedSound m

/-- The state that a failing operation yields is sound. -/
structure Safety.ExceptSound {ε : Type} (e : Except ε State) : Prop where
  state : match e with
    | .ok s => sound s
    | .error _ => True

/-- The next state, where there is one, is sound. -/
structure Safety.OutSound (o : Host.Outcome State Fault Refusal) : Prop where
  state : match o with
    | .next s => sound s
    | _ => True

section
variable {s t : State} {α β ε : Type}

/-! ### The constructors of the results -/

theorem Safety.OptSound.none : OptSound none := ⟨trivial⟩
theorem Safety.OptSound.some (h : sound s) : OptSound (some s) := ⟨h⟩
theorem Safety.ResSound.next (h : sound s) : ResSound (.next s) := ⟨h⟩
theorem Safety.ResSound.jump (h : sound s) : ResSound (.jump s) := ⟨h⟩
theorem Safety.ResSound.stall : ResSound .stall := ⟨trivial⟩
theorem Safety.ResSound.again (h : sound s) : ResSound (.again s) := ⟨h⟩
theorem Safety.ResSound.hold (h : sound s) : ResSound (.hold s) := ⟨h⟩
theorem Safety.ResSound.fault {x} (h : sound s) : ResSound (.fault s x) := ⟨h⟩
theorem Safety.ResSound.trap {x} (h : sound s) : ResSound (.trap s x) := ⟨h⟩
theorem Safety.ResSound.park {x} (h : sound s) : ResSound (.park s x) := ⟨h⟩
theorem Safety.ResSound.parkSome {x y} (h : sound s) : ResSound (.parkSome s x y) := ⟨h⟩
theorem Safety.ResSound.fly {x} (h : sound s) : ResSound (.fly s x) := ⟨h⟩
theorem Safety.GateSound.ready (h : sound s) : GateSound (.ready s) := ⟨h⟩
theorem Safety.GateSound.wait (h : sound s) : GateSound (.wait s) := ⟨h⟩
theorem Safety.GateSound.again (h : sound s) : GateSound (.again s) := ⟨h⟩
theorem Safety.PrepSound.fault {x} (h : sound s) : PrepSound (.fault s x) := ⟨h⟩
theorem Safety.PrepSound.park {x} (h : sound s) : PrepSound (.park s x) := ⟨h⟩
theorem Safety.PrepSound.ok {x} (h : sound s) : PrepSound (.ok s x) := ⟨h⟩
theorem Safety.PrepSound.again (h : sound s) : PrepSound (.again s) := ⟨h⟩
theorem Safety.PrepSound.wait : PrepSound .wait := ⟨trivial⟩
theorem Safety.FetchedSound.word {x y} (h : sound s) : FetchedSound (.word s x y) := ⟨h⟩
theorem Safety.FetchedSound.done (h : sound s) : FetchedSound (.done s) := ⟨h⟩
theorem Safety.MovedSound.data {x} (h : sound s) : MovedSound (.data s x) := ⟨h⟩
theorem Safety.MovedSound.done (h : sound s) : MovedSound (.done s) := ⟨h⟩
theorem Safety.MovedSound.wait (h : sound s) : MovedSound (.wait s) := ⟨h⟩
theorem Safety.MovedSound.page {x} (h : sound s) : MovedSound (.page s x) := ⟨h⟩
theorem Safety.MovedSound.lost {x} (h : sound s) : MovedSound (.lost s x) := ⟨h⟩
theorem Safety.OptResSound.none : OptResSound none := ⟨trivial⟩
theorem Safety.OptResSound.some {r : Res} (h : ResSound r) : OptResSound (some r) := ⟨h⟩
theorem Safety.OptIssueSound.none : OptIssueSound none := ⟨trivial⟩
theorem Safety.OptIssueSound.some {c : Issue} {w : Warp} (h : sound c.s) : OptIssueSound (some (c, w)) := ⟨h⟩
theorem Safety.OptFstSound.none : OptFstSound none := ⟨trivial⟩
theorem Safety.ResolvedSound.ok {r : State × List Piece} (h : sound r.1) : ResolvedSound (.ok r) := ⟨h⟩
theorem Safety.ResolvedSound.error {m : Moved} (h : MovedSound m) : ResolvedSound (.error m) := ⟨h⟩
theorem Safety.ExceptSound.ok (h : sound s) : ExceptSound (.ok s : Except ε State) := ⟨h⟩
theorem Safety.ExceptSound.error {e : ε} : ExceptSound (.error e) := ⟨trivial⟩
theorem Safety.OutSound.next (h : sound s) : OutSound (.next s) := ⟨h⟩
theorem Safety.OutSound.refused {r : Refusal} : OutSound (.refused r) := ⟨trivial⟩

/-! ### A result that a definition matches on, replaced by its value -/

theorem Safety.sound.fst_of_eq {o p : State × β} (e : o = p) (h : sound o.1) : sound p.1 := e ▸ h
theorem Safety.OptSound.of_eq {o p} (e : o = p) (h : OptSound o) : OptSound p := e ▸ h
theorem Safety.ResSound.of_eq {o p} (e : o = p) (h : ResSound o) : ResSound p := e ▸ h
theorem Safety.GateSound.of_eq {o p} (e : o = p) (h : GateSound o) : GateSound p := e ▸ h
theorem Safety.PrepSound.of_eq {o p} (e : o = p) (h : PrepSound o) : PrepSound p := e ▸ h
theorem Safety.FetchedSound.of_eq {o p} (e : o = p) (h : FetchedSound o) : FetchedSound p := e ▸ h
theorem Safety.MovedSound.of_eq {o p} (e : o = p) (h : MovedSound o) : MovedSound p := e ▸ h
theorem Safety.OptResSound.of_eq {o p} (e : o = p) (h : OptResSound o) : OptResSound p := e ▸ h
theorem Safety.OptIssueSound.of_eq {o p} (e : o = p) (h : OptIssueSound o) : OptIssueSound p := e ▸ h
theorem Safety.OptFstSound.of_eq {o p} (e : o = p) (h : OptFstSound o) : OptFstSound p := e ▸ h
theorem Safety.ResolvedSound.of_eq {o p} (e : o = p) (h : ResolvedSound o) : ResolvedSound p := e ▸ h
theorem Safety.ExceptSound.of_eq {o p : Except ε State} (e : o = p) (h : ExceptSound o) : ExceptSound p := e ▸ h
theorem Safety.OutSound.of_eq {o p} (e : o = p) (h : OutSound o) : OutSound p := e ▸ h

/-! ### Conditions and folds -/

theorem Safety.sound.ite {p : Prop} {_ : Decidable p} (hs : sound s) (ht : sound t) : sound (if p then s else t) :=
  iteInduction (fun _ => hs) fun _ => ht

theorem Safety.sound.ite_fst {p : Prop} {_ : Decidable p} {a b : State × β} (ha : sound a.1) (hb : sound b.1) :
    sound (if p then a else b).1 :=
  iteInduction (motive := fun r : State × β => sound r.1) (fun _ => ha) fun _ => hb

theorem Safety.storeSound.ite {p : Prop} {_ : Decidable p} {a b : Store} (ha : storeSound a) (hb : storeSound b) :
    storeSound (if p then a else b) :=
  iteInduction (fun _ => ha) fun _ => hb

theorem Safety.OptSound.ite {p : Prop} {_ : Decidable p} {a b} (ha : OptSound a) (hb : OptSound b) :
    OptSound (if p then a else b) :=
  iteInduction (fun _ => ha) fun _ => hb

theorem Safety.ResSound.ite {p : Prop} {_ : Decidable p} {a b} (ha : ResSound a) (hb : ResSound b) :
    ResSound (if p then a else b) :=
  iteInduction (fun _ => ha) fun _ => hb

theorem Safety.GateSound.ite {p : Prop} {_ : Decidable p} {a b} (ha : GateSound a) (hb : GateSound b) :
    GateSound (if p then a else b) :=
  iteInduction (fun _ => ha) fun _ => hb

theorem Safety.PrepSound.ite {p : Prop} {_ : Decidable p} {a b} (ha : PrepSound a) (hb : PrepSound b) :
    PrepSound (if p then a else b) :=
  iteInduction (fun _ => ha) fun _ => hb

theorem Safety.FetchedSound.ite {p : Prop} {_ : Decidable p} {a b} (ha : FetchedSound a) (hb : FetchedSound b) :
    FetchedSound (if p then a else b) :=
  iteInduction (fun _ => ha) fun _ => hb

theorem Safety.MovedSound.ite {p : Prop} {_ : Decidable p} {a b} (ha : MovedSound a) (hb : MovedSound b) :
    MovedSound (if p then a else b) :=
  iteInduction (fun _ => ha) fun _ => hb

theorem Safety.OptResSound.ite {p : Prop} {_ : Decidable p} {a b} (ha : OptResSound a) (hb : OptResSound b) :
    OptResSound (if p then a else b) :=
  iteInduction (fun _ => ha) fun _ => hb

theorem Safety.ResolvedSound.ite {p : Prop} {_ : Decidable p} {a b} (ha : ResolvedSound a) (hb : ResolvedSound b) :
    ResolvedSound (if p then a else b) :=
  iteInduction (fun _ => ha) fun _ => hb

theorem Safety.ExceptSound.ite {p : Prop} {_ : Decidable p} {a b : Except ε State} (ha : ExceptSound a) (hb : ExceptSound b) :
    ExceptSound (if p then a else b) :=
  iteInduction (fun _ => ha) fun _ => hb

theorem Safety.OutSound.ite {p : Prop} {_ : Decidable p} {a b} (ha : OutSound a) (hb : OutSound b) :
    OutSound (if p then a else b) :=
  iteInduction (fun _ => ha) fun _ => hb

theorem Safety.sound.foldl {f : State → α → State} {l : List α} (hs : sound s) (hf : ∀ t a, sound t → sound (f t a)) :
    sound (l.foldl f s) :=
  List.foldlRecOn l f hs fun t ht a _ => hf t a ht

theorem Safety.sound.foldl_fst {f : State × β → α → State × β} {l : List α} {p : State × β} (hs : sound p.1)
    (hf : ∀ t a, sound t.1 → sound (f t a).1) : sound (l.foldl f p).1 :=
  List.foldlRecOn (motive := fun r : State × β => sound r.1) l f hs fun t ht a _ => hf t a ht

theorem Safety.OptSound.foldl {f : Option State → α → Option State} {l : List α} {o : Option State} (ho : OptSound o)
    (hf : ∀ t a, OptSound t → OptSound (f t a)) : OptSound (l.foldl f o) :=
  List.foldlRecOn l f ho fun t ht a _ => hf t a ht

theorem Safety.GateSound.foldl {f : Gate → α → Gate} {l : List α} {o : Gate} (ho : GateSound o)
    (hf : ∀ t a, GateSound t → GateSound (f t a)) : GateSound (l.foldl f o) :=
  List.foldlRecOn l f ho fun t ht a _ => hf t a ht

theorem Safety.ExceptSound.foldl {f : Except ε State → α → Except ε State} {l : List α} {o : Except ε State} (ho : ExceptSound o)
    (hf : ∀ t a, ExceptSound t → ExceptSound (f t a)) : ExceptSound (l.foldl f o) :=
  List.foldlRecOn l f ho fun t ht a _ => hf t a ht

/-! ### Options and failing operations -/

theorem Safety.sound.elim {o : Option α} {f : α → State} (hs : sound s) (hf : ∀ a, sound (f a)) : sound (o.elim s f) := by
  cases o with
  | none => exact hs
  | some a => exact hf a

theorem Safety.sound.getD {o : Option State} (h : OptSound o) (hs : sound s) : sound (o.getD s) := by
  cases o with
  | none => exact hs
  | some t => exact h.state

theorem Safety.OptSound.bind {o : Option State} {f : State → Option State} (h : OptSound o) (hf : ∀ t, sound t → OptSound (f t)) :
    OptSound (o.bind f) := by
  cases o with
  | none => exact .none
  | some t => exact hf t h.state

theorem Safety.OptSound.map {o : Option State} {f : State → State} (h : OptSound o) (hf : ∀ t, sound t → sound (f t)) :
    OptSound (o.map f) := by
  cases o with
  | none => exact .none
  | some t => exact .some (hf t h.state)

theorem Safety.OptSound.bind_any {o : Option α} {f : α → Option State} (hf : ∀ a, OptSound (f a)) : OptSound (o.bind f) := by
  cases o with
  | none => exact .none
  | some a => exact hf a

theorem Safety.OptSound.map_any {o : Option α} {f : α → State} (hf : ∀ a, sound (f a)) : OptSound (o.map f) := by
  cases o with
  | none => exact .none
  | some a => exact .some (hf a)

theorem Safety.OptFstSound.bind_any {o : Option α} {f : α → Option (State × Nat)} (hf : ∀ a, OptFstSound (f a)) :
    OptFstSound (o.bind f) := by
  cases o with
  | none => exact .none
  | some a => exact hf a

theorem Safety.OptFstSound.map {o : Option State} {f : State → State × Nat} (h : OptSound o) (hf : ∀ t, sound t → sound (f t).1) :
    OptFstSound (o.map f) := by
  cases o with
  | none => exact .none
  | some t => exact ⟨hf t h.state⟩

theorem Safety.ExceptSound.bind {o : Except ε State} {f : State → Except ε State} (h : ExceptSound o)
    (hf : ∀ t, sound t → ExceptSound (f t)) : ExceptSound (o.bind f) := by
  cases o with
  | error e => exact .error
  | ok t => exact hf t h.state

theorem Safety.ExceptSound.map {o : Except ε State} {f : State → State} (h : ExceptSound o) (hf : ∀ t, sound t → sound (f t)) :
    ExceptSound (o.map f) := by
  cases o with
  | error e => exact .error
  | ok t => exact .ok (hf t h.state)

theorem Safety.ExceptSound.mapError {o : Except ε State} {f : ε → β} (h : ExceptSound o) : ExceptSound (o.mapError f) := by
  cases o with
  | error e => exact .error
  | ok t => exact .ok h.state

theorem Safety.ExceptSound.of_elim {o : Option State} {e : ε} (h : OptSound o) : ExceptSound (o.elim (.error e) .ok) := by
  cases o with
  | none => exact .error
  | some t => exact .ok h.state

/-! ### The storage of a state -/

theorem Safety.sound.frame {caches coh warps contexts slots sched eng dies stations hub staged recs out cur agenda upsets free cycles turn}
    (h : sound s) : sound ⟨s.store, caches, coh, warps, contexts, slots, sched, eng, dies, stations, hub, staged, recs, out, cur, agenda,
      upsets, free, cycles, turn⟩ := h

theorem Safety.sound.withStore {m caches coh warps contexts slots sched eng dies stations hub staged recs out cur agenda upsets free cycles
    turn} (h : storeSound m) : sound ⟨m, caches, coh, warps, contexts, slots, sched, eng, dies, stations, hub, staged, recs, out, cur,
      agenda, upsets, free, cycles, turn⟩ := h

theorem Safety.sound.same (h : sound s) (e : s.SameStore t) : sound t := by
  unfold Safety.sound
  rw [e.store]
  exact h

theorem Safety.sound.recached (h : sound s) (e : s.Recached t) : sound t := h.same e.sameStore

theorem Safety.storeSound_remember {m : Store} (h : storeSound m) (b : Store) (free l : Nat) (mask : BitVec 128) (d : LineData)
    (t : Option TagWord) : storeSound (m.remember b free l mask d t) := h

theorem Safety.storeSound_signPast {m : Store} (h : storeSound m) (n : Nat) (x : Nat × Nat × LaneMask) : storeSound (m.signPast n x) := h

theorem Safety.storeSound_lpNote {m : Store} (h : storeSound m) (ctx slot va n v : Nat) : storeSound (m.lpNote ctx slot va n v) := h

theorem Safety.storeSound_lpTake {m : Store} (h : storeSound m) (ctx slot : Nat) : storeSound (m.lpTake ctx slot) := h

theorem Safety.storeSound_empty : storeSound {} := ⟨Memory.wf_nil, Memory.wf_nil, Memory.wf_nil, Memory.wf_nil⟩

end

section

open Machine

variable {s t : State} {c : Issue}

/-! ### Ops -/

theorem Safety.sound.setWarp {w} (h : sound s) : sound (s.setWarp w) := .frame h

theorem Safety.sound.dropWarp {core slot} (h : sound s) : sound (s.dropWarp core slot) := .frame h

theorem Safety.sound.modWarp {core slot g} (h : sound s) : sound (s.modWarp core slot g) := .frame h

theorem Safety.sound.modCtx {id g} (h : sound s) : sound (s.modCtx id g) := .frame h

theorem Safety.sound.modGang {id f} (h : sound s) : sound (s.modGang id f) := .frame h

theorem Safety.sound.modBlockOf {w f} (h : sound s) : sound (s.modBlockOf w f) := .modGang h

theorem Safety.sound.modDie {d f} (h : sound s) : sound (s.modDie d f) := .frame h

theorem Safety.sound.bump (h : sound s) : sound s.bump := .frame h

theorem Safety.sound.say {o} (h : sound s) : sound (s.say o) := .frame h

/-! ### Emit -/

theorem Safety.sound.noteHold {die ctx code n} (h : sound s) : sound (s.noteHold die ctx code n) := .frame h

theorem Safety.sound.emit {die unit sub ctx code payload body lossless warp gang} (h : sound s) :
    sound (s.emit die unit sub ctx code payload body lossless warp gang) :=
  h.same (.emit .refl)

/-! ### Coh -/

theorem Safety.sound.modCoh {g} (h : sound s) : sound (s.modCoh g) := .frame h

theorem Safety.sound.l2Drop {die l} (h : sound s) : sound (s.l2Drop die l) := .modCoh h

theorem Safety.sound.l2Evict {x} (h : sound s) : sound (s.l2Evict x) := h.recached (.l2Evict .refl)

theorem Safety.sound.l2Use {die l ch st wt dirty} (h : sound s) : sound (s.l2Use die l ch st wt dirty) := h.recached (.l2Use .refl)

theorem Safety.sound.countTransfer {home l new} (h : sound s) : sound (s.countTransfer home l new) := h.recached (.countTransfer .refl)

theorem Safety.sound.recallAll {l} (h : sound s) : sound (s.recallAll l) := .modCoh (.foldl h fun _ _ hs => .l2Drop hs)

theorem Safety.sound.l2SetState {die l st} (h : sound s) : sound (s.l2SetState die l st) := .modCoh h

theorem Safety.sound.homeRead {l} (h : sound s) : sound (s.homeRead l) := h.recached (.homeRead .refl)

theorem Safety.sound.homeWrite {home l keep} (h : sound s) : sound (s.homeWrite home l keep) := h.recached (.homeWrite .refl)

theorem Safety.sound.touch {d l ch u} (h : sound s) : sound (s.touch d l ch u) := h.recached (.touch .refl)

/-! ### Tables -/

theorem Safety.sound.notePtes {l} (ht : sound t) : sound (s.notePtes t l) := ht.same (.notePtes .refl)

/-! ### Watch -/

theorem Safety.sound.modSched {g} (h : sound s) : sound (s.modSched g) := .frame h

theorem Safety.sound.modEng {g} (h : sound s) : sound (s.modEng g) := .frame h

theorem Safety.sound.modStore {g : Store → Store} (h : sound s) (hg : ∀ m, storeSound m → storeSound (g m)) :
    sound (s.modStore g) := hg _ h

theorem Safety.sound.modCaches {g} (h : sound s) : sound (s.modCaches g) := .frame h

theorem Safety.sound.modHub {g} (h : sound s) : sound (s.modHub g) := .frame h

theorem Safety.sound.modWatch {ctx id home g} (h : sound s) : sound (s.modWatch ctx id home g) := .modSched h

theorem Safety.sound.compareLine {l old new depth} (h : sound s) : sound (s.compareLine l old new depth) := h.same (.compareLine .refl)

theorem Safety.sound.markDirty {l} (h : sound s) : sound (s.markDirty l) := h.same (.markDirty .refl)

theorem Safety.sound.settleFields {l mask} (h : sound s) : sound (s.settleFields l mask) :=
  .ite h (.modEng (.modStore h fun _ hm => storeSound_foldl (fun _ _ hm => .ite (storeSound_write hm _ _ _) hm) _ hm))

theorem Safety.sound.writeLine {l mask d depth} (h : sound s) : sound (s.writeLine l mask d depth) :=
  .ite (.modStore (.settleFields (.modStore h fun _ hm => storeSound_writeLine hm _ _ _)) fun _ hm => storeSound_remember hm _ _ _ _ _ _)
    (.compareLine (.markDirty (.notePtes (.settleFields (.modStore h fun _ hm => storeSound_writeLine hm _ _ _)))))

theorem Safety.sound.writeTagged {l d t depth} (h : sound s) : sound (s.writeTagged l d t depth) :=
  .ite (.ite (.modStore (.settleFields (.modStore h fun _ hm => storeSound_writeTagged hm _ _ _)) fun _ hm => storeSound_remember hm _ _ _ _
    _ _) (.compareLine (.markDirty (.notePtes (.settleFields (.modStore h fun _ hm => storeSound_writeTagged hm _ _ _)))))) (.writeLine h)

theorem Safety.sound.writeIn {k n v depth} (h : sound s) : sound (s.writeIn k n v depth) := .writeLine h

theorem Safety.sound.writeKey {k n v depth} (h : sound s) : sound (s.writeKey k n v depth) := .foldl h fun _ _ hs => .ite (.writeIn hs) hs

theorem Safety.sound.askBack {l} (h : sound s) : sound (s.askBack l) := .ite h (.say (.modHub h))

theorem Safety.sound.askSpan {k n} (h : sound s) : sound (s.askSpan k n) := .foldl h fun _ _ hs => .askBack hs

theorem Safety.sound.hubWrite {w} (h : sound s) : sound (s.hubWrite w) := .ite (.writeKey h) (.modHub (.askSpan h))

theorem Safety.sound.flushLate {l : List LateWrite} (h : sound s) : sound (State.flushLate l s) := by
  induction l generalizing s with
  | nil => exact .modHub h
  | cons w rest ih =>
    unfold State.flushLate
    split
    · exact ih (.writeKey h)
    · exact .modHub h

theorem Safety.sound.putField {f depth} (h : sound s) : sound (s.putField f depth) := .writeKey (.modEng h)

theorem Safety.sound.noteFields {l} (h : sound s) : sound (s.noteFields l) := .modEng h

theorem Safety.sound.dropFields {k n} (h : sound s) : sound (s.dropFields k n) := .ite h (.modEng h)

/-! ### Translate -/

theorem Safety.sound.setAD {pa d} (h : sound s) : sound (s.setAD pa d) := .ite h (.ite (.hubWrite h) (.frame (.writeKey h)))

theorem Safety.sound.l1Keep {p} (h : sound s) : sound (s.l1Keep p) := .modCaches h

theorem Safety.sound.l1Flush {core} (h : sound s) : sound (s.l1Flush core) := .modCaches (.l1Keep h)

theorem Safety.sound.l1Inval {core ctx vl} (h : sound s) : sound (s.l1Inval core ctx vl) := .l1Keep h

theorem Safety.sound.l1Fill {x ch} (h : sound s) : sound (s.l1Fill x ch) := h.recached (.l1Fill .refl)

theorem Safety.sound.l1Touch {x ch} (h : sound s) : sound (s.l1Touch x ch) := .modCaches (.l1Inval h)

theorem Safety.sound.l1Store {core ctx vl mask d tag ch} (h : sound s) : sound (s.l1Store core ctx vl mask d tag ch) :=
  h.recached (.l1Store .refl)

theorem Safety.sound.dropAliases {cl ctx vbase frame size} (h : sound s) : sound (s.dropAliases cl ctx vbase frame size) := .modCaches h

theorem Safety.sound.useAlias {cl ctx va x} (h : sound s) : sound (s.useAlias cl ctx va x) := .ite (.dropAliases h) h

theorem Safety.sound.tlbInstall {e} (h : sound s) : sound (s.tlbInstall e) := .frame h

theorem Safety.sound.installLeaf {cl ctx va acc lf seen} (h : sound s) : sound (s.installLeaf cl ctx va acc lf seen) :=
  .tlbInstall (.dropAliases (.modCaches (.setAD h)))

theorem Safety.sound.translate {cl ctx va acc} (h : sound s) : sound (s.translate cl ctx va acc).1 := by
  unfold State.translate
  dsimp only
  split
  · split
    · exact h
    · split
      · exact h
      · refine .ite_fst ?_ h
        exact by
          split
          · exact h
          · split
            · exact h
            · exact .installLeaf h
  · exact by
      split
      · exact h
      · split
        · exact h
        · exact .installLeaf h

theorem Safety.sound.translateFresh {cl ctx va acc} (h : sound s) : sound (s.translateFresh cl ctx va acc).1 := .translate (.modCaches h)

theorem Safety.sound.markPages {ctx va n writes} (h : sound s) : sound (s.markPages ctx va n writes) := by
  unfold State.markPages
  exact .foldl h (fun _ _ ht => .ite (by
    split
    · exact .setAD ht
    · exact ht) ht)

theorem Safety.sound.orderPtes {f} (h : sound s) : sound (s.orderPtes f) := .modCaches h

theorem Safety.sound.shootCluster {cl ctx lo hi} (h : sound s) : sound (s.shootCluster cl ctx lo hi) := .modCaches (.l1Keep h)

/-! ### Device -/

theorem Safety.OptSound.deviceWrite {ctx va n v pin} (h : sound s) : OptSound (s.deviceWrite ctx va n v pin) :=
  .map_any fun _ => .foldl (.markPages h) fun _ _ hs => .hubWrite hs

theorem Safety.sound.addRequest {o} (h : sound s) : sound (s.addRequest o) := .modEng h

theorem Safety.sound.putAway {ctx va pa n v} (h : sound s) : sound (s.putAway ctx va pa n v) := by
  unfold State.putAway
  split
  · exact .ite (.writeIn h) (.say h)
  · dsimp only
    exact .say (.addRequest h)
  · exact h

theorem Safety.OptSound.ringWrite {ctx va n v pin} (h : sound s) : OptSound (s.ringWrite ctx va n v pin) := by
  unfold State.ringWrite
  exact .bind_any (fun _ => .ite .none (.some (.foldl (.markPages h) (fun _ _ hs => by
    split
    · exact .foldl hs fun _ _ hs => .ite (.putAway hs) hs
    · exact .foldl hs fun _ _ hs => .ite (.putAway hs) hs
    · exact .hubWrite hs))))

theorem Safety.OptSound.tailWrite {ctx va v} (h : sound s) : OptSound (s.tailWrite ctx va v) :=
  .bind_any fun _ => .ite .none (.some (.foldl (.markPages h) fun _ _ hs => .hubWrite hs))

theorem Safety.sound.endHolds (h : sound s) : sound s.endHolds := .frame h

theorem Safety.sound.noteHeldAt {die ctx code lossless n} (h : sound s) : sound (s.noteHeldAt die ctx code lossless n) :=
  .ite (.noteHold h) h

/-! ### Access -/

theorem Safety.sound.lpWrote {w p v} (h : sound s) : sound (s.lpWrote w p v) :=
  .ite (.modStore h fun _ hm => storeSound_lpNote hm _ _ _ _ _) h

theorem Safety.sound.translateAll {w a ps fresh} (h : sound s) : sound (s.translateAll w a ps fresh).1 := by
  unfold State.translateAll
  exact .foldl_fst h (fun _ _ hr => .ite_fst hr (by
    dsimp only
    split
    · exact hr
    · split
      · rename_i s _ heq
        have hs := sound.fst_of_eq heq (.ite_fst (.translateFresh hr) (.translate hr))
        exact .useAlias hs
      · rename_i s _ heq
        have hs := sound.fst_of_eq heq (.ite_fst (.translateFresh hr) (.translate hr))
        exact hs))

theorem Safety.PrepSound.prep {w a pc addrs fresh asked} (h : sound s) : PrepSound (s.prep w a pc addrs fresh asked) := by
  unfold State.prep
  split
  · exact .fault h
  · refine .ite .wait ?_
    split
    · exact .again (.askBack h)
    · split
      · rename_i s _ _ _ heq
        have hs := sound.fst_of_eq heq (.translateAll h)
        exact .park hs
      · rename_i s _ heq
        have hs := sound.fst_of_eq heq (.translateAll h)
        dsimp only
        split
        · exact .ok hs
        · exact .fault hs

theorem Safety.sound.applyRedirect {r} (h : sound s) : sound (s.applyRedirect r) := .modCaches h

theorem Safety.sound.addDrain {d} (h : sound s) : sound (s.addDrain d) := .ite (.modCaches h) h

theorem Safety.sound.relay {cl ctx va pa} (h : sound s) : sound (s.relay cl ctx va pa).1 := by
  unfold State.relay
  split
  · exact h
  · dsimp only
    exact .emit (.dropAliases (.addDrain (.applyRedirect h)))

theorem Safety.sound.noteRelayHold {ctx va pa} (h : sound s) : sound (s.noteRelayHold ctx va pa) := by
  unfold State.noteRelayHold
  split
  · exact .noteHeldAt h
  · exact h

theorem Safety.sound.relayAll {w ps} (h : sound s) : sound (s.relayAll w ps).1 := by
  unfold State.relayAll
  exact .foldl_fst h (fun _ _ hr => .ite_fst hr (by
    split
    · exact hr
    · dsimp only
      exact .ite_fst hr (.relay hr)))

theorem Safety.sound.readPiece {w p ch fill} (h : sound s) : sound (s.readPiece w p ch fill).1 := by
  unfold State.readPiece
  split
  · dsimp only
    exact .elim h fun _ => .l1Touch h
  · dsimp only
    exact .ite (.l1Fill (.ite h (.touch h))) (.ite h (.touch h))

theorem Safety.sound.hostThrough {die l} (h : sound s) : sound (s.hostThrough die l) := h.recached (.hostThrough .refl)

theorem Safety.sound.storePieces {w ps val ch} (h : sound s) : sound (s.storePieces w ps val ch) :=
  .foldl h fun _ _ hs => .hostThrough (.writeLine (.ite (.elim hs fun _ => .l1Store hs) (.touch (.elim hs fun _ => .l1Store hs))))

/-! ### AtomicOps -/

theorem Safety.sound.performUnit {depth u} (h : sound s) : sound (s.performUnit depth u) := by
  unfold State.performUnit
  dsimp only
  split
  · exact .writeTagged h
  · exact .foldl h fun _ _ hs => .writeKey hs

/-! ### Window -/

theorem Safety.sound.mmioStore {ctx off n v} (h : sound s) : sound (s.mmioStore ctx off n v) := .frame h

/-! ### Fault -/

theorem Safety.sound.queueBatch {ctx recs} (h : sound s) : sound (s.queueBatch ctx recs) := by
  unfold State.queueBatch
  split
  · exact h
  · refine .ite h ?_
    split
    · exact h
    · dsimp only
      refine .ite (.getD (.deviceWrite (.markPages h)) (.markPages h)) ?_
      split
      · rename_i t heq
        have ht := (OptSound.of_eq heq (.bind (.foldl (.some (.markPages h)) (fun _ _ ho => .bind ho (fun _ ht => .ringWrite ht)))
          (fun _ ht => .tailWrite ht))).state
        exact .ite (.say ht) ht
      · exact .getD (.deviceWrite (.markPages h)) (.markPages h)

theorem Safety.sound.writeBatch {ctx who recs systemOnly} (h : sound s) : sound (s.writeBatch ctx who recs systemOnly) := by
  unfold State.writeBatch
  split
  · exact h
  · exact h
  · dsimp only
    exact .foldl (by
      split
      · exact .ite (.queueBatch (.ite (.modCtx h) (.queueBatch (.modCtx h)))) (.ite (.modCtx h) (.queueBatch (.modCtx h)))
      · exact .ite (.modCtx h) (.queueBatch (.modCtx h))) (fun _ _ hs => .emit hs)

theorem Safety.sound.flushRecs {n : Nat} (h : sound s) : sound (s.flushRecs n) := by
  induction n generalizing s with
  | zero => exact h
  | succ n ih =>
    unfold State.flushRecs
    split
    · exact h
    · exact ih (.writeBatch (.frame h))

theorem Safety.sound.settle (h : sound s) : sound s.settle := .flushRecs h

theorem Safety.sound.performOut {w u} (h : sound s) : sound (s.performOut w u) := by
  unfold State.performOut
  split
  · exact .performUnit h
  · exact .foldl h fun _ _ hs => .say hs
  · exact .foldl h fun _ _ hs => .mmioStore hs
  · exact .foldl h (fun _ _ hs => by
      split
      · dsimp only
        split <;> exact .say (.modEng hs)
      · exact hs)

theorem Safety.sound.settleStores {ctx} (h : sound s) : sound (s.settleStores ctx) :=
  .bump (.foldl h fun _ _ ht => .ite (.performOut ht) ht)

theorem Safety.sound.kill {ctx : Nat} {lost : Bool} (h : sound s) : sound (s.kill ctx lost) := by
  unfold State.kill
  exact .modCtx (.modStore (.modEng (.modSched (.frame (.settleStores h)))) fun _ hm => hm)

theorem Safety.sound.lose {ctx core slot sub} (h : sound s) : sound (s.lose ctx core slot sub) := .writeBatch (.kill h)

theorem Safety.OptSound.writeFields {ctx base total fields} (h : sound s) : OptSound (s.writeFields ctx base total fields) := .deviceWrite h

theorem Safety.sound.countSoft {die n} (h : sound s) : sound (s.countSoft die n) := .modDie h

theorem Safety.OptSound.checkWords {core slot p} (h : sound s) : OptSound (s.checkWords core slot p) :=
  .ite (.some h) (.ite .none (.some (.countSoft (.frame h))))

theorem Safety.sound.clearWords {core slot p} (h : sound s) : sound (s.clearWords core slot p) := .ite h (.frame h)

theorem Safety.ExceptSound.writeFrame {w reason pc} (h : sound s) : ExceptSound (s.writeFrame w reason pc) := by
  unfold State.writeFrame
  split
  · exact .error
  · exact .error
  · rename_i s heq
    have hs := (OptSound.of_eq heq (.checkWords h)).state
    dsimp only
    split
    · rename_i heq
      exact .ite .error (.ok (OptSound.of_eq heq (.writeFields hs)).state)
    · exact .error

theorem Safety.sound.dropSpan {core ctx va n} (h : sound s) : sound (s.dropSpan core ctx va n) := .l1Keep h

theorem Safety.sound.tryEntry {core slot} (h : sound s) : sound (s.tryEntry core slot) := by
  unfold State.tryEntry
  split
  · exact h
  · split
    · exact h
    · dsimp only
      refine .ite (.ite (.l1Flush (.setWarp h)) h) (.ite h (.ite (.setWarp (.writeBatch h)) ?_))
      split
      · exact .lose (.writeBatch h)
      · rename_i s heq
        have hs := (ExceptSound.of_eq heq (.writeFrame (.writeBatch h))).state
        exact .modWarp (.foldl hs fun _ _ hs => .dropSpan hs)

theorem Safety.sound.raise {core slot recs reason pc} (h : sound s) : sound (s.raise core slot recs reason pc) := .tryEntry (.modWarp h)

theorem Safety.sound.raiseRecs {core slot recs pc} (h : sound s) : sound (s.raiseRecs core slot recs pc) := by
  unfold State.raiseRecs
  split
  · exact h
  · exact .raise h

/-! ### Operands -/

theorem Safety.ResSound.bad {x} (h : sound c.s) : ResSound (c.bad x) := .fault h

theorem Safety.ResSound.badHood {x va} (h : sound c.s) : ResSound (c.badHood x va) := .fault h

theorem Safety.sound.put {g} (h : sound c.s) : sound (c.put g) := .modWarp h

theorem Safety.ResSound.done {g} (h : sound c.s) : ResSound (c.done g) := .next (.put h)

theorem Safety.sound.advance {core slot hood pc} (h : sound s) : sound (s.advance core slot hood pc) := .modWarp h

theorem Safety.sound.signed (hs : sound s) : sound (c.signed s) := .ite hs (.modStore hs fun _ hm => storeSound_signPast hm _ _)

theorem Safety.sound.closeIssue {before done} (hs : sound s) : sound (closeIssue c before s done) :=
  .ite (.clearWords (.modWarp (.signed hs))) (.modWarp (.signed hs))

theorem Safety.sound.parked {before recs lanes done} (hs : sound s) : sound (c.parked before s recs lanes done) := by
  unfold Issue.parked
  dsimp only
  split
  · exact .modWarp hs
  · exact .closeIssue (.frame (.advance (.modWarp (.writeBatch (.elim hs fun _ => .clearWords hs)))))

theorem Safety.sound.finish {before r} (hc : sound c.s) (hr : ResSound r) : sound (c.finish before r) := by
  unfold Issue.finish
  dsimp only
  split
  · exact .closeIssue (.frame (.advance hr.state))
  · exact .closeIssue (.frame hr.state)
  · exact .modWarp hc
  · exact .modWarp hr.state
  · exact .modWarp hr.state
  · exact .raiseRecs hr.state
  · exact .raiseRecs (.closeIssue (.frame (.advance hr.state)))
  · exact .ite (.raiseRecs hr.state) (.parked hr.state)
  · exact .ite (.raiseRecs hr.state) (.parked hr.state)
  · exact .closeIssue (.modWarp (.advance (.frame hr.state)))

theorem Safety.sound.closeLate {before later} (hs : sound s) : sound (c.closeLate before later s) := .modWarp (.signed hs)

theorem Safety.sound.modLog {core slot i g} (h : sound s) : sound (s.modLog core slot i g) := .modWarp h

theorem Safety.sound.entryIssue {w i opc f} (h : sound s) : sound (s.entryIssue w i opc f).s := h

theorem Safety.sound.replayed {w i r} (hc : sound c.s) (hr : ResSound r) : sound (c.replayed w i r) := by
  unfold Issue.replayed
  dsimp only
  split
  · exact .closeLate (.modWarp hr.state)
  · exact .modWarp hr.state
  · exact .raiseRecs (.modWarp hr.state)
  · exact .raiseRecs (.modWarp hr.state)
  · exact .modLog hc

theorem Safety.OutSound.issue {opc : Nat} {f : Form} {body : Issue → Res} (h : sound s) (hb : ∀ c, sound c.s → ResSound (body c)) :
    OutSound (issue opc f s body) := by
  unfold Machine.issue
  split
  · split
    · exact .next (.settle (.replayed (.entryIssue h) (hb _ (.entryIssue h))))
    · exact .refused
  · dsimp only
    split
    · exact .next (.settle (.raiseRecs h))
    · split
      · exact .next (.modWarp h)
      · exact .next (.settle (.finish h (hb _ h)))

/-! ### Flags -/

theorem Safety.ResSound.doneFlags {raised g} (h : sound c.s) : ResSound (c.doneFlags raised g) := by
  unfold Issue.doneFlags
  dsimp only
  split
  · exact .next (.put h)
  · exact .trap (.put h)

/-! ### Fetch -/

theorem Safety.sound.icacheInstall {x} (h : sound s) : sound (s.icacheInstall x) := .frame h

theorem Safety.sound.icacheFill {core ctx va d1 d2} (h : sound s) : sound (s.icacheFill core ctx va d1 d2).1 :=
  .icacheInstall (.ite h (.countSoft h))

theorem Safety.OptSound.fetchHeld {core ctx va} (h : sound s) : OptSound (s.fetchHeld core ctx va) := by
  unfold State.fetchHeld
  refine .ite .none ?_
  split
  · exact .some (.askBack h)
  · exact .some h
  · exact .none

theorem Safety.sound.fetchLine {core ctx va} (h : sound s) : sound (s.fetchLine core ctx va).1 := by
  unfold State.fetchLine
  split
  · exact h
  · split
    · rename_i s _ heq
      have hs := sound.fst_of_eq heq (.translate h)
      exact hs
    · rename_i s _ heq
      have hs := sound.fst_of_eq heq (.translate h)
      dsimp only
      exact .icacheFill (.touch (.relay hs))

theorem Safety.sound.targetFault {core ctx target} (h : sound s) : sound (s.targetFault core ctx target).1 := by
  unfold State.targetFault
  split
  · exact h
  · split
    · rename_i s _ heq
      have hs := sound.fst_of_eq heq (.fetchLine h)
      exact hs
    · rename_i s _ heq
      have hs := sound.fst_of_eq heq (.fetchLine h)
      exact hs

theorem Safety.sound.stopFetch {w stop act va f} (h : sound s) : sound (s.stopFetch w stop act va f) := .modWarp (.writeBatch h)

theorem Safety.sound.fetchFault {w va f} (h : sound s) : sound (s.fetchFault w va f) := .ite (.raiseRecs h) (.stopFetch h)

theorem Safety.FetchedSound.fetchHood {w} (h : sound s) : FetchedSound (s.fetchHood w) := by
  unfold State.fetchHood
  dsimp only
  split
  · exact .done (.raiseRecs h)
  · refine .ite (.done (.modWarp h)) ?_
    split
    · rename_i heq
      exact .done (.modWarp (OptSound.of_eq heq (.fetchHeld h)).state)
    · split
      · rename_i s _ heq
        have hs := sound.fst_of_eq heq (.fetchLine h)
        exact .done (.fetchFault hs)
      · rename_i s _ heq
        have hs := sound.fst_of_eq heq (.fetchLine h)
        exact .ite (.done (.raiseRecs hs)) (.ite (.done (.raiseRecs hs))
          (.ite (.done (.raiseRecs hs)) (.ite (.done (.raiseRecs hs)) (.word (.modWarp hs)))))

/-! ### Collect -/

theorem Safety.sound.resolveFelt {core slot} (h : sound s) : sound (s.resolveFelt core slot) := by
  unfold State.resolveFelt
  split
  · exact h
  · split
    · exact .setWarp h
    · exact .ite (.setWarp h) (.ite (.raiseRecs h) h)

theorem Safety.sound.whole (h : sound c.s) : sound (c.whole).s := h

theorem Safety.sound.passOthers (hs : sound s) : sound (c.passOthers s) := .modWarp hs

theorem Safety.ResSound.passed {r} (hr : ResSound r) : ResSound (c.passed r) := by
  unfold Issue.passed
  split
  · exact .next (.passOthers hr.state)
  · exact .trap (.passOthers hr.state)
  · exact .park (.passOthers hr.state)
  · exact .parkSome (.passOthers hr.state)
  · exact .fly (.passOthers hr.state)
  · exact hr

theorem Safety.ResSound.collective {k} (hc : sound c.s) (hk : ∀ x0, sound x0.s → ResSound (k x0)) : ResSound (c.collective k) :=
  .ite (.passed (hk _ (.whole hc))) (.hold (.resolveFelt (.put hc)))

/-! ### Outside -/

theorem Safety.sound.dropAnswers {a} (h : sound s) : sound (s.dropAnswers a) := .modEng h

theorem Safety.GateSound.andThen {g k} (hg : GateSound g) (hk : ∀ x0, sound x0 → GateSound (k x0)) : GateSound (g.andThen k) := by
  unfold Gate.andThen
  split
  · exact hk _ hg.state
  · split
    · rename_i heq
      exact .wait (GateSound.of_eq heq (hk _ hg.state)).state
    · rename_i heq
      exact .wait (GateSound.of_eq heq (hk _ hg.state)).state
    · rename_i heq
      exact .wait (GateSound.of_eq heq (hk _ hg.state)).state
  · split
    · rename_i heq
      exact .again (GateSound.of_eq heq (hk _ hg.state)).state
    · rename_i heq
      exact .wait (GateSound.of_eq heq (hk _ hg.state)).state
    · rename_i heq
      exact .again (GateSound.of_eq heq (hk _ hg.state)).state

theorem Safety.sound.drainRelayed {a va} (h : sound s) : sound (s.drainRelayed a va) := by
  unfold State.drainRelayed
  split
  · exact .addDrain h
  · exact h

theorem Safety.GateSound.askPod {a line va lanes op mask} (h : sound s) : GateSound (s.askPod a line va lanes op mask) := by
  unfold State.askPod
  split
  · exact .ite (.ready h) (.wait h)
  · refine .ite (.again h) ?_
    split
    · dsimp only
      exact .wait (.say (.drainRelayed (.addRequest h)))
    · exact .ready h

theorem Safety.sound.postPod {a line va mask d origin} (h : sound s) : sound (s.postPod a line va mask d origin) := by
  unfold State.postPod
  split
  · dsimp only
    exact .say (.drainRelayed (.addRequest h))
  · exact h

theorem Safety.GateSound.askHost {a line va write} (h : sound s) : GateSound (s.askHost a line va write) :=
  .ite (.ready h) (.wait (.ite (.ite h (.addRequest h)) (.say (.ite h (.addRequest h)))))

theorem Safety.GateSound.askUc {a pa va n} (h : sound s) : GateSound (s.askUc a pa va n) := by
  unfold State.askUc
  split
  · exact .ite (.ready h) (.wait h)
  · exact .wait (.say (.addRequest h))

theorem Safety.GateSound.gateHome {a l va u} (h : sound s) : GateSound (s.gateHome a l va u) := by
  unfold State.gateHome
  dsimp only
  refine .ite (.ready h) (.ite (.again h) (.ite (.again (.askBack h)) ?_))
  split
  · exact .ite (.ready h) (.ite (.wait h) (.ite (.again h) (.wait (.addRequest h))))
  · exact .ready h

theorem Safety.GateSound.gateRead {a attr key va n mask} (h : sound s) : GateSound (s.gateRead a attr key va n mask) := by
  unfold State.gateRead
  refine .ite (.ready h) ?_
  split
  · exact .askPod h
  · exact .ite (.askUc h) (.askHost h)
  · exact .ready h
  · exact .gateHome h

theorem Safety.GateSound.gateWrite {a attr key va u} (h : sound s) : GateSound (s.gateWrite a attr key va u) := by
  unfold State.gateWrite
  refine .ite (.ready h) ?_
  split
  · exact .ite (.again h) (.ready h)
  · exact .ite (.ready h) (.askHost h)
  · exact .ready h
  · exact .gateHome h

theorem Safety.GateSound.gateFold {α : Type} {l : List α} {f : State → α → Gate} (hs : sound s)
    (hf : ∀ x0 x1, sound x0 → GateSound (f x0 x1)) : GateSound (gateFold l s f) :=
  .foldl (.ready hs) fun _ _ hg => .andThen hg fun _ hs => hf _ _ hs

theorem Safety.ResSound.waits {x posted} (hs : sound s) : ResSound (c.waits s x posted) := by
  unfold Issue.waits
  dsimp only
  refine .ite ?_ (.hold (.modWarp hs))
  split
  · exact .fly hs
  · exact .fly hs
  · exact .hold (.modWarp hs)

theorem Safety.ResSound.gated {g ps k units posted} (hg : GateSound g) (hk : ∀ x0, sound x0 → ResSound (k x0)) :
    ResSound (c.gated g ps k units posted) := by
  unfold Issue.gated
  split
  · split
    · exact .ite (.again hg.state) (hk _ hg.state)
    · exact .fault (.dropAnswers hg.state)
  · exact .waits hg.state
  · exact .again hg.state

/-! ### Memory -/

theorem Safety.sound.noteRelease {f atomic ps} (hs : sound s) : sound (c.noteRelease f atomic ps s) :=
  .ite (.modEng (.ite hs (.modEng hs))) (.ite hs (.modEng hs))

theorem Safety.sound.acquired {acq scope} (hs : sound s) : sound (c.acquired acq scope s) := .ite (.l1Flush hs) hs

theorem Safety.ResSound.resolve {a store addrs k} (hc : sound c.s) (hk : ∀ x0 x1, sound x0 → ResSound (k x0 x1)) :
    ResSound (c.resolve a store addrs k) := by
  unfold Issue.resolve
  dsimp only
  refine .ite (.ite (.again (.foldl hc fun _ _ hs => .ite (.noteRelayHold hs) hs))
    (.ite (.fault (.relayAll hc)) (.ite (.again (.relayAll hc)) (hk _ _ (.relayAll hc))))) ?_
  split
  · rename_i heq
    exact .fault (PrepSound.of_eq heq (.prep hc)).state
  · rename_i heq
    exact .park (PrepSound.of_eq heq (.prep hc)).state
  · exact .stall
  · rename_i heq
    exact .again (PrepSound.of_eq heq (.prep hc)).state
  · rename_i s _ heq
    have hs := (PrepSound.of_eq heq (.prep hc)).state
    exact .ite (.again (.foldl hs fun _ _ hs => .ite (.noteRelayHold hs) hs))
      (.ite (.fault (.relayAll hs)) (.ite (.again (.relayAll hs)) (hk _ _ (.relayAll hs))))

theorem Safety.sound.fetchPiece {a w p ch fill} (h : sound s) : sound (s.fetchPiece a w p ch fill).1 := by
  unfold State.fetchPiece
  dsimp only
  refine .ite_fst (.readPiece h) ?_
  split
  · split <;> exact h
  · refine .ite_fst ?_ (.readPiece h)
    split <;> exact h
  · exact h
  · exact .readPiece h

theorem Safety.sound.fetchAll {a w ps ch fill} (h : sound s) : sound (s.fetchAll a w ps ch fill).1 :=
  .foldl_fst h fun _ _ hr => .fetchPiece hr

theorem Safety.GateSound.readGate {ps} (hs : sound s) : GateSound (c.readGate s ps) := .gateFold hs fun _ _ hs => .gateRead hs

theorem Safety.ResSound.consumed {bad} (hs : sound s) : ResSound (c.consumed s bad) := .ite (.park hs) (.fault hs)

theorem Safety.ResSound.afterLoad {c : Issue} {bad : List LaneFault} {some_ : Bool} {k : State → Res} (hs : sound s)
    (hk : ∀ t, sound t → ResSound (k t)) : ResSound (c.afterLoad s bad some_ k) := by
  unfold Issue.afterLoad
  refine .ite (hk _ hs) (.ite ?_ (.consumed hs))
  split
  · rename_i heq
    exact .fault (ResSound.of_eq heq (hk _ hs)).state
  · exact hk _ hs

theorem Safety.sound.bypassed {a ps} (hs : sound s) : sound (c.bypassed a ps s) := .ite hs (.foldl hs fun _ _ hs => .ite (.l1Inval hs) hs)

theorem Safety.ResSound.load {a ch fill addrs k} (hc : sound c.s) (hk : ∀ x0 x1, sound x0 → ResSound (k x0 x1)) :
    ResSound (c.load a ch fill addrs k) :=
  .resolve hc fun _ _ hs => .gated (.readGate hs) fun _ hs => .afterLoad (.bypassed (.dropAnswers (.fetchAll hs))) fun _ hs => hk _ _ hs

theorem Safety.ResSound.loaded {f g} (hs : sound s) : ResSound (c.loaded f s g) := .next (.acquired (.put hs))

theorem Safety.ResSound.sld {f} (h : sound c.s) : ResSound (c.sld f) := .ite (.next h) (.load h fun _ _ hs => .loaded hs)

theorem Safety.ResSound.vld {f} (h : sound c.s) : ResSound (c.vld f) := .ite (.next h) (.load h fun _ _ hs => .loaded hs)

theorem Safety.GateSound.writeGate {ps u} (hs : sound s) : GateSound (c.writeGate s ps u) :=
  .andThen (.gateFold hs fun _ _ hs => .gateWrite hs) fun _ hs => .ite (.ready hs) (.again hs)

theorem Safety.sound.storeAll {ps val ch} (hs : sound s) : sound (c.storeAll s ps val ch) := by
  unfold Issue.storeAll
  dsimp only
  exact .foldl (.foldl (.foldl (.foldl (.storePieces hs) (fun _ _ ht => .postPod ht)) (fun _ _ ht => .say ht)) (fun _ _ ht => by
    split
    · exact .mmioStore ht
    · exact ht)) (fun _ _ ht => .lpWrote ht)

theorem Safety.ResSound.store {f n scalar val} (h : sound c.s) : ResSound (c.store f n scalar val) :=
  .ite (.next h) (.ite .stall (.resolve h fun _ _ hs => .ite (.again hs)
    (.gated (.writeGate hs) fun _ hs => .next (.acquired (.dropAnswers (.noteRelease (.storeAll hs)))))))

theorem Safety.ResSound.sst {f} (h : sound c.s) : ResSound (c.sst f) := .store h

theorem Safety.ResSound.vst {f} (h : sound c.s) : ResSound (c.vst f) := .store h

theorem Safety.sound.fetchLinePiece {a w p ch fill} (h : sound s) : sound (s.fetchLinePiece a w p ch fill).1 := .fetchPiece h

theorem Safety.sound.fetchBeats {f beats} (hs : sound s) : sound (c.fetchBeats f beats s).1 :=
  .foldl_fst hs fun _ _ hr => .ite_fst (.fetchLinePiece hr) (.fetchAll hr)

theorem Safety.ResSound.vldl {f} (h : sound c.s) : ResSound (c.vldl f) :=
  .ite (.next h) (.resolve h fun _ _ hs => .gated (.readGate hs) fun _ hs => .afterLoad (.dropAnswers (.fetchBeats hs)) fun _ hs => .loaded
    hs)

theorem Safety.sound.storeLine {p d t ch} (hs : sound s) : sound (c.storeLine s p d t ch) := by
  unfold Issue.storeLine
  dsimp only
  split
  · exact .postPod hs
  · exact .foldl hs fun _ _ hs => .say hs
  · exact .lpWrote (.hostThrough (.writeTagged (.ite (.ite (.l1Store hs) hs) (.touch (.ite (.l1Store hs) hs)))))

theorem Safety.ResSound.vstl {f} (h : sound c.s) : ResSound (c.vstl f) :=
  .ite (.next h) (.ite .stall (.resolve h fun _ _ hs => .ite (.again hs)
    (.gated (.writeGate hs) fun _ hs => .next (.acquired (.dropAnswers (.noteRelease (.foldl hs fun _ _ hs => .storeLine hs)))))))

theorem Safety.sound.askFill {core ctx line x ch} (h : sound s) : sound (s.askFill core ctx line x ch) := by
  unfold State.askFill
  dsimp only
  refine .ite (.ite h (.modCaches h)) (.ite ?_ h)
  refine .ite (.touch h) ?_
  split
  · rename_i heq
    exact (GateSound.of_eq heq (.askHost h)).state
  · rename_i heq
    exact (GateSound.of_eq heq (.askHost h)).state
  · rename_i heq
    exact (GateSound.of_eq heq (.askHost h)).state

theorem Safety.sound.prefLane {f line} (hs : sound s) : sound (c.prefLane f s line) := by
  unfold Issue.prefLane
  dsimp only
  split
  · exact .askFill (.l1Touch hs)
  · split
    · exact .modCaches hs
    · split
      · rename_i s _ heq
        have hs := sound.fst_of_eq heq (.translate hs)
        exact hs
      · rename_i s _ heq
        have hs := sound.fst_of_eq heq (.translate hs)
        exact .askFill (.useAlias hs)

theorem Safety.ResSound.pref {f} (h : sound c.s) : ResSound (c.pref f) :=
  .ite .stall (.ite .stall (.next (.foldl h fun _ _ hs => .prefLane hs)))

theorem Safety.sound.l2Clean {die l} (h : sound s) : sound (s.l2Clean die l) := by
  unfold State.l2Clean
  split
  · exact h
  · refine .ite ?_ h
    dsimp only
    exact .modCoh (by
      split
      · exact .say h
      · exact h)

theorem Safety.sound.cctlLine {op p} (hs : sound s) : sound (c.cctlLine op s p) := by
  unfold Issue.cctlLine
  dsimp only
  refine .ite hs ?_
  split
  · exact .modCoh (.modCaches hs)
  · exact .l1Inval hs
  · exact .l2Clean hs
  · split
    · exact .l2Evict (.l1Inval (.l2Clean hs))
    · exact .l1Inval (.l2Clean hs)

theorem Safety.ResSound.cctl {f} (h : sound c.s) : ResSound (c.cctl f) :=
  .ite (.next h) (.resolve h fun _ _ hs => .next (.foldl hs fun _ _ hs => .cctlLine hs))

theorem Safety.ResSound.fence {f} (h : sound c.s) : ResSound (c.fence f) := .ite (.next h) (.ite .stall (.next (.ite (.l1Flush h) h)))

theorem Safety.sound.startFence {op} (h : sound s) : sound (s.startFence op) := .foldl (.modEng h) fun _ _ hs => .say hs

theorem Safety.ResSound.tfence {f} (h : sound c.s) : ResSound (c.tfence f) := by
  unfold Issue.tfence
  dsimp only
  refine .ite (.next h) (.ite .stall (.ite (.badHood h) (.ite (.badHood h) ?_)))
  split
  · exact .fault h
  · split
    · exact .next (.l1Flush h)
    · exact .hold (.modWarp (.l1Flush (.startFence (.modEng h))))

theorem Safety.ResSound.waitv {f} (h : sound c.s) : ResSound (c.waitv f) :=
  .ite (.next h) (.load h fun _ _ hs => .ite (.waits hs) (.loaded hs))

/-! ### Atomic -/

theorem Safety.GateSound.atomicGate {f op ps} (hs : sound s) : GateSound (c.atomicGate f op s ps) := by
  unfold Issue.atomicGate
  dsimp only
  refine .ite (.ready hs) ?_
  exact .andThen (.foldl (.gateFold hs (fun _ _ hs => .gateWrite hs)) (fun _ _ hg => by
    split
    · exact .askPod hg.state
    · exact hg)) (fun _ hs => .ite (.ready hs) (.again hs))

theorem Safety.sound.atomicWrite {f split p v} (hs : sound s) : sound (c.atomicWrite f split s p v) :=
  .lpWrote (.ite (.ite (.postPod hs) hs) (.hostThrough (.writeIn (.ite hs (.l1Inval (.touch hs))))))

theorem Safety.sound.atomicLane {f op ps} (hs : sound s) : sound (c.atomicLane f op s ps).1 := by
  unfold Issue.atomicLane
  split
  · exact hs
  · dsimp only
    split
    · exact hs
    · exact .foldl hs fun _ _ hs => .atomicWrite hs

theorem Safety.sound.atomicAll {f op ps} (hs : sound s) : sound (c.atomicAll f op ps s).1 := by
  unfold Issue.atomicAll
  exact .foldl_fst hs (fun _ _ hr => by
    dsimp only
    split
    · rename_i s _ heq
      have hs := sound.fst_of_eq heq (.atomicLane hr)
      exact hs
    · rename_i s _ heq
      have hs := sound.fst_of_eq heq (.atomicLane hr)
      exact hs)

theorem Safety.ResSound.atomic {f op scalar} (h : sound c.s) : ResSound (c.atomic f op scalar) := by
  unfold Issue.atomic
  refine .ite (.next h) (.ite .stall ?_)
  exact .resolve h (fun _ _ hs => .ite (.again hs) (.gated (.atomicGate hs) (fun _ hs => .ite (.fault (.dropAnswers hs)) (by
    dsimp only
    split
    · exact .next (.acquired (.put (.dropAnswers (.noteRelease (.atomicAll hs)))))
    · exact .ite (.parkSome (.put (.dropAnswers (.noteRelease (.atomicAll hs)))))
        (.fault (.put (.dropAnswers (.noteRelease (.atomicAll hs)))))))))

/-! ### Band -/

theorem Safety.sound.putBand {ctx k old new depth} (h : sound s) : sound (s.putBand ctx k old new depth) := by
  unfold State.putBand
  dsimp only
  refine .ite (.noteFields (.putField h)) ?_
  split
  · exact .noteFields (.putField h)
  · exact .modEng (.noteFields (.putField h))

theorem Safety.ResSound.bandOp {f store k} (hc : sound c.s) (hk : ∀ x0, ResSound (k x0)) : ResSound (c.bandOp f store k) := by
  unfold Issue.bandOp
  refine .ite (.next hc) ?_
  split
  · exact .fault hc
  · exact .ite .stall (hk _)

theorem Safety.ResSound.bandi {f} (h : sound c.s) : ResSound (c.bandi f) := .bandOp h fun _ => .next (.putBand h)

theorem Safety.ResSound.bandx {f} (h : sound c.s) : ResSound (c.bandx f) :=
  .bandOp h fun _ => .ite (.badHood h) (.ite (.badHood h) (.next (.putBand h)))

theorem Safety.ResSound.banda {f} (h : sound c.s) : ResSound (c.banda f) :=
  .bandOp h fun _ => .ite (.badHood h) (.ite (.badHood h) (.next (.putBand h)))

theorem Safety.sound.deliverFlags {w key} (h : sound s) : sound (s.deliverFlags w key) := by
  unfold State.deliverFlags
  split
  · exact h
  · dsimp only
    exact .ite h (.modWarp (.modEng h))

theorem Safety.ResSound.bandw {f} (h : sound c.s) : ResSound (c.bandw f) :=
  .bandOp h fun _ => .ite (.badHood h) (.ite (.badHood h) (.ite (.next (.acquired (.put (.deliverFlags h)))) (.hold (.modWarp h))))

theorem Safety.ResSound.bandt {f} (h : sound c.s) : ResSound (c.bandt f) := .bandOp h fun _ => .ite (.badHood h) (.done h)

/-! ### CopyCheck -/

theorem Safety.sound.modCopy {id f} (h : sound s) : sound (s.modCopy id f) := .modEng h

theorem Safety.sound.setSpill {die n} (h : sound s) : sound (s.setSpill die n) := .modEng h

theorem Safety.sound.freeSpill {c n} (h : sound s) : sound (s.freeSpill c n) := .setSpill h

/-! ### BlockFrame -/

theorem Safety.OptSound.putFrameLine {ctx va n v poison} (h : sound s) : OptSound (s.putFrameLine ctx va n v poison) := by
  unfold State.putFrameLine
  exact .map (.deviceWrite h) (fun _ ht => by
    split
    · exact .modStore ht fun _ hm => storeSound_poisonLine hm _ _
    · exact ht)

theorem Safety.OptSound.writeBlockFrame {g b} (h : sound s) : OptSound (s.writeBlockFrame g b) := by
  unfold State.writeBlockFrame
  split
  · exact .none
  · dsimp only
    split
    · exact .none
    · exact .foldl (.foldl (.deviceWrite h) fun _ _ ho => .bind ho fun _ ht => .putFrameLine ht) fun _ _ ho => .bind ho fun _ ht =>
        .putFrameLine ht

theorem Safety.storeSound_placeLine {m : Store} (h : storeSound m) (l : Nat) (d : LineData) (t : TagWord) (p : Option Nat) :
    storeSound (m.placeLine l d t p) := by
  unfold Store.placeLine
  split
  · exact storeSound_poisonLine (storeSound_writeTagged h _ _ _) _ _
  · exact storeSound_writeTagged h _ _ _

theorem Safety.OptSound.reloadImage {g b base} (h : sound s) : OptSound (s.reloadImage g b base) := by
  unfold State.reloadImage
  exact .foldl (.some h) (fun _ _ ho => .bind ho (fun _ ht => by
    split
    · dsimp only
      exact .some (.modStore ht fun _ hm => storeSound_placeLine hm _ _ _ _)
    · exact .none))

theorem Safety.sound.noteBlockFields {b l} (h : sound s) : sound (s.noteBlockFields b l) := .noteFields h

theorem Safety.OptFstSound.reloadBlock {g : Gang} {b : Block} (h : sound s) : OptFstSound (s.reloadBlock g b) := by
  unfold State.reloadBlock
  split
  · exact .none
  · exact .bind_any fun _ => .map (.reloadImage h) fun _ ht => .markPages (.modGang (.noteBlockFields ht))

theorem Safety.storeSound_redraw {m : Store} (h : storeSound m) (free l : Nat) : storeSound (m.redraw free l) :=
  storeSound_setTag (storeSound_foldl (fun _ _ h => storeSound_setByte h _ _) _ h) _ _

theorem Machine.Memory.foldl_put_wf {β : Type} [DecidableEq β] {d b : β} (l : List Nat) {m : List (Nat × β)} (h : Memory.wf d m) :
    Memory.wf d (l.foldl (fun o k => Memory.put d o k b) m) := by
  induction l generalizing m with
  | nil => exact h
  | cons k l ih => exact ih (Memory.put_wf h k b)

theorem Safety.sound.readyScratch {ctx core base n : Nat} (h : sound s) : sound (s.readyScratch ctx core base n) := by
  unfold State.readyScratch
  exact .bump (.dropFields (.modStore (.modStore h fun _ hm =>
    ⟨Memory.filter_wf hm.1 _, Memory.filter_wf hm.2.1 _, Memory.filter_wf hm.2.2.1 _, Memory.foldl_put_wf _ hm.2.2.2⟩)
    fun _ hm => storeSound_foldl (fun _ _ h => storeSound_redraw h _ _) _ hm))

/-! ### Watches -/

theorem Safety.sound.watchPages {w lane base len} (h : sound s) : sound (s.watchPages w lane base len).1 := by
  unfold State.watchPages
  exact .foldl_fst h (fun _ _ hr => by
    dsimp only
    split
    · rename_i s _ heq
      have hs := sound.fst_of_eq heq (.translate hr)
      exact hs
    · rename_i s _ heq
      have hs := sound.fst_of_eq heq (.translate hr)
      exact .relay hs)

theorem Safety.sound.installWatch {w} (h : sound s) : sound (s.installWatch w) := .modSched (.foldl h fun _ _ hs => .recallAll hs)

theorem Safety.sound.installAll {ctx id d lines dies} (h : sound s) : sound (s.installAll ctx id d lines dies) :=
  .foldl h fun _ _ hs => .installWatch hs

theorem Safety.ResSound.watch {f} (h : sound c.s) : ResSound (c.watch f) := by
  unfold Issue.watch
  refine .ite (.next h) ?_
  exact .load h (fun _ _ hs => .ite (.next (.put hs)) (by
    dsimp only
    split
    · rename_i s _ _ _ heq
      have hs := sound.fst_of_eq heq (.watchPages hs)
      exact .park hs
    · rename_i s _ heq
      have hs := sound.fst_of_eq heq (.watchPages hs)
      refine .ite (.next (.put hs)) ?_
      split
      · exact .next (.put (.installAll hs))
      · exact .next (.put (.writeBatch hs))))

theorem Safety.sound.fixTrig {w} (h : sound s) : sound (s.fixTrig w) := .modSched h

theorem Safety.sound.freeWatches {ws} (h : sound s) : sound (s.freeWatches ws) := .modSched (.foldl h fun _ _ hs => .fixTrig hs)

theorem Safety.OptSound.unwatch {ctx id} (h : sound s) : OptSound (s.unwatch ctx id) := .ite .none (.some (.freeWatches h))

theorem Safety.ResSound.issue_unwatch {f} (h : sound c.s) : ResSound (c.unwatch f) := by
  unfold Issue.unwatch
  refine .ite (.next h) ?_
  dsimp only
  exact .next (.put (by
    split
    · rename_i heq
      exact (OptSound.of_eq heq (.unwatch h)).state
    · exact h))

/-! ### Record -/

theorem Safety.sound.layRecord {r} (h : sound s) : sound (s.layRecord r) := by
  unfold State.layRecord
  split
  · exact h
  · dsimp only
    exact .foldl h fun _ _ hs => .writeKey hs

/-! ### Xlay -/

theorem Safety.ResSound.xlayStatus {f st} (hs : sound s) : ResSound (c.xlayStatus f s st) := .next (.put hs)

theorem Safety.sound.setLayout {ctx h r} (hs : sound s) : sound (s.setLayout ctx h r) := .modCtx hs

theorem Safety.ResSound.xlayInstall {f at_} (h : sound c.s) : ResSound (c.xlayInstall f at_) := by
  unfold Issue.xlayInstall
  exact .load h (fun _ _ hs => .ite (.xlayStatus hs) (by
    split
    · exact .xlayStatus hs
    · exact .xlayStatus (.setLayout hs)))

theorem Safety.ResSound.xlayNew {f} (h : sound c.s) : ResSound (c.xlayNew f) := .ite (.next h) (.xlayInstall h)

theorem Safety.ResSound.xlaySet {f} (h : sound c.s) : ResSound (c.xlaySet f) := .ite (.next h) (.ite (.xlayStatus h) (.xlayInstall h))

theorem Safety.ResSound.xlayFree {f} (h : sound c.s) : ResSound (c.xlayFree f) :=
  .ite (.next h) (.ite (.xlayStatus (.modCtx h)) (.xlayStatus h))

/-! ### Replay -/

theorem Safety.OptResSound.performWord (h : sound c.s) : OptResSound (performWord c) := by
  unfold Machine.performWord
  split
  · exact .some (.sld h)
  · exact .some (.sst h)
  · exact .some (.vld h)
  · exact .some (.vst h)
  · exact .some (.vldl h)
  · exact .some (.vstl h)
  · exact .some (.pref h)
  · exact .some (.cctl h)
  · exact .some (.waitv h)
  · exact .some (.watch h)
  · exact .some (.issue_unwatch h)
  · exact .some (.bandw h)
  · exact .some (.ite (.xlayNew h) (.ite (.xlaySet h) (.xlayFree h)))
  · exact .ite (.some (.atomic h)) (.ite (.some (.atomic h)) .none)
  · exact .none

theorem Safety.sound.pairLate {before} (hs : sound s) : sound (s.pairLate c before) := .ite hs (.modWarp hs)

theorem Safety.OptIssueSound.keptIssue {core slot hood : Nat} (h : sound s) : OptIssueSound (s.keptIssue core slot hood) := by
  unfold State.keptIssue
  split
  · exact .none
  · split
    · exact .none
    · split
      · exact .none
      · exact .some (sound.setWarp h)

theorem Safety.ResSound.withOthers {r} (hr : ResSound r) : ResSound (c.withOthers r) := .ite (.passed hr) hr

theorem Safety.sound.modFlights {core slot g} (h : sound s) : sound (s.modFlights core slot g) := .modWarp h

theorem Safety.sound.flyOn {core slot : Nat} {x : Flight} (h : sound s) : sound (s.flyOn core slot x) := by
  unfold State.flyOn
  split
  · extract_lets c drop park
    refine .tryEntry ?_
    have hdrop : ∀ t, sound t → sound (drop t) := fun _ ht => .modFlights ht
    have hpark : ∀ t recs m, sound t → sound (park t recs m) := fun t recs m ht => by
      refine .ite (.raiseRecs (hdrop _ ht)) ?_
      split
      · exact ht
      · split
        · exact h
        · exact .modWarp (.writeBatch (hdrop _ ht))
    have hr : OptResSound (performWord c) := .performWord h
    revert hr
    rcases performWord c with _ | r
    · exact fun _ => h
    · intro hr
      cases r
      case next t => exact .closeLate (.bump (hdrop t hr.state.state))
      case jump t => exact hdrop t hr.state.state
      case stall => exact h
      case again t => exact hr.state.state
      case hold t => exact hr.state.state
      case fault t recs => exact .raiseRecs (hdrop t hr.state.state)
      case trap t recs => exact .raiseRecs (hdrop t hr.state.state)
      case park t recs => exact hpark t _ _ hr.state.state
      case parkSome t recs m => exact hpark t _ _ hr.state.state
      case fly t y => exact .modFlights hr.state.state
  · exact h

theorem Safety.sound.goOn {core slot hood p} (h : sound s) : sound (s.goOn core slot hood p) := by
  unfold State.goOn
  dsimp only
  split
  · exact .foldl h fun _ _ hs => .flyOn hs
  · rename_i c _ heq
    have hc := (OptIssueSound.of_eq heq (.keptIssue (.foldl h (fun _ _ hs => .flyOn hs)))).state
    split
    · exact .foldl h fun _ _ hs => .flyOn hs
    · rename_i heq
      exact .tryEntry (.pairLate (.finish hc (.withOthers (OptResSound.of_eq heq (.performWord hc)).state)))

theorem Safety.sound.retryEntry {core slot i} (h : sound s) : sound (s.retryEntry core slot i) := by
  unfold State.retryEntry
  split
  · exact h
  · dsimp only
    refine .ite h ?_
    split
    · exact .lose h
    · rename_i s heq
      have hs := (OptSound.of_eq heq (.checkWords h)).state
      split
      · exact .raiseRecs (.modWarp hs)
      · exact hs
      · split
        · exact .raiseRecs (.modWarp hs)
        · split
          · exact .modLog hs
          · rename_i heq
            exact .closeLate (.modWarp (OptResSound.of_eq heq (.performWord (.entryIssue hs))).state.state)
          · rename_i heq
            exact .modWarp (OptResSound.of_eq heq (.performWord (.entryIssue hs))).state.state
          · rename_i heq
            exact .raiseRecs (.modWarp (OptResSound.of_eq heq (.performWord (.entryIssue hs))).state.state)
          · rename_i heq
            exact .raiseRecs (.modWarp (OptResSound.of_eq heq (.performWord (.entryIssue hs))).state.state)
          · rename_i heq
            exact .modLog (OptResSound.of_eq heq (.performWord (.entryIssue hs))).state.state
          · rename_i heq
            exact .modLog (OptResSound.of_eq heq (.performWord (.entryIssue hs))).state.state
          · rename_i heq
            exact .modLog (OptResSound.of_eq heq (.performWord (.entryIssue hs))).state.state
          · exact .modLog hs
          · rename_i heq
            exact .modLog (OptResSound.of_eq heq (.performWord (.entryIssue hs))).state.state
          · rename_i heq
            exact .modLog (OptResSound.of_eq heq (.performWord (.entryIssue hs))).state.state

theorem Safety.sound.retryWarp {core slot p} (h : sound s) : sound (s.retryWarp core slot p) := by
  unfold State.retryWarp
  exact .foldl h (fun _ _ hs => by
    split
    · exact .ite (.retryEntry hs) hs
    · exact hs)

theorem Safety.sound.enterWritten (h : sound s) : sound s.enterWritten := .foldl h fun _ _ hs => .tryEntry hs

theorem Safety.sound.dropWrite {txn} (h : sound s) : sound (s.dropWrite txn) := .modEng h

theorem Safety.sound.parkPosted {o} (h : sound s) : sound (s.parkPosted o) := by
  unfold State.parkPosted
  dsimp only
  split
  · refine .ite h ?_
    split
    · exact h
    · exact .dropWrite (.modWarp (.writeBatch h))
  · exact .ite h (.dropWrite (.writeBatch h))
  · exact .dropWrite (.writeBatch h)

theorem Safety.sound.parkFailed (h : sound s) : sound s.parkFailed := .foldl h fun _ _ hs => .parkPosted hs

theorem Safety.sound.retryAgain (h : sound s) : sound s.retryAgain :=
  .foldl (.parkFailed h) fun _ _ hs => .foldl (.tryEntry (.retryWarp hs)) fun _ _ hs => .flyOn hs

theorem Safety.sound.retryLine {core slot line} (h : sound s) : sound (s.retryLine core slot line) := by
  unfold State.retryLine
  split
  · exact h
  · dsimp only
    split
    · rename_i heq
      exact .modWarp (OptSound.of_eq heq (.fetchHeld (.modCaches h))).state
    · split
      · rename_i s _ heq
        have hs := sound.fst_of_eq heq (.fetchLine (.modCaches h))
        exact hs
      · rename_i s _ heq
        have hs := sound.fst_of_eq heq (.fetchLine (.modCaches h))
        exact .modWarp hs

theorem Safety.sound.retryFetch {core slot p} (h : sound s) : sound (s.retryFetch core slot p) := .foldl h fun _ _ hs => .retryLine hs

theorem Safety.sound.retryCopies {ctx cl p} (h : sound s) : sound (s.retryCopies ctx cl p) := .modEng h

theorem Safety.sound.retryRange {ctx lo hi clusters} (h : sound s) : sound (s.retryRange ctx lo hi clusters) := by
  unfold State.retryRange
  dsimp only
  exact .retryCopies (.foldl h (fun _ _ hs => .ite (.tryEntry (.retryFetch (.foldl hs (fun _ _ hs => by
    split
    · exact .ite (.retryEntry hs) hs
    · exact hs)))) hs))

theorem Safety.sound.retryBatch {ctx batch} (h : sound s) : sound (s.retryBatch ctx batch) :=
  .retryCopies (.foldl h fun _ _ hs => .ite (.tryEntry (.retryFetch (.retryWarp hs))) hs)

theorem Safety.sound.failWarp {core slot p} (h : sound s) : sound (s.failWarp core slot p) := by
  unfold State.failWarp
  split
  · exact h
  · dsimp only
    split
    · exact h
    · exact .raise (.modWarp h)

/-! ### Place -/

theorem Safety.sound.emitDist {g code payload body} (h : sound s) : sound (s.emitDist g code payload body) := .emit h

theorem Safety.sound.emitBlock {g code lin core} (h : sound s) : sound (s.emitBlock g code lin core) := .emitDist h

theorem Safety.sound.emitPhase {g code sq phase core} (h : sound s) : sound (s.emitPhase g code sq phase core) := .emitDist h

theorem Safety.sound.emitPreempt {g code kind core} (h : sound s) : sound (s.emitPreempt g code kind core) := .emitDist h

theorem Safety.sound.restoreImage {b r} (h : sound s) : sound (s.restoreImage b r) := by
  unfold State.restoreImage
  split
  · exact h
  · dsimp only
    exact .noteBlockFields (.foldl (.foldl h fun _ _ hs => .modStore hs fun _ hm => storeSound_placeLine hm _ _ _ _) fun _ _ hs => .modStore
      hs fun _ hm => storeSound_setWordPoison hm _ _)

theorem Safety.sound.dropCode {ctx cores old} (h : sound s) : sound (s.dropCode ctx cores old) := .modCaches h

theorem Safety.sound.dropOldCode {g} (h : sound s) : sound (s.dropOldCode g) := .ite h (.dropCode h)

theorem Safety.sound.startNew {g cl plan r} (h : sound s) : sound (s.startNew g cl plan r) := by
  unfold State.startNew
  split
  · exact h
  · dsimp only
    split
    · exact .emitPhase (.ite (.emitPreempt (.ite (.foldl (.ite (.dropCode
        (.foldl (.ite (.foldl (.frame (.modSched h)) (fun _ _ hs => .clearWords hs))
        (.modStore (.foldl (.frame (.modSched h)) (fun _ _ hs => .clearWords hs))
        (fun _ hm => storeSound_foldl (fun _ _ hm => storeSound_lpTake hm _ _) _ hm))) (fun _ _ hs => by
        split
        · exact .restoreImage (.l1Flush (.readyScratch hs))
        · exact .l1Flush (.readyScratch hs)))) (.dropOldCode (.foldl
            (.ite (.foldl (.frame (.modSched h)) (fun _ _ hs => .clearWords hs))
            (.modStore (.foldl (.frame (.modSched h)) (fun _ _ hs => .clearWords hs))
            (fun _ hm => storeSound_foldl (fun _ _ hm => storeSound_lpTake hm _ _) _ hm))) (fun _ _ hs => by
        split
        · exact .restoreImage (.l1Flush (.readyScratch hs))
        · exact .l1Flush (.readyScratch hs))))) (fun _ _ hs => .emitBlock hs))
            (.ite (.dropCode (.foldl (.ite (.foldl (.frame (.modSched h)) (fun _ _ hs => .clearWords hs))
            (.modStore (.foldl (.frame (.modSched h)) (fun _ _ hs => .clearWords hs))
            (fun _ hm => storeSound_foldl (fun _ _ hm => storeSound_lpTake hm _ _) _ hm))) (fun _ _ hs => by
        split
        · exact .restoreImage (.l1Flush (.readyScratch hs))
        · exact .l1Flush (.readyScratch hs)))) (.dropOldCode (.foldl
            (.ite (.foldl (.frame (.modSched h)) (fun _ _ hs => .clearWords hs))
            (.modStore (.foldl (.frame (.modSched h)) (fun _ _ hs => .clearWords hs))
            (fun _ hm => storeSound_foldl (fun _ _ hm => storeSound_lpTake hm _ _) _ hm))) (fun _ _ hs => by
        split
        · exact .restoreImage (.l1Flush (.readyScratch hs))
        · exact .l1Flush (.readyScratch hs))))))) (.ite (.foldl (.ite
            (.dropCode (.foldl (.ite (.foldl (.frame (.modSched h)) (fun _ _ hs => .clearWords hs))
            (.modStore (.foldl (.frame (.modSched h)) (fun _ _ hs => .clearWords hs))
            (fun _ hm => storeSound_foldl (fun _ _ hm => storeSound_lpTake hm _ _) _ hm))) (fun _ _ hs => by
        split
        · exact .restoreImage (.l1Flush (.readyScratch hs))
        · exact .l1Flush (.readyScratch hs)))) (.dropOldCode (.foldl
            (.ite (.foldl (.frame (.modSched h)) (fun _ _ hs => .clearWords hs))
            (.modStore (.foldl (.frame (.modSched h)) (fun _ _ hs => .clearWords hs))
            (fun _ hm => storeSound_foldl (fun _ _ hm => storeSound_lpTake hm _ _) _ hm))) (fun _ _ hs => by
        split
        · exact .restoreImage (.l1Flush (.readyScratch hs))
        · exact .l1Flush (.readyScratch hs))))) (fun _ _ hs => .emitBlock hs))
            (.ite (.dropCode (.foldl (.ite (.foldl (.frame (.modSched h)) (fun _ _ hs => .clearWords hs))
            (.modStore (.foldl (.frame (.modSched h)) (fun _ _ hs => .clearWords hs))
            (fun _ hm => storeSound_foldl (fun _ _ hm => storeSound_lpTake hm _ _) _ hm))) (fun _ _ hs => by
        split
        · exact .restoreImage (.l1Flush (.readyScratch hs))
        · exact .l1Flush (.readyScratch hs)))) (.dropOldCode (.foldl
            (.ite (.foldl (.frame (.modSched h)) (fun _ _ hs => .clearWords hs))
            (.modStore (.foldl (.frame (.modSched h)) (fun _ _ hs => .clearWords hs))
            (fun _ hm => storeSound_foldl (fun _ _ hm => storeSound_lpTake hm _ _) _ hm))) (fun _ _ hs => by
        split
        · exact .restoreImage (.l1Flush (.readyScratch hs))
        · exact .l1Flush (.readyScratch hs)))))))
    · refine .ite ?_ ?_
      · exact .foldl (.ite (.dropCode (.foldl (.ite (.foldl (.frame (.modSched h)) (fun _ _ hs => .clearWords hs))
          (.modStore (.foldl (.frame (.modSched h)) (fun _ _ hs => .clearWords hs))
          (fun _ hm => storeSound_foldl (fun _ _ hm => storeSound_lpTake hm _ _) _ hm))) (fun _ _ hs => by
          split
          · exact .restoreImage (.l1Flush (.readyScratch hs))
          · exact .l1Flush (.readyScratch hs)))) (.dropOldCode (.foldl
              (.ite (.foldl (.frame (.modSched h)) (fun _ _ hs => .clearWords hs))
              (.modStore (.foldl (.frame (.modSched h)) (fun _ _ hs => .clearWords hs))
              (fun _ hm => storeSound_foldl (fun _ _ hm => storeSound_lpTake hm _ _) _ hm))) (fun _ _ hs => by
          split
          · exact .restoreImage (.l1Flush (.readyScratch hs))
          · exact .l1Flush (.readyScratch hs))))) (fun _ _ hs => .emitBlock hs)
      · refine .ite ?_ ?_
        · exact .dropCode (.foldl (.ite (.foldl (.frame (.modSched h)) (fun _ _ hs => .clearWords hs))
            (.modStore (.foldl (.frame (.modSched h)) (fun _ _ hs => .clearWords hs))
            (fun _ hm => storeSound_foldl (fun _ _ hm => storeSound_lpTake hm _ _) _ hm))) (fun _ _ hs => by
            split
            · exact .restoreImage (.l1Flush (.readyScratch hs))
            · exact .l1Flush (.readyScratch hs)))
        · exact .dropOldCode (.foldl (.ite (.foldl (.frame (.modSched h)) (fun _ _ hs => .clearWords hs))
            (.modStore (.foldl (.frame (.modSched h)) (fun _ _ hs => .clearWords hs))
            (fun _ hm => storeSound_foldl (fun _ _ hm => storeSound_lpTake hm _ _) _ hm))) (fun _ _ hs => by
            split
            · exact .restoreImage (.l1Flush (.readyScratch hs))
            · exact .l1Flush (.readyScratch hs)))

theorem Safety.sound.startRec {r cl plan} (h : sound s) : sound (s.startRec r cl plan) := by
  unfold State.startRec
  dsimp only
  exact .startNew (.modSched (by
    split
    · exact .modWatch (.ite (.layRecord h) h)
    · exact .ite (.layRecord h) h))

theorem Safety.OptSound.reloadWarp {g b x slot lane} (h : sound s) : OptSound (s.reloadWarp g b x slot lane) := by
  unfold State.reloadWarp
  split
  · exact .none
  · dsimp only
    exact .ite .none (.some (.clearWords (.frame (.markPages h))))

theorem Safety.sound.resumeCopy {c slot held} (h : sound s) : sound (s.resumeCopy c slot held) := by
  unfold State.resumeCopy
  dsimp only
  split
  · exact h
  · split
    · exact .modCopy h
    · exact .modCopy (.freeSpill (.writeBatch h))

theorem Safety.sound.moveRings {ctx old new} (h : sound s) : sound (s.moveRings ctx old new) := .modCtx h

theorem Safety.ExceptSound.reloadFrames {g : Gang} {l : List (Block × BlockPlan)} (h : sound s) : ExceptSound (s.reloadFrames g l) := by
  unfold State.reloadFrames
  refine .foldl (.foldl (.ok h) fun _ _ ho => .bind ho fun t ht => ?_)
    fun _ _ ho => .bind ho fun t ht => .foldl (.ok ht) fun _ _ ho => .bind ho fun t ht => ?_
  · dsimp only
    split
    · exact .error
    · rename_i y heq
      exact .ok (.foldl (OptFstSound.of_eq heq (.reloadBlock (.l1Flush (.readyScratch ht)))).state fun _ _ hs => .resumeCopy hs)
  · exact .of_elim (.reloadWarp ht)

theorem Safety.sound.startSaved {g cl plan} (h : sound s) : sound (s.startSaved g cl plan) := by
  unfold State.startSaved
  dsimp only
  split
  · rename_i s heq
    have hs := (ExceptSound.of_eq heq (.reloadFrames (.modGang h))).state
    exact .foldl (.emitPreempt (.dropOldCode (.modGang (.foldl hs fun _ _ hs => .moveRings hs)))) fun _ _ hs => .retryWarp (.failWarp hs)
  · exact .lose h

theorem Safety.sound.noteStartHold {x} (h : sound s) : sound (s.noteStartHold x) := .ite (.noteHold h) h

theorem Safety.sound.markPassed {die x} (h : sound s) : sound (s.markPassed die x) := by
  unfold State.markPassed
  dsimp only
  split
  · exact .modGang h
  · exact .modSched h

theorem Safety.sound.startItem {x cl plan} (h : sound s) : sound (s.startItem x cl plan) := by
  unfold State.startItem
  split
  · exact .ite (.startSaved h) (.startNew h)
  · exact .startRec h

theorem Safety.sound.tryItem {die skip x} (h : sound s) : sound (s.tryItem die skip x).1 := by
  unfold State.tryItem
  dsimp only
  refine .ite_fst (.noteStartHold h) ?_
  split
  · exact .startItem (.ite (.modDie h) h)
  · exact .markPassed h

theorem Safety.sound.placementRound {die} (h : sound s) : sound (s.placementRound die) := .foldl_fst h fun _ _ hr => .tryItem hr

/-! ### Phase -/

theorem Safety.sound.endWarps (h : sound s) : sound s.endWarps := .foldl h fun _ _ hs => .modEng (.dropWarp hs)

theorem Safety.sound.clearBusy {ctx} (h : sound s) : sound (s.clearBusy ctx) := .ite h (.modCtx h)

theorem Safety.sound.dropGang {id} (h : sound s) : sound (s.dropGang id) := .modEng (.modSched h)

theorem Safety.sound.endBlocks {id} (h : sound s) : sound (s.endBlocks id) := by
  unfold State.endBlocks
  split
  · exact h
  · exact .ite h (.ite h (.ite (.noteHold h) (.ite (.foldl h fun _ _ hs => .modGang (.emitBlock hs))
      (.clearBusy (.dropGang (.foldl h fun _ _ hs => .modGang (.emitBlock hs)))))))

theorem Safety.sound.departAll {ws wide} (h : sound s) : sound (s.departAll ws wide) :=
  .foldl h fun _ _ hs => .modWarp (.ite (.l1Flush hs) hs)

theorem Safety.sound.resolveBarriers {g} (h : sound s) : sound (s.resolveBarriers g) :=
  .foldl (.foldl h fun _ _ hs => .foldl hs fun _ _ hs => .ite (.departAll hs) hs) fun _ _ hs => .ite (.departAll hs) hs

theorem Safety.sound.gangDeadlock {g} (h : sound s) : sound (s.gangDeadlock g) := .ite h (.foldl h fun _ _ hs => .raiseRecs hs)

theorem Safety.sound.milliner {g} (h : sound s) : sound (s.milliner g) := by
  unfold State.milliner
  refine .ite h ?_
  split
  · exact h
  · refine .ite (.noteHold h) ?_
    dsimp only
    split
    · exact .ite (.bump h) (.emit (.bump h))
    · split
      · exact .startRec (.noteStartHold (.ite (.bump h) (.emit (.bump h))))
      · exact .modSched (.noteStartHold (.ite (.bump h) (.emit (.bump h))))

theorem Safety.sound.tryPhase {id} (h : sound s) : sound (s.tryPhase id) := by
  unfold State.tryPhase
  split
  · exact h
  · dsimp only
    split
    · exact h
    · exact .ite h (.ite (.noteHold h) (.ite (.emitPreempt (.clearBusy
        (.dropGang (.modEng (.frame (.emitPhase (.modSched (.layRecord h))))))))
        (.milliner (.clearBusy (.dropGang (.modEng (.frame (.emitPhase (.modSched (.layRecord h))))))))))

theorem Safety.sound.sweepGang {id} (h : sound s) : sound (s.sweepGang id) := by
  unfold State.sweepGang
  split
  · exact h
  · exact .ite h (.endBlocks (.tryPhase (.gangDeadlock (.resolveBarriers h))))

theorem Safety.sound.sweep (h : sound s) : sound s.sweep := .foldl (.endWarps h) fun _ _ hs => .sweepGang hs

theorem Safety.OutSound.execPlacementReserveTimeout {die} (h : sound s) : OutSound (execPlacementReserveTimeout die s) := by
  unfold Machine.execPlacementReserveTimeout
  split
  · exact .next h
  · exact .ite (.next h) (.next (.modDie h))

/-! ### Admit -/

theorem Safety.sound.modQueue {ctx idx f} (h : sound s) : sound (s.modQueue ctx idx f) := .modCtx h

theorem Safety.sound.putHeader {ctx q off v} (h : sound s) : sound (s.putHeader ctx q off v) :=
  .noteFields (.getD (.deviceWrite (.modEng h)) (.modEng h))

theorem Safety.sound.enterGangs {ctx id v age} (h : sound s) : sound (s.enterGangs ctx id v age).1 :=
  .foldl_fst h fun _ _ hr => .ite_fst (.modSched hr) (.modSched hr)

theorem Safety.OptSound.placeCoop {items} (h : sound s) : OptSound (s.placeCoop items) :=
  .foldl (.some h) fun _ _ ho => .bind ho fun _ hs => .ite .none (.map_any fun _ => .startItem hs)

theorem Safety.OptSound.launchHead {ctx q h} (hs : sound s) : OptSound (s.launchHead ctx q h) :=
  .ite (.placeCoop (.enterGangs (.emit (.modSched (.modHub (.putHeader (.modQueue hs)))))))
    (.some (.enterGangs (.emit (.modSched (.modHub (.putHeader (.modQueue hs)))))))

theorem Safety.sound.tryAdmit {ctx queue} (h : sound s) : sound (s.tryAdmit ctx queue) := by
  unfold State.tryAdmit
  split
  · split
    · exact h
    · dsimp only
      exact .ite h (.ite (.noteHold h) (.getD (.launchHead h) h))
  · exact h

theorem Safety.sound.admitHeads {ctx} (h : sound s) : sound (s.admitHeads ctx) := .foldl h fun _ _ hs => .tryAdmit hs

theorem Safety.sound.changeEvents {ctx f} (h : sound s) : sound (s.changeEvents ctx f) := .admitHeads (.modCtx h)

/-! ### Engine -/

theorem Safety.ResolvedSound.engineResolve {c acc addrs} (h : sound s) : ResolvedSound (s.engineResolve c acc addrs) := by
  unfold State.engineResolve
  dsimp only
  split
  · exact .error (.lost h)
  · refine .ite (.error (.wait h)) ?_
    split
    · exact .error (.wait (.askBack h))
    · split
      · rename_i s _ _ _ heq
        have hs := sound.fst_of_eq heq (.translateAll h)
        exact .error (.page hs)
      · rename_i s _ heq
        have hs := sound.fst_of_eq heq (.translateAll h)
        refine .ite (.error (.wait (.foldl hs fun _ _ hs => .ite (.noteRelayHold hs) hs))) ?_
        split
        · exact .error (.lost hs)
        · exact .ok (.relayAll hs)

theorem Safety.MovedSound.readChunk {c : Copy} {k : Nat} (h : sound s) : MovedSound (s.readChunk c k) := by
  unfold State.readChunk
  dsimp only
  split
  · rename_i heq
    exact (ResolvedSound.of_eq heq (.engineResolve h)).state
  · rename_i heq
    have ht := (ResolvedSound.of_eq heq (.engineResolve h)).state
    split
    · rename_i heq
      exact .wait (GateSound.of_eq heq (.gateFold ht fun _ _ hs => .gateRead hs)).state
    · rename_i heq
      exact .wait (GateSound.of_eq heq (.gateFold ht fun _ _ hs => .gateRead hs)).state
    · rename_i heq
      have hg := (GateSound.of_eq heq (.gateFold ht fun _ _ hs => .gateRead hs)).state
      split
      · exact .lost (.dropAnswers (.foldl_fst hg fun _ _ hr => .fetchPiece hr))
      · exact .data (.dropAnswers (.foldl_fst hg fun _ _ hr => .fetchPiece hr))

theorem Safety.sound.engineLine {r l depth x} (h : sound s) : sound (s.engineLine r l depth x) :=
  .ite (.writeTagged h) (.ite h (.writeLine h))

theorem Safety.sound.engineStore {c a p x} (h : sound s) : sound (s.engineStore c a p x) := by
  unfold State.engineStore
  dsimp only
  split
  · exact .postPod h
  · exact .foldl h fun _ _ hs => .ite (.say hs) hs
  · exact .hostThrough (.engineLine (.touch (.ite (.l1Inval h) h)))

theorem Safety.MovedSound.writeChunk {c : Copy} {k : Nat} {d : ChunkData} (h : sound s) : MovedSound (s.writeChunk c k d) := by
  unfold State.writeChunk
  refine .ite (.done (.foldl h fun _ _ hs => .foldl hs fun _ _ hs => .engineLine hs)) ?_
  dsimp only
  split
  · rename_i heq
    exact (ResolvedSound.of_eq heq (.engineResolve h)).state
  · rename_i heq
    have ht := (ResolvedSound.of_eq heq (.engineResolve h)).state
    split
    · rename_i heq
      exact .wait (GateSound.of_eq heq (.andThen (.gateFold ht fun _ _ hs => .gateWrite hs) fun _ hs => .ite (.ready hs) (.again hs))).state
    · rename_i heq
      exact .wait (GateSound.of_eq heq (.andThen (.gateFold ht fun _ _ hs => .gateWrite hs) fun _ hs => .ite (.ready hs) (.again hs))).state
    · rename_i heq
      have hg := (GateSound.of_eq heq (.andThen (.gateFold ht fun _ _ hs => .gateWrite hs) fun _ hs => .ite (.ready hs) (.again hs))).state
      split
      · exact .lost (.dropAnswers hg)
      · exact .done (.dropAnswers (.foldl hg fun _ _ hs => .engineStore hs))

theorem Safety.sound.engineRecord {c f va resum} (h : sound s) : sound (s.engineRecord c f va resum) := .writeBatch h

theorem Safety.sound.loseChunk {c k f} (h : sound s) : sound (s.loseChunk c k f) := .modCopy (.engineRecord h)

theorem Safety.sound.wroteChunk {c k flags} (h : sound s) : sound (s.wroteChunk c k flags) := .modCopy h

theorem Safety.sound.replaySpill {c x} (h : sound s) : sound (s.replaySpill c x) := by
  unfold State.replaySpill
  dsimp only
  split
  · rename_i heq
    exact .wroteChunk (.modCopy (.freeSpill (MovedSound.of_eq heq (.writeChunk h)).state))
  · rename_i heq
    exact .loseChunk (.modCopy (.freeSpill (MovedSound.of_eq heq (.writeChunk h)).state))
  · rename_i heq
    exact .modCopy (MovedSound.of_eq heq (.writeChunk h)).state
  · rename_i heq
    exact (MovedSound.of_eq heq (.writeChunk h)).state
  · rename_i heq
    exact (MovedSound.of_eq heq (.writeChunk h)).state

theorem Safety.sound.deliverChunk {c k d} (h : sound s) : sound (s.deliverChunk c k d) := by
  unfold State.deliverChunk
  split
  · rename_i heq
    exact .wroteChunk (MovedSound.of_eq heq (.writeChunk h)).state
  · rename_i heq
    exact .loseChunk (MovedSound.of_eq heq (.writeChunk h)).state
  · rename_i s _ heq
    have hs := (MovedSound.of_eq heq (.writeChunk h)).state
    dsimp only
    exact .ite (.modCopy hs) (.modCopy (.setSpill (.engineRecord hs)))
  · rename_i heq
    exact (MovedSound.of_eq heq (.writeChunk h)).state
  · rename_i heq
    exact (MovedSound.of_eq heq (.writeChunk h)).state

theorem Safety.sound.stepChunk {c k} (h : sound s) : sound (s.stepChunk c k) := by
  unfold State.stepChunk
  split
  · rename_i heq
    exact .deliverChunk (.modCopy (MovedSound.of_eq heq (.readChunk h)).state)
  · rename_i heq
    exact .loseChunk (MovedSound.of_eq heq (.readChunk h)).state
  · rename_i s _ heq
    have hs := (MovedSound.of_eq heq (.readChunk h)).state
    exact .ite (.modCopy hs) (.modCopy (.engineRecord hs))
  · rename_i heq
    exact (MovedSound.of_eq heq (.readChunk h)).state
  · rename_i heq
    exact (MovedSound.of_eq heq (.readChunk h)).state

theorem Safety.sound.traceCopy {c} (h : sound s) : sound (s.traceCopy c) := .ite h (.modCopy (.emit h))

theorem Safety.OutSound.execChunkProcess {id} (h : sound s) : OutSound (execChunkProcess id s) := by
  unfold Machine.execChunkProcess
  split
  · exact .next h
  · refine .ite (.next h) (.ite (.next (.noteHold h)) ?_)
    dsimp only
    split
    · exact .next (.settle (.replaySpill (.traceCopy h)))
    · refine .ite (.next (.traceCopy h)) ?_
      split
      · exact .next (.traceCopy h)
      · exact .next (.settle (.stepChunk (.traceCopy h)))

theorem Safety.sound.retireCopy {id} (h : sound s) : sound (s.retireCopy id) := by
  unfold State.retireCopy
  split
  · exact h
  · exact .ite h (.modEng (.emit h))

theorem Safety.sound.countChunk {c b pos k} (h : sound s) : sound (s.countChunk c b pos k) :=
  .ite (.engineRecord h) (.putBand (.ite h (.modEng h)))

theorem Safety.OutSound.execChunkLand {id k pos} (h : sound s) : OutSound (execChunkLand id k pos s) := by
  unfold Machine.execChunkLand
  split
  · exact .next h
  · dsimp only
    refine .ite (.next h) (.ite (.next (.noteHold h)) ?_)
    split
    · exact .next h
    · exact .next (.settle (.sweep (.retryAgain (.retireCopy (.modCopy (.countChunk h))))))

theorem Safety.sound.refuse {w} (h : sound s) : sound (s.refuse w) := by
  unfold State.refuse
  split
  · exact .modHub h
  · exact h

theorem Safety.sound.countCopy {core} (h : sound s) : sound (s.countCopy core).2 := .modEng h

theorem Safety.ResSound.xcopy {f} (h : sound c.s) : ResSound (c.xcopy f) := by
  unfold Issue.xcopy
  refine .ite (.next h) ?_
  dsimp only
  split
  · split
    · exact .badHood h
    · exact .ite (.next (.traceCopy (.put (.modEng (.countCopy h))))) (.hold (.modWarp (.traceCopy (.put (.modEng (.countCopy h))))))
  · exact .badHood h

theorem Safety.OutSound.execXcopyAccept {h} (hs : sound s) : OutSound (execXcopyAccept h s) := by
  unfold Machine.execXcopyAccept
  split
  · exact .next hs
  · dsimp only
    split
    · split
      · exact .next hs
      · exact .ite (.next hs) (.next (.settle (.sweep (.tryEntry (.modWarp (.modCopy hs))))))
    · exact .next hs

/-! ### Upset -/

theorem Safety.sound.poisonPart {l word sub} (h : sound s) : sound (s.poisonPart l word sub) := by
  unfold State.poisonPart
  exact .modStore h (fun _ hm => by
    split
    · exact storeSound_setWordPoison hm _ _
    · exact storeSound_poisonLine hm _ _)

theorem Safety.sound.meetUpset {u} (h : sound s) : sound (s.meetUpset u) := by
  unfold State.meetUpset
  split
  · split
    · exact h
    · exact .ite h (.ite (.frame h) (.ite (.countSoft h) (.modStore h fun _ hm => storeSound_poisonLine hm _ _)))
  · exact .ite h (.ite (.poisonPart h) (.countSoft h))
  · exact .ite h (.ite (.poisonPart h) (.countSoft h))
  · dsimp only
    exact .ite (.modCoh (.modStore h fun _ hm => storeSound_poisonLine hm _ _)) (.modCoh h)
  · exact .ite (.frame h) h
  · exact .ite (.frame h) h

theorem Safety.sound.meetUpsets (h : sound s) : sound s.meetUpsets :=
  .ite (.foldl h fun _ _ hs => .modCoh (.modStore hs fun _ hm => storeSound_poisonLine hm _ _))
    (.foldl (.frame (.foldl h fun _ _ hs => .modCoh (.modStore hs fun _ hm => storeSound_poisonLine hm _ _))) fun _ _ hs => .meetUpset hs)

theorem Safety.OptSound.readWords {w h word} (hs : sound s) : OptSound (s.readWords w h word) := by
  unfold State.readWords
  refine .ite (.some hs) ?_
  split
  · exact .some hs
  · exact .checkWords hs

/-! ### Select -/

theorem Safety.sound.noteReady (h : sound s) : sound s.noteReady := .frame h

theorem Safety.sound.wakeYields (h : sound s) : sound s.wakeYields := .frame h

theorem Safety.sound.countIssue {before word} (h : sound s) : sound (s.countIssue before word) := .frame h

theorem Safety.sound.openPair {after before cur a b} (hafter : sound after) : sound (after.openPair s before cur a b) := by
  unfold State.openPair
  split
  · dsimp only
    exact .ite (.ite (.frame (.modWarp hafter)) (.modWarp hafter)) (.modWarp hafter)
  · exact hafter

theorem Safety.sound.decodeFault {w r} (h : sound s) : sound (s.decodeFault w r) := .raiseRecs h

theorem Safety.OutSound.issueSweep {opc : Nat} {f : Form} {body : Issue → Res} (h : sound s)
    (hb : ∀ c, sound c.s → ResSound (body c)) : OutSound (issueSweep opc f s body) := by
  have hi := OutSound.issue (opc := opc) (f := f) h hb
  unfold Machine.issueSweep
  split
  · rename_i heq
    exact .next (.settle (.sweep (OutSound.of_eq heq hi).state))
  · exact hi

/-! ### Control -/

theorem Safety.ResSound.exit (h : sound c.s) : ResSound (c.exit) := .jump (.resolveFelt (.put h))

theorem Safety.sound.barred {go} (h : sound c.s) : sound (c.barred go).1 := by
  unfold Issue.barred
  exact .foldl_fst h (fun _ _ hr => by
    split
    · exact hr
    · split
      · rename_i s _ heq
        have hs := sound.fst_of_eq heq (.targetFault hr)
        exact hs
      · rename_i s heq
        have hs := sound.fst_of_eq heq (.targetFault hr)
        exact hs)

theorem Safety.OptSound.targetHeld {c : Issue} {go : List (List Nat × DWord)} (h : sound c.s) : OptSound (c.targetHeld go) := by
  unfold Issue.targetHeld
  induction go with
  | nil => exact .none
  | cons x go ih =>
    rw [List.findSome?_cons]
    split
    · rename_i heq
      refine OptSound.of_eq heq ?_
      split
      · exact .none
      · exact .fetchHeld h
    · exact ih

theorem Safety.ResSound.branch {go g} (h : sound c.s) : ResSound (c.branch go g) := by
  unfold Issue.branch
  refine .ite .stall ?_
  split
  · rename_i heq
    exact .again (OptSound.of_eq heq (.targetHeld h)).state
  · split
    · rename_i s _ _ heq
      have hs := sound.fst_of_eq heq (.barred h)
      exact .fault hs
    · rename_i s _ _ heq
      have hs := sound.fst_of_eq heq (.barred h)
      exact .hold (.stopFetch hs)
    · rename_i s heq
      have hs := sound.fst_of_eq heq (.barred h)
      exact .jump (.modWarp hs)

theorem Safety.ResSound.jumpTo {target} (h : sound c.s) : ResSound (c.jumpTo target) := .branch h

theorem Safety.OutSound.execBrx {f} (h : sound s) : OutSound (execBrx f s) := by
  unfold Machine.execBrx
  exact .issue h (fun _ hc => by
    split
    · exact .branch hc
    · exact .jumpTo hc)

theorem Safety.OutSound.execYield {f} (h : sound s) : OutSound (execYield f s) := by
  unfold Machine.execYield
  exact .issue h (fun _ hc => by
    split
    · exact .next hc
    · exact .jump (.put hc))

/-! ### Ring -/

theorem Safety.ResSound.ringOp {f k} (hc : sound c.s) (hk : ∀ x0 x1, ResSound (k x0 x1)) : ResSound (c.ringOp f k) := by
  unfold Issue.ringOp
  refine .ite (.next hc) ?_
  split
  · exact .fault hc
  · exact .ite .stall (hk _ _)

theorem Safety.sound.ringPut {key off n v} (h : sound c.s) : sound (c.ringPut key off n v).s := .noteFields (.putField h)

theorem Safety.sound.noteRing {w key old} (h : sound s) : sound (s.noteRing w key old) := .modCaches h

theorem Safety.sound.dropRingOps {key} (h : sound s) : sound (s.dropRingOps key) := .modCaches h

theorem Safety.sound.ringMove {key off old} (h : sound c.s) : sound (c.ringMove key off old) := .noteRing (.ringPut h)

theorem Safety.ResSound.ringWait {x} (h : sound c.s) : ResSound (c.ringWait x) := .hold (.modWarp h)

theorem Safety.ResSound.qinit {f} (h : sound c.s) : ResSound (c.qinit f) := by
  unfold Issue.qinit
  exact .ringOp h (fun _ _ => .ite (.next (.put h)) (.ite (.next (.put h)) (by
    dsimp only
    split
    · exact .next (.put h)
    · exact .next (.put (.modCtx (.dropRingOps (.ringPut (.ringPut (.ringPut (.ringPut (.ringPut h)))))))))))

theorem Safety.ResSound.qfini {f} (h : sound c.s) : ResSound (c.qfini f) :=
  .ringOp h fun _ _ => .ite (.next (.put h)) (.next (.put (.modCtx (.dropRingOps (.dropFields (.ringPut h))))))

theorem Safety.sound.ringTake {f r i} (h : sound c.s) : sound (c.ringTake f r i) := .put h

theorem Safety.ResSound.qresv {f} (h : sound c.s) : ResSound (c.qresv f) :=
  .ringOp h fun _ _ => .ite (.badHood h) (.ite (.next (.acquired (.ringTake (.ringPut h)))) (.ite (.ringWait h) (.next (.put h))))

theorem Safety.ResSound.qcommit {f} (h : sound c.s) : ResSound (c.qcommit f) := by
  unfold Issue.qcommit
  exact .ringOp h (fun _ _ => .ite (.badHood h) (by
    split
    · exact .badHood h
    · exact .ite (.next (.ringMove h)) (.ringWait h)))

theorem Safety.ResSound.qacq {f} (h : sound c.s) : ResSound (c.qacq f) :=
  .ringOp h fun _ _ => .ite (.badHood h) (.ite (.next (.acquired (.ringTake (.ringPut h)))) (.ite (.ringWait h) (.next (.put h))))

theorem Safety.ResSound.qfree {f} (h : sound c.s) : ResSound (c.qfree f) := by
  unfold Issue.qfree
  exact .ringOp h (fun _ _ => .ite (.badHood h) (by
    split
    · exact .badHood h
    · exact .ite (.next (.ringMove h)) (.ringWait h)))

theorem Safety.sound.ringAgain {h : HoodRef} (hs : sound s) : sound (s.ringAgain h) := by
  unfold State.ringAgain
  split
  case h_3 => exact hs
  all_goals
    split
    · rename_i heq
      have hc := (OptIssueSound.of_eq heq (.keptIssue hs)).state
      exact .finish hc (.ite (.ite (.qresv hc) (.qcommit hc)) (.ite (.qacq hc) (.qfree hc)))
    · exact hs

theorem Safety.sound.ringRetry {h p} (hs : sound s) : sound (s.ringRetry h p) := .ite (.settle (.ringAgain hs)) hs

theorem Safety.OutSound.execWaitvReturn {h} (hs : sound s) : OutSound (execWaitvReturn h s) :=
  .next (.ite (.settle (.goOn hs)) (.ite (.settle (.tryEntry (.retryWarp hs))) hs))

theorem Safety.ResSound.spawn {f} (h : sound c.s) : ResSound (c.spawn f) := by
  unfold Issue.spawn
  refine .ite (.next h) ?_
  split
  · exact .next h
  · dsimp only
    exact .ite (.badHood h) (.ite (.badHood h) (.ite .stall (.ite (.done h) (.next (.put (.modSched (.layRecord h)))))))

/-! ### System -/

theorem Safety.ResSound.srget {f} (h : sound c.s) : ResSound (c.srget f) :=
  .ite .stall (.ite (.done h) (.ite (.done h) (.ite (.next h) (.done h))))

theorem Safety.ResSound.srset {f} (h : sound c.s) : ResSound (c.srset f) :=
  .ite (.next h) (.ite (.ite (.badHood h) (.done h)) (.ite (.done h) (.ite (.done h) (.next (.modHub h)))))

theorem Safety.sound.returnStopped {w} (h : sound s) : sound (s.returnStopped w) := by
  unfold State.returnStopped
  dsimp only
  split
  · exact .lose h
  · rename_i heq
    exact .modWarp (OptSound.of_eq heq (.bind (.deviceWrite h) fun _ hs => .deviceWrite hs)).state

theorem Safety.sound.returnReload {w} (h : sound s) : sound (s.returnReload w) := .ite (.lose h) (.retryWarp (.failWarp (.setWarp h)))

theorem Safety.ResSound.tret (h : sound c.s) : ResSound (c.tret) := by
  unfold Issue.tret
  split
  · exact .next h
  · exact .ite (.hold (.put h)) (.jump (.ite (.returnStopped h) (.returnReload h)))

theorem Safety.ResSound.evset {d bit val} (h : sound c.s) : ResSound (c.evset d bit val) :=
  .ite (.next h) (.ite (.badHood h) (.ite .stall (.next (.put (.changeEvents h)))))

theorem Safety.ResSound.evwait {bit val} (h : sound c.s) : ResSound (c.evwait bit val) :=
  .ite (.next h) (.ite (.badHood h) (.ite (.next (.l1Flush h)) (.hold (.put h))))

theorem Safety.OutSound.execEvwaitReturn {h} (hs : sound s) : OutSound (execEvwaitReturn h s) := by
  unfold Machine.execEvwaitReturn
  split
  · exact .next hs
  · dsimp only
    split
    · exact .ite (.next hs) (.next (.modWarp (.l1Flush hs)))
    · exact .next hs

theorem Safety.ResSound.trace {v} (h : sound c.s) : ResSound (c.trace v) := .ite (.next h) (.ite (.again (.noteHold h)) (.next (.emit h)))

theorem Safety.ResSound.trctl {f} (h : sound c.s) : ResSound (c.trctl f) := .ite (.next h) (.ite (.badHood h) (.next (.put (.modCtx h))))

theorem Machine.moveKeys_wf {β : Type} [DecidableEq β] {d : β} {m : List (Nat × β)} (h : Memory.wf d m) (src dst n : Nat) :
    Memory.wf d (moveKeys m src dst n) := by
  obtain ⟨hk, hd⟩ := h
  have keep : ∀ p : Nat × β → Bool, ((m.filter p).map Prod.fst).Pairwise (· < ·) :=
    fun p => hk.sublist (List.filter_sublist.map _)
  have moved : (((m.filter fun c => src ≤ c.1 && c.1 < src + n).map fun c => (dst + (c.1 - src), c.2)).map Prod.fst).Pairwise
      (· < ·) := by
    have hf := keep fun c => src ≤ c.1 && c.1 < src + n
    rw [List.pairwise_map] at hf
    simp only [List.map_map, List.pairwise_map, Function.comp_apply]
    refine hf.imp_of_mem fun {a b} ha hb hab => ?_
    have := (List.mem_filter.mp ha).2
    simp only [Bool.and_eq_true, decide_eq_true_eq] at this
    omega
  constructor
  · simp only [moveKeys, List.map_append, List.pairwise_append]
    refine ⟨⟨keep _, moved, ?_⟩, keep _, ?_⟩
    all_goals
      intro a ha b hb
      simp only [List.mem_append, List.mem_map, List.mem_filter, Bool.and_eq_true, decide_eq_true_eq, exists_exists_and_eq_and] at ha hb
      grind
  · intro c hc
    simp only [moveKeys, List.mem_append, List.mem_map, List.mem_filter] at hc
    rcases hc with (⟨hc, -⟩ | ⟨x, ⟨hx, -⟩, rfl⟩) | ⟨hc, -⟩
    · exact hd c hc
    · exact hd x hx
    · exact hd c hc

theorem Safety.storeSound_copyRange {m : Store} (h : storeSound m) (src dst n : Nat) : storeSound (m.copyRange src dst n) :=
  ⟨moveKeys_wf h.1 _ _ _, moveKeys_wf h.2.1 _ _ _, moveKeys_wf h.2.2.1 _ _ _, h.2.2.2⟩

theorem Safety.storeSound_swapRange {m : Store} (h : storeSound m) (a b n : Nat) : storeSound (m.swapRange a b n) := by
  have hc := storeSound_copyRange (storeSound_copyRange (storeSound_copyRange h a (2 ^ 60) n) b a n) (2 ^ 60) b n
  exact ⟨Memory.filter_wf hc.1 _, Memory.filter_wf hc.2.1 _, Memory.filter_wf hc.2.2.1 _, hc.2.2.2⟩

/-! ### Migrate -/

theorem Safety.sound.copyToPod {src dst n} (h : sound s) : sound (s.copyToPod src dst n) := by
  unfold State.copyToPod
  split
  · exact .foldl h fun _ _ hs => .say hs
  · exact h

theorem Safety.sound.moveLines {src dst n} (h : sound s) : sound (s.moveLines src dst n) := by
  unfold State.moveLines
  split
  · exact .copyToPod h
  · exact .modStore h fun _ hm => storeSound_copyRange hm _ _ _

theorem Safety.sound.putLeaf {pa f} (h : sound s) : sound (s.putLeaf pa f) := .writeKey h

theorem Safety.sound.markMig {pa} (h : sound s) : sound (s.markMig pa) := .hubWrite h

theorem Safety.sound.copyFrame {src dst n} (h : sound s) : sound (s.copyFrame src dst n) :=
  .ite (.moveLines h) (.foldl (.askSpan h) fun _ _ ht => .ite ht (.moveLines ht))

theorem Safety.sound.recallFrame {frame size} (h : sound s) : sound (s.recallFrame frame size) := .foldl h fun _ _ hs => .recallAll hs

theorem Safety.sound.startMove {p q requester d} (h : sound s) : sound (s.startMove p q requester d) := by
  unfold State.startMove
  dsimp only
  exact .modEng (by
    split
    · exact .recallFrame (.markMig (.recallFrame (.markMig h)))
    · exact .copyFrame (.recallFrame (.markMig h)))

theorem Safety.sound.requestMove {ms requester d} (h : sound s) : sound (s.requestMove ms requester d).1 := by
  unfold State.requestMove
  dsimp only
  refine .ite_fst h ?_
  split
  · exact .startMove h
  · exact .startMove h
  · exact h

theorem Safety.ResSound.migr {f swap} (h : sound c.s) : ResSound (c.migr f swap) := by
  unfold Issue.migr
  refine .ite (.next h) (.ite .stall ?_)
  dsimp only
  split
  · exact .fault h
  · split
    · rename_i s _ heq
      have hs := sound.fst_of_eq heq (.requestMove h)
      exact .next (.l1Flush (.put hs))
    · rename_i s heq
      have hs := sound.fst_of_eq heq (.requestMove h)
      exact .hold (.modWarp hs)

theorem Safety.OutSound.execMigrationRequestHost {ctx va dest} (h : sound s) : OutSound (execMigrationRequestHost ctx va dest s) := by
  unfold Machine.execMigrationRequestHost
  split
  · rename_i s _ heq
    have hs := sound.fst_of_eq heq (.requestMove h)
    exact .next (.say hs)
  · rename_i s heq
    have hs := sound.fst_of_eq heq (.requestMove h)
    exact .next (.settle hs)

theorem Safety.sound.rehome {w home lines} (h : sound s) : sound (s.rehome w home lines) := .modSched (.modWatch h)

theorem Safety.sound.moveWatch {f w} (h : sound s) : sound (s.moveWatch f w) := by
  unfold State.moveWatch
  dsimp only
  split
  · exact h
  · split
    · exact h
    · exact .ite (.modWatch h) (.ite (.ite (.freeWatches (.modWatch h)) (.modWatch (.modWatch h)))
        (.ite (.rehome h) (.modSched (.modWatch h))))

theorem Safety.sound.moveWatches {f} (h : sound s) : sound (s.moveWatches f) :=
  .frame (.modCaches (.modHub (.modEng (.foldl h fun _ _ hs => .moveWatch hs))))

theorem Safety.sound.addStub {ctx va old new size gen swap} (h : sound s) : sound (s.addStub ctx va old new size gen swap) := .modEng h

theorem Safety.sound.cutLeaf {pa new} (h : sound s) : sound (s.cutLeaf pa new) := .putLeaf h

theorem Safety.sound.cutFence {m id ctx va} (h : sound s) : sound (s.cutFence m id ctx va) := .startFence h

theorem Safety.sound.traceCut {ctx gen old new} (h : sound s) : sound (s.traceCut ctx gen old new) := .emit h

theorem Safety.sound.dropFrames {m} (h : sound s) : sound (s.dropFrames m) := .l1Keep h

theorem Safety.sound.cutOver {m} (h : sound s) : sound (s.cutOver m) := by
  unfold State.cutOver
  dsimp only
  split
  · exact .traceCut (.cutFence (.cutLeaf (.moveWatches (.addStub
      (.recallFrame (.foldl (.modEng (.modHub (.dropFrames h))) fun _ _ hs => .moveLines hs))))))
  · exact .traceCut (.traceCut (.cutFence (.cutFence (.cutLeaf (.cutLeaf
      (.moveWatches (.addStub (.addStub (.modStore (.modEng (.modHub (.dropFrames h))) fun _ hk => storeSound_swapRange hk _ _ _)))))))))

theorem Safety.OutSound.execMigrationCopyPassDone {id} (h : sound s) : OutSound (execMigrationCopyPassDone id s) := by
  unfold Machine.execMigrationCopyPassDone
  split
  · exact .next h
  · exact .ite (.next (.foldl h fun _ _ hs => .askSpan hs)) (.ite (.next (.modEng (.ite h (.foldl h fun _ _ hs => .moveLines hs))))
      (.next (.settle (.cutOver h))))

theorem Safety.sound.answerMove {m st} (h : sound s) : sound (s.answerMove m st) := by
  unfold State.answerMove
  split
  · exact .say h
  · split
    · exact h
    · split
      · exact h
      · dsimp only
        exact .tryEntry (.modWarp (.l1Flush h))

theorem Safety.OutSound.execMigrationStubbed {id} (h : sound s) : OutSound (execMigrationStubbed id s) := by
  unfold Machine.execMigrationStubbed
  split
  · exact .next h
  · exact .ite (.next h) (.next (.settle (.sweep (.answerMove (.modEng h)))))

theorem Safety.sound.reclaimLater {t} (h : sound s) : sound (s.reclaimLater t) := .modEng h

theorem Safety.sound.peerReclaimed {peer id ok} (h : sound s) : sound (s.peerReclaimed peer id ok) := by
  unfold State.peerReclaimed
  split
  · exact h
  · dsimp only
    exact .ite (.modEng h) (.reclaimLater h)

theorem Safety.OutSound.execStubReclaimAttempt {die oldFrame} (h : sound s) : OutSound (execStubReclaimAttempt die oldFrame s) := by
  unfold Machine.execStubReclaimAttempt
  split
  · exact .next h
  · exact .ite (.next (.reclaimLater h)) (.ite (.next (.emit (.modEng h)))
      (.ite (.next h) (.next (.foldl (.modEng h) fun _ _ hs => .say hs))))

theorem Safety.sound.endFence {h id} (hs : sound s) : sound (s.endFence h id) := by
  unfold State.endFence
  split
  · exact hs
  · split
    · exact hs
    · dsimp only
      exact .tryEntry (.modWarp hs)

theorem Safety.sound.acknowledge {id cluster} (h : sound s) : sound (s.acknowledge id cluster) := by
  unfold State.acknowledge
  dsimp only
  refine .ite (.modEng h) ?_
  exact .foldl (.foldl (.foldl (.modEng (.modEng h)) (fun _ _ hs => .retryRange (.orderPtes hs))) (fun _ _ hs => by
    split
    · exact .say hs
    · exact hs)) (fun _ _ hs => by
    split
    · exact .endFence hs
    · exact hs)

theorem Safety.OutSound.execTfenceAcknowledge {id cluster} (h : sound s) : OutSound (execTfenceAcknowledge id cluster s) :=
  .ite (.next h) (.ite (.next (.foldl h fun _ _ hs => .shootCluster hs))
    (.next (.settle (.sweep (.acknowledge (.foldl h fun _ _ hs => .shootCluster hs))))))

/-! ### Respond -/

theorem Safety.OutSound.execFaultResponseRetry {w ctx batch} (h : sound s) : OutSound (execFaultResponseRetry w ctx batch s) :=
  .ite (.next (.refuse h)) (.next (.settle (.sweep (.retryBatch h))))

theorem Safety.sound.failCopies {ctx batch} (h : sound s) : sound (s.failCopies ctx batch) :=
  .foldl h fun _ _ hs => .modCopy (.freeSpill hs)

theorem Safety.sound.failBatch {ctx batch} (h : sound s) : sound (s.failBatch ctx batch) :=
  .foldl (.modSched (.failCopies h)) fun _ _ hs => .ite hs (.failWarp (.ite (.modWarp hs) hs))

theorem Safety.OutSound.execFaultResponseFail {w ctx batch} (h : sound s) : OutSound (execFaultResponseFail w ctx batch s) :=
  .ite (.next (.refuse h)) (.next (.settle (.sweep (.failBatch h))))

theorem Safety.OutSound.execIcacheFill {core ctx lineVa flip1 flip2} (h : sound s) :
    OutSound (execIcacheFill core ctx lineVa flip1 flip2 s) := by
  unfold Machine.execIcacheFill
  split
  · exact .next (.askBack h)
  · exact .next h
  · split
    · rename_i s _ heq
      have hs := sound.fst_of_eq heq (.translate h)
      exact .next hs
    · rename_i s _ heq
      have hs := sound.fst_of_eq heq (.translate h)
      dsimp only
      exact .next (.icacheFill (.touch (.relay hs)))

theorem Safety.sound.scrubWarp {core slot} (h : sound s) : sound (s.scrubWarp core slot) := by
  unfold State.scrubWarp
  split
  · exact h
  · exact .getD (.checkWords h) (.lose h)

theorem Safety.OutSound.execRegisterScrub {core err} (h : sound s) : OutSound (execRegisterScrub core err s) := by
  unfold Machine.execRegisterScrub
  dsimp only
  exact .next (.settle (.sweep (.foldl (by
    split
    · split
      · exact .lose h
      · exact h
    · exact .countSoft h
    · exact h) (fun _ _ hs => .scrubWarp hs))))

theorem Safety.sound.walked {cluster ctx w} (h : sound s) : sound (s.walked cluster ctx w) := by
  unfold State.walked
  split
  · rename_i s _ heq
    have hs := sound.fst_of_eq heq (.translate h)
    exact hs
  · rename_i s _ heq
    have hs := sound.fst_of_eq heq (.translate h)
    exact .askFill (.useAlias hs)

theorem Safety.OutSound.execPageWalk {cluster} (h : sound s) : OutSound (execPageWalk cluster s) := by
  unfold Machine.execPageWalk
  dsimp only
  split
  · exact .next h
  · split
    · exact .next (.askBack h)
    · exact .next (.settle (.retryAgain (.foldl (.bump (.modCaches h)) fun _ _ hs => .walked hs)))

theorem Safety.OutSound.execFillReturn {idx} (h : sound s) : OutSound (execFillReturn idx s) := by
  unfold Machine.execFillReturn
  split
  · exact .next h
  · dsimp only
    exact .ite (.next (.noteRelayHold h)) (.ite (.next h) (.ite (.next (.askBack h))
      (.ite (.next (.l1Fill (.ite (.touch (.relay (.modCaches h))) (.relay (.modCaches h)))))
      (.next (.ite (.touch (.relay (.modCaches h))) (.relay (.modCaches h)))))))

/-! ### Launch -/

theorem Safety.sound.launchInvalid {ctx idx sub va} (h : sound s) : sound (s.launchInvalid ctx idx sub va) := .writeBatch h

theorem Safety.sound.rejectEntry {ctx q sub va} (h : sound s) : sound (s.rejectEntry ctx q sub va) :=
  .launchInvalid (.putHeader (.putHeader (.modQueue h)))

theorem Safety.sound.takeEntry {c q base size} (h : sound s) : sound (s.takeEntry c q base size) := by
  unfold State.takeEntry
  dsimp only
  split
  · exact .rejectEntry h
  · refine .ite (.rejectEntry (.markPages h)) ?_
    split
    · exact .rejectEntry (.markPages h)
    · split
      · exact .rejectEntry (.markPages (.markPages h))
      · exact .tryAdmit (.modQueue (.markPages (.markPages h)))

theorem Safety.sound.takeEntries {ctx idx base size n : Nat} (h : sound s) : sound (s.takeEntries ctx idx base size n) := by
  induction n generalizing s with
  | zero => exact h
  | succ n ih =>
    unfold State.takeEntries
    split
    · split
      · exact h
      · exact ih (.takeEntry h)
    · exact h

theorem Safety.OutSound.execCommandProcessorFire {ctx queue} (h : sound s) : OutSound (execCommandProcessorFire ctx queue s) := by
  unfold Machine.execCommandProcessorFire
  refine .ite (.next h) ?_
  split
  · exact .next h
  · dsimp only
    split
    · exact .next (.bump (.modQueue (.modHub h)))
    · exact .ite (.next (.markPages (.bump (.modQueue (.modHub h)))))
        (.ite (.next (.settle (.launchInvalid (.putHeader (.modQueue (.markPages (.bump (.modQueue (.modHub h)))))))))
        (.next (.settle (.sweep (.takeEntries (.markPages (.bump (.modQueue (.modHub h)))))))))

theorem Safety.sound.registerQueue {ctx idx hdr} (h : sound s) : sound (s.registerQueue ctx idx hdr) := by
  unfold State.registerQueue
  split
  · split
    · exact .ite h (.ite (.writeBatch (.modCtx (.elim (.modSched h) fun _ => .dropFields (.modSched h))))
        (.installWatch (.ite (.putHeader (.noteFields (.modCtx (.markPages (.elim (.modSched h) fun _ => .dropFields (.modSched h))))))
        (.noteFields (.modCtx (.markPages (.elim (.modSched h) fun _ => .dropFields (.modSched h))))))))
    · exact h
  · exact h

theorem Safety.OutSound.execQueueRegister {w ctx idx hdr} (h : sound s) : OutSound (execQueueRegister w ctx idx hdr s) :=
  .ite (.next (.refuse h)) (.next (.settle (.registerQueue h)))

theorem Safety.OutSound.execLaunchRetire {id} (h : sound s) : OutSound (execLaunchRetire id s) := by
  unfold Machine.execLaunchRetire
  split
  · exact .next h
  · refine .ite (.next h) ?_
    dsimp only
    exact .next (.settle (.sweep (.admitHeads (.emit (by
      split
      · exact .ite (.say (.putHeader (.modQueue (.modCtx (.modSched h))))) (.putHeader (.modQueue (.modCtx (.modSched h))))
      · exact .modCtx (.modSched h))))))

theorem Safety.OutSound.execEventSetRegister {w ctx mask} (h : sound s) : OutSound (execEventSetRegister w ctx mask s) :=
  .ite (.next (.refuse h)) (.next (.settle (.sweep (.changeEvents h))))

theorem Safety.OutSound.execEventClearRegister {w ctx mask} (h : sound s) : OutSound (execEventClearRegister w ctx mask s) :=
  .ite (.next (.refuse h)) (.next (.settle (.sweep (.changeEvents h))))

theorem Safety.sound.queueTrigger {r} (h : sound s) : sound (s.queueTrigger r) := by
  unfold State.queueTrigger
  dsimp only
  split
  · exact .modWatch (.modSched (.layRecord h))
  · exact .modSched (.layRecord h)

theorem Safety.sound.noteTrigHold {r} (h : sound s) : sound (s.noteTrigHold r) := .foldl h fun _ _ hs => .noteHeldAt hs

theorem Safety.OutSound.execTrignote {die} (h : sound s) : OutSound (execTrignote die s) := by
  unfold Machine.execTrignote
  split
  · exact .next h
  · exact .ite (.next (.noteTrigHold h)) (.ite (.next (.queueTrigger h)) (.next (.modSched h)))

theorem Safety.OutSound.execTriggerPoolRelease {die} (h : sound s) : OutSound (execTriggerPoolRelease die s) := by
  unfold Machine.execTriggerPoolRelease
  split
  · exact .next h
  · exact .next (.queueTrigger h)

theorem Safety.sound.rollWindow (h : sound s) : sound s.rollWindow := .ite h (.modSched h)

/-! ### Matrix -/

theorem Safety.ResSound.mshape {f} (h : sound c.s) : ResSound (c.mshape f) := .ite (.badHood h) (.done h)

theorem Safety.sound.countProduct {core} (h : sound s) : sound (s.countProduct core).2 := .modEng h

theorem Safety.sound.traceProduct {p ctx code} (h : sound s) : sound (s.traceProduct p ctx code) := .emit h

theorem Safety.ResSound.matrix {f double} (h : sound c.s) : ResSound (c.matrix f double) := by
  unfold Issue.matrix
  dsimp only
  split
  · exact .badHood h
  · exact .ite .stall (.next (.traceProduct (.modEng (.countProduct h))))

theorem Safety.OutSound.execMmaStart {core} (h : sound s) : OutSound (execMmaStart core s) := by
  unfold Machine.execMmaStart
  dsimp only
  split
  · exact .next h
  · exact .ite (.next h) (.ite (.next (.noteHold h)) (.ite (.next (.noteHold h)) (.next (.modEng h))))

theorem Safety.OutSound.execMmaComplete {core} (h : sound s) : OutSound (execMmaComplete core s) := by
  unfold Machine.execMmaComplete
  split
  · exact .next h
  · split
    · exact .next h
    · exact .ite (.next h) (.next (.settle (.sweep (.tryEntry (.traceProduct (.bump (.modEng (.modWarp h))))))))

theorem Safety.sound.reportProducts {core slot} (h : sound s) : sound (s.reportProducts core slot).1 := .modWarp (.modEng h)

theorem Safety.ResSound.mmaw {f} (h : sound c.s) : ResSound (c.mmaw f) :=
  .ite (.badHood h) (.ite (.hold (.put h)) (.ite (.next (.reportProducts h)) (.fault (.reportProducts h))))

theorem Safety.OutSound.execMmawReturn {core slot} (h : sound s) : OutSound (execMmawReturn core slot s) := by
  unfold Machine.execMmawReturn
  split
  · exact .next h
  · dsimp only
    split
    · exact .ite (.next h) (.ite (.next (.modWarp (.reportProducts h))) (.next (.settle (.raiseRecs (.modWarp (.reportProducts h))))))
    · exact .next h

theorem Safety.ResSound.mzero {f} (h : sound c.s) : ResSound (c.mzero f) :=
  .ite (.next h) (.ite (.badHood h) (.ite (.badHood h) (.ite .stall (.done h))))

theorem Safety.ResSound.mfence (h : sound c.s) : ResSound (c.mfence) := .ite .stall (.done h)

/-! ### Preempt -/

theorem Safety.sound.stopGang {id kind} (h : sound s) : sound (s.stopGang id kind) := by
  unfold State.stopGang
  split
  · exact h
  · exact .ite (.frame (.modGang h)) (.modGang h)

theorem Safety.sound.writeHold {ctx hold kind} (h : sound s) : sound (s.writeHold ctx hold kind) :=
  .ite (.modCtx h) (.admitHeads (.modCtx h))

theorem Safety.OutSound.execPreemptGo {w ctx kind hold} (h : sound s) : OutSound (execPreemptGo w ctx kind hold s) := by
  unfold Machine.execPreemptGo
  refine .ite (.next (.refuse h)) ?_
  split
  · exact .next h
  · dsimp only
    exact .next (.settle (.sweep (.clearBusy (.foldl (.ite (.writeHold h) (.modCtx (.writeHold h))) fun _ _ hs => .stopGang hs))))

theorem Safety.OutSound.execPreemptKill {w ctx} (h : sound s) : OutSound (execPreemptKill w ctx s) :=
  .ite (.next (.refuse h)) (.next (.settle (.sweep (.kill h))))

theorem Safety.OutSound.execPreemptHoldWrite {w ctx hold kind} (h : sound s) : OutSound (execPreemptHoldWrite w ctx hold kind s) :=
  .ite (.next (.refuse h)) (.next (.settle (.writeHold h)))

theorem Safety.sound.drainProducts {id} (h : sound s) : sound (s.drainProducts id) :=
  .foldl h fun _ _ hs => .ite (.frame (.reportProducts hs)) (.ite (.reportProducts hs) (.raiseRecs (.reportProducts hs)))

theorem Safety.sound.noteSaved {id} (h : sound s) : sound (s.noteSaved id) := .modGang h

theorem Safety.ExceptSound.writeFrames {id : Nat} (h : sound s) : ExceptSound (s.writeFrames id) := by
  unfold State.writeFrames
  refine .bind (.map (.foldl (.ok h) fun _ _ ho => .bind ho fun t ht => .mapError (.writeFrame ht)) fun _ ht => .noteSaved ht)
    fun t ht => ?_
  split
  · exact .ok ht
  · exact .foldl (.ok ht) fun _ _ ho => .bind ho fun t ht => .of_elim (.writeBlockFrame ht)

theorem Safety.sound.releaseGang {id} (h : sound s) : sound (s.releaseGang id) := .modGang (.modEng (.frame h))

theorem Safety.OutSound.execPreemptSaveComplete {gang} (h : sound s) : OutSound (execPreemptSaveComplete gang s) := by
  unfold Machine.execPreemptSaveComplete
  split
  · exact .next h
  · refine .ite (.next h) ?_
    dsimp only
    refine .ite (.next (.settle (.drainProducts h))) ?_
    split
    · exact .next (.settle (.sweep (.lose (.drainProducts h))))
    · rename_i s heq
      have hs := (ExceptSound.of_eq heq (.writeFrames (.drainProducts h))).state
      exact .next (.settle (.sweep (.emitPreempt (.clearBusy (.releaseGang hs)))))

/-! ### Coesk -/

theorem Safety.sound.takeMsg {m} (h : sound s) : sound (s.takeMsg m) := .modCoh h

theorem Safety.sound.sendMsg {m} (h : sound s) : sound (s.sendMsg m) := .ite h (.modCoh h)

theorem Safety.sound.addOut {o} (h : sound s) : sound (s.addOut o) := .modCoh h

theorem Safety.sound.modOut {o f} (h : sound s) : sound (s.modOut o f) := .modCoh h

theorem Safety.sound.pruneDrains (h : sound s) : sound s.pruneDrains := .modCaches h

theorem Safety.sound.countRelay {t f} (h : sound s) : sound (s.countRelay t f) := .modEng h

theorem Safety.sound.endRelay {o} (h : sound s) : sound (s.endRelay o) := by
  unfold State.endRelay
  split
  · exact .modOut (.countRelay h)
  · exact h

theorem Safety.sound.endOut {o} (h : sound s) : sound (s.endOut o) := .pruneDrains (.modCoh (.endRelay h))

theorem Safety.sound.homeAtomic {l r depth} (h : sound s) : sound (s.homeAtomic l r depth).1 := by
  unfold State.homeAtomic
  dsimp only
  split
  · exact h
  · exact .writeIn h

theorem Safety.sound.performAt {l k depth} (h : sound s) : sound (s.performAt l k depth) := by
  unfold State.performAt
  split
  · exact h
  · exact .writeLine h
  · exact .homeAtomic h

theorem Safety.sound.answerOut {o} (h : sound s) : sound (s.answerOut o) := by
  unfold State.answerOut
  dsimp only
  exact .endRelay (.ite (by
    split
    · exact .ite h (.sendMsg h)
    · exact h) (.sendMsg (by
    split
    · exact .ite h (.sendMsg h)
    · exact h)))

theorem Safety.sound.completeOut {o} (h : sound s) : sound (s.completeOut o) :=
  .answerOut (.ite (.countTransfer (.performAt h)) (.performAt h))

theorem Safety.sound.serve {o snoops owned dies} (h : sound s) : sound (s.serve o snoops owned dies) :=
  .ite (.completeOut (.modCoh (.foldl (.addOut h) fun _ _ hs => .sendMsg hs))) (.modCoh (.foldl (.addOut h) fun _ _ hs => .sendMsg hs))

theorem Safety.sound.serveRdS {o} (h : sound s) : sound (s.serveRdS o) := by
  unfold State.serveRdS
  dsimp only
  split
  · exact .ite (.serve h) (.serve h)
  · exact .serve h

theorem Safety.sound.serveRdX {o held} (h : sound s) : sound (s.serveRdX o held) := by
  unfold State.serveRdX
  dsimp only
  split
  · exact .ite (.serve h) (.serve h)
  · exact .ite (.serve h) (.ite (.serve h) (.ite (.serve h) (.serve h)))

theorem Safety.sound.serveRdNC {o} (h : sound s) : sound (s.serveRdNC o) := by
  unfold State.serveRdNC
  split
  · exact .ite (.serve h) (.serve h)
  · exact .serve h

theorem Safety.sound.serveWrite {o k data} (h : sound s) : sound (s.serveWrite o k data) := by
  unfold State.serveWrite
  dsimp only
  split
  · exact .serve h
  · exact .ite (.serve h) (.serve h)

theorem Safety.sound.serveOp {o op} (h : sound s) : sound (s.serveOp o op) := by
  unfold State.serveOp
  dsimp only
  split
  · exact .serveRdS h
  · exact .serveRdX h
  · exact .serveRdX h
  · exact .serveRdNC h
  · exact .serveWrite h

theorem Safety.sound.relayToPod {t op l} (h : sound s) : sound (s.relayToPod t op l) := by
  unfold State.relayToPod
  split
  · dsimp only
    exact .say (.modEng h)
  · exact h

theorem Safety.sound.startRelay {o t home} (h : sound s) : sound (s.startRelay o t home) := .ite (.countRelay h) (.emit (.countRelay h))

theorem Safety.sound.relayOut {o t op} (h : sound s) : sound (s.relayOut o t op) := by
  unfold State.relayOut
  dsimp only
  split
  · exact .ite (.writeBatch h) (.relayToPod (.addOut (.startRelay h)))
  · exact h

theorem Safety.sound.arrive {o op} (h : sound s) : sound (s.arrive o op) := by
  unfold State.arrive
  dsimp only
  split
  · exact .ite (.addOut h) (.ite (.addOut (.askBack h)) (.serveOp h))
  · split
    · exact .ite (.addOut h) (.relayOut h)
    · exact .ite (.addOut h) (.ite (.addOut (.askBack h)) (.ite (.addOut (.noteHeldAt h)) (.serveOp (.startRelay h))))

theorem Safety.sound.serveQueued (h : sound s) : sound s.serveQueued := by
  unfold State.serveQueued
  exact .foldl h (fun _ _ hs => by
    split
    · exact hs
    · dsimp only
      exact .ite hs (.ite (.frame hs) (.arrive (.modCoh hs))))

theorem Safety.sound.request {m op} (h : sound s) : sound (s.request m op) := by
  unfold State.request
  split
  · exact h
  · exact .ite (.addOut h) (.arrive h)

theorem Safety.OutSound.execWrline {m clean} (h : sound s) : OutSound (execWrline m clean s) := by
  unfold Machine.execWrline
  split
  · exact .ite (.next h) (.next (.ite (.addOut (.l2Drop h)) (.completeOut (.addOut (.l2Evict h)))))
  · exact .next h

theorem Safety.sound.answerHome {m data} (h : sound s) : sound (s.answerHome m data) := .sendMsg h

theorem Safety.sound.sendOwned {m} (h : sound s) : sound (s.sendOwned m) := by
  unfold State.sendOwned
  split
  · exact .ite (.sendMsg (.modOut h)) h
  · exact h

theorem Safety.OutSound.execFwds {m} (h : sound s) : OutSound (execFwds m s) := by
  unfold Machine.execFwds
  refine .ite (.next h) ?_
  dsimp only
  split
  · exact .ite (.next (.answerHome (.l2Drop (.takeMsg h)))) (.next (.answerHome (.sendOwned (.modCoh (.takeMsg h)))))
  · exact .next (.answerHome (.takeMsg h))

theorem Safety.OutSound.execFwdx {m} (h : sound s) : OutSound (execFwdx m s) := by
  unfold Machine.execFwdx
  refine .ite (.next h) ?_
  dsimp only
  split
  · exact .ite (.next (.answerHome (.l2Drop (.takeMsg h)))) (.next (.answerHome (.sendOwned (.l2Drop (.takeMsg h)))))
  · exact .next (.answerHome (.l2Drop (.takeMsg h)))

theorem Safety.sound.homeAnswered {line txn} (h : sound s) : sound (s.homeAnswered line txn) := by
  unfold State.homeAnswered
  split
  · exact h
  · dsimp only
    exact .ite (.modOut h) (.ite (.arrive (.endOut (.modOut h))) (.completeOut (.modOut h)))

theorem Safety.sound.granted {o g data} (h : sound s) : sound (s.granted o g data) := by
  unfold State.granted
  dsimp only
  split
  · exact .endOut h
  · exact .ite (.l2Use (.endOut h)) (.endOut h)
  · exact .ite (.l2Use (.endOut h)) (.endOut h)
  · exact .ite (.countTransfer (.l2Use (.endOut h))) (.endOut h)

theorem Safety.sound.respond {m data} (h : sound s) : sound (s.respond m data) := by
  unfold State.respond
  split
  · exact .granted h
  · exact .homeAnswered h

theorem Safety.sound.resume (h : sound s) : sound s.resume := .retryAgain (.serveQueued h)

theorem Safety.OutSound.execRelay {m kind} (h : sound s) : OutSound (execRelay m kind s) := by
  unfold Machine.execRelay
  dsimp only
  split
  · exact .ite (.next h) (.ite (.next (.addOut h)) (.next (.settle (.arrive h))))
  · exact .next h

theorem Safety.OutSound.execKeepTimer {die txn} (h : sound s) : OutSound (execKeepTimer die txn s) := by
  unfold Machine.execKeepTimer
  split
  · exact .next h
  · dsimp only
    exact .ite (.next h) (.next (.sendMsg (.modOut h)))

theorem Safety.sound.goOnFor {o} (h : sound s) : sound (s.goOnFor o) :=
  .ite h (.ite h (.ite (.tryEntry (.retryEntry h)) (.tryEntry (.goOn h))))

theorem Safety.sound.answerAccess {o f} (h : sound s) : sound (s.answerAccess o f) := .goOnFor (.modEng h)

theorem Safety.sound.dropTarget {die target} (h : sound s) : sound (s.dropTarget die target) := .ite (.modHub h) (.modDie h)

theorem Safety.OutSound.execCrossDieTimeout {die txn} (h : sound s) : OutSound (execCrossDieTimeout die txn s) := by
  unfold Machine.execCrossDieTimeout
  dsimp only
  split
  · exact .next (.settle (.sweep (.answerAccess (.dropTarget h))))
  · split
    · exact .next (.settle (.sweep (.resume (.writeBatch (.dropTarget (.endOut h))))))
    · exact .next h

theorem Safety.OutSound.execHomeExecuteExpiry {line} (h : sound s) : OutSound (execHomeExecuteExpiry line s) := by
  unfold Machine.execHomeExecuteExpiry
  split
  · exact .ite (.next h) (.next (.modCoh h))
  · exact .next h

theorem Safety.OutSound.execCoeskReservedOp {link op txn} (h : sound s) : OutSound (execCoeskReservedOp link op txn s) := by
  unfold Machine.execCoeskReservedOp
  refine .ite (.next h) ?_
  dsimp only
  split
  · exact .next (.modHub h)
  · exact .next (.modOut (.modCoh (.modHub h)))

/-! ### Attach -/

theorem Safety.OutSound.execCxlMemRead {pa} (h : sound s) : OutSound (execCxlMemRead pa s) := by
  unfold Machine.execCxlMemRead
  split
  · exact .next h
  · dsimp only
    exact .ite (.next h) (.ite (.next (.getD (.map_any fun _ => .askBack h) h)) (.next (.say (.modHub (.homeRead h)))))

theorem Safety.OutSound.execCxlMemWrite {pa data be} (h : sound s) : OutSound (execCxlMemWrite pa data be s) := by
  unfold Machine.execCxlMemWrite
  split
  · exact .next h
  · dsimp only
    exact .ite (.next h) (.next (.settle (.writeLine (.homeWrite h))))

theorem Safety.OutSound.execH2dSnoop {pa inv} (h : sound s) : OutSound (execH2dSnoop pa inv s) := by
  unfold Machine.execH2dSnoop
  dsimp only
  split
  · exact .next (.say (.foldl h fun _ _ hs => .ite (.l2Drop hs) (.l2SetState hs)))
  · exact .next h

theorem Safety.OutSound.execBackInvalidateResponse {hline} (h : sound s) : OutSound (execBackInvalidateResponse hline s) :=
  .ite (.next h) (.next (.settle (.sweep (.resume (.enterWritten (.flushLate (.modHub h)))))))

theorem Safety.OutSound.execH2dResponse {die hline owned data} (h : sound s) : OutSound (execH2dResponse die hline owned data s) :=
  .ite (.next h) (.next (.settle (.sweep (.foldl (.modEng (.foldl (.ite h (.modStore h fun _ hm => storeSound_putLine hm _ _ _))
    fun _ _ hs => .l2Use hs)) fun _ _ hs => .goOnFor hs))))

theorem Safety.OutSound.execCxlIoCompletion {txn data} (h : sound s) : OutSound (execCxlIoCompletion txn data s) := by
  unfold Machine.execCxlIoCompletion
  split
  · exact .next h
  · exact .next (.settle (.sweep (.answerAccess h)))

/-! ### Clock -/

theorem Safety.OutSound.execTimesyncSend (h : sound s) : OutSound (execTimesyncSend s) :=
  .ite (.next h) (.next (.foldl (.modHub h) fun _ _ hs => .say hs))

theorem Safety.sound.traceStep {backward n} (h : sound s) : sound (s.traceStep backward n) := .emit h

/-! ### Drain -/

theorem Safety.OptSound.appendRec {c tail r} (h : sound s) : OptSound (s.appendRec c tail r) :=
  .foldl (.some h) fun _ _ ho => .bind ho fun _ hs => .ringWrite hs

theorem Safety.OptSound.writeTrace {c r} (h : sound s) : OptSound (s.writeTrace c r) :=
  .bind (.bind (.ite (.appendRec h) (.some h)) fun _ hs => .appendRec hs) fun _ hs => .map (.tailWrite hs) fun _ hs => .modCtx hs

theorem Safety.sound.fallBack {id} (h : sound s) : sound (s.fallBack id) := .modCtx h

theorem Safety.sound.drainFell {c} (h : sound s) : sound (s.drainFell c) := .ite (.fallBack h) h

theorem Safety.sound.countDrops {id} (h : sound s) : sound (s.countDrops id) := by
  unfold State.countDrops
  split
  · exact h
  · refine .ite h ?_
    dsimp only
    split
    · rename_i heq
      exact (OptSound.of_eq heq (.bind_any fun _ => .tailWrite (.modCtx h))).state
    · exact .drainFell (.modCtx h)

theorem Safety.sound.loseRec {id} (h : sound s) : sound (s.loseRec id) := .countDrops (.modCtx h)

theorem Safety.sound.drainFault {c} (h : sound s) : sound (s.drainFault c) := .loseRec (.drainFell h)

theorem Safety.sound.deliverOne {r id} (h : sound s) : sound (s.deliverOne r id) := by
  unfold State.deliverOne
  split
  · exact h
  · dsimp only
    refine .ite (.countDrops h) ?_
    split
    · exact .drainFault (.markPages (.countDrops h))
    · exact .loseRec (.markPages (.countDrops h))
    · exact .getD (.writeTrace (.markPages (.countDrops h))) (.drainFault (.markPages (.countDrops h)))

theorem Safety.sound.deliver {r id} (h : sound s) : sound (s.deliver r id) := by
  unfold State.deliver
  dsimp only
  split
  · exact .ite (.deliverOne h) (.foldl (.deliverOne h) fun _ _ ht => .deliverOne ht)
  · exact .deliverOne h

theorem Safety.OutSound.execCoeskTrace {die} (h : sound s) : OutSound (execCoeskTrace die s) := by
  unfold Machine.execCoeskTrace
  split
  · exact .next h
  · exact .ite (.next h) (.next (.frame h))

theorem Safety.sound.takenBy {i id} (h : sound s) : sound (s.takenBy i id) := .frame h

theorem Safety.OutSound.execTraceDrainWrite {die} (h : sound s) : OutSound (execTraceDrainWrite die s) := by
  unfold Machine.execTraceDrainWrite
  split
  · exact .next (.settle (.sweep h))
  · exact .next (.settle (.sweep (.retryAgain (.deliver (.takenBy h)))))

theorem Safety.OutSound.execLosslessFallback {ctx} (h : sound s) : OutSound (execLosslessFallback ctx s) := by
  unfold Machine.execLosslessFallback
  split
  · exact .next h
  · exact .ite (.next h) (.next (.settle (.sweep (.retryAgain (.fallBack h)))))

theorem Safety.OutSound.execTrchdrWrite {w ctx val} (h : sound s) : OutSound (execTrchdrWrite w ctx val s) :=
  .ite (.next (.refuse h)) (.next (.modCtx h))

theorem Safety.OutSound.execTrccfgWrite {w ctx val} (h : sound s) : OutSound (execTrccfgWrite w ctx val s) := by
  unfold Machine.execTrccfgWrite
  split
  · exact .next h
  · dsimp only
    refine .ite (.next (.refuse h)) (.ite (.next (.modCtx h)) ?_)
    split
    · exact .next (.modCtx (.ite (.markPages h) h))
    · exact .next (.settle (.sweep (.retryAgain (.modCtx (.ite (.markPages h) h)))))

/-! ### Pod -/

theorem Safety.sound.modStation {st f} (h : sound s) : sound (s.modStation st f) := .frame h

theorem Safety.sound.stationDown {st} (h : sound s) : sound (s.stationDown st) := by
  unfold State.stationDown
  refine .ite h ?_
  dsimp only
  split
  · exact .writeBatch (.modStation h)
  · exact .modStation h

theorem Safety.OutSound.execStationRetrain {w st} (h : sound s) : OutSound (execStationRetrain w st s) :=
  .ite (.next (.refuse h)) (.next (.modStation h))

theorem Safety.OutSound.execPodcfgWrite {w val} (h : sound s) : OutSound (execPodcfgWrite w val s) :=
  .ite (.next (.refuse h)) (.ite (.next (.modHub h)) (.next (.modHub h)))

theorem Safety.OutSound.execDeadPeerClearMmio {w mask} (h : sound s) : OutSound (execDeadPeerClearMmio w mask s) :=
  .ite (.next (.refuse h)) (.next (.modHub h))

theorem Safety.sound.performPod {st l home r} (h : sound s) : sound (s.performPod st l home r) := by
  unfold State.performPod
  split
  · dsimp only
    exact .say (.homeRead h)
  · exact .say (.writeLine (.homeWrite h))
  · split
    · rename_i s _ heq
      have hs := sound.fst_of_eq heq (.homeAtomic (.homeWrite h))
      exact .say hs
    · rename_i s heq
      have hs := sound.fst_of_eq heq (.homeAtomic (.homeWrite h))
      exact .say hs

theorem Safety.sound.forwardPod {st old l r} (h : sound s) : sound (s.forwardPod st old l r) := by
  unfold State.forwardPod
  dsimp only
  split
  · refine .ite (.say h) ?_
    split <;> exact .say (.addRequest h)
  · exact .say h

theorem Safety.sound.answerPeer {o r} (h : sound s) : sound (s.answerPeer o r) := by
  unfold State.answerPeer
  dsimp only
  split
  · exact .say (.modEng h)
  · exact .say (.modEng h)
  · exact .modEng h

theorem Safety.sound.controlWrite {src d} (h : sound s) : sound (s.controlWrite src d) := by
  unfold State.controlWrite
  dsimp only
  split
  · exact .startFence (.modEng h)
  · exact .acknowledge h
  · exact .say h
  · exact .peerReclaimed h
  · exact h

theorem Safety.OutSound.execUalinkRequestArrival {st r} (h : sound s) : OutSound (execUalinkRequestArrival st r s) := by
  unfold Machine.execUalinkRequestArrival
  dsimp only
  refine .ite (.next h) (.ite (.next (.say h)) (.ite ?_ ?_))
  · split
    · exact .next (.settle (.sweep (.say (.controlWrite h))))
    · exact .next (.say h)
  · split
    · exact .next (.ite (.say h) (.forwardPod h))
    · exact .ite (.next h) (.ite (.next (.askBack h)) (.next (.settle (.performPod h))))

theorem Safety.sound.freeWrite {txn} (h : sound s) : sound (s.freeWrite txn) :=
  .sweep (.retryAgain (.pruneDrains (.ite (.dropWrite h) (.enterWritten (.flushLate (.dropWrite h))))))

theorem Safety.sound.failWrite {o} (h : sound s) : sound (s.failWrite o) := by
  unfold State.failWrite
  split
  · exact .freeWrite (.ite h (.loseChunk h))
  · exact .ite (.freeWrite h) (.sweep (.retryAgain (.modEng h)))

theorem Safety.OutSound.execPodResponse {txn r} (h : sound s) : OutSound (execPodResponse txn r s) := by
  unfold Machine.execPodResponse
  split
  · exact .next (by
      split
      · exact .settle (.sweep (.resume (.answerOut h)))
      · exact h)
  · refine .ite (.next (.settle (.answerPeer h))) (.ite ?_ ?_)
    · split
      · exact .next (.settle (.failWrite h))
      · exact .next h
    · dsimp only
      exact .next (.settle (.sweep (.pruneDrains (.answerAccess h))))

theorem Safety.OutSound.execPodWriteAck {txn} (h : sound s) : OutSound (execPodWriteAck txn s) := by
  unfold Machine.execPodWriteAck
  split
  · exact .ite (.next (.settle (.ite (.answerPeer h) (.freeWrite h)))) (.next h)
  · exact .next (by
      split
      · exact .settle (.sweep (.resume (.answerOut h)))
      · exact h)

theorem Safety.sound.resend {o} (h : sound s) : sound (s.resend o) := by
  unfold State.resend
  split <;> exact .say h

theorem Safety.sound.restart {o} (h : sound s) : sound (s.restart o) := .modEng h

theorem Safety.OutSound.execTrimmedHeader {st k} (h : sound s) : OutSound (execTrimmedHeader st k s) := by
  unfold Machine.execTrimmedHeader
  dsimp only
  split
  · exact .next (.say (.modStation h))
  · exact .next (by
      split
      · exact .ite (.resend (.restart (.modStation h))) (.modStation h)
      · exact .modStation h)
  · exact .next (by
      split
      · exact .ite (.modStation h) (.ite (.restart (.modStation h)) (.resend (.restart (.modStation h))))
      · exact .modStation h)

theorem Safety.sound.failPod {o sub} (h : sound s) : sound (s.failPod o sub) :=
  .ite (.answerPeer h) (.ite (.freeWrite (.writeBatch h)) (.sweep (.pruneDrains (.answerAccess h))))

theorem Safety.OutSound.execPodPortDown {txn} (h : sound s) : OutSound (execPodPortDown txn s) := by
  unfold Machine.execPodPortDown
  split
  · exact .next (.settle (.failPod h))
  · exact .next h

theorem Safety.sound.markDead {o} (h : sound s) : sound (s.markDead o) := .foldl (.modEng (.emit (.modHub h))) fun _ _ hs => .acknowledge hs

theorem Safety.OutSound.execPodTimeout {txn} (h : sound s) : OutSound (execPodTimeout txn s) := by
  unfold Machine.execPodTimeout
  split
  · exact .next h
  · exact .ite (.next h) (.next (.settle (.ite (.markDead (.failPod h)) (.stationDown (.failPod h)))))

/-! ### Manage -/

theorem Safety.sound.giveTo {m prio} (h : sound s) : sound (s.giveTo m prio) := .say (.modHub h)

theorem Safety.sound.giveUp (h : sound s) : sound s.giveUp := .say (.modHub h)

theorem Safety.OutSound.execClaim {master prio} (h : sound s) : OutSound (execClaim master prio s) :=
  .ite (.next h) (.ite (.next (.refuse h)) (.next (.modHub h)))

theorem Safety.OutSound.execClaimBeat {master} (h : sound s) : OutSound (execClaimBeat master s) :=
  .ite (.next h) (.ite (.next (.refuse h)) (.next (.modHub h)))

theorem Safety.OutSound.execClaimRelease {master nextHolder} (h : sound s) : OutSound (execClaimRelease master nextHolder s) :=
  .ite (.next h) (.ite (.next (.refuse h)) (.next (.ite (.giveUp (.modHub h)) (.giveTo (.modHub h)))))

theorem Safety.OutSound.execElectionClose (h : sound s) : OutSound (execElectionClose s) := by
  unfold Machine.execElectionClose
  refine .ite (.next h) ?_
  split
  · exact .next (.giveTo h)
  · exact .next (.modHub h)

theorem Safety.OutSound.execL2cfgWrite {w die val} (h : sound s) : OutSound (execL2cfgWrite w die val s) :=
  .ite (.next (.refuse h)) (.ite (.next (.modDie h)) (.ite (.next (.modDie (.modDie h))) (.next (.modDie (.modDie h)))))

theorem Safety.sound.trimL2 {die} (h : sound s) : sound (s.trimL2 die) := .foldl h fun _ _ hs => .l2Evict hs

theorem Safety.OutSound.execCarveChangeDone {die : Nat} (h : sound s) : OutSound (execCarveChangeDone die s) := by
  unfold Machine.execCarveChangeDone
  have ht : sound ((s.modDie die fun d => { d with busy := false, carve := d.carveTo }).trimL2 die) := .trimL2 (.modDie h)
  exact .ite (.next h) (.next (.withStore (storeSound_wipe ht _ _)))

theorem Safety.sound.modSlot {n f} (h : sound s) : sound (s.modSlot n f) := .frame h

theorem Safety.sound.wipeScratch {c} (h : sound s) : sound (s.wipeScratch c) :=
  .withStore (storeSound_foldl (fun _ _ hm => storeSound_wipe hm _ _) _ h)

theorem Safety.sound.create {x : CtxSlot} (h : sound s) : sound (s.create x) := by
  unfold State.create
  dsimp only
  split
  · exact .modSlot h
  · exact .frame (.modSlot (.wipeScratch h))

theorem Safety.OutSound.execContextCreate {w slot} (h : sound s) : OutSound (execContextCreate w slot s) := by
  unfold Machine.execContextCreate
  refine .ite (.next (.refuse h)) ?_
  split
  · exact .next (.create h)
  · exact .next h

theorem Safety.sound.destroy {slot : Nat} (h : sound s) : sound (s.destroy slot) := by
  unfold State.destroy
  split
  · exact h
  · rename_i c _
    obtain ⟨hm, ht, hp, ho⟩ : sound (s.kill c.id false).sweep := .sweep (.kill h)
    exact .modSlot (.withStore ⟨hm, ht, hp, Memory.filter_wf ho _⟩)

theorem Safety.OutSound.execContextDestroy {w slot} (h : sound s) : OutSound (execContextDestroy w slot s) :=
  .ite (.next (.refuse h)) (.next (.settle (.destroy h)))

theorem Safety.sound.attest {master cmd a} (h : sound s) : sound (s.attest master cmd a) := .ite (.say h) h

/-! ### Bring -/

theorem Safety.sound.beginStep {n} (h : sound s) : sound (s.beginStep n) := .modHub h

theorem Safety.sound.failStep {stage} (h : sound s) : sound (s.failStep stage) := .modHub h

theorem Safety.sound.runStage {stage} (h : sound s) : sound (s.runStage stage) := by
  unfold State.runStage
  split
  · exact .modHub h
  · exact h

theorem Safety.sound.bring8 (h : sound s) : sound s.bring8 := by
  unfold State.bring8
  dsimp only
  split
  · exact .giveTo (.beginStep h)
  · exact .beginStep h

theorem Safety.sound.bring7 (h : sound s) : sound s.bring7 :=
  .ite (.failStep (.beginStep h)) (.bring8 (.foldl (.beginStep h) fun _ _ hs => .modStation hs))

theorem Safety.sound.bring6 (h : sound s) : sound s.bring6 := by
  unfold State.bring6
  dsimp only
  split
  · exact .failStep (.foldl (.beginStep h) fun _ _ hs => .runStage hs)
  · exact .bring7 (.foldl (.beginStep h) fun _ _ hs => .runStage hs)

theorem Safety.sound.bring5 (h : sound s) : sound s.bring5 := by
  unfold State.bring5
  dsimp only
  split
  · exact .bring6 (.withStore storeSound_empty)
  · exact .failStep (.beginStep h)

theorem Safety.sound.closeDiscovery (h : sound s) : sound s.closeDiscovery := .ite (.modHub (.frame h)) (.failStep (.modHub (.frame h)))

theorem Safety.sound.readyIfAll (h : sound s) : sound s.readyIfAll := .ite (.bring5 (.modHub h)) h

theorem Safety.sound.takeDiscover {port r} (h : sound s) : sound (s.takeDiscover port r) := .ite (.modHub h) h

theorem Safety.sound.bring4 (h : sound s) : sound s.bring4 := by
  unfold State.bring4
  dsimp only
  refine .ite (.beginStep h) ?_
  exact .readyIfAll (.frame (.closeDiscovery (.foldl (.beginStep h) (fun _ _ hs => by
    split
    · exact .takeDiscover hs
    · exact hs))))

theorem Safety.sound.bring3 (h : sound s) : sound s.bring3 := .bring4 (.frame (.beginStep h))

theorem Safety.sound.bring2 (h : sound s) : sound s.bring2 := .ite (.bring3 (.runStage (.beginStep h))) (.failStep (.beginStep h))

theorem Safety.sound.released {b : BringUp} : sound (s.released b) := by
  unfold State.released
  exact .withStore storeSound_empty

theorem Safety.OutSound.execCfg {c} (h : sound s) : OutSound (execCfg c s) := by
  unfold Machine.execCfg
  split
  · exact .next (.modHub h)
  · exact .ite (.next (.modDie h)) (.next h)
  · exact .ite (.next (.readyIfAll (.modDie h))) (.next h)
  · exact .next h

/-! ### Scalar -/

theorem Safety.ResSound.scalarDone {d wide x} (h : sound c.s) : ResSound (c.scalarDone d wide x) := .ite (.next h) (.done h)

theorem Safety.ResSound.sBin {f g} (h : sound c.s) : ResSound (c.sBin f g) := .scalarDone h

theorem Safety.ResSound.sBinI {f g} (h : sound c.s) : ResSound (c.sBinI f g) := .scalarDone h

theorem Safety.ResSound.sShift {f g} (h : sound c.s) : ResSound (c.sShift f g) := .scalarDone h

theorem Safety.ResSound.sShiftI {f g} (h : sound c.s) : ResSound (c.sShiftI f g) := .scalarDone h

theorem Safety.OutSound.execSmovih {f} (h : sound s) : OutSound (execSmovih f s) := by
  unfold Machine.execSmovih
  exact .issue h (fun _ hc => .ite (.next hc) (by
    split
    · exact .done hc
    · exact .next hc))

theorem Safety.ResSound.cmpDone {d wide r} (h : sound c.s) : ResSound (c.cmpDone d wide r) := by
  unfold Issue.cmpDone
  refine .ite (.next h) ?_
  split
  · exact .done h
  · exact .scalarDone h

/-! ### VectorInt -/

theorem Safety.ResSound.vectorDone {d wide g} (h : sound c.s) : ResSound (c.vectorDone d wide g) := .done h

theorem Safety.ResSound.vBin {f g} (h : sound c.s) : ResSound (c.vBin f g) := .vectorDone h

theorem Safety.ResSound.vBinI {f g} (h : sound c.s) : ResSound (c.vBinI f g) := .vectorDone h

theorem Safety.ResSound.vShift {f g} (h : sound c.s) : ResSound (c.vShift f g) := .vectorDone h

theorem Safety.ResSound.vShiftI {f g} (h : sound c.s) : ResSound (c.vShiftI f g) := .vectorDone h

theorem Safety.ResSound.vCmpDone {d p} (h : sound c.s) : ResSound (c.vCmpDone d p) := .done h

/-! ### VectorFloat -/

theorem Safety.ResSound.floatDone {d wide g} (h : sound c.s) : ResSound (c.floatDone d wide g) := .doneFlags h

theorem Safety.ResSound.fRun {f rand g} (h : sound c.s) : ResSound (c.fRun f rand g) := .floatDone h

/-! ### Lane -/

theorem Safety.OutSound.execVvote {f} (h : sound s) : OutSound (execVvote f s) := by
  unfold Machine.execVvote
  exact .issue h (fun _ hc => by
    dsimp only
    split <;> exact .done hc)

/-! ### Register -/

theorem Safety.sound.orStay {o} (hs : sound s) (ho : OutSound o) : sound (orStay s o) := by
  unfold Machine.orStay
  split
  · exact ho.state
  · exact hs

theorem Safety.sound.inSlot {slot f} (hs : sound s) (hf : ∀ x0, sound (f x0)) : sound (s.inSlot slot f) := by
  unfold State.inSlot
  split
  · exact hf _
  · exact hs

theorem Safety.sound.writeClaim {w v} (h : sound s) : sound (s.writeClaim w v) := by
  unfold State.writeClaim
  split
  · exact h
  · exact .ite (.refuse h) (.ite (.orStay h (.execClaimRelease h)) (.ite (.orStay h (.execClaimBeat h)) (.orStay h (.execClaim h))))

theorem Safety.sound.writeCtl {w x v} (h : sound s) : sound (s.writeCtl w x v) :=
  .ite (.orStay (.inSlot (.modSlot h) fun _ => .modCtx (.modSlot h))
    (.execContextCreate (.inSlot (.modSlot h) fun _ => .modCtx (.modSlot h))))
    (.ite (.orStay (.inSlot (.modSlot h) fun _ => .modCtx (.modSlot h))
    (.execContextDestroy (.inSlot (.modSlot h) fun _ => .modCtx (.modSlot h)))) (.inSlot (.modSlot h) fun _ => .modCtx (.modSlot h)))

theorem Safety.sound.writeDesc {w slot i v} (h : sound s) : sound (s.writeDesc w slot i v) := by
  unfold State.writeDesc
  split
  · exact h
  · exact .ite (.writeCtl h) (.ite h (.modSlot h))

theorem Safety.sound.writePreempt {w c v} (h : sound s) : sound (s.writePreempt w c v) :=
  .ite (.ite (.writeHold (.orStay h (.execPreemptKill h))) (.orStay h (.execPreemptKill h)))
    (.ite (.orStay h (.execPreemptGo h)) (.orStay h (.execPreemptHoldWrite h)))

theorem Safety.sound.writeResponse {w c v} (h : sound s) : sound (s.writeResponse w c v) :=
  .ite (.orStay h (.execFaultResponseFail h)) (.ite (.orStay h (.execFaultResponseRetry h)) h)

theorem Safety.sound.writeSlot {w r v} (h : sound s) : sound (s.writeSlot w r v) := by
  unfold State.writeSlot
  split
  · exact .writeDesc h
  · exact .inSlot h fun _ => .writePreempt h
  · exact .inSlot h fun _ => .writeResponse h
  · exact .inSlot h fun _ => .orStay h (.execEventSetRegister h)
  · exact .inSlot h fun _ => .orStay h (.execEventClearRegister h)
  · exact .inSlot h fun _ => .orStay h (.execQueueRegister h)
  · exact .inSlot h fun _ => .orStay h (.execTrchdrWrite h)
  · exact .inSlot h fun _ => .orStay h (.execTrccfgWrite h)
  · exact h

theorem Safety.sound.writeStation {w st v} (h : sound s) : sound (s.writeStation w st v) :=
  .ite (.orStay (.modStation h) (.execStationRetrain (.modStation h))) (.modStation h)

theorem Safety.sound.writeDevice {w r v} (h : sound s) : sound (s.writeDevice w r v) := by
  unfold State.writeDevice
  split
  · exact .modHub h
  · exact .modHub h
  · exact .orStay h (.execPodcfgWrite h)
  · exact .orStay h (.execL2cfgWrite h)
  · exact .writeStation h
  · exact .orStay h (.execDeadPeerClearMmio h)
  · exact h

theorem Safety.sound.registerWrite {w r v} (h : sound s) : sound (registerWrite w r v s) :=
  .ite (.writeClaim h) (.ite (.ite (.writeSlot h) (.refuse h)) (.ite (.writeDevice h) (.refuse h)))

/-! ### Scale -/

theorem Safety.ResSound.kDone {d p g} (h : sound c.s) : ResSound (c.kDone d p g) := .done h

theorem Safety.ResSound.kget {sub d s1 idx} (h : sound c.s) : ResSound (c.kget sub d s1 idx) :=
  .ite (.next h) (.ite (.ite (.badHood h) (.scalarDone h)) (.ite (.badHood h) (.scalarDone h)))

theorem Safety.ResSound.kset {sub d s1 idx} (h : sound c.s) : ResSound (c.kset sub d s1 idx) :=
  .ite (.next h) (.ite (.ite (.badHood h) (.kDone h)) (.ite (.badHood h) (.kDone h)))

theorem Safety.ResSound.kadd {ty d s1 delta} (h : sound c.s) : ResSound (c.kadd ty d s1 delta) := .doneFlags h

theorem Safety.sound.modRings {g} (h : sound c.s) : sound (c.modRings g).s := .modBlockOf h

theorem Safety.OutSound.execAmxpush {f} (h : sound s) : OutSound (execAmxpush f s) := by
  unfold Machine.execAmxpush
  exact .issue h (fun _ hc => .ite (.next hc) (.ite (.badHood hc) (by
    split
    · exact .next hc
    · exact .next (.modRings hc))))

theorem Safety.OutSound.execAmxget {f} (h : sound s) : OutSound (execAmxget f s) := by
  unfold Machine.execAmxget
  exact .issue h (fun _ hc => .ite (.next hc) (.ite (.badHood hc) (by
    dsimp only
    split
    · exact .scalarDone hc
    · exact .ite (.badHood hc) (.scalarDone hc)
    · exact .scalarDone hc)))

theorem Safety.ResSound.clearRings {mask} (h : sound c.s) : ResSound (c.clearRings mask) := .ite (.next h) (.next (.modRings h))

theorem Safety.OutSound.exec {i : Instr} (h : sound s) : OutSound (exec i s) := by
  cases i with dsimp only [Machine.exec]
  | nop _ => exact .issue h fun _ hc => .next hc
  | exit _ => exact .issueSweep h fun _ hc => .exit hc
  | bra _ | call _ => exact .issue h fun _ hc => .branch hc
  | brx _ => exact .execBrx h
  | ret _ => exact .issue h fun _ hc => .jumpTo hc
  | felt _ => exact .issueSweep h fun _ hc => .hold (.resolveFelt (.put hc))
  | yield _ => exact .execYield h
  | phase _ => exact .issueSweep h fun _ hc => .collective hc fun _ hc => .ite (.badHood hc) (.ite (.badHood hc) (.hold (.put hc)))
  | sleep _ => exact .issue h fun _ hc => .ite (.next hc) (.jump (.put hc))
  | sleepExpiry _ => exact .next (.settle (.tryEntry (.modWarp h)))
  | bar _ | barh _ => exact .issueSweep h fun _ hc => .collective hc fun _ hc => .hold (.put hc)
  | trap _ => exact .issue h fun _ hc => .ite (.next hc) (.trap hc)
  | bkpt _ => exact .issue h fun _ hc => .ite (.next hc) (.bad hc)
  | tret _ => exact .issueSweep h fun _ hc => .tret hc
  | srget _ => exact .issue h fun _ hc => .srget hc
  | srset _ => exact .issue h fun _ hc => .srset hc
  | migr _ | migrSwap _ => exact .issue h fun _ hc => .migr hc
  | trace _ | traceImm _ => exact .issue h fun _ hc => .trace hc
  | trctlSet _ => exact .issue h fun _ hc => .trctl hc
  | trctlFlush _ => exact .issue h fun _ hc => .ite .stall (.next hc)
  | evset _ | evsetImm _ => exact .issue h fun _ hc => .evset hc
  | evwait _ | evwaitImm _ => exact .issue h fun _ hc => .evwait hc
  | evwaitReturn _ => exact .execEvwaitReturn h
  | smov _ | sclz _ | spopc _ | sbfe _ | sbfeImm _ | slea _ => exact .issue h fun _ hc => .scalarDone hc
  | smovi _ => exact .issue h fun _ hc => .ite (.scalarDone hc) (.scalarDone hc)
  | smovih _ => exact .execSmovih h
  | sadd _ | ssub _ | smul _ | smulh _ | smad _ | sdiv _ | srem _ | sand _ | sor _ | sxor _ | smin _ | smax _ | ssel _ | sbfi _ =>
    exact .issue h fun _ hc => .sBin hc
  | saddImm _ | ssubImm _ | smulImm _ | smulhImm _ | sdivImm _ | sremImm _ | sandImm _ | sorImm _ | sxorImm _ | sminImm _ | smaxImm _ =>
    exact .issue h fun _ hc => .sBinI hc
  | sshl _ | sshr _ | ssra _ => exact .issue h fun _ hc => .sShift hc
  | sshlImm _ | sshrImm _ | ssraImm _ => exact .issue h fun _ hc => .sShiftI hc
  | scmp _ | scmpImm _ => exact .issue h fun _ hc => .cmpDone hc
  | scvt _ => exact .issue h fun _ hc => .ite (.next hc) (.doneFlags hc)
  | vmov _ | vmovi _ | vbcst _ | vidx _ | vmad _ | vabs _ | vsel _ | vclz _ | vpopc _ | vbfe _ | vbfeImm _ | vbfi _ | vdot4 _ | fclass _ =>
    exact .issue h fun _ hc => .vectorDone hc
  | vadd _ | vsub _ | vmul _ | vmulh _ | vand _ | vor _ | vxor _ | vmin _ | vmax _ => exact .issue h fun _ hc => .vBin hc
  | vaddImm _ | vsubImm _ | vmulImm _ | vmulhImm _ | vandImm _ | vorImm _ | vxorImm _ | vminImm _ | vmaxImm _ =>
    exact .issue h fun _ hc => .vBinI hc
  | vshl _ | vshr _ | vsra _ => exact .issue h fun _ hc => .vShift hc
  | vshlImm _ | vshrImm _ | vsraImm _ => exact .issue h fun _ hc => .vShiftI hc
  | vcmp _ | vcmpImm _ => exact .issue h fun _ hc => .vCmpDone hc
  | philox _ | vshfl _ | vcmpr _ => exact .issue h fun _ hc => .done hc
  | fadd _ | fsub _ | fmul _ | ffma _ | fmin _ | fmax _ | frcp _ | frsq _ | fsqrt _ | fdiv _ | fexp2 _ | flog2 _ | fsin _ | fcos _
  | ftanh _ | frint _ => exact .issue h fun _ hc => .fRun hc
  | fcmp _ | vred _ | vscan _ | vqntLane _ | vdqnt _ => exact .issue h fun _ hc => .doneFlags hc
  | fcvt _ | fscale _ | fsmxu _ | fsmxf _ => exact .issue h fun _ hc => .floatDone hc
  | vvote _ => exact .execVvote h
  | kmov _ | kfill _ | kfillImm _ => exact .issue h fun _ hc => .kDone hc
  | kget _ => exact .issue h fun _ hc => .ite (.done hc) (.kget hc)
  | kgetImm _ => exact .issue h fun _ hc => .kget hc
  | kset _ => exact .issue h fun _ hc => .ite (.kDone hc) (.kset hc)
  | ksetImm _ => exact .issue h fun _ hc => .kset hc
  | kadd _ | kaddImm _ => exact .issue h fun _ hc => .kadd hc
  | vqntRow _ => exact .issue h fun _ hc => .collective hc fun _ hc => .ite (.badHood hc) (.doneFlags hc)
  | vamax _ =>
    exact .issue h fun _ hc => .ite (.badHood hc) (.ite (.badHood hc) (.ite (.badHood hc) (.ite (.done hc) (.done (.modRings hc)))))
  | amxpush _ => exact .execAmxpush h
  | amxget _ => exact .execAmxget h
  | amxclr _ | amxclrImm _ => exact .issue h fun _ hc => .clearRings hc
  | sld _ => exact .issue h fun _ hc => .sld hc
  | sst _ => exact .issue h fun _ hc => .sst hc
  | vld _ => exact .issue h fun _ hc => .vld hc
  | vst _ => exact .issue h fun _ hc => .vst hc
  | vldl _ => exact .issue h fun _ hc => .collective hc fun _ hc => .vldl hc
  | vstl _ => exact .issue h fun _ hc => .collective hc fun _ hc => .vstl hc
  | pref _ => exact .issue h fun _ hc => .pref hc
  | cctl _ => exact .issue h fun _ hc => .cctl hc
  | fence _ => exact .issue h fun _ hc => .fence hc
  | tfence _ => exact .issue h fun _ hc => .tfence hc
  | waitv _ => exact .issue h fun _ hc => .waitv hc
  | waitvReturn _ => exact .execWaitvReturn h
  | watch _ => exact .issue h fun _ hc => .watch hc
  | unwatch _ => exact .issue h fun _ hc => .issue_unwatch hc
  | atomAdd _ | atomAnd _ | atomOr _ | atomXor _ | atomMin _ | atomMax _ | atomExch _ | atomCas _ | atomIncw _ | atomDecw _ | atomFaddF32 _
  | atomFaddBf16x2 _ | atomFminF32 _ | atomFmaxF32 _ | satomAdd _ | satomAnd _ | satomOr _ | satomXor _ | satomMin _ | satomMax _
  | satomExch _ | satomCas _ | satomIncw _ | satomDecw _ | satomFaddF32 _ | satomFaddBf16x2 _ | satomFminF32 _ | satomFmaxF32 _ =>
    exact .issue h fun _ hc => .atomic hc
  | bandi _ => exact .issue h fun _ hc => .bandi hc
  | bandx _ => exact .issue h fun _ hc => .bandx hc
  | banda _ => exact .issue h fun _ hc => .banda hc
  | bandw _ => exact .issue h fun _ hc => .bandw hc
  | bandwReturn _ => exact .next (.ite (.settle (.goOn h)) h)
  | bandt _ => exact .issue h fun _ hc => .bandt hc
  | xlayNew _ => exact .issue h fun _ hc => .xlayNew hc
  | xlaySet _ => exact .issue h fun _ hc => .xlaySet hc
  | xlayFree _ => exact .issue h fun _ hc => .xlayFree hc
  | xcopy _ => exact .issue h fun _ hc => .xcopy hc
  | xcopyAccept _ => exact .execXcopyAccept h
  | qinitInit _ => exact .issue h fun _ hc => .qinit hc
  | qinitFini _ => exact .issue h fun _ hc => .qfini hc
  | qputResv _ => exact .issue h fun _ hc => .qresv hc
  | qputResvRetry _ | qputCommitPublish _ | qgetAcqRetry _ | qgetFreeRelease _ => exact .next (.ringRetry h)
  | qputCommit _ => exact .issue h fun _ hc => .qcommit hc
  | qgetAcq _ => exact .issue h fun _ hc => .qacq hc
  | qgetFree _ => exact .issue h fun _ hc => .qfree hc
  | spawn _ => exact .issue h fun _ hc => .spawn hc
  | mshape _ => exact .issue h fun _ hc => .collective hc fun _ hc => .mshape hc
  | mma _ | dmma _ => exact .issue h fun _ hc => .collective hc fun _ hc => .matrix hc
  | mmaStart _ => exact .execMmaStart h
  | mmaComplete _ => exact .execMmaComplete h
  | mmaw _ => exact .issue h fun _ hc => .collective hc fun _ hc => .mmaw hc
  | mmawReturn _ _ => exact .execMmawReturn h
  | mzero _ => exact .issue h fun _ hc => .mzero hc
  | mfence _ => exact .issue h fun _ hc => .mfence hc
  | icacheFill _ _ _ _ _ => exact .execIcacheFill h
  | registerScrub _ _ => exact .execRegisterScrub h
  | pageWalk _ => exact .execPageWalk h
  | tfenceAcknowledge _ _ => exact .execTfenceAcknowledge h
  | faultResponseRetry _ _ _ => exact .execFaultResponseRetry h
  | faultResponseFail _ _ _ => exact .execFaultResponseFail h
  | migrationRequestHost _ _ _ => exact .execMigrationRequestHost h
  | migrationCopyPassDone _ => exact .execMigrationCopyPassDone h
  | migrationStubbed _ => exact .execMigrationStubbed h
  | stubReclaimAttempt _ _ => exact .execStubReclaimAttempt h
  | rds _ | rdx _ | rdnc _ | upgr _ => exact .ite (.next h) (.next (.request h))
  | wrline _ _ => exact .execWrline h
  | wrpart _ _ _ | atomhome _ _ => exact .ite (.next h) (.next (.settle (.request h)))
  | inv _ => exact .ite (.next h) (.next (.settle (.retryAgain (.answerHome (.l2Drop (.takeMsg h))))))
  | fwds _ => exact .execFwds h
  | fwdx _ => exact .execFwdx h
  | ack _ => exact .ite (.next h) (.ite (.next (.modCoh (.takeMsg h))) (.next (.settle (.resume (.respond (.takeMsg h))))))
  | data _ => exact .ite (.next h) (.next (.settle (.resume (.respond (.takeMsg h)))))
  | relay _ _ => exact .execRelay h
  | redirect _ => exact .ite (.next h) (.next (.serveQueued (.pruneDrains (.addDrain (.applyRedirect (.takeMsg h))))))
  | trignote _ => exact .execTrignote h
  | timesync _ _ _ => exact .ite (.next h) (.next (.modDie (.modHub h)))
  | timesyncSend => exact .execTimesyncSend h
  | coeskTrace _ => exact .execCoeskTrace h
  | cfg _ => exact .execCfg h
  | coeskReservedOp _ _ _ => exact .execCoeskReservedOp h
  | keepTimer _ _ => exact .execKeepTimer h
  | crossDieTimeout _ _ => exact .execCrossDieTimeout h
  | homeExecuteExpiry _ => exact .execHomeExecuteExpiry h
  | referenceTick => exact .ite (.next (.modHub h)) (.next (.rollWindow (.frame h)))
  | timebaseWatchdog => exact .ite (.next h) (.next (.settle (.foldl (.modHub h) fun _ _ hs => .writeBatch hs)))
  | discoverRecord _ _ => exact .ite (.next h) (.next (.ite (.closeDiscovery (.takeDiscover h)) (.takeDiscover h)))
  | discoveryTimeout => exact .ite (.next h) (.next (.closeDiscovery h))
  | commandProcessorFire _ _ => exact .execCommandProcessorFire h
  | launchAdmit _ _ => exact .next (.settle (.sweep (.tryAdmit h)))
  | launchRetire _ => exact .execLaunchRetire h
  | eventSetRegister _ _ _ => exact .execEventSetRegister h
  | eventClearRegister _ _ _ => exact .execEventClearRegister h
  | queueRegister _ _ _ _ => exact .execQueueRegister h
  | placementRound _ => exact .next (.settle (.sweep (.placementRound h)))
  | placementReserveTimeout _ => exact .execPlacementReserveTimeout h
  | triggerPoolRelease _ => exact .execTriggerPoolRelease h
  | triggerWindowRollover => exact .next (.rollWindow h)
  | preemptGo _ _ _ _ => exact .execPreemptGo h
  | preemptKill _ _ => exact .execPreemptKill h
  | preemptSaveComplete _ => exact .execPreemptSaveComplete h
  | chunkProcess _ => exact .execChunkProcess h
  | chunkLand _ _ _ => exact .execChunkLand h
  | spillSpaceFreed _ => exact .ite (.next h) (.next (.modEng h))
  | l2cfgWrite _ _ _ => exact .execL2cfgWrite h
  | carveChangeDone _ => exact .execCarveChangeDone h
  | mmioWrite _ _ _ => exact .next (.registerWrite h)
  | stationLinkDown _ => exact .next (.settle (.stationDown h))
  | stationRetrain _ _ => exact .execStationRetrain h
  | stationTrained _ => exact .next (.modStation h)
  | podcfgWrite _ _ => exact .execPodcfgWrite h
  | ualinkRequestArrival _ _ => exact .execUalinkRequestArrival h
  | podResponse _ _ => exact .execPodResponse h
  | podWriteAck _ => exact .execPodWriteAck h
  | trimmedHeader _ _ => exact .execTrimmedHeader h
  | podPortDown _ => exact .execPodPortDown h
  | podTimeout _ => exact .execPodTimeout h
  | deadPeerClearMmio _ _ => exact .execDeadPeerClearMmio h
  | traceDrainWrite _ => exact .execTraceDrainWrite h
  | losslessFallback _ => exact .execLosslessFallback h
  | trchdrWrite _ _ _ => exact .execTrchdrWrite h
  | trccfgWrite _ _ _ => exact .execTrccfgWrite h
  | timebaseSourceUpdate _ =>
    exact .ite (.next h) (.ite (.next (.modHub h))
      (.ite (.next (.traceStep (.rollWindow (.frame (.modHub h))))) (.next (.traceStep (.modHub h)))))
  | cxlMemRead _ => exact .execCxlMemRead h
  | cxlMemWrite _ _ _ => exact .execCxlMemWrite h
  | h2dSnoop _ _ => exact .execH2dSnoop h
  | backInvalidateResponse _ => exact .execBackInvalidateResponse h
  | claim _ _ => exact .execClaim h
  | claimBeat _ => exact .execClaimBeat h
  | claimRelease _ _ => exact .execClaimRelease h
  | electionClose => exact .execElectionClose h
  | leaseLapse => exact .ite (.next h) (.next (.giveUp h))
  | contextCreate _ _ => exact .execContextCreate h
  | contextDestroy _ _ => exact .execContextDestroy h
  | reset _ => exact .next (.bring2 .released)
  | recoveryImage _ => exact .ite (.next h) (.next (.ite (.bring2 (.modHub h)) (.bring6 (.modHub h))))
  | firmwareRevocationCommand _ => exact .ite (.next (.refuse h)) (.ite (.next h) (.next (.modHub h)))
  | getVersion _ | getCapabilities _ | negotiateAlgorithms _ | getDigests _ | getCertificate _ _ | challenge _ _ => exact .next (.attest h)
  | getMeasurements _ _ => exact .next (.ite (.attest h) h)
  | powerLimitStep _ _ => exact .next (.modDie h)
  | thermalTrip => exact .next (.say (.say (.modHub h)))
  | fillReturn _ => exact .execFillReturn h
  | h2dResponse _ _ _ _ => exact .execH2dResponse h
  | cxlIoCompletion _ _ => exact .execCxlIoCompletion h
  | engineReset _ _ =>
    exact .ite (.next (.refuse h)) (.next (.settle (.sweep (.retryAgain (.modEng (.foldl h fun _ _ hs => .freeSpill hs))))))
  | preemptHoldWrite _ _ _ _ => exact .execPreemptHoldWrite h
  | linkDeclaredDown _ _ => exact .ite (.next h) (.next (.modCoh (.modHub h)))

/-! ### Turn -/

theorem Safety.sound.issued {w cur word pair second} (ht : sound t) : sound (t.issued s w cur word pair second) := by
  unfold State.issued
  dsimp only
  refine .ite (.frame ht) ?_
  split
  · exact .openPair (.ite (.frame ht) (.countIssue (.frame ht)))
  · exact .ite (.frame ht) (.countIssue (.frame ht))

theorem Safety.OutSound.stepHood {second : Bool} (h : sound s) : OutSound (stepHood s second) := by
  unfold Machine.stepHood
  split
  · exact .next h
  · split
    · rename_i heq
      exact .next (.settle (FetchedSound.of_eq heq (.fetchHood h)).state)
    · rename_i heq
      have ht := (FetchedSound.of_eq heq (.fetchHood h)).state
      split
      · exact .next (.settle (.decodeFault ht))
      · split
        · exact .next (.settle (.sweep (.lose ht)))
        · rename_i heq
          have hu := (OptSound.of_eq heq (.readWords ht)).state
          split
          · rename_i heq
            exact .next (.issued (OutSound.of_eq heq (.exec hu)).state)
          · exact .exec hu

theorem Safety.OutSound.tryHoods {l : List HoodRef} (h : sound s) : OutSound (tryHoods l s) := by
  induction l generalizing s with
  | nil => exact .next h
  | cons x l ih =>
    unfold Machine.tryHoods
    have hx : OutSound (Machine.stepHood { s with cur := x }) := .stepHood (.frame h)
    split
    · rename_i heq
      have ht := (OutSound.of_eq heq hx).state
      split
      · exact ih ht
      · exact .next ht
    · exact hx

theorem Safety.sound.freeHeld (h : sound s) : sound s.freeHeld := .frame h

theorem Safety.sound.ready (h : sound s) : sound s.ready := .noteReady (.wakeYields (.freeHeld h))

/-! ### Step -/

theorem Safety.OutSound.stepHalted (h : sound s) : OutSound (stepHalted s) := by
  unfold Machine.stepHalted
  split
  · exact .ite (.exec (.frame h)) (.next (.frame h))
  · exact .next (.registerWrite (.frame h))
  · exact .next (.registerWrite (.frame h))
  · exact .next (.frame h)
  · exact .next (.frame h)
  · exact .next (.frame h)
  · exact .next (.frame h)
  · exact .next h

theorem Safety.sound.before (h : sound s) : sound s.before :=
  .ite (.meetUpsets h) (.endHolds (.foldl (.meetUpsets h) fun _ _ hs => .countDrops hs))

theorem Safety.OutSound.step (h : sound s) : OutSound (step s) := by
  unfold Machine.step
  dsimp only
  refine .ite (.stepHalted (.before h)) ?_
  split
  · exact .exec (.frame (.before h))
  · split
    · exact .exec (.frame (.before h))
    · exact .next (.registerWrite (.frame (.before h)))
    · exact .next (.registerWrite (.frame (.before h)))
    · exact .stepHood (.frame (.ready (.before h)))
    · exact .stepHood (.frame (.ready (.before h)))
    · split
      · exact .tryHoods (.frame (.ready (.before h)))
      · exact .next (.ready (.before h))

end

/-- Settles O5: every function that a step is made of keeps the storage sound. -/
theorem stepKeepsStorageSound : Obligations.StepKeepsStorageSound := by
  unfold Obligations.StepKeepsStorageSound
  exact fun s t h e => (OutSound.of_eq e (.step h)).state

end Sys2Proof
end

section
/-! # Bytes after a write (O35)

What the writes of the storage leave at each byte: a masked write of a line, a write within one line, and a write split at line
boundaries. With no device-written field in the way (R194, R354, R365), nothing else touches a byte. -/

namespace Sys2Proof

open Machine Safety

/-! ### Lines -/

/-- The first `n` steps of a masked write of a line. -/
theorem Machine.Store.byte_foldl_setByte {m : Store} (hm : storeSound m) (l : Nat) (mask : BitVec 128) (d : LineData) (j n : Nat) :
    ((List.range n).foldl (fun s i => if mask.getLsbD i then s.setByte (128 * l + i) (LineData.byte d i) else s) m).byte j =
      if 128 * l ≤ j ∧ j < 128 * l + n ∧ mask.getLsbD (j - 128 * l) = true then LineData.byte d (j - 128 * l) else m.byte j := by
  induction n with
  | zero => simp; omega
  | succ n ih =>
    rw [List.range_succ, List.foldl_append, List.foldl_cons, List.foldl_nil]
    split
    · rename_i hn
      rw [Store.byte_setByte (storeSound_foldl (fun _ _ h => by split; exacts [storeSound_setByte h _ _, h]) _ hm).1, ih]
      by_cases hj : j = 128 * l + n
      · simp [hj, hn]
      · rw [if_neg hj]
        exact if_congr (and_congr_right fun _ => and_congr_left fun _ => by omega) rfl rfl
    · rename_i hn
      rw [ih]
      by_cases hj : j = 128 * l + n
      · simp [hj, hn]
      · exact if_congr (and_congr_right fun _ => and_congr_left fun _ => by omega) rfl rfl

/-- A masked write changes the bytes of its line that the mask selects, and no others (R38). -/
theorem Machine.Store.byte_writeLine {m : Store} (hm : storeSound m) (l : Nat) (mask : BitVec 128) (d : LineData) (j : Nat) :
    (m.writeLine l mask d).byte j =
      if 128 * l ≤ j ∧ j < 128 * l + 128 ∧ mask.getLsbD (j - 128 * l) = true then LineData.byte d (j - 128 * l) else m.byte j := by
  have e : (m.writeLine l mask d).byte j = (m.putLine l mask d).byte j := by
    unfold Store.writeLine
    dsimp only
    split
    · rfl
    · rfl
  rw [e, Store.putLine, Store.byte_foldl_setByte hm l mask d j 128]

theorem Machine.State.settleFields_of_nil {s : State} (h : s.eng.fields = []) (l : Nat) (mask : BitVec 128) :
    s.settleFields l mask = s := by
  unfold State.settleFields
  simp [h]

/-- What follows from a write of a line, the comparison with the watches last, leaves the storage. -/
theorem Machine.State.sameStore_compared (s t : State) (l : Nat) (old new : LineData) (depth : Nat) :
    t.SameStore (((s.notePtes t l).markDirty l).compareLine l old new depth) := .compareLine (.markDirty (.notePtes .refl))

/-- What a write of a line at its home leaves of the storage, where no device-written field stands. -/
theorem Machine.State.writeLine_store {s : State} (h : s.eng.fields = []) (l : Nat) (mask : BitVec 128) (d : LineData) (depth : Nat) :
    (s.writeLine l mask d depth).store.byte = (s.store.writeLine l mask d).byte ∧ (s.writeLine l mask d depth).eng.fields = [] := by
  unfold State.writeLine
  rw [State.settleFields_of_nil (by exact h)]
  dsimp only
  split
  · exact ⟨rfl, h⟩
  · have e := State.sameStore_compared s (s.modStore fun m => m.writeLine l mask d) l (s.store.line l)
      ((s.modStore fun m => m.writeLine l mask d).store.line l) depth
    exact ⟨congrArg Store.byte e.store, e.fields.trans h⟩

theorem Machine.State.byte_writeLine {s : State} (hs : sound s) (h : s.eng.fields = []) (l : Nat) (mask : BitVec 128) (d : LineData)
    (depth j : Nat) : (s.writeLine l mask d depth).store.byte j =
      if 128 * l ≤ j ∧ j < 128 * l + 128 ∧ mask.getLsbD (j - 128 * l) = true then LineData.byte d (j - 128 * l)
      else s.store.byte j := by
  rw [(State.writeLine_store h l mask d depth).1, Store.byte_writeLine hs]

/-! ### Spans within a line -/

theorem Machine.byteMask_getLsbD {o n i : Nat} (h : o + n ≤ 128) : (byteMask o n).getLsbD i = true ↔ o ≤ i ∧ i < o + n := by
  simp only [byteMask, BitVec.getLsbD_shiftLeft, BitVec.getLsbD_ofNat, Nat.testBit_two_pow_sub_one, Bool.and_eq_true, Bool.not_eq_true',
    decide_eq_true_eq, decide_eq_false_iff_not]
  omega

/-- Byte `i` of a number of `n` bytes put at byte `o` of a line. -/
theorem Machine.LineData.byte_ofNat_shiftLeft {o n i v : Nat} (h : o + n ≤ 128) (h1 : o ≤ i) (h2 : i < o + n) :
    LineData.byte (BitVec.ofNat 1024 ((v % 256 ^ n) <<< (8 * o))) i = BitVec.ofNat 8 (v / 256 ^ (i - o)) := by
  have e : ∀ k, (256 : Nat) ^ k = 2 ^ (8 * k) := fun k => by rw [pow_mul]; norm_num
  apply BitVec.eq_of_getLsbD_eq
  intro k hk
  simp only [LineData.byte, BitVec.getLsbD_extractLsb', BitVec.getLsbD_ofNat, Nat.testBit_shiftLeft, e, Nat.testBit_mod_two_pow,
    Nat.testBit_div_two_pow]
  have : 8 * i + k - 8 * o = k + 8 * (i - o) := by omega
  rw [this]
  simp only [hk, decide_true, Bool.true_and]
  rw [show decide (8 * i + k < 1024) = true by simp; omega, show decide (8 * i + k ≥ 8 * o) = true by simp; omega,
    show decide (k + 8 * (i - o) < 8 * n) = true by simp; omega]
  simp

/-- A write within a line changes the bytes that it names, and no others. -/
theorem Machine.State.byte_writeIn {s : State} (hs : sound s) (h : s.eng.fields = []) {k n : Nat} (hk : k % 128 + n ≤ 128)
    (v depth j : Nat) : (s.writeIn k n v depth).store.byte j =
      if k ≤ j ∧ j < k + n then BitVec.ofNat 8 (v / 256 ^ (j - k)) else s.store.byte j := by
  have hd := Nat.div_add_mod k 128
  rw [State.writeIn, State.byte_writeLine hs h]
  by_cases hj : k ≤ j ∧ j < k + n
  · rw [if_pos hj, if_pos ⟨by omega, by omega, (byteMask_getLsbD hk).mpr (by omega)⟩,
      LineData.byte_ofNat_shiftLeft hk (by omega) (by omega), show j - 128 * (k / 128) - k % 128 = j - k by omega]
  · rw [if_neg hj, if_neg]
    rintro ⟨h1, -, h3⟩
    rw [byteMask_getLsbD hk] at h3
    omega

/-! ### Spans of any length -/

/-- One step of a write split at line boundaries: the part of it in the line numbered `i` from the first. -/
def Safety.writePart (k n v depth : Nat) (s : State) (i : Nat) : State :=
  let lo := max k (128 * (k / 128 + i))
  let hi := min (k + n) (128 * (k / 128 + i + 1))
  if lo < hi then s.writeIn lo (hi - lo) (v / 256 ^ (lo - k)) depth else s

theorem Machine.State.writeKey_eq (s : State) (k n v depth : Nat) :
    s.writeKey k n v depth = (List.range (n / 128 + 2)).foldl (writePart k n v depth) s := rfl

theorem Safety.sound.writePart {s : State} (h : sound s) {k n v depth i : Nat} : sound (writePart k n v depth s i) := .ite (.writeIn h) h

theorem Safety.writePart_fields {s : State} (h : s.eng.fields = []) (k n v depth i : Nat) :
    (writePart k n v depth s i).eng.fields = [] := by
  unfold Safety.writePart
  dsimp only
  split
  · exact (State.writeLine_store h _ _ _ _).2
  · exact h

theorem Safety.byte_writePart {s : State} (hs : sound s) (h : s.eng.fields = []) (k n v depth i j : Nat) :
    (writePart k n v depth s i).store.byte j =
      if k ≤ j ∧ j < k + n ∧ j / 128 = k / 128 + i then BitVec.ofNat 8 (v / 256 ^ (j - k)) else s.store.byte j := by
  unfold Safety.writePart
  dsimp only
  split
  · rw [State.byte_writeIn hs h (by omega), Nat.div_div_eq_div_mul, ← pow_add]
    by_cases hj : k ≤ j ∧ j < k + n ∧ j / 128 = k / 128 + i
    · rw [if_pos hj, if_pos (by omega), show max k (128 * (k / 128 + i)) - k + (j - max k (128 * (k / 128 + i))) = j - k by omega]
    · rw [if_neg hj, if_neg (by omega)]
  · rw [if_neg (by omega)]

/-- The first `m` parts of a split write. -/
theorem Safety.byte_foldl_writePart {s : State} (hs : sound s) (h : s.eng.fields = []) (k n v depth j m : Nat) :
    let t := (List.range m).foldl (writePart k n v depth) s
    sound t ∧ t.eng.fields = [] ∧ t.store.byte j =
      if k ≤ j ∧ j < k + n ∧ j / 128 < k / 128 + m then BitVec.ofNat 8 (v / 256 ^ (j - k)) else s.store.byte j := by
  induction m with
  | zero => exact ⟨hs, h, by rw [if_neg (by omega)]; rfl⟩
  | succ m ih =>
    obtain ⟨hs', h', hb⟩ := ih
    rw [List.range_succ, List.foldl_append, List.foldl_cons, List.foldl_nil]
    refine ⟨hs'.writePart, writePart_fields h' .., ?_⟩
    rw [byte_writePart hs' h', hb]
    by_cases hj : j / 128 = k / 128 + m
    · rw [if_neg (c := k ≤ j ∧ j < k + n ∧ j / 128 < k / 128 + m) (by omega)]
      exact if_congr (by omega) rfl rfl
    · rw [if_neg (by omega)]
      exact if_congr (by omega) rfl rfl

/-- A write changes the bytes that it names, and no others. -/
theorem Machine.State.byte_writeKey {s : State} (hs : sound s) (h : s.eng.fields = []) (k n v depth j : Nat) :
    (s.writeKey k n v depth).store.byte j = if k ≤ j ∧ j < k + n then BitVec.ofNat 8 (v / 256 ^ (j - k)) else s.store.byte j := by
  rw [State.writeKey_eq, (byte_foldl_writePart hs h k n v depth j _).2.2]
  exact if_congr (by omega) rfl rfl

/-- Bytes that spell a number read as that number. -/
theorem Machine.Store.read_of_byte {m : Store} {k n v : Nat} (h : ∀ i < n, m.byte (k + i) = BitVec.ofNat 8 (v / 256 ^ i)) :
    m.read k n = v % 256 ^ n := by
  induction n generalizing k v with
  | zero => simp [Store.read, Nat.mod_one]
  | succ n ih =>
    have h0 := h 0 (by omega)
    have ht : m.read (k + 1) n = v / 256 % 256 ^ n := ih fun i hi => by
      rw [Nat.add_right_comm, Nat.add_assoc, h (i + 1) (by omega), Nat.div_div_eq_div_mul, pow_succ']
    rw [Nat.add_zero, pow_zero, Nat.div_one] at h0
    rw [Store.read, h0, ht, pow_succ', Nat.mod_mul, BitVec.toNat_ofNat]

/-- Settles O35: a write at a storage key leaves the bytes of its value there and every other byte. -/
theorem readAfterWrite : Obligations.ReadAfterWrite := by
  unfold Obligations.ReadAfterWrite
  intro s k n v depth hs h
  refine ⟨.writeKey hs, Store.read_of_byte fun i hi => ?_, fun j hj => ?_⟩
  · rw [State.byte_writeKey hs h, if_pos (by omega), Nat.add_sub_cancel_left]
  · rw [State.byte_writeKey hs h, if_neg (by omega)]

end Sys2Proof
end

section
/-! # The lanes of one access (O33)

A load of plain storage reads lane by lane and moves only caches. A store is merged line by line before it is performed: a merged list
stands for what it holds at each byte, which is what the last of the pieces puts there. -/

namespace Sys2Proof

open Machine Safety

/-! ### Loads -/

/-- A piece that reads the device's own storage, with no poison and none of R23's freedom. -/
structure Safety.PlainPiece (s : State) (w : Warp) (p : Piece) : Prop where
  hit : p.hit = none
  shift : p.shift = 0
  key : plainKey s p.at
  poison : s.store.poisonAt p.at p.n = none
  own : s.ownSlot w p = false

theorem Safety.PlainPiece.recached {s t : State} {w : Warp} {p : Piece} (h : PlainPiece s w p) (e : s.Recached t) : PlainPiece t w p := by
  rw [e.eq]
  exact ⟨h.hit, h.shift, h.key, h.poison, h.own⟩

/-- A piece of plain storage reads its bytes. -/
theorem Machine.State.readPiece_plain {s : State} {w : Warp} {p : Piece} (h : PlainPiece s w p) (ch : Nat) (fill : Bool) :
    ∃ t, s.Recached t ∧ s.readPiece w p ch fill = (t, s.store.read p.at p.n, none) := by
  refine ⟨(s.readPiece w p ch fill).1, ?_, ?_⟩
  · unfold State.readPiece
    rw [h.hit]
    exact .ite (.l1Fill (.ite .refl (.touch .refl))) (.ite .refl (.touch .refl))
  · simp [State.readPiece, State.lpView, h.hit, h.poison, h.own]

theorem Machine.State.fetchPiece_plain {s : State} {w : Warp} {p : Piece} (h : PlainPiece s w p) (a : Agent) (ch : Nat) (fill : Bool) :
    ∃ t, s.Recached t ∧ s.fetchPiece a w p ch fill = (t, s.store.read p.at p.n, none) := by
  obtain ⟨t, ht, e⟩ := State.readPiece_plain h ch fill
  refine ⟨t, ht, ?_⟩
  unfold State.fetchPiece
  rcases h.key with hk | ⟨d, hk⟩ | ⟨d, o, hk⟩ <;> simp [e, hk]

theorem Machine.addLane_fresh {l : List (Nat × Nat)} {lane : Nat} (h : lane ∉ l.map Prod.fst) (v : Nat) :
    addLane l lane v = l ++ [(lane, v)] := by
  unfold addLane
  rw [if_neg]
  simpa using h

/-- The values that lanes read in plain storage, one piece each. -/
theorem Machine.State.fetchAll_plain {s : State} {w : Warp} {ps : List Piece} (a : Agent) (ch : Nat) (fill : Bool)
    (hn : (ps.map Piece.lane).Nodup) (hp : ∀ p ∈ ps, PlainPiece s w p) :
    ∃ t, s.Recached t ∧ s.fetchAll a w ps ch fill = (t, ps.map fun p => (p.lane, s.store.read p.at p.n), []) := by
  induction ps using List.reverseRecOn with
  | nil => exact ⟨s, .refl, rfl⟩
  | append_singleton ps p ih =>
    simp only [List.map_append, List.map_cons, List.map_nil, List.nodup_append, List.mem_singleton, forall_eq] at hn
    obtain ⟨t, ht, e⟩ := ih hn.1 fun q hq => hp q (List.mem_append_left _ hq)
    have hpp : PlainPiece s w p := hp p (by simp)
    obtain ⟨u, hu, e'⟩ := State.fetchPiece_plain (hpp.recached ht) a ch fill
    refine ⟨u, ht.trans hu, ?_⟩
    unfold State.fetchAll at e ⊢
    rw [List.foldl_append, e, List.foldl_cons, List.foldl_nil, e', ht.sameStore.store, hpp.shift]
    simp only [pow_zero, mul_one, List.map_append, List.map_cons, List.map_nil]
    rw [addLane_fresh]
    simpa using fun q hq => hn.2.2 _ (List.mem_map_of_mem hq)

theorem Machine.laneVal_map {ps : List Piece} {f : Piece → Nat} (hn : (ps.map Piece.lane).Nodup) {p : Piece} (hp : p ∈ ps) :
    laneVal (ps.map fun p => (p.lane, f p)) p.lane = f p := by
  induction ps with
  | nil => cases hp
  | cons q ps ih =>
    simp only [List.map_cons, List.nodup_cons, List.mem_map, not_exists, not_and] at hn
    unfold laneVal at ih ⊢
    rw [List.map_cons, List.lookup_cons]
    rcases List.mem_cons.mp hp with rfl | hp
    · simp
    · rw [beq_false_of_ne (hn.1 p hp)]
      exact ih hn.2 hp

/-! ### Stores, merged by line -/

/-- Whether a piece holds the byte at a key. -/
def Safety.covers (k : Nat) (p : Piece) : Bool := p.at ≤ k && k < p.at + p.n

/-- The byte that a piece puts at a key. -/
def Safety.byteOf (val : Nat → Nat) (k : Nat) (p : Piece) : Byte := BitVec.ofNat 8 (val p.lane / 2 ^ p.shift / 256 ^ (k - p.at))

/-- The bytes of a piece alone in its line: their mask, and the data that the mask selects from. -/
def Safety.pieceMask (p : Piece) : BitVec 128 := byteMask (p.at % 128) p.n

def Safety.pieceData (val : Nat → Nat) (p : Piece) : LineData :=
  (BitVec.ofNat 1024 (val p.lane / 2 ^ p.shift % 256 ^ p.n)) <<< (8 * (p.at % 128))

/-- A line of a merged list after a piece. -/
def Safety.mergeLine (val : Nat → Nat) (p : Piece) (x : Nat × BitVec 128 × LineData) : Nat × BitVec 128 × LineData :=
  if x.1 = p.at / 128 then
    (p.at / 128, x.2.1 ||| pieceMask p,
      (x.2.2 &&& ~~~((BitVec.ofNat 1024 (256 ^ p.n - 1)) <<< (8 * (p.at % 128)))) ||| pieceData val p)
  else x

/-- A merged list after a piece. -/
def Safety.mergePiece (val : Nat → Nat) (acc : List (Nat × BitVec 128 × LineData)) (p : Piece) : List (Nat × BitVec 128 × LineData) :=
  if acc.any fun x => x.1 = p.at / 128 then acc.map (mergeLine val p) else acc ++ [(p.at / 128, pieceMask p, pieceData val p)]

theorem Machine.mergeStores_eq (ps : List Piece) (val : Nat → Nat) : mergeStores ps val = ps.foldl (mergePiece val) [] := rfl

theorem Safety.mergeLine_fst (val : Nat → Nat) (p : Piece) (x : Nat × BitVec 128 × LineData) : (mergeLine val p x).1 = x.1 := by
  unfold mergeLine
  split
  · rename_i h
    exact h.symm
  · rfl

/-- The byte that a list of merged lines holds for a key, if it holds one. -/
def Safety.mergedByte (acc : List (Nat × BitVec 128 × LineData)) (k : Nat) : Option Byte :=
  (acc.find? fun x => x.1 = k / 128).bind fun x => if x.2.1.getLsbD (k % 128) then some (LineData.byte x.2.2 (k % 128)) else none

theorem Machine.LineData.getLsbD_byte (d : LineData) (i j : Nat) :
    (LineData.byte d i).getLsbD j = (decide (j < 8) && d.getLsbD (8 * i + j)) := by
  simp [LineData.byte]

theorem Machine.LineData.ofNat_shiftLeft (x k : Nat) : (BitVec.ofNat 1024 x) <<< k = BitVec.ofNat 1024 (x <<< k) := by
  apply BitVec.eq_of_getLsbD_eq
  intro i hi
  simp only [BitVec.getLsbD_shiftLeft, BitVec.getLsbD_ofNat, Nat.testBit_shiftLeft]
  by_cases h : i < k
  · simp [h]
  · simp [h, hi, show i - k < 1024 by omega, show k ≤ i by omega]

/-- The bits of a line that `n` bytes from byte `o` take up. -/
theorem Machine.LineData.getLsbD_clear {o n : Nat} (h : o + n ≤ 128) (k : Nat) :
    ((BitVec.ofNat 1024 (256 ^ n - 1)) <<< (8 * o)).getLsbD k = decide (8 * o ≤ k ∧ k < 8 * (o + n)) := by
  rw [show (256 : Nat) ^ n = 2 ^ (8 * n) by rw [pow_mul]; norm_num]
  rw [Bool.eq_iff_iff]
  simp only [BitVec.getLsbD_shiftLeft, BitVec.getLsbD_ofNat, Nat.testBit_two_pow_sub_one, Bool.and_eq_true,
    Bool.not_eq_true', decide_eq_true_eq, decide_eq_false_iff_not]
  omega

/-- Where a number of `n` bytes replaces bytes of a line, from byte `o` on. -/
theorem Machine.LineData.byte_replace {o n i : Nat} (h : o + n ≤ 128) (hi : i < 128) (v : Nat) (old : LineData) :
    LineData.byte ((old &&& ~~~((BitVec.ofNat 1024 (256 ^ n - 1)) <<< (8 * o))) ||| ((BitVec.ofNat 1024 (v % 256 ^ n)) <<< (8 * o))) i =
      if o ≤ i ∧ i < o + n then BitVec.ofNat 8 (v / 256 ^ (i - o)) else LineData.byte old i := by
  apply BitVec.eq_of_getLsbD_eq
  intro j hj
  have hk : 8 * i + j < 1024 := by omega
  rw [LineData.getLsbD_byte, BitVec.getLsbD_or, BitVec.getLsbD_and, BitVec.getLsbD_not, LineData.getLsbD_clear h]
  split
  · rename_i hs
    rw [← LineData.byte_ofNat_shiftLeft h hs.1 hs.2, LineData.getLsbD_byte, LineData.ofNat_shiftLeft]
    simp only [hj, hk, show 8 * o ≤ 8 * i + j ∧ 8 * i + j < 8 * (o + n) by omega, decide_true, Bool.not_true, Bool.and_false,
      Bool.false_or, and_self]
  · rename_i hs
    have hz : ((BitVec.ofNat 1024 (v % 256 ^ n)) <<< (8 * o)).getLsbD (8 * i + j) = false := by
      rw [show (256 : Nat) ^ n = 2 ^ (8 * n) by rw [pow_mul]; norm_num]
      simp only [BitVec.getLsbD_shiftLeft, BitVec.getLsbD_ofNat, Nat.testBit_mod_two_pow, Bool.and_eq_false_iff, Bool.not_eq_false',
        decide_eq_true_eq, decide_eq_false_iff_not]
      omega
    rw [hz, LineData.getLsbD_byte, decide_eq_false (p := 8 * o ≤ 8 * i + j ∧ _) (by omega)]
    simp [hj, hk]

theorem Safety.covers_iff {k : Nat} {p : Piece} (h : p.at % 128 + p.n ≤ 128) :
    covers k p = true ↔ k / 128 = p.at / 128 ∧ p.at % 128 ≤ k % 128 ∧ k % 128 < p.at % 128 + p.n := by
  simp only [covers, Bool.and_eq_true, decide_eq_true_eq]
  omega

theorem Safety.pieceMask_getLsbD {p : Piece} (h : p.at % 128 + p.n ≤ 128) {k : Nat} (hk : p.at / 128 = k / 128) :
    (pieceMask p).getLsbD (k % 128) = covers k p := by
  rw [Bool.eq_iff_iff, covers_iff h, pieceMask, byteMask_getLsbD h]
  omega

theorem Safety.byte_pieceData {p : Piece} (h : p.at % 128 + p.n ≤ 128) {k : Nat} (hc : covers k p = true) (val : Nat → Nat) :
    LineData.byte (pieceData val p) (k % 128) = byteOf val k p := by
  have hk := (covers_iff h).mp hc
  rw [pieceData, LineData.ofNat_shiftLeft, LineData.byte_ofNat_shiftLeft h hk.2.1 hk.2.2, byteOf]
  congr 3
  omega

/-- A piece gives a merged list the bytes that it holds. -/
theorem Safety.mergedByte_mergePiece {p : Piece} (h : p.at % 128 + p.n ≤ 128) (val : Nat → Nat)
    (acc : List (Nat × BitVec 128 × LineData)) (k : Nat) :
    mergedByte (mergePiece val acc p) k = if covers k p then some (byteOf val k p) else mergedByte acc k := by
  have hcov : covers k p = true → p.at / 128 = k / 128 := fun hc => ((covers_iff h).mp hc).1.symm
  unfold mergePiece mergedByte
  split
  · rename_i hany
    have hf : ((fun x : Nat × BitVec 128 × LineData => decide (x.1 = k / 128)) ∘ mergeLine val p) = fun x => decide (x.1 = k / 128) :=
      funext fun x => by rw [Function.comp, mergeLine_fst]
    rw [List.find?_map, hf, Option.bind_map]
    by_cases hk : p.at / 128 = k / 128
    · obtain ⟨x, hx⟩ := Option.isSome_iff_exists.mp (show (acc.find? fun x => decide (x.1 = k / 128)).isSome by simpa [hk] using hany)
      have hx1 : x.1 = k / 128 := by simpa using List.find?_some hx
      rw [hx, Option.bind_some, Option.bind_some, Function.comp, mergeLine, if_pos (hx1.trans hk.symm)]
      dsimp only
      rw [BitVec.getLsbD_or, pieceMask_getLsbD h hk, pieceData, LineData.byte_replace h (by omega)]
      by_cases hc : covers k p = true
      · have hs := (covers_iff h).mp hc
        simp only [hc, Bool.or_true, if_true, hs.2, and_self]
        rw [byteOf, show k % 128 - p.at % 128 = k - p.at by omega]
      · rw [if_neg (c := p.at % 128 ≤ k % 128 ∧ _) fun hs => hc ((covers_iff h).mpr ⟨hk.symm, hs⟩)]
        simp only [hc, Bool.or_false, Bool.false_eq_true, if_false]
    · rw [if_neg fun hc => hk (hcov hc)]
      refine Option.bind_congr fun x hx => ?_
      have hx1 : x.1 = k / 128 := by simpa using List.find?_some hx
      have he : mergeLine val p x = x := if_neg fun e => hk (e.symm.trans hx1)
      rw [Function.comp, he]
  · rename_i hany
    rw [List.find?_append, List.find?_cons, List.find?_nil]
    by_cases hk : p.at / 128 = k / 128
    · have hnone : acc.find? (fun x => decide (x.1 = k / 128)) = none :=
        List.find?_eq_none.mpr fun y hy e => hany (List.any_eq_true.mpr ⟨y, hy, by rwa [hk]⟩)
      rw [hnone]
      simp only [hk, decide_true, Option.none_or, Option.bind_some, Option.bind_none, pieceMask_getLsbD h hk]
      exact if_ctx_congr Iff.rfl (fun hc => by rw [byte_pieceData h hc]) fun _ => rfl
    · rw [if_neg fun hc => hk (hcov hc)]
      simp [hk]

/-- A merged list holds for each key what the last piece that covers it puts there. -/
theorem Safety.mergedByte_mergeStores {ps : List Piece} (h : ∀ p ∈ ps, p.at % 128 + p.n ≤ 128) (val : Nat → Nat) (k : Nat) :
    mergedByte (mergeStores ps val) k = (ps.reverse.find? (covers k)).map (byteOf val k) := by
  rw [mergeStores_eq]
  induction ps using List.reverseRecOn with
  | nil => rfl
  | append_singleton ps p ih =>
    rw [List.foldl_append, List.foldl_cons, List.foldl_nil, mergedByte_mergePiece (h p (by simp)),
      ih fun q hq => h q (List.mem_append_left _ hq), List.reverse_append, List.reverse_singleton, List.singleton_append, List.find?_cons]
    cases covers k p
    · rfl
    · rfl

/-- A merged list names each line once. -/
theorem Safety.mergeStores_nodup (ps : List Piece) (val : Nat → Nat) : ((mergeStores ps val).map Prod.fst).Nodup := by
  rw [mergeStores_eq]
  refine List.foldlRecOn (motive := fun acc : List (Nat × BitVec 128 × LineData) => (acc.map Prod.fst).Nodup) ps _
    List.nodup_nil fun acc hacc p _ => ?_
  unfold mergePiece
  split
  · rw [List.map_map, show Prod.fst ∘ mergeLine val p = Prod.fst from funext (mergeLine_fst val p)]
    exact hacc
  · rename_i hany
    rw [List.map_append, List.nodup_append]
    refine ⟨hacc, List.nodup_singleton _, fun a ha b hb => ?_⟩
    obtain ⟨x, hx, rfl⟩ := List.mem_map.mp ha
    rw [List.mem_singleton.mp hb]
    exact fun e => hany (List.any_eq_true.mpr ⟨x, hx, decide_eq_true e⟩)

/-! ### Stores, line by line -/

/-- What a warp's store does with one merged line. -/
def Safety.storeMerged (w : Warp) (ps : List Piece) (ch depth : Nat) (s : State) (x : Nat × BitVec 128 × LineData) : State :=
  let s := (ps.find? fun p => p.at / 128 = x.1 && p.attr = attrWB).elim s fun p => s.l1Store w.core w.ctx (p.va / 128) x.2.1 x.2.2 none ch
  let s := if isScratch x.1 then s else s.touch (dieOfCore w.core) x.1 ch .write
  (s.writeLine x.1 x.2.1 x.2.2 depth).hostThrough (dieOfCore w.core) x.1

theorem Machine.State.storePieces_eq (s : State) (w : Warp) (ps : List Piece) (val : Nat → Nat) (ch : Nat) :
    s.storePieces w ps val ch = (mergeStores ps val).foldl (storeMerged w ps ch (s.depthOf w)) s := rfl

theorem Safety.byte_storeMerged {s : State} (hs : sound s) (h : s.eng.fields = []) (w : Warp) (ps : List Piece) (ch depth : Nat)
    (x : Nat × BitVec 128 × LineData) :
    let t := storeMerged w ps ch depth s x
    sound t ∧ t.eng.fields = [] ∧ ∀ k, t.store.byte k =
      if x.1 = k / 128 ∧ x.2.1.getLsbD (k % 128) = true then LineData.byte x.2.2 (k % 128) else s.store.byte k := by
  have hr : ∀ u, s.Recached u → let t := (u.writeLine x.1 x.2.1 x.2.2 depth).hostThrough (dieOfCore w.core) x.1
      sound t ∧ t.eng.fields = [] ∧ ∀ k, t.store.byte k =
        if x.1 = k / 128 ∧ x.2.1.getLsbD (k % 128) = true then LineData.byte x.2.2 (k % 128) else s.store.byte k := by
    intro u hu
    have hf : u.eng.fields = [] := hu.sameStore.fields.trans h
    have ht : (u.writeLine x.1 x.2.1 x.2.2 depth).SameStore _ :=
      State.Recached.sameStore (.hostThrough (die := dieOfCore w.core) (l := x.1) .refl)
    refine ⟨.hostThrough (.writeLine (hs.recached hu)), ht.fields.trans (State.writeLine_store hf ..).2, fun k => ?_⟩
    rw [ht.store, State.byte_writeLine (hs.recached hu) hf, hu.sameStore.store]
    by_cases hk : x.1 = k / 128
    · have e : k - 128 * x.1 = k % 128 := by omega
      rw [e]
      exact if_congr ⟨fun hm => ⟨hk, hm.2.2⟩, fun hm => ⟨by omega, by omega, hm.2⟩⟩ rfl rfl
    · rw [if_neg (by omega), if_neg (by simp [hk])]
  exact hr _ (.ite (.elim .refl fun _ => .l1Store .refl) (.touch (.elim .refl fun _ => .l1Store .refl)))

/-- A list of merged lines, each line once, leaves in each byte what it holds for it. -/
theorem Safety.byte_foldl_storeMerged {s : State} (hs : sound s) (h : s.eng.fields = []) (w : Warp) (ps : List Piece) (ch depth : Nat)
    {l : List (Nat × BitVec 128 × LineData)} (hn : (l.map Prod.fst).Nodup) (k : Nat) :
    (l.foldl (storeMerged w ps ch depth) s).store.byte k = (mergedByte l k).getD (s.store.byte k) := by
  induction l generalizing s with
  | nil => rfl
  | cons x l ih =>
    rw [List.map_cons, List.nodup_cons] at hn
    obtain ⟨hs', h', hb⟩ := byte_storeMerged hs h w ps ch depth x
    rw [List.foldl_cons, ih hs' h' hn.2, hb]
    by_cases hk : x.1 = k / 128
    · have hnone : mergedByte l k = none := by
        have : l.find? (fun x => decide (x.1 = k / 128)) = none := by
          rw [List.find?_eq_none]
          exact fun y hy e => hn.1 (List.mem_map.mpr ⟨y, hy, (of_decide_eq_true e).trans hk.symm⟩)
        rw [mergedByte, this, Option.bind_none]
      rw [hnone, Option.getD_none, mergedByte, List.find?_cons_of_pos (by simpa using hk), Option.bind_some]
      by_cases hm : x.2.1.getLsbD (k % 128) = true
      · rw [if_pos ⟨hk, hm⟩, if_pos hm, Option.getD_some]
      · rw [if_neg (by simp [hm]), if_neg hm, Option.getD_none]
    · rw [if_neg (by simp [hk]), mergedByte, mergedByte, List.find?_cons_of_neg (by simpa using hk)]

theorem Machine.State.byte_storePieces {s : State} (hs : sound s) (h : s.eng.fields = []) (w : Warp) {ps : List Piece}
    (hp : ∀ p ∈ ps, p.at % 128 + p.n ≤ 128) (val : Nat → Nat) (ch k : Nat) :
    (s.storePieces w ps val ch).store.byte k = ((ps.reverse.find? (covers k)).map (byteOf val k)).getD (s.store.byte k) := by
  rw [State.storePieces_eq, byte_foldl_storeMerged hs h _ _ _ _ (mergeStores_nodup ps val), mergedByte_mergeStores hp]

/-! ### What leaves the device beside them -/

theorem Machine.State.foldl_byte {α : Type} {f : State → α → State} (hf : ∀ t a, (f t a).store.byte = t.store.byte) (l : List α)
    (s : State) : (l.foldl f s).store.byte = s.store.byte :=
  List.foldlRecOn (motive := fun t => t.store.byte = s.store.byte) l f rfl fun t ht a _ => (hf t a).trans ht

theorem Machine.State.postPod_store (s : State) (a : Agent) (line va : Nat) (mask : BitVec 128) (d : LineData) (o : Option InFlight) :
    (s.postPod a line va mask d o).store = s.store := by
  unfold State.postPod
  split
  · unfold State.drainRelayed
    dsimp only
    split
    · unfold State.addDrain
      split
      · rfl
      · rfl
    · rfl
  · rfl

theorem Machine.State.lpWrote_byte (s : State) (w : Warp) (p : Piece) (v : Nat) : (s.lpWrote w p v).store.byte = s.store.byte := by
  unfold State.lpWrote
  split
  · rfl
  · rfl

theorem Machine.Issue.byte_storeAll (c : Issue) (s : State) (ps : List Piece) (val : Nat → Nat) (ch : Nat) :
    (c.storeAll s ps val ch).store.byte = (s.storePieces c.w (ps.filter fun p => s.storeTo p = .store) val ch).store.byte := by
  unfold Issue.storeAll
  dsimp only
  refine (State.foldl_byte ?_ _ _).trans ((State.foldl_byte ?_ _ _).trans ((State.foldl_byte ?_ _ _).trans (State.foldl_byte ?_ _ _)))
  · exact fun _ _ => State.lpWrote_byte ..
  · intro t p
    split
    · rfl
    · rfl
  · exact fun _ _ => rfl
  · exact fun _ _ => congrArg Store.byte (State.postPod_store ..)

/-- Settles O33: a load reads each piece from the storage, and a store leaves what its merged lines hold. -/
theorem lanesOfOneAccess : Obligations.LanesOfOneAccess := by
  unfold Obligations.LanesOfOneAccess
  constructor
  · intro s a w ps ch fill hn _ hp
    obtain ⟨t, ht, e⟩ := State.fetchAll_plain a ch fill hn fun p hq => by
      obtain ⟨h1, h2, h3, h4, h5⟩ := hp p hq
      exact ⟨h1, h2, h3, h4, h5⟩
    exact ⟨t, _, e, ht.sameStore.store, fun p hq => laneVal_map hn hq⟩
  · intro c s ps val ch k hs h hp
    rw [Issue.byte_storeAll, State.byte_storePieces hs h _ fun p hq => hp p (List.mem_of_mem_filter hq)]
    unfold covers byteOf
    cases ((ps.filter fun p => s.storeTo p = .store).reverse.find? fun p => p.at ≤ k && k < p.at + p.n) with
    | none => rfl
    | some p => rfl

end Sys2Proof
end

section
/-! # Register writes, the carve-out and contexts (O50) -/

namespace Sys2Proof

open Machine Safety

/-! ### Who may write which register (R453, R454) -/

section
variable {w : Writer} {r : MmioReg} {s : State}

theorem Machine.registerWrite_warp_refused {ctx : Nat} (h : (s.ctx? ctx).any Context.system = false) (r : MmioReg) (v : Nat) :
    registerWrite (.warpOf ctx) r v s = s := by
  unfold registerWrite
  split
  · rfl
  · split
    · rw [if_neg (by simp [State.mayWrite, State.isOwner, h])]
      rfl
    · rfl

theorem Machine.registerWrite_master_refused {m : Nat} (h : s.isOwner (.master m) = false) (hr : r ≠ .claim) (v : Nat) :
    registerWrite (.master m) r v s = s.refuse (.master m) := by
  unfold registerWrite
  rw [if_neg hr]
  split
  · rw [if_neg (by simp [State.mayWrite, h])]
  · rw [if_neg (by simp [h])]

theorem Machine.registerWrite_device (h : s.isOwner w = true) (hr : r ≠ .claim) (hs : slotReg r = false) (v : Nat) :
    registerWrite w r v s = s.writeDevice w r v := by
  unfold registerWrite
  rw [if_neg hr, if_neg (by simp [hs]), if_pos h]

/-- The read-only registers outside the context slots. -/
theorem Machine.State.writeDevice_readOnly {d i k : Nat}
    (hr : r ∈ [MmioReg.bootstat, .discovery, .generation, .trainmod d, .topology d i, .stub d i k]) (v : Nat) :
    s.writeDevice w r v = s ∧ r ≠ .claim ∧ slotReg r = false := by
  simp only [List.mem_cons, List.not_mem_nil, or_false] at hr
  rcases hr with rfl | rfl | rfl | rfl | rfl | rfl <;> exact ⟨rfl, by simp, rfl⟩

theorem Machine.State.writeCtl_fields (x : CtxSlot) {v : Nat} (hv : 2 < v % 16) (hc : s.slotCtx? x.slot = none) (w : Writer) :
    s.writeCtl w x v = s.modSlot x.slot fun y => { y with desc := y.desc.set 0 (BitVec.ofNat 32 v &&& 0xFF00FEF0) } := by
  have hc' : ∀ f, (s.modSlot x.slot f).slotCtx? x.slot = none := fun _ => hc
  unfold State.writeCtl
  dsimp only
  rw [if_neg (by omega), if_neg (by omega), State.inSlot, hc']

end

/-! ### Where the registers stand (R452) -/

theorem Machine.mmioLayout_past {off : Nat} (h : 0x10400000 ≤ off) : mmioLayout off = none := by
  unfold mmioLayout
  rw [if_neg (by omega), if_neg (by omega), if_neg (by simp; omega)]

theorem Machine.mmioWordReg_past {off : Nat} (h : 0x10400000 + 4 ≤ off) : mmioWordReg off = none := by
  unfold mmioWordReg
  rw [if_pos (by omega), mmioLayout_past (by omega), mmioLayout_past (by omega)]
  rfl

theorem Machine.slotReg_of_inGlobal {r q : MmioReg} (h : MmioReg.inGlobal r = some q) : slotReg q = false := by
  unfold MmioReg.inGlobal at h
  split at h <;> cases h <;> rfl

theorem Machine.slotReg_of_inDie {d : Nat} {r q : MmioReg} (h : MmioReg.inDie d r = some q) : slotReg q = false := by
  unfold MmioReg.inDie at h
  split at h <;> cases h <;> rfl

theorem Machine.slotReg_of_inSlot {c : Nat} {r q : MmioReg} (h : MmioReg.inSlot c r = some q) : slotReg q = true := by
  unfold MmioReg.inSlot at h
  split at h <;> cases h <;> rfl

theorem Machine.slotReg_of_mmioLayout {off : Nat} {r : MmioReg} (h : mmioLayout off = some r) :
    slotReg r = true ↔ 0x10000000 ≤ off := by
  unfold mmioLayout at h
  split at h
  · obtain ⟨q, -, hq⟩ := Option.bind_eq_some_iff.mp h
    simp only [slotReg_of_inGlobal hq, Bool.false_eq_true, false_iff]
    omega
  · split at h
    · obtain ⟨q, -, hq⟩ := Option.bind_eq_some_iff.mp h
      simp only [slotReg_of_inDie hq, Bool.false_eq_true, false_iff]
      omega
    · split at h
      · rename_i hoff
        obtain ⟨q, -, hq⟩ := Option.bind_eq_some_iff.mp h
        simp only [Bool.and_eq_true, decide_eq_true_eq] at hoff
        exact iff_of_true (slotReg_of_inSlot hq) hoff.1
      · cases h

/-! ### The carve-out (R47, R48) -/

theorem Machine.State.die_modDie {s : State} {d : Nat} (h : d < s.dies.length) (f : DieRegs → DieRegs) :
    (s.modDie d f).die d = f (s.die d) := by
  simp [State.die, State.modDie, List.getD_eq_getElem?_getD, List.getElem?_eq_getElem h]

theorem Machine.State.length_modDie (s : State) (d : Nat) (f : DieRegs → DieRegs) : (s.modDie d f).dies.length = s.dies.length := by
  simp [State.modDie]

/-- A carve-out is checked against what no write of CFGERR changes. -/
theorem Machine.State.carveFits_modDie {s : State} {die : Nat} (h : die < s.dies.length) {f : DieRegs → DieRegs}
    (hf : ∀ d, (f d).busy = d.busy) (n : Nat) : (s.modDie die f).carveFits die n = s.carveFits die n := by
  unfold State.carveFits
  rw [State.die_modDie h, hf]
  rfl

/-- A write of L2CFG by the owner that asks for another carve-out: taken where it fits, else refused with CFGERR. -/
theorem Machine.execL2cfgWrite_owner {w : Writer} {die : Nat} {val : Word} {s : State} (hw : s.isOwner w = true) (hd : die < s.dies.length)
    (hn : val.toNat % 8 ≠ (s.die die).carve) :
    exec (.l2cfgWrite w die val) s = .next ((s.modDie die fun d => { d with cfgerr := d.cfgerr && !val.getLsbD 4 }).modDie die fun d =>
      if s.carveFits die (val.toNat % 8) then { d with busy := true, carveTo := val.toNat % 8 } else { d with cfgerr := true }) := by
  rw [exec_l2cfgWrite]
  unfold execL2cfgWrite
  rw [if_neg (by simp [hw])]
  dsimp only
  rw [State.die_modDie hd, if_neg (by exact hn),
    State.carveFits_modDie hd (f := fun d => { d with cfgerr := d.cfgerr && !val.getLsbD 4 }) fun _ => rfl]
  split
  · rfl
  · rfl

theorem Machine.State.trimL2_recached (s : State) (die : Nat) : s.Recached (s.trimL2 die) := .foldl .refl fun _ _ h => .l2Evict h

theorem Machine.execCarveChangeDone_busy {die : Nat} {s : State} (h : (s.die die).busy = true) :
    exec (.carveChangeDone die) s =
      let d := s.die die
      let t := (s.modDie die fun d => { d with busy := false, carve := d.carveTo }).trimL2 die
      .next { t with store := t.store.wipe (apertureBase die + d.carve * 0x4000000) ((d.carveTo - d.carve) * 0x4000000) } := by
  rw [exec_carveChangeDone]
  unfold execCarveChangeDone
  exact if_neg (by simp [h])

/-- What is left of sparse data when keys are dropped. -/
theorem Machine.Memory.get_filter {β : Type} (d : β) (m : List (Nat × β)) (p : Nat → Bool) (k : Nat) :
    Memory.get d (m.filter fun c => p c.1) k = if p k then Memory.get d m k else d := by
  induction m with
  | nil => simp [Memory.get]
  | cons c m ih =>
    rw [List.filter_cons]
    split
    · rename_i hc
      rw [Memory.get_cons, Memory.get_cons, ih]
      by_cases hk : k = c.1
      · simp [hk, hc]
      · simp [hk]
    · rename_i hc
      rw [ih, Memory.get_cons]
      by_cases hk : k = c.1
      · simp [hk, hc]
      · simp [hk]

theorem Machine.Store.byte_wipe (m : Store) (k n j : Nat) : (m.wipe k n).byte j = if k ≤ j ∧ j < k + n then 0 else m.byte j := by
  refine (Memory.get_filter 0 m.mem (fun c => !(k ≤ c && c < k + n)) j).trans ?_
  by_cases h : k ≤ j ∧ j < k + n
  · simp [h]
  · rw [if_neg h, if_pos (by simp only [Bool.not_eq_true', Bool.and_eq_false_iff, decide_eq_false_iff_not]; omega)]
    rfl

/-! ### Contexts (R24, R457) -/

theorem Machine.execContextCreate_slot {w : Writer} {slot : Nat} {s : State} {x : CtxSlot} (hw : s.mayWrite w = true)
    (hx : (s.slots.find? fun x => x.slot = slot) = some x) : exec (.contextCreate w slot) s = .next (s.create x) := by
  rw [exec_contextCreate]
  unfold execContextCreate
  rw [if_neg (by simp [hw]), hx]

/-- Ending a context leaves nothing of it in the context table, its slot and the scratchpads. -/
theorem Machine.State.destroy_gone {s : State} {slot : Nat} {c : Context} (h : s.slotCtx? slot = some c) :
    (∀ o ∈ (s.destroy slot).contexts, o.id ≠ c.id) ∧ (∀ x ∈ (s.destroy slot).slots, x.slot = slot → x.valid = false) ∧
      ∀ o ∈ (s.destroy slot).store.owner, o.2 ≠ c.id + 1 := by
  unfold State.destroy
  rw [h]
  refine ⟨fun o ho => by simpa using (List.mem_filter.mp ho).2, fun x hx hs => ?_, fun o ho => by simpa using (List.mem_filter.mp ho).2⟩
  obtain ⟨y, -, rfl⟩ := List.mem_map.mp hx
  split
  · rfl
  · rename_i hy
    rw [if_neg hy] at hs
    exact absurd hs hy

/-- Settles O50, clause by clause: who may write, where registers stand, the carve-out, contexts. -/
theorem registerAndContextEvents : Obligations.RegisterAndContextEvents := by
  unfold Obligations.RegisterAndContextEvents
  refine ⟨?warp, ?master, ?owner, fun _ => mmioWordReg_past, fun _ _ => slotReg_of_mmioLayout, ?ctl, ?readOnly, ?fits, ?refused, ?done,
    ?create, ?createBad, ?destroy⟩
  case warp => exact fun ctx r v s h => congrArg _ (registerWrite_warp_refused h r _)
  case master => exact fun m r v s h hr => congrArg _ (registerWrite_master_refused h hr _)
  case owner =>
    intro w v s h
    refine ⟨congrArg _ ((registerWrite_device h (by simp) rfl _).trans rfl),
      congrArg _ ((registerWrite_device h (by simp) rfl _).trans ?_)⟩
    have e : BitVec.ofNat 4 (v.toNat / 2 ^ 16) = v.extractLsb' 16 4 := by simp [BitVec.extractLsb', Nat.shiftRight_eq_div_pow]
    simp only [State.writeDevice, e]
    rfl
  case ctl => exact fun w x v s hv hc => State.writeCtl_fields x hv hc w
  case readOnly =>
    intro w v s d i k h r hr
    obtain ⟨he, hc, hs⟩ := State.writeDevice_readOnly (w := w) (s := s) hr v.toNat
    exact congrArg _ ((registerWrite_device h hc hs _).trans he)
  case fits | refused =>
    intro w die val s hw hd hn hf
    refine ⟨_, execL2cfgWrite_owner hw hd hn, ?_⟩
    rw [State.die_modDie (by rwa [State.length_modDie]), State.die_modDie hd, hf]
    exact ⟨rfl, rfl, rfl, rfl⟩
  case done =>
    intro die s hd hb
    have he := State.trimL2_recached (s.modDie die fun d => { d with busy := false, carve := d.carveTo }) die
    have hdie := State.die_modDie hd fun d => { d with busy := false, carve := d.carveTo }
    refine ⟨_, execCarveChangeDone_busy hb, ?_⟩
    rw [he.eq]
    exact ⟨congrArg DieRegs.busy hdie, congrArg DieRegs.carve hdie, fun k => Store.byte_wipe .., rfl, rfl⟩
  case create =>
    intro w slot s x hw hx hs
    refine ⟨_, execContextCreate_slot hw hx, ?_⟩
    unfold State.create
    rw [if_neg (by simp [hs])]
    exact ⟨rfl, rfl, rfl⟩
  case createBad =>
    intro w slot s x hw hx hs
    rw [execContextCreate_slot hw hx]
    exact congrArg _ (if_pos hs)
  case destroy =>
    intro w slot s c hw hc
    refine ⟨s.destroy slot, ?_, State.destroy_gone hc⟩
    rw [exec_contextDestroy]
    unfold execContextDestroy
    rw [if_neg (by simp [hw])]

end Sys2Proof
end

section
/-! # Bring-up and attestation (O51) -/

namespace Sys2Proof

open Machine Safety

section
variable {h : Hub} {s : State}

/-! ### What reset clears, and no step of bring-up fills again (R460) -/

/-- Nothing runs, nothing is stored or cached, and the fuses are as in `h`. -/
structure Safety.Cleared (h : Hub) (t : State) : Prop where
  eq : (t.warps, t.contexts, t.store, t.caches, t.coh, t.sched, t.eng, t.hub.revoked, t.hub.minVersion, t.hub.tripped, t.hub.timebaseLost) =
    ([], [], {}, {}, {}, {}, {}, h.revoked, h.minVersion, false, false)

theorem Safety.Cleared.released (s : State) (b : BringUp) : Cleared s.hub (s.released b) := ⟨rfl⟩

theorem Safety.Cleared.ite {p : Prop} {_ : Decidable p} {t : State} (hs : Cleared h s) (ht : Cleared h t) :
    Cleared h (if p then s else t) :=
  iteInduction (fun _ => hs) fun _ => ht

theorem Safety.Cleared.foldl {α : Type} {f : State → α → State} {l : List α} (hs : Cleared h s)
    (hf : ∀ t a, Cleared h t → Cleared h (f t a)) : Cleared h (l.foldl f s) :=
  List.foldlRecOn l f hs fun t ht a _ => hf t a ht

theorem Safety.Cleared.withDies {d} (hs : Cleared h s) : Cleared h { s with dies := d } := ⟨hs.eq⟩

theorem Safety.Cleared.beginStep {n} (hs : Cleared h s) : Cleared h (s.beginStep n) := ⟨hs.eq⟩

theorem Safety.Cleared.failStep {k} (hs : Cleared h s) : Cleared h (s.failStep k) := ⟨hs.eq⟩

theorem Safety.Cleared.runStage {k} (hs : Cleared h s) : Cleared h (s.runStage k) := by
  unfold State.runStage
  split
  · exact ⟨hs.eq⟩
  · exact hs

theorem Safety.Cleared.bring8 (hs : Cleared h s) : Cleared h s.bring8 := by
  unfold State.bring8
  dsimp only
  split
  · exact ⟨hs.eq⟩
  · exact hs.beginStep

theorem Safety.Cleared.bring7 (hs : Cleared h s) : Cleared h s.bring7 :=
  .ite hs.beginStep.failStep (.bring8 (.foldl hs.beginStep fun _ _ ht => ⟨ht.eq⟩))

theorem Safety.Cleared.bring6 (hs : Cleared h s) : Cleared h s.bring6 := by
  unfold State.bring6
  dsimp only
  split
  · exact .failStep (.foldl hs.beginStep fun _ _ ht => ht.runStage)
  · exact .bring7 (.foldl hs.beginStep fun _ _ ht => ht.runStage)

theorem Safety.Cleared.bring5 (hs : Cleared h s) : Cleared h s.bring5 := by
  refine .ite (.bring6 ⟨?_⟩) hs.beginStep.failStep
  have e := hs.eq
  simp only [Prod.mk.injEq] at e ⊢
  tauto

theorem Safety.Cleared.takeDiscover {p r} (hs : Cleared h s) : Cleared h (s.takeDiscover p r) := .ite ⟨hs.eq⟩ hs

theorem Safety.Cleared.closeDiscovery (hs : Cleared h s) : Cleared h s.closeDiscovery := .ite ⟨hs.eq⟩ ⟨hs.eq⟩

theorem Safety.Cleared.readyIfAll (hs : Cleared h s) : Cleared h s.readyIfAll := .ite (.bring5 ⟨hs.eq⟩) hs

theorem Safety.Cleared.bring4 (hs : Cleared h s) : Cleared h s.bring4 := by
  refine .ite hs.beginStep (.readyIfAll (.withDies (.closeDiscovery (.foldl hs.beginStep fun t p ht => ?_))))
  split
  · exact ht.takeDiscover
  · exact ht

theorem Safety.Cleared.bring3 (hs : Cleared h s) : Cleared h s.bring3 := .bring4 (.withDies hs.beginStep)

theorem Safety.Cleared.bring2 (hs : Cleared h s) : Cleared h s.bring2 := .ite (.bring3 hs.beginStep.runStage) hs.beginStep.failStep

/-! ### Firmware stages (R458) -/

/-- What the ROM checks in an image. -/
theorem Machine.Hub.accepts_iff {img : FirmwareImage} : h.accepts img = true ↔ img.signatureOk = true ∧
    (∃ i < 4, img.key = some i ∧ h.revoked.getLsbD i = false) ∧ h.minVersion.getD (img.stage - 1) 0 ≤ img.version := by
  simp only [Hub.accepts, Bool.and_eq_true, decide_eq_true_eq, Option.any_eq_true, Bool.not_eq_true', and_assoc]
  refine and_congr_right fun _ => and_congr_left fun _ => exists_congr fun i => ?_
  tauto

theorem Machine.Hub.stageOk_iff {k : Nat} : h.stageOk k = true ↔
    ∃ img, h.bring.stages[k - 1]? = some img ∧ img.stage = k ∧ h.accepts img = true := by
  simp [Hub.stageOk, Option.any_eq_true]

/-- The ROM's verdicts depend on the images and on the fuses only. -/
theorem Machine.Hub.stageOk_congr {g : Hub} (hb : g.bring = h.bring) (hr : g.revoked = h.revoked) (hv : g.minVersion = h.minVersion)
    (k : Nat) : g.stageOk k = h.stageOk k := by
  unfold Hub.stageOk Hub.accepts
  rw [hb, hr, hv]

theorem Machine.State.runStage_of_image {k : Nat} {img : FirmwareImage} (hi : s.hub.bring.stages[k - 1]? = some img) :
    s.runStage k = s.modHub fun h => { h with measured := h.measured.filter (fun m => m.1 ≠ k) ++ [(k, img.digest)] } := by
  unfold State.runStage
  rw [hi]

/-! ### A bring-up in which everything is good (R460) -/

/-- A record that discovery takes: a compute die's, without the front role (R161, R162). -/
def Safety.goodRecord (r : DiscoverRec) : Prop := r.cls = 0 ∧ r.caps.getLsbD 4 = false

theorem Machine.State.takeDiscover_append {p : Nat} {r : DiscoverRec} (hr : goodRecord r) (hp : p < 4) (hm : (s.die p).tmHub ≠ 0)
    {l : List (Nat × DiscoverRec)} (hl : l.lookup p = none) :
    (s.modHub fun h => { h with discovered := l }).takeDiscover p r = s.modHub fun h => { h with discovered := l ++ [(p, r)] } :=
  if_pos (by
    simp only [Bool.and_eq_true, decide_eq_true_eq, Bool.not_eq_true']
    exact ⟨⟨⟨⟨hp, hm⟩, hr.1⟩, hr.2⟩, Option.isNone_iff_eq_none.mpr hl⟩)

/-- Four good records through four trained bundles are all taken. -/
theorem Machine.State.takeDiscover_all (hm : ∀ p < 4, (s.die p).tmHub ≠ 0) (hn : s.hub.discovered = []) {r0 r1 r2 r3 : DiscoverRec}
    (h0 : goodRecord r0) (h1 : goodRecord r1) (h2 : goodRecord r2) (h3 : goodRecord r3) :
    (((s.takeDiscover 0 r0).takeDiscover 1 r1).takeDiscover 2 r2).takeDiscover 3 r3 =
      s.modHub fun h => { h with discovered := [(0, r0), (1, r1), (2, r2), (3, r3)] } := by
  have e : s = s.modHub fun h => { h with discovered := [] } := by
    rw [← hn]
    rfl
  conv_lhs => rw [e]
  rw [State.takeDiscover_append h0 (by omega) (hm 0 (by omega)) rfl, State.takeDiscover_append h1 (by omega) (hm 1 (by omega)) rfl,
    State.takeDiscover_append h2 (by omega) (hm 2 (by omega)) rfl, State.takeDiscover_append h3 (by omega) (hm 3 (by omega)) rfl]
  rfl

theorem Machine.State.die_of_replicate {d : DieRegs} (hd : s.dies = List.replicate 4 d) {p : Nat} (hp : p < 4) : s.die p = d := by
  simp only [State.die, hd, List.getD_eq_getElem?_getD, List.getElem?_replicate, hp, if_true, Option.getD_some]

/-- Discovery that has found four dies whose hub bundles have trained: all are present, and none fails to reach another. -/
theorem Machine.State.closeDiscovery_of_all {d : DieRegs} (hd : s.dies = List.replicate 4 d) (hm : d.tmHub ≠ 0)
    (hf : ∀ p < 4, (s.hub.discovered.lookup p).isSome = true) :
    s.closeDiscovery = { s with
      dies := List.replicate 4 { d with present := true }
      hub := { s.hub with closed := true, degraded := false } } := by
  have hall : (List.range 4).all (fun p => (s.hub.discovered.lookup p).isSome) = true := by
    simpa using hf
  have hfil : (List.range 4).filter (fun p => (s.hub.discovered.lookup p).isSome) = List.range 4 := by
    simpa using hf
  have hidx : s.dies.mapIdx (fun i (d : DieRegs) => { d with present := (s.hub.discovered.lookup i).isSome }) =
      List.replicate 4 { d with present := true } := by
    rw [hd]
    simp [List.replicate_succ, hf]
  have hreach : ∀ t : State, t.dies = List.replicate 4 { d with present := true } → ∀ i < 4, ∀ j < 4, t.reaches i j = true := by
    intro t ht i hi j hj
    simp [State.reaches, State.die_of_replicate ht hi, State.die_of_replicate ht hj, hm]
  unfold State.closeDiscovery
  dsimp only [State.modHub]
  rw [hall, hfil, hidx]
  refine if_pos ?_
  simp only [Bool.and_eq_true, List.all_eq_true, List.mem_range]
  exact ⟨rfl, hreach _ rfl⟩

/-- Step 4 with a good record of each of four dies: the device becomes READY and goes on. -/
theorem Machine.State.bring4_of_good {d : DieRegs} (hd : s.dies = List.replicate 4 d) (hm : d.tmHub ≠ 0) (hn : s.hub.discovered = [])
    (hr : s.hub.ready = false) {r0 r1 r2 r3 : DiscoverRec} (h0 : goodRecord r0) (h1 : goodRecord r1) (h2 : goodRecord r2)
    (h3 : goodRecord r3) (hb : s.hub.bring.discover = [some r0, some r1, some r2, some r3]) :
    s.bring4 = ({ s with
      dies := List.replicate 4 { d with present := true, topo := true, topoAck := true }
      hub := { s.hub with
        boot := 4, bootFail := false, recovery := none, discovered := [(0, r0), (1, r1), (2, r2), (3, r3)], closed := true
        degraded := false, ready := true } } : State).bring5 := by
  have htake := State.takeDiscover_all (s := s.beginStep 4) (fun p hp => by rwa [State.die_of_replicate (by exact hd) hp]) hn h0 h1 h2 h3
  have hclose : ((s.beginStep 4).modHub fun h => { h with discovered := [(0, r0), (1, r1), (2, r2), (3, r3)] }).closeDiscovery = _ :=
    State.closeDiscovery_of_all hd hm fun p hp => by interval_cases p <;> rfl
  have hlist : (s.beginStep 4).hub.bring.discover = [some r0, some r1, some r2, some r3] := hb
  unfold State.bring4
  dsimp only
  rw [hlist]
  simp only [List.range_succ, List.range_zero, List.nil_append, List.cons_append, List.foldl_cons, List.foldl_nil, List.isEmpty_cons,
    Bool.false_eq_true, if_false, List.getD_cons_zero, List.getD_cons_succ]
  rw [htake, hclose]
  exact if_pos (by simp [State.beginStep, State.modHub, hr])

theorem Machine.State.bring7_of_good (hc : s.hub.bring.cxlTrained = true) (he : s.hub.bring.election = []) :
    ∃ st, s.bring7 = { s with stations := st, hub := { s.hub with boot := 8, bootFail := false, recovery := none } } := by
  have hfold : ∀ l : List Nat, ∃ st, l.foldl (fun s t => s.modStation t fun x => { x with up := true, lanes := 4 }) (s.beginStep 7) =
      { s.beginStep 7 with stations := st } := fun l =>
    List.foldlRecOn (motive := fun t => ∃ st, t = { s.beginStep 7 with stations := st }) l _ ⟨_, rfl⟩
      fun _ ⟨_, e⟩ _ _ => ⟨_, by rw [e]; rfl⟩
  obtain ⟨st, hst⟩ := hfold s.hub.bring.stations
  have he' : (({ s.beginStep 7 with stations := st } : State).beginStep 8).hub.bring.election = [] := he
  refine ⟨st, (if_neg (by simp [State.beginStep, hc])).trans ?_⟩
  rw [show (s.beginStep 7).hub.bring.stations = s.hub.bring.stations from rfl, hst]
  unfold State.bring8
  dsimp only
  rw [he']
  rfl

/-- The measurements once a stage has run. -/
def Safety.withStage (l : List (Nat × BitVec 256)) (k : Nat) (d : BitVec 256) : List (Nat × BitVec 256) :=
  l.filter (fun m => m.1 ≠ k) ++ [(k, d)]

theorem Machine.State.bring6_of_good (h2 : s.hub.stageOk 2 = true) (h3 : s.hub.stageOk 3 = true) (h4 : s.hub.stageOk 4 = true)
    {i2 i3 i4 : FirmwareImage} (hi2 : s.hub.bring.stages[1]? = some i2) (hi3 : s.hub.bring.stages[2]? = some i3)
    (hi4 : s.hub.bring.stages[3]? = some i4) (hc : s.hub.bring.cxlTrained = true) (he : s.hub.bring.election = []) :
    ∃ st, s.bring6 = { s with
      stations := st
      hub := { s.hub with
        boot := 8, bootFail := false, recovery := none
        measured := withStage (withStage (withStage s.hub.measured 2 i2.digest) 3 i3.digest) 4 i4.digest } } := by
  have hk : ∀ k, (s.beginStep 6).hub.stageOk k = s.hub.stageOk k := Hub.stageOk_congr rfl rfl rfl
  have e : s.bring6 = ((((s.beginStep 6).runStage 2).runStage 3).runStage 4).bring7 := by
    unfold State.bring6
    simp [hk, h2, h3, h4]
  have e2 := State.runStage_of_image (s := s.beginStep 6) (k := 2) hi2
  have e3 := State.runStage_of_image (s := (s.beginStep 6).runStage 2) (k := 3) (img := i3) (by rw [e2]; exact hi3)
  have e4 := State.runStage_of_image (s := ((s.beginStep 6).runStage 2).runStage 3) (k := 4) (img := i4) (by rw [e3, e2]; exact hi4)
  obtain ⟨st, e7⟩ := State.bring7_of_good (s := (((s.beginStep 6).runStage 2).runStage 3).runStage 4) (by rw [e4, e3, e2]; exact hc)
    (by rw [e4, e3, e2]; exact he)
  refine ⟨st, e.trans (e7.trans ?_)⟩
  rw [e4, e3, e2]
  rfl

theorem Machine.State.bring5_of_good (hbm : s.hub.bring.hbmOk = true) (h2 : s.hub.stageOk 2 = true) (h3 : s.hub.stageOk 3 = true)
    (h4 : s.hub.stageOk 4 = true) {i2 i3 i4 : FirmwareImage} (hi2 : s.hub.bring.stages[1]? = some i2)
    (hi3 : s.hub.bring.stages[2]? = some i3) (hi4 : s.hub.bring.stages[3]? = some i4) (hc : s.hub.bring.cxlTrained = true)
    (he : s.hub.bring.election = []) :
    ∃ st, s.bring5 = { s with
      store := {}, stations := st
      hub := { s.hub with
        boot := 8, bootFail := false, recovery := none
        measured := withStage (withStage (withStage s.hub.measured 2 i2.digest) 3 i3.digest) 4 i4.digest } } := by
  have hk : ∀ k, (s.beginStep 5).hub.stageOk k = s.hub.stageOk k := Hub.stageOk_congr rfl rfl rfl
  obtain ⟨st, e⟩ := State.bring6_of_good (s := { s.beginStep 5 with store := {} }) ((hk 2).trans h2) ((hk 3).trans h3) ((hk 4).trans h4)
    hi2 hi3 hi4 hc he
  exact ⟨st, (if_pos hbm).trans e⟩

theorem Machine.State.bring3_of_good (ht : s.hub.bring.trained = [(4, 12, 12), (4, 12, 12), (4, 12, 12), (4, 12, 12)])
    (hd : s.dies = List.replicate 4 {}) :
    s.bring3 = ({ s.beginStep 3 with
      dies := List.replicate 4 { tick := s.hub.tick, ns := s.hub.ns, tmHub := 4, tmLow := 12, tmHigh := 12 } } : State).bring4 := by
  unfold State.bring3
  dsimp only
  rw [show (s.beginStep 3).hub.bring.trained = _ from ht, show (s.beginStep 3).dies = _ from hd]
  rfl

/-- With good dies, links and first stage, reset comes to step 5 with four dies present and that stage measured. -/
theorem Machine.State.bring2_to_bring5 (s : State) {b : BringUp} (hs : (s.released b).hub.stageOk 1 = true)
    (ht : b.trained = [(4, 12, 12), (4, 12, 12), (4, 12, 12), (4, 12, 12)]) {r0 r1 r2 r3 : DiscoverRec} (h0 : goodRecord r0)
    (h1 : goodRecord r1) (h2 : goodRecord r2) (h3 : goodRecord r3) (hd : b.discover = [some r0, some r1, some r2, some r3])
    {i1 : FirmwareImage} (hi1 : b.stages[0]? = some i1) :
    ∃ t : State, (s.released b).bring2 = t.bring5 ∧ t.hub = { (s.released b).hub with
        boot := 4, discovered := [(0, r0), (1, r1), (2, r2), (3, r3)], closed := true, ready := true, measured := [(1, i1.digest)] } ∧
      ∀ d < 4, t.present d = true := by
  have e2 : (s.released b).bring2 = (((s.released b).beginStep 2).runStage 1).bring3 :=
    if_pos ((Hub.stageOk_congr rfl rfl rfl 1).trans hs)
  rw [State.runStage_of_image hi1, State.bring3_of_good (by exact ht) rfl,
    State.bring4_of_good rfl (by exact four_ne_zero) rfl rfl h0 h1 h2 h3 (by exact hd)] at e2
  refine ⟨_, e2, rfl, fun d hd => ?_⟩
  interval_cases d <;> rfl

/-- With everything good, reset ends at step 8 with four dies present and the stages' images measured. -/
theorem Machine.State.bring2_of_good (s : State) {b : BringUp} (hs : ∀ k, 1 ≤ k → k ≤ 4 → (s.released b).hub.stageOk k = true)
    (hbm : b.hbmOk = true) (hc : b.cxlTrained = true) (ht : b.trained = [(4, 12, 12), (4, 12, 12), (4, 12, 12), (4, 12, 12)])
    (he : b.election = []) {r0 r1 r2 r3 : DiscoverRec} (h0 : goodRecord r0) (h1 : goodRecord r1) (h2 : goodRecord r2)
    (h3 : goodRecord r3) (hd : b.discover = [some r0, some r1, some r2, some r3]) {i1 i2 i3 i4 : FirmwareImage}
    (hi1 : b.stages[0]? = some i1) (hi2 : b.stages[1]? = some i2) (hi3 : b.stages[2]? = some i3) (hi4 : b.stages[3]? = some i4) :
    let t := (s.released b).bring2
    t.hub.bootstat = 8 ∧ t.hub.ready = true ∧ t.hub.holder = 0 ∧ (∀ d < 4, t.present d = true) ∧
      t.hub.measured = [(1, i1.digest), (2, i2.digest), (3, i3.digest), (4, i4.digest)] := by
  obtain ⟨t, e2, hub, hp⟩ := State.bring2_to_bring5 s (hs 1 (by omega) (by omega)) ht h0 h1 h2 h3 hd hi1
  have hbr : t.hub.bring = b := by rw [hub]; rfl
  have ok : ∀ k, 1 ≤ k → k ≤ 4 → t.hub.stageOk k = true := fun k h1 h4 =>
    (Hub.stageOk_congr (by rw [hub]) (by rw [hub]) (by rw [hub]) k).trans (hs k h1 h4)
  obtain ⟨st, e5⟩ := State.bring5_of_good (s := t) (by rwa [hbr]) (ok 2 (by omega) (by omega)) (ok 3 (by omega) (by omega))
    (ok 4 (by omega) (by omega)) (by rwa [hbr]) (by rwa [hbr]) (by rwa [hbr]) (by rwa [hbr]) (by rwa [hbr])
  dsimp only
  rw [e2, e5, hub]
  exact ⟨rfl, rfl, rfl, hp, rfl⟩

/-! ### Discovery (R161) -/

/-- The state in which discovery judges the dies that it has found. -/
def Safety.closing (s : State) : State :=
  { s with
    dies := s.dies.mapIdx fun i (d : DieRegs) => { d with present := (s.hub.discovered.lookup i).isSome }
    hub := { s.hub with closed := true, degraded := !(List.range 4).all fun d => (s.hub.discovered.lookup d).isSome } }

theorem Machine.State.closeDiscovery_eq (s : State) :
    let dies := (List.range 4).filter fun d => (s.hub.discovered.lookup d).isSome
    s.closeDiscovery = if (!dies.isEmpty && dies.all fun i => dies.all ((closing s).reaches i)) = true then closing s
      else (closing s).failStep none := rfl

theorem Safety.present_closing {d : Nat} (hd : d < s.dies.length) : (closing s).present d = (s.hub.discovered.lookup d).isSome := by
  simp [State.present, State.die, closing, hd]

theorem Safety.degraded_closing : (closing s).hub.degraded = true ↔ ∃ d < 4, s.hub.discovered.lookup d = none := by
  simp only [closing, Bool.not_eq_true', List.all_eq_false, List.mem_range, ← Option.ne_none_iff_isSome, ne_eq, not_not]

/-- When discovery fails: it has found no die, or two that do not reach each other. -/
theorem Safety.judgement_iff {f : Nat → Bool} {reaches : Nat → Nat → Bool} :
    let dies := (List.range 4).filter f
    ¬ (!dies.isEmpty && dies.all fun i => dies.all (reaches i)) = true ↔
      (∀ d < 4, f d = false) ∨ ∃ i < 4, ∃ j < 4, f i = true ∧ f j = true ∧ reaches i j = false := by
  simp only [Bool.and_eq_true, Bool.not_eq_true', List.isEmpty_eq_false_iff, ne_eq, List.filter_eq_nil_iff, List.mem_range,
    List.all_eq_true, List.mem_filter, not_and_or, not_not, Bool.not_eq_true]
  push Not
  refine or_congr Iff.rfl ⟨?_, ?_⟩
  · rintro ⟨i, ⟨hi, fi⟩, j, ⟨hj, fj⟩, hr⟩
    exact ⟨i, hi, j, hj, fi, fj, by simpa using hr⟩
  · rintro ⟨i, hi, j, hj, fi, fj, hr⟩
    exact ⟨i, ⟨hi, fi⟩, j, ⟨hj, fj⟩, by simpa using hr⟩

/-- What discovery leaves as it closes. -/
theorem Machine.State.closeDiscovery_spec (hb : s.hub.bootFail = false) :
    let t := s.closeDiscovery
    t.hub.closed = true ∧ (∀ d < s.dies.length, t.present d = (s.hub.discovered.lookup d).isSome) ∧
      (t.hub.degraded = true ↔ ∃ d < 4, s.hub.discovered.lookup d = none) ∧
      (t.hub.bootFail = true ↔ (∀ d < 4, s.hub.discovered.lookup d = none) ∨
        ∃ i < 4, ∃ j < 4, s.hub.discovered.lookup i ≠ none ∧ s.hub.discovered.lookup j ≠ none ∧ t.reaches i j = false) := by
  have hj := judgement_iff (f := fun d => (s.hub.discovered.lookup d).isSome) (reaches := (closing s).reaches)
  simp only [Option.isSome_eq_false_iff, Option.isNone_iff_eq_none, ← Option.ne_none_iff_isSome] at hj
  have he := State.closeDiscovery_eq s
  dsimp only at hj he ⊢
  split at he
  · rename_i hc
    rw [he]
    refine ⟨rfl, fun d hd => present_closing hd, degraded_closing, iff_of_false (by simp [closing, hb]) fun h => hj.mpr h hc⟩
  · rename_i hc
    rw [he]
    exact ⟨rfl, fun d hd => present_closing hd, degraded_closing, iff_of_true rfl (hj.mp hc)⟩

theorem Machine.execDiscoverRecord_taken {port : Nat} {r : DiscoverRec} (hboot : s.hub.boot = 4) (hc : s.hub.closed = false)
    (hf : s.hub.bootFail = false) (hp : port < 4) (hm : (s.die port).tmHub ≠ 0) (hr : goodRecord r) (ht : s.hub.tick < 10000000)
    (hn : s.hub.discovered.lookup port = none) (hl : s.hub.discovered.length < 3) :
    exec (.discoverRecord port r) s = .next { s with hub := { s.hub with discovered := s.hub.discovered ++ [(port, r)] } } := by
  have hlen : (s.hub.discovered ++ [(port, r)]).length ≠ 4 := by
    rw [List.length_append, List.length_singleton]
    omega
  rw [exec_discoverRecord]
  unfold execDiscoverRecord
  rw [if_neg (by simp [hboot, hc, hf, discoveryTicks, Nat.not_le.mpr ht])]
  dsimp only
  rw [show s.takeDiscover port r = _ from State.takeDiscover_append hr hp hm hn, if_neg (by exact hlen)]
  rfl

theorem Machine.execDiscoverRecord_refused {port : Nat} {r : DiscoverRec}
    (h : r.cls ≠ 0 ∨ r.caps.getLsbD 4 = true ∨ 10000000 ≤ s.hub.tick) (hl : s.hub.discovered.length < 4) :
    exec (.discoverRecord port r) s = .next s := by
  rw [exec_discoverRecord]
  unfold execDiscoverRecord
  split
  · rfl
  · rename_i hg
    simp only [discoveryTicks, Bool.or_eq_true, decide_eq_true_eq, not_or] at hg
    have ht : s.takeDiscover port r = s := by
      refine if_neg ?_
      simp only [Bool.and_eq_true, decide_eq_true_eq, Bool.not_eq_true']
      rintro ⟨⟨⟨⟨-, -⟩, hc⟩, hf⟩, -⟩
      rcases h with h | h | h
      · exact h hc
      · exact absurd (hf.symm.trans h) Bool.false_ne_true
      · exact hg.2 (decide_eq_true h)
    dsimp only
    rw [ht, if_neg (by omega)]

theorem Machine.execDiscoveryTimeout_closes (hboot : s.hub.boot = 4) (hc : s.hub.closed = false) (hf : s.hub.bootFail = false)
    (ht : 10000000 ≤ s.hub.tick) : exec .discoveryTimeout s = .next s.closeDiscovery := by
  rw [exec_discoveryTimeout]
  exact if_neg (by simp [hboot, hc, hf, discoveryTicks, Nat.not_lt.mpr ht])

/-! ### Firmware from outside (R458) -/

/-- The hub with an image from the mailbox in its place. -/
def Safety.withImage (h : Hub) (img : FirmwareImage) : Hub :=
  { h with bring := { h.bring with stages := (List.range 4).map fun i =>
      if i + 1 = img.stage then img else h.bring.stages.getD i { stage := 0, signatureOk := false } } }

theorem Machine.execRecoveryImage_accepted {img : FirmwareImage} (hr : s.hub.recovery = some img.stage) (ha : s.hub.accepts img = true) :
    exec (.recoveryImage img) s =
      .next (if img.stage = 1 then (s.modHub (withImage · img)).bring2 else (s.modHub (withImage · img)).bring6) := by
  rw [exec_recoveryImage]
  exact if_neg (by simp [hr, ha])

theorem Machine.execRecoveryImage_refused {img : FirmwareImage} (h : s.hub.recovery ≠ some img.stage ∨ s.hub.accepts img = false) :
    exec (.recoveryImage img) s = .next s := by
  rw [exec_recoveryImage]
  exact if_pos (by simpa using h)

theorem Safety.stages_withImage {img : FirmwareImage} (h1 : 1 ≤ img.stage) (h4 : img.stage ≤ 4) (h : Hub) :
    (withImage h img).bring.stages[img.stage - 1]? = some img := by
  simp [withImage, show img.stage - 1 < 4 by omega, show img.stage - 1 + 1 = img.stage by omega]

theorem Machine.execFirmwareRevocationCommand_signed {c : RevocationCmd} (ho : s.isOwner (.master c.master) = true)
    (hs : c.signatureOk = true) :
    exec (.firmwareRevocationCommand c) s = .next (s.modHub fun h => { h with
      revoked := h.revoked ||| c.revoke
      minVersion := (List.range 4).map fun i => max (h.minVersion.getD i 0) (c.minVersion.getD i 0) }) := by
  rw [exec_firmwareRevocationCommand]
  exact (if_neg (by simp [ho])).trans (if_neg (by simp [hs]))

/-! ### Attestation (R459) -/

theorem Machine.State.attest_of_reachable {m : Nat} (h : s.reachable m = true) (cmd : Nat) (a : SpdmAnswer) :
    s.attest m cmd a = { s with out := .spdm m cmd a :: s.out } := if_pos h

theorem Machine.execGetMeasurements_reachable {m index : Nat} (h : s.reachable m = true) (h1 : 1 ≤ index) (h7 : index ≤ 7) :
    ∃ x, exec (.getMeasurements m index) s =
      .next { s with out := .spdm m 7 (.measurement index (s.hub.measurement index) x) :: s.out } := by
  rw [exec_getMeasurements]
  unfold execGetMeasurements
  rw [if_pos (by simp [h1, h7]), State.attest_of_reachable h]
  exact ⟨_, rfl⟩

/-- The measurement of a firmware stage that runs is its digest. -/
theorem Machine.Hub.measurement_stage {k : Nat} {d : BitVec 256} (h1 : 1 ≤ k) (h4 : k ≤ 4) (hd : h.measured.lookup k = some d) :
    h.measurement (k + 1) = d := by
  unfold Hub.measurement
  rw [if_neg (by omega), if_neg (by omega), if_neg (by omega), Nat.add_sub_cancel, hd, Option.getD_some]

end

/-- Settles O51, clause by clause: reset and its good course, discovery, configuration, firmware, attestation. -/
theorem bringUpAndAttestation : Obligations.BringUpAndAttestation := by
  unfold Obligations.BringUpAndAttestation
  refine ⟨⟨?reset, ?badStage, ?good, ?stage, ?record, ?timeout, ?noRecord, ?credits, ?topology, ?ack, fun _ _ => rfl, ?image,
    fun img s => execRecoveryImage_refused, ?revoke, ?unsigned⟩, ?attest, fun h k d => Hub.measurement_stage⟩
  case reset =>
    intro b s
    have h := (Cleared.released s b).bring2.eq
    simp only [Prod.mk.injEq] at h
    exact ⟨_, rfl, h⟩
  case badStage =>
    intro b s hs
    refine ⟨_, rfl, ?_⟩
    have e : (s.released b).bring2 = _ := if_neg (ne_true_of_eq_false ((Hub.stageOk_congr rfl rfl rfl 1).trans hs))
    rw [e]
    exact ⟨rfl, rfl, rfl⟩
  case good =>
    intro b s r hs hbm hc ht he hr hd
    have image : ∀ k, 1 ≤ k → k ≤ 4 → ∃ img, b.stages[k - 1]? = some img := fun k h1 h4 => by
      obtain ⟨img, hi, -⟩ := Hub.stageOk_iff.mp (hs k h1 h4)
      exact ⟨img, hi⟩
    obtain ⟨i1, hi1⟩ := image 1 (by omega) (by omega)
    obtain ⟨i2, hi2⟩ := image 2 (by omega) (by omega)
    obtain ⟨i3, hi3⟩ := image 3 (by omega) (by omega)
    obtain ⟨i4, hi4⟩ := image 4 (by omega) (by omega)
    obtain ⟨hboot, hready, hholder, hpresent, hm⟩ :=
      State.bring2_of_good s hs hbm hc ht he (hr 0) (hr 1) (hr 2) (hr 3) hd hi1 hi2 hi3 hi4
    refine ⟨_, rfl, hboot, hready, hholder, hpresent, fun k img hk hi => ?_⟩
    rw [hm]
    interval_cases k
    · rw [Option.some.inj (hi.symm.trans hi1)]; rfl
    · rw [Option.some.inj (hi.symm.trans hi2)]; rfl
    · rw [Option.some.inj (hi.symm.trans hi3)]; rfl
    · rw [Option.some.inj (hi.symm.trans hi4)]; rfl
  case stage =>
    intro h k hk
    obtain ⟨img, hi, rfl, ha⟩ := Hub.stageOk_iff.mp hk
    exact ⟨img, hi, rfl, Hub.accepts_iff.mp ha⟩
  case record => exact fun port r s hb hc hf hp hm hcls hcaps => execDiscoverRecord_taken hb hc hf hp hm ⟨hcls, hcaps⟩
  case timeout => exact fun s hb hc hf ht => ⟨_, execDiscoveryTimeout_closes hb hc hf ht, State.closeDiscovery_spec hf⟩
  case noRecord => exact fun port r s => execDiscoverRecord_refused
  case credits => exact fun link vc count s => ⟨_, rfl, List.mem_append_right _ (List.mem_singleton_self _), rfl⟩
  case topology =>
    intro die s hc hr hp
    have hd : die < s.dies.length := by
      by_contra hd
      simp [State.present, State.die, List.getElem?_eq_none (Nat.le_of_not_lt hd)] at hp
    refine ⟨_, if_pos (by simp [hc, hr, hp]), ?_, rfl⟩
    rw [State.die_modDie hd]
  case ack => exact fun die s h => if_pos h
  case image =>
    intro img s hr ha h1 h4
    refine ⟨s.modHub (withImage · img), stages_withImage h1 h4 _, ?_, execRecoveryImage_accepted hr ha⟩
    exact Hub.stageOk_iff.mpr ⟨img, stages_withImage h1 h4 _, rfl, ha⟩
  case revoke =>
    intro c s ho hs
    refine ⟨_, execFirmwareRevocationCommand_signed ho hs, rfl, fun i hi => ?_, rfl⟩
    simp [State.modHub, hi]
  case unsigned =>
    intro c s ho hs
    rw [exec_firmwareRevocationCommand]
    exact (if_neg (by simp [ho])).trans (if_pos (by simp [hs]))
  case attest =>
    intro m s h
    refine ⟨congrArg _ (State.attest_of_reachable h _ _), ⟨_, congrArg _ (State.attest_of_reachable h _ _)⟩,
      ⟨_, congrArg _ (State.attest_of_reachable h _ _)⟩, ⟨_, congrArg _ (State.attest_of_reachable h _ _)⟩,
      fun _ => ⟨_, congrArg _ (State.attest_of_reachable h _ _)⟩, fun _ => ⟨_, congrArg _ (State.attest_of_reachable h _ _)⟩,
      fun _ => execGetMeasurements_reachable h⟩

end Sys2Proof
end

section
/-! # The state after reset (O1), and what comes about beside the instructions (O59) -/

namespace Sys2Proof

open Machine Safety

theorem Machine.State.die_reset (d : Nat) : State.reset.die d = {} := by
  unfold State.die State.reset
  rw [List.getD_eq_getElem?_getD]
  exact List.getElem?_getD_replicate_default_eq _ 4 d

theorem Machine.State.stations_reset (t : Nat) : State.reset.stations.getD t {} = {} := by
  rw [List.getD_eq_getElem?_getD]
  exact List.getElem?_getD_replicate_default_eq _ 20 t

/-- Settles O1: reset leaves every table empty, so that nothing is due. -/
theorem resetState : Obligations.ResetState := by
  unfold Obligations.ResetState
  refine ⟨storeSound_empty, rfl, rfl, rfl, rfl, rfl, rfl, rfl, rfl, ?slots, ?dies, ?stations, fun _ => rfl, fun _ => rfl, fun _ => rfl,
    fun _ => rfl, rfl, rfl⟩
  case slots =>
    intro x hx
    obtain ⟨n, -, rfl⟩ := List.mem_map.mp hx
    exact ⟨rfl, rfl⟩
  case dies =>
    intro d
    rw [State.present, State.die_reset]
    exact ⟨rfl, rfl⟩
  case stations =>
    intro t
    rw [State.stations_reset]
    rfl

/-! ### Fetch lines and the scrub of a core (R58, R219) -/

section
variable {s t u : State}

theorem Machine.execIcacheFill_translated {core ctx va pa : Nat} {x : Xlat} (hd : s.draining (clusterOfCore core) ctx (64 * va) = false)
    (hl : s.lineHeld core ctx (64 * va) .exec = (none, false))
    (ht : s.translate (clusterOfCore core) ctx (64 * va) .exec = (t, .ok x))
    (hr : t.relay (clusterOfCore core) ctx (64 * va) x.pa = (u, pa)) (f1 f2 : BitVec 512) :
    let d := BitVec.ofNat 512 (u.store.read pa 64)
    exec (.icacheFill core ctx va f1 f2) s =
      .next ((u.touch (dieOfCore core) (pa / 128) 0 .read).icacheFill core ctx va (d ^^^ f1) (d ^^^ f2)).1 := by
  rw [exec_icacheFill]
  unfold execIcacheFill
  rw [if_neg (by simp [hd]), hl]
  dsimp only
  rw [ht]
  dsimp only
  rw [hr]

theorem Machine.execRegisterScrub_uncorrectable {core slot : Nat} {w : Warp} (hw : s.warp? core slot = some w) :
    exec (.registerScrub core (some (.uncorrectable slot))) s =
      .next (((s.lose w.ctx core slot 0x02).warps.filter fun w => w.core = core).foldl (fun s w => s.scrubWarp core w.slot)
        (s.lose w.ctx core slot 0x02)).sweep.settle := by
  rw [exec_registerScrub]
  unfold execRegisterScrub
  dsimp only
  rw [hw]

theorem Machine.State.scrubWarp_resident {core slot : Nat} {w : Warp} (hw : s.warp? core slot = some w) :
    s.scrubWarp core slot = (s.checkWords core slot fun _ => true).getD (s.lose w.ctx core slot 0x02) := by
  unfold State.scrubWarp
  rw [hw]

/-- A double error among the words that are read is not corrected. -/
theorem Machine.State.checkWords_double {core slot : Nat} {p : WarpWord → Bool}
    (h : ∃ u ∈ s.upsets, u.inWarp core slot p = true ∧ u.double = true) : s.checkWords core slot p = none := by
  obtain ⟨u, hu, hin, hdouble⟩ := h
  unfold State.checkWords
  rw [if_neg (by simpa using List.ne_nil_of_mem hu)]
  exact if_pos (List.any_eq_true.mpr ⟨u, List.mem_filter.mpr ⟨hu, hin⟩, hdouble⟩)

/-- Single errors alone are corrected and counted. -/
theorem Machine.State.checkWords_single {core slot : Nat} {p : WarpWord → Bool}
    (h : ∀ u ∈ s.upsets, u.inWarp core slot p = true → u.double = false) :
    ∃ t, s.checkWords core slot p = some t ∧ t.upsets = (s.upsets.filter fun u => !u.inWarp core slot p) ∧
      { t with upsets := s.upsets, dies := s.dies } = s := by
  unfold State.checkWords
  split
  · rename_i he
    refine ⟨s, rfl, ?_, rfl⟩
    rw [List.isEmpty_iff.mp he]
    rfl
  · have hsingle : ¬ (s.upsets.filter (Upset.inWarp core slot p)).any Upset.double = true := by
      rw [List.any_eq_true]
      rintro ⟨u, hu, hdouble⟩
      exact absurd (h u (List.mem_of_mem_filter hu) (List.mem_filter.mp hu).2) (by simp [hdouble])
    exact ⟨_, if_neg hsingle, rfl, rfl⟩

/-! ### Walks (R96) -/

/-- The misses of a cluster that no drain holds back. -/
def Safety.freeMisses (s : State) (cluster : Nat) : List MissEntry :=
  s.caches.misses.filter fun m => m.cluster = cluster && !s.draining cluster m.ctx (2 ^ 16 * m.page)

theorem Machine.execPageWalk_none {cluster : Nat} (h : freeMisses s cluster = []) : exec (.pageWalk cluster) s = .next s := by
  have hn : (s.caches.misses.filter fun m => m.cluster = cluster && !s.draining cluster m.ctx (2 ^ 16 * m.page)) = [] := h
  rw [exec_pageWalk]
  unfold execPageWalk
  rw [hn]
  rfl

/-- One of the first 64 walks ends, and which one is free. -/
theorem Machine.execPageWalk_some {cluster : Nat} (h : freeMisses s cluster ≠ []) :
    ∃ m ∈ (freeMisses s cluster).take 64,
      (∀ l, s.leafHeld cluster m.ctx (2 ^ 16 * m.page) .read = some l → exec (.pageWalk cluster) s = .next (s.askBack l)) ∧
      (s.leafHeld cluster m.ctx (2 ^ 16 * m.page) .read = none →
        let u := (s.modCaches fun c => { c with misses := c.misses.erase m }).bump
        exec (.pageWalk cluster) s = .next ((m.waits.foldl (fun s w => s.walked cluster m.ctx w) u).retryAgain).settle) := by
  have hpos : 0 < ((freeMisses s cluster).take 64).length := by
    rw [List.length_take]
    have := List.length_pos_iff.mpr h
    omega
  have hi := Nat.mod_lt (Config.pick s.free (2 ^ 41 + cluster)) hpos
  refine ⟨((freeMisses s cluster).take 64)[_], List.getElem_mem hi, ?_⟩
  rw [exec_pageWalk]
  unfold freeMisses at hi ⊢
  unfold execPageWalk Config.concurrentWalks
  dsimp only
  rw [List.getElem?_eq_getElem hi]
  dsimp only
  exact ⟨fun l hl => by rw [hl], fun hl => by rw [hl]⟩

theorem Machine.State.walked_fault {cluster ctx : Nat} {w : MissWait} {f}
    (ht : s.translate cluster ctx (128 * w.line) .read = (t, .error f)) : s.walked cluster ctx w = t := by
  unfold State.walked
  rw [ht]

theorem Machine.State.walked_ok {cluster ctx : Nat} {w : MissWait} {x : Xlat}
    (ht : s.translate cluster ctx (128 * w.line) .read = (t, .ok x)) :
    s.walked cluster ctx w = (t.useAlias cluster ctx (128 * w.line) x).askFill w.core ctx w.line x w.prio := by
  unfold State.walked
  rw [ht]

/-- Cacheable memory is asked for by a fill. -/
theorem Machine.State.mem_fills_askFill {core ctx line : Nat} {x : Xlat} (h : x.attr = attrWB ∨ x.attr = attrNC) (ch : Nat) :
    ({ core := core, ctx := ctx, va := line, pa := x.pa / 128, prio := ch, toL1 := x.attr = attrWB && ch ≠ 3, toL2 := true } : Fill) ∈
      (s.askFill core ctx line x ch).caches.fills := by
  unfold State.askFill
  dsimp only
  rw [if_pos (by simpa using h)]
  split
  · rename_i hc
    exact List.contains_iff_mem.mp hc
  · exact List.mem_append_right _ (List.mem_singleton_self _)

theorem Machine.State.askFill_uncached {core ctx line : Nat} {x : Xlat}
    (h : x.attr = attrHostUC ∨ x.attr = attrDevice ∨ x.attr = attrPod) (ch : Nat) : s.askFill core ctx line x ch = s := by
  unfold State.askFill
  rcases h with h | h | h <;> rw [h] <;> rfl

theorem Machine.State.useAlias_of_ne {cl ctx va : Nat} {x : Xlat} (h : x.attr ≠ attrWB) : s.useAlias cl ctx va x = s := if_neg h

/-! ### Fills (R51, R111) -/

/-- Where the line of a fill lies once its page has moved. -/
def Safety.fillAt (s : State) (f : Fill) : Nat :=
  ((s.stubFor (128 * f.pa) f.ctx (128 * f.va)).elim (128 * f.pa) fun t => t.newFrame + (128 * f.pa - t.oldFrame)) / 128

theorem Machine.execFillReturn_free {idx pa : Nat} {f : Fill} (hf : s.caches.fills[idx]? = some f)
    (hw : s.relayWaits f.ctx (128 * f.va) (128 * f.pa) = false)
    (ha : s.lineBusy (fillAt s f) = false ∧ s.lineQueued (fillAt s f) = false ∧
      s.hostBlocks (dieOfCore f.core) (fillAt s f) .read = false)
    (hr : (s.modCaches fun c => { c with fills := c.fills.eraseIdx idx }).relay (clusterOfCore f.core) f.ctx (128 * f.va) (128 * f.pa) =
      (u, pa)) :
    let hint := if f.prio = 3 ∧ u.l2? (dieOfCore f.core) (pa / 128) = none then 0 else f.prio
    let v := if f.toL2 then u.touch (dieOfCore f.core) (pa / 128) hint .read else u
    exec (.fillReturn idx) s = .next (if f.toL1 && !f.cancelled then v.l1Fill
      { core := f.core, ctx := f.ctx, va := f.va, pa := pa / 128, data := v.store.line (pa / 128), tag := v.store.tag (pa / 128),
        poison := v.store.linePoison (pa / 128) } f.prio else v) := by
  obtain ⟨hbusy, hqueued, hhost⟩ := ha
  rw [exec_fillReturn]
  unfold execFillReturn
  rw [hf]
  dsimp only
  rw [if_neg (by simp [hw]), if_neg (by simp only [fillAt] at hbusy hqueued; simp [hbusy, hqueued]),
    if_neg (by simp only [fillAt] at hhost; simp [hhost]), hr]
  dsimp only
  have hhint : (f.prio = 3 && (u.l2? (dieOfCore f.core) (pa / 128)).isNone) = true ↔
      f.prio = 3 ∧ u.l2? (dieOfCore f.core) (pa / 128) = none := by simp
  rw [if_congr hhint rfl rfl]
  split
  · rfl
  · rfl

end

/-- Settles O59, clause by clause: fetch lines, the scrub, walks, fills, RETRY and FAIL. -/
theorem cacheAndResponseEvents : Obligations.CacheAndResponseEvents := by
  unfold Obligations.CacheAndResponseEvents
  refine ⟨fun core ctx va pa f1 f2 s t u x hd hl ht hr => execIcacheFill_translated hd hl ht hr f1 f2, fun _ _ _ _ _ _ => rfl,
    ⟨fun _ _ => rfl, fun _ _ => rfl, fun core slot s w => execRegisterScrub_uncorrectable⟩, ?scrub,
    fun core slot s p => ⟨State.checkWords_double, State.checkWords_single⟩, ⟨fun cluster s => execPageWalk_none,
    fun cluster s => execPageWalk_some⟩, ?walked, ?fill, ?response⟩
  case scrub =>
    intro core slot s w hw
    rw [State.scrubWarp_resident hw]
    exact ⟨fun h => by rw [h, Option.getD_none], fun t h => by rw [h, Option.getD_some]⟩
  case walked =>
    intro cluster ctx w s t
    refine ⟨fun f => State.walked_fault, fun x ht => ?_⟩
    rw [State.walked_ok ht]
    refine ⟨fun h => State.mem_fills_askFill h _, fun h => ?_⟩
    rw [State.useAlias_of_ne (by rcases h with h | h | h <;> rw [h] <;> decide), State.askFill_uncached h]
  case fill =>
    intro idx pa s u f hf hw ha hr
    have e := execFillReturn_free hf hw ha hr
    dsimp only at e ⊢
    rw [e]
    refine ⟨fun h1 hc => ?_, fun h => ?_⟩
    · rw [if_pos (by simp [h1, hc])]
    · rw [if_neg (by rcases h with h | h <;> simp [h])]
  case response =>
    intro w ctx batch s hw
    rw [exec_faultResponseRetry, exec_faultResponseFail]
    exact ⟨if_neg (by simp [hw]), if_neg (by simp [hw])⟩

end Sys2Proof
end

section
/-! # What loads and translations leave of the storage (O34) -/

namespace Sys2Proof

open Machine Safety

section
variable {b s t u : State} {g : Gate} {a : Agent}

/-! ### Relays and translations (R97, R111) -/

theorem Machine.State.SameStore.addDrain {d} (h : b.SameStore s) : b.SameStore (s.addDrain d) := .ite (.frame h) h

theorem Machine.State.SameStore.relay {cl ctx va pa} (h : b.SameStore s) : b.SameStore (s.relay cl ctx va pa).1 := by
  unfold State.relay
  split
  · exact h
  · exact .emit (.frame (.addDrain (.frame h)))

theorem Machine.State.sameStore_relayAll (s : State) (w : Warp) (ps : List Piece) : s.SameStore (s.relayAll w ps).1 := by
  unfold State.relayAll
  refine List.foldlRecOn (motive := fun r : State × List Piece => s.SameStore r.1) ps _ .refl fun r hr p _ => ?_
  split
  · exact hr
  · split
    · exact hr
    · dsimp only
      split
      · exact hr
      · exact .relay hr

theorem Machine.State.SameStore.modHub {f} (h : b.SameStore s) : b.SameStore (s.modHub f) := .frame h

theorem Machine.State.SameStore.say {o} (h : b.SameStore s) : b.SameStore (s.say o) := .frame h

theorem Machine.State.SameStore.askBack {l} (h : b.SameStore s) : b.SameStore (s.askBack l) := .ite h (.say (.modHub h))

/-- A write of the device's own that waits leaves the storage as it is (R450). -/
theorem Machine.State.sameStore_hubWrite_of_held {x : LateWrite} (h : s.hostLines x.key x.n ≠ []) : s.SameStore (s.hubWrite x) := by
  have hr : s.lateReady x = false := by simp [State.lateReady, h]
  unfold State.hubWrite
  rw [hr, Bool.and_false, if_neg Bool.false_ne_true]
  exact .modHub (.foldl .refl fun _ _ => .askBack)

/-- A byte of what is read is the byte that stands there. -/
theorem Machine.Store.ofNat_read_div (m : Store) (k : Nat) {n i : Nat} (hi : i < n) :
    BitVec.ofNat 8 (m.read k n / 256 ^ i) = m.byte (k + i) := by
  induction n generalizing k i with
  | zero => omega
  | succ n ih =>
    rw [Store.read]
    cases i with
    | zero => simp [BitVec.ofNat_add, BitVec.ofNat_mul]
    | succ i =>
      rw [pow_succ', ← Nat.div_div_eq_div_mul, Nat.add_mul_div_left _ _ (by norm_num), Nat.div_eq_of_lt (m.byte k).isLt, Nat.zero_add,
        ih (k + 1) (by omega), Nat.add_right_comm, Nat.add_assoc]

theorem Machine.Store.read_lt (m : Store) (k n : Nat) : m.read k n < 256 ^ n := by
  induction n generalizing k with
  | zero => exact Nat.one_pos
  | succ n ih =>
    have := ih (k + 1)
    have := (m.byte k).isLt
    rw [Store.read, pow_succ]
    omega

theorem Machine.byte_of_toNat (e : DWord) (i : Nat) : BitVec.ofNat 8 (e.toNat / 256 ^ i) = e.extractLsb' (8 * i) 8 := by
  rw [BitVec.extractLsb', Nat.shiftRight_eq_div_pow, pow_mul]
  norm_num

/-- A and D stand in the second byte of an entry (R95). -/
theorem Machine.byte_useBits (d : Bool) {i : Nat} (hi : i < 8) :
    (useBits d).extractLsb' (8 * i) 8 = if i = 1 then (if d then 6 else 2) else 0 := by
  decide +revert

theorem Machine.State.byte_pteNow (s : State) (pa : Nat) {i : Nat} (hi : i < 8) :
    (s.pteNow pa).extractLsb' (8 * i) 8 = s.store.byte (pa + i) := by
  rw [← byte_of_toNat, State.pteNow, BitVec.toNat_ofNat, Nat.mod_eq_of_lt (by exact s.store.read_lt pa 8), Store.ofNat_read_div _ _ hi]

/-- Setting A and D in an entry changes those bits of its second byte alone (R97). -/
theorem Machine.State.byte_setAD (hs : sound s) (hf : s.eng.fields = []) (pa k : Nat) (d : Bool) :
    (s.setAD pa d).store.byte k = s.store.byte k ∨
      k = pa + 1 ∧ (s.setAD pa d).store.byte k = s.store.byte k ||| (if d then 6 else 2) := by
  unfold State.setAD
  split
  · exact .inl rfl
  · split
    · rename_i hl
      refine .inl (congrArg (Store.byte · k) (State.sameStore_hubWrite_of_held ?_).store)
      exact List.ne_nil_of_mem (List.mem_filter.mpr ⟨by simpa using hl, by simp; omega⟩)
    · dsimp only
      rw [State.byte_writeKey hs hf]
      split
      · rename_i hk
        obtain ⟨i, rfl⟩ := Nat.exists_eq_add_of_le hk.1
        have hi : i < 8 := by omega
        rw [Nat.add_sub_cancel_left, byte_of_toNat, BitVec.extractLsb'_or, State.byte_pteNow s pa hi, byte_useBits d hi]
        by_cases h1 : i = 1
        · exact .inr ⟨by rw [h1], by rw [if_pos h1]⟩
        · exact .inl (by rw [if_neg h1]; exact BitVec.or_zero)
      · exact .inl rfl

/-- After the entry's bits, a translation only fills caches. -/
theorem Machine.State.installLeaf_store (s : State) (cl ctx va : Nat) (acc : AccType) (lf : Leaf) (seen : List WalkEntry) :
    (s.installLeaf cl ctx va acc lf seen).store = (s.setAD (s.relayPa lf.pa) acc.writes).store := rfl

/-- The walk that a translation makes where no entry of the TLB serves it (R90, R96). -/
def Safety.walkTranslate (s : State) (cl ctx va : Nat) (acc : AccType) : State × Except XFault Xlat :=
  match s.walk (some cl) ctx va acc with
  | (.error f, _) => (s, .error f)
  | (.ok lf, seen) =>
    match s.leafFault ctx va acc lf with
    | some f => (s, .error f)
    | none =>
      let size := 2 ^ levelShift lf.level
      (s.installLeaf cl ctx va acc lf seen,
        .ok { pa := pteFrame lf.entry + va % size, attr := pteAttr lf.entry, frame := pteFrame lf.entry, size := size })

/-- A translation is served by the TLB, which leaves the state, or walks. -/
theorem Machine.State.translate_fst (s : State) (cl ctx va : Nat) (acc : AccType) :
    (s.translate cl ctx va acc).1 = s ∨ s.translate cl ctx va acc = walkTranslate s cl ctx va acc := by
  unfold State.translate
  dsimp only
  split
  · split
    · exact .inl rfl
    · split
      · exact .inl rfl
      · split
        · exact .inr rfl
        · exact .inl rfl
  · exact .inr rfl

/-- A walk changes nothing, or ends at a leaf that it installs. -/
theorem Safety.walkTranslate_fst (s : State) (cl ctx va : Nat) (acc : AccType) :
    (walkTranslate s cl ctx va acc).1 = s ∨ ∃ lf seen, s.walk (some cl) ctx va acc = (.ok lf, seen) ∧
      (walkTranslate s cl ctx va acc).1 = s.installLeaf cl ctx va acc lf seen := by
  unfold walkTranslate
  split
  · exact .inl rfl
  · rename_i lf seen hw
    split
    · exact .inl rfl
    · exact .inr ⟨lf, seen, hw, rfl⟩

/-- A translation leaves the storage, or leaves it as setting A and D at the leaf of its walk does. -/
theorem Machine.State.translate_store (s : State) (cl ctx va : Nat) (acc : AccType) :
    (s.translate cl ctx va acc).1.store = s.store ∨ ∃ lf seen, s.walk (some cl) ctx va acc = (.ok lf, seen) ∧
      (s.translate cl ctx va acc).1.store = (s.setAD (s.relayPa lf.pa) acc.writes).store := by
  rcases s.translate_fst cl ctx va acc with e | e
  · exact .inl (congrArg _ e)
  · rw [e]
    exact (walkTranslate_fst s cl ctx va acc).imp (congrArg _) fun ⟨lf, seen, hw, e⟩ =>
      ⟨lf, seen, hw, (congrArg State.store e).trans (s.installLeaf_store ..)⟩

/-! ### Gates (R150, R427) -/

/-- A gate that opens, opens on the state it was asked of. -/
structure Safety.OpensAt (s : State) (g : Gate) : Prop where
  eq : ∀ u, g = .ready u → u = s

theorem Safety.OpensAt.ready : OpensAt s (.ready s) := ⟨fun _ e => (Gate.ready.inj e).symm⟩

theorem Safety.OpensAt.wait : OpensAt s (.wait t) := ⟨fun u e => by cases e⟩

theorem Safety.OpensAt.again : OpensAt s (.again t) := ⟨fun u e => by cases e⟩

theorem Safety.OpensAt.ite {p : Prop} {_ : Decidable p} {g' : Gate} (h : OpensAt s g) (h' : OpensAt s g') :
    OpensAt s (if p then g else g') :=
  iteInduction (fun _ => h) fun _ => h'

theorem Safety.OpensAt.andThen {k : State → Gate} (h : OpensAt s g) (hk : ∀ t, OpensAt t (k t)) : OpensAt s (g.andThen k) := by
  constructor
  intro u e
  unfold Gate.andThen at e
  cases g with
  | ready t => exact ((hk t).eq u e).trans (h.eq t rfl)
  | wait t =>
    dsimp only at e
    split at e <;> cases e
  | again t =>
    dsimp only at e
    split at e <;> cases e

theorem Safety.OpensAt.gateFold {α : Type} {l : List α} {f : State → α → Gate} (hf : ∀ t a, OpensAt t (f t a)) :
    OpensAt s (gateFold l s f) :=
  List.foldlRecOn (motive := OpensAt s) l _ .ready fun _ hg _ _ => hg.andThen fun t => hf t _

theorem Safety.OpensAt.askPod {line va lanes op mask} : OpensAt s (s.askPod a line va lanes op mask) := by
  unfold State.askPod
  split
  · exact .ite .ready .wait
  · refine .ite .again ?_
    split
    · exact .wait
    · exact .ready

theorem Safety.OpensAt.askHost {line va write} : OpensAt s (s.askHost a line va write) := .ite .ready .wait

theorem Safety.OpensAt.askUc {pa va n} : OpensAt s (s.askUc a pa va n) := by
  unfold State.askUc
  split
  · exact .ite .ready .wait
  · exact .wait

theorem Safety.OpensAt.gateHome {l va v} : OpensAt s (s.gateHome a l va v) := by
  refine .ite .ready (.ite .again (.ite .again ?_))
  split
  · exact .ite .ready (.ite .wait (.ite .again .wait))
  · exact .ready

theorem Safety.OpensAt.gateRead {attr key va n mask} : OpensAt s (s.gateRead a attr key va n mask) := by
  refine .ite .ready ?_
  split
  · exact .askPod
  · exact .ite .askUc .askHost
  · exact .ready
  · exact .gateHome

/-! ### Loads (R325) -/

theorem Machine.State.recached_readPiece (s : State) (w : Warp) (p : Piece) (ch : Nat) (fill : Bool) :
    s.Recached (s.readPiece w p ch fill).1 := by
  unfold State.readPiece
  split
  · exact .elim .refl fun _ => .l1Touch .refl
  · exact .ite (.l1Fill (.ite .refl (.touch .refl))) (.ite .refl (.touch .refl))

theorem Machine.State.recached_fetchPiece (s : State) (a : Agent) (w : Warp) (p : Piece) (ch : Nat) (fill : Bool) :
    s.Recached (s.fetchPiece a w p ch fill).1 := by
  unfold State.fetchPiece
  dsimp only
  split
  · exact s.recached_readPiece w p ch fill
  · split
    · split
      · exact .refl
      · exact .refl
    · split
      · split
        · exact .refl
        · exact .refl
      · exact s.recached_readPiece w p ch fill
    · exact .refl
    · exact s.recached_readPiece w p ch fill

theorem Machine.State.recached_fetchAll (s : State) (a : Agent) (w : Warp) (ps : List Piece) (ch : Nat) (fill : Bool) :
    s.Recached (s.fetchAll a w ps ch fill).1 :=
  List.foldlRecOn (motive := fun r : State × List (Nat × Nat) × List LaneFault => s.Recached r.1) ps _ .refl
    fun r hr p _ => hr.trans (r.1.recached_fetchPiece a w p ch fill)

theorem Machine.Issue.recached_bypassed (c : Issue) (a : PrepArgs) (ps : List Piece) (s : State) : s.Recached (c.bypassed a ps s) :=
  .ite .refl (.foldl .refl fun _ _ h => .ite (.l1Inval h) h)

/-- A load that goes through leaves the storage as its translations have left it. -/
theorem Safety.Loads.store {c : Issue} {x : PrepArgs} {ch : Nat} {fill : Bool} {addrs : List (Nat × DWord)} {vals : List (Nat × Nat)}
    {qs : List Piece} (hp : c.s.prep c.w x c.pc addrs = .ok u qs) (h : Loads c x ch fill addrs t vals) : t.store = u.store := by
  obtain ⟨t, ps, v, r, ⟨u, qs, hp', hr, -, -⟩, ⟨hg, -, -⟩, hf, rfl⟩ := h
  obtain ⟨rfl, rfl⟩ := Prep.ok.inj (hp'.symm.trans hp)
  have hrelay := u.sameStore_relayAll c.w qs
  have hfetch := v.recached_fetchAll c.agent c.w (t.splitUc ps) ch fill
  rw [hr] at hrelay
  rw [hf] at hfetch
  calc (c.bypassed x (t.splitUc ps) (r.dropAnswers c.agent)).store
    _ = r.store := (c.recached_bypassed ..).sameStore.store
    _ = v.store := hfetch.sameStore.store
    _ = t.store := congrArg State.store ((OpensAt.gateFold fun _ _ => .gateRead).eq v hg)
    _ = u.store := hrelay.store

end

/-- Settles O34: a load moves only caches and requests, and a translation ends at most in setting A and D. -/
theorem loadsAndTranslationsFrame : Obligations.LoadsAndTranslationsFrame := by
  unfold Obligations.LoadsAndTranslationsFrame
  refine ⟨fun c a ch fill addrs v vals u qs hp h => h.store hp, fun s cl ctx va acc k hs hf => ?_⟩
  dsimp only
  rcases s.translate_store cl ctx va acc with e | ⟨lf, seen, hw, e⟩
  · exact .inl (congrArg (Store.byte · k) e)
  · rw [e]
    exact (State.byte_setAD hs hf _ _ _).imp_right fun ⟨hk, hb⟩ => ⟨lf, seen, hw, hk, hb⟩

end Sys2Proof
end

section
/-! # Migration, its events, and TFENCE's acknowledgements (O48) -/

namespace Sys2Proof

open Machine Safety

section
variable {b s t : State} {α : Type}

/-! ### What writes and copies leave of migrations, stubs and TFENCEs

A write at a page's old or new frame marks lines dirty in migrations that have not been cut over (R109), and touches nothing else that a
cut-over has set up. -/

/-- The generation, the lines that the host holds, stubs, TFENCEs under way and the migrations that have been cut over are the same. -/
structure Machine.State.SameMoves (s t : State) : Prop where
  gen : t.hub.gen = s.hub.gen
  snoop : t.hub.snoop = s.hub.snoop
  stubs : t.eng.stubs = s.eng.stubs
  tfences : t.eng.tfences = s.eng.tfences
  cut : ∀ x ∈ s.eng.migs, x.cut = true → x ∈ t.eng.migs

theorem Machine.State.SameMoves.refl : b.SameMoves b := ⟨rfl, rfl, rfl, rfl, fun _ h _ => h⟩

theorem Machine.State.SameMoves.frame {store caches coh warps contexts slots sched dies stations staged recs out cur agenda upsets free
    cycles turn} (h : b.SameMoves s) : b.SameMoves ⟨store, caches, coh, warps, contexts, slots, sched, s.eng, dies, stations, s.hub,
      staged, recs, out, cur, agenda, upsets, free, cycles, turn⟩ := ⟨h.gen, h.snoop, h.stubs, h.tfences, h.cut⟩

theorem Machine.State.SameMoves.ite {p : Prop} {_ : Decidable p} (hs : b.SameMoves s) (ht : b.SameMoves t) :
    b.SameMoves (if p then s else t) :=
  iteInduction (fun _ => hs) fun _ => ht

theorem Machine.State.SameMoves.foldl {f : State → α → State} {l : List α} (hs : b.SameMoves s)
    (hf : ∀ t a, b.SameMoves t → b.SameMoves (f t a)) : b.SameMoves (l.foldl f s) :=
  List.foldlRecOn l f hs fun t ht a _ => hf t a ht

theorem Machine.State.SameMoves.modSched {g} (h : b.SameMoves s) : b.SameMoves (s.modSched g) := .frame h

theorem Machine.State.SameMoves.modStore {g} (h : b.SameMoves s) : b.SameMoves (s.modStore g) := .frame h

theorem Machine.State.SameMoves.modCaches {g} (h : b.SameMoves s) : b.SameMoves (s.modCaches g) := .frame h

theorem Machine.State.SameMoves.modCoh {g} (h : b.SameMoves s) : b.SameMoves (s.modCoh g) := .frame h

theorem Machine.State.SameMoves.modCtx {id g} (h : b.SameMoves s) : b.SameMoves (s.modCtx id g) := .frame h

theorem Machine.State.SameMoves.pendRec {ctx die slice r} (h : b.SameMoves s) : b.SameMoves (s.pendRec ctx die slice r) := .frame h

theorem Machine.State.SameMoves.say {o} (h : b.SameMoves s) : b.SameMoves (s.say o) := .frame h

theorem Machine.State.SameMoves.emit {die unit sub ctx code payload body lossless warp gang} (h : b.SameMoves s) :
    b.SameMoves (s.emit die unit sub ctx code payload body lossless warp gang) :=
  .ite (.ite h (.frame h)) (.ite (.frame (.ite h (.frame h))) (.frame (.frame (.ite h (.frame h)))))

theorem Machine.State.SameMoves.modWatch {ctx id home g} (h : b.SameMoves s) : b.SameMoves (s.modWatch ctx id home g) := .modSched h

theorem Machine.State.SameMoves.watchCount {w addr val depth slice} (h : b.SameMoves s) :
    b.SameMoves (s.watchCount w addr val depth slice) := by
  unfold State.watchCount
  split
  · exact .modCtx h
  · split
    · exact h
    · exact .emit (.modWatch h)
    · exact .ite (.pendRec (.modWatch h)) (.ite (.pendRec (.modWatch h)) (.emit (.modSched (.modWatch h))))

theorem Machine.State.SameMoves.compareLine {l old new depth} (h : b.SameMoves s) : b.SameMoves (s.compareLine l old new depth) := by
  unfold State.compareLine
  split
  · exact h
  · refine .foldl h fun t w ht => ?_
    split
    · exact .watchCount ht
    · exact ht

theorem Machine.State.SameMoves.notePtes {l} (h : b.SameMoves t) : b.SameMoves (s.notePtes t l) := .ite h (.frame h)

/-- A line becomes dirty only in migrations that have not been cut over. -/
theorem Machine.State.SameMoves.markDirty {l} (h : b.SameMoves s) : b.SameMoves (s.markDirty l) := by
  refine .ite ⟨h.gen, h.snoop, h.stubs, h.tfences, fun x hx hc => ?_⟩ h
  exact List.mem_map.mpr ⟨x, h.cut x hx hc, if_neg (by simp [hc])⟩

theorem Machine.State.SameMoves.settleFields {l mask} (h : b.SameMoves s) : b.SameMoves (s.settleFields l mask) :=
  .ite h ⟨h.gen, h.snoop, h.stubs, h.tfences, h.cut⟩

theorem Machine.State.SameMoves.writeKey {k n v depth} (h : b.SameMoves s) : b.SameMoves (s.writeKey k n v depth) :=
  .foldl h fun _ _ ht => .ite (.ite (.modStore (.settleFields (.modStore ht)))
    (.compareLine (.markDirty (.notePtes (.settleFields (.modStore ht)))))) ht

theorem Machine.State.SameMoves.askSpan {k n} (h : b.SameMoves s) : b.SameMoves (s.askSpan k n) :=
  .foldl h fun _ _ ht => .ite ht (.say ⟨ht.gen, ht.snoop, ht.stubs, ht.tfences, ht.cut⟩)

theorem Machine.State.SameMoves.hubWrite {w} (h : b.SameMoves s) : b.SameMoves (s.hubWrite w) :=
  .ite (.writeKey h) (by
    have ha := h.askSpan (k := w.key) (n := w.n)
    exact ⟨ha.gen, ha.snoop, ha.stubs, ha.tfences, ha.cut⟩)

theorem Machine.State.SameMoves.l2Drop {die l} (h : b.SameMoves s) : b.SameMoves (s.l2Drop die l) := .modCoh h

theorem Machine.State.SameMoves.recallAll {l} (h : b.SameMoves s) : b.SameMoves (s.recallAll l) := by
  unfold State.recallAll
  exact .modCoh (.foldl h fun _ _ ht => .l2Drop ht)

theorem Machine.State.SameMoves.recallFrame {frame size} (h : b.SameMoves s) : b.SameMoves (s.recallFrame frame size) :=
  .foldl h fun _ _ ht => .recallAll ht

theorem Machine.State.SameMoves.copyToPod {src dst n} (h : b.SameMoves s) : b.SameMoves (s.copyToPod src dst n) := by
  unfold State.copyToPod
  split
  · exact .foldl h fun _ _ ht => .say ht
  · exact h

theorem Machine.State.SameMoves.moveLines {src dst n} (h : b.SameMoves s) : b.SameMoves (s.moveLines src dst n) := by
  unfold State.moveLines
  split
  · exact .copyToPod h
  · exact .modStore h

theorem Machine.State.SameMoves.fixTrig {w} (h : b.SameMoves s) : b.SameMoves (s.fixTrig w) := .frame h

theorem Machine.State.SameMoves.freeWatches {ws} (h : b.SameMoves s) : b.SameMoves (s.freeWatches ws) :=
  .modSched (.foldl h fun _ _ ht => .fixTrig ht)

theorem Machine.State.SameMoves.rehome {w home lines} (h : b.SameMoves s) : b.SameMoves (s.rehome w home lines) := .frame (.modWatch h)

theorem Machine.State.SameMoves.moveWatch {f w} (h : b.SameMoves s) : b.SameMoves (s.moveWatch f w) := by
  unfold State.moveWatch
  dsimp only
  split
  · exact h
  · split
    · exact h
    · exact .ite (.modWatch h) (.ite (.ite (.freeWatches (.modWatch h)) (.modWatch (.modWatch h)))
        (.ite (.rehome h) (.modSched (.modWatch h))))

theorem Machine.State.SameMoves.moveWatches {f} (h : b.SameMoves s) : b.SameMoves (s.moveWatches f) := by
  have hw : b.SameMoves (s.sched.watches.foldl (fun s w => s.moveWatch f w) s) := .foldl h fun _ _ ht => .moveWatch ht
  exact ⟨hw.gen, hw.snoop, hw.stubs, hw.tfences, hw.cut⟩

theorem Machine.State.SameMoves.hostLines (h : s.SameMoves t) (k n : Nat) : t.hostLines k n = s.hostLines k n := by
  unfold State.hostLines
  rw [h.snoop]

/-! ### MIGR (R108, R401) -/

theorem Machine.Issue.migr_idle {c : Issue} (h : c.act = 0#96) (f : FormA) (swap : Bool) : c.migr f swap = .next c.s :=
  if_pos (by simp [Issue.idle, h])

/-- What a request to move pages leaves of its hood: its status, or its wait. -/
def Safety.moveAnswer (c : Issue) (f : FormA) (ms : List (Option Move1)) : Res :=
  match c.s.requestMove ms (some (c.w.core, c.w.slot)) f.d with
  | (t, some st) => .next ((putIn c t fun w => w.putScalar c.lanes f.d false st).l1Flush c.w.core)
  | (t, none) => waits c t (.migration c.s.eng.nextMig)

/-- The check of a page's address, which may name no window (R26). -/
def Safety.pageCheck (c : Issue) (va : Nat) : Except Cause (List Piece) :=
  c.s.classify c.w { sp := false, ds := false, lp := false } 0 (BitVec.ofNat 64 va) 1 c.lane

/-- The fault of a page's address that names a window (R26). -/
def Safety.windowFault (c : Issue) (va : Nat) : Option (Cause × Nat) :=
  match pageCheck c va with
  | .error x => if x.1 = 0x15 then some (x, va) else none
  | .ok _ => none

/-- A hood that is not idle, and whose warp has nothing parked, requests its move, or takes the fault of a window. -/
theorem Machine.Issue.migr_active {c : Issue} (h : c.act ≠ 0#96) (hp : c.w.parked = []) (f : FormA) (swap : Bool) :
    let p := c.scalar f.s1 true 3
    let q := c.scalar f.s2 true 3
    let ctx := c.scalar f.s3 false 1
    c.migr f swap = match (if swap then [p, q] else [p]).findSome? (windowFault c) with
      | some (x, va) => .fault c.s [c.record x ((1 : LaneMask) <<< c.lane) (BitVec.ofNat 64 va)]
      | none => moveAnswer c f (if swap then c.s.swapPages ctx p (c.scalar f.s4 false 1) q else c.s.movePages ctx p q) := by
  unfold Issue.migr
  rw [if_neg (by simpa [Issue.idle] using h), if_neg (by simp [hp])]
  rfl

theorem Safety.windowFault_error {c : Issue} {va sub : Nat} (h : pageCheck c va = .error (0x15, sub)) :
    windowFault c va = some ((0x15, sub), va) := by
  unfold windowFault
  rw [h]
  exact if_pos rfl

theorem Safety.windowFault_page {c : Issue} {va : Nat} (h : ∀ x, pageCheck c va = .error x → x.1 ≠ 0x15) : windowFault c va = none := by
  unfold windowFault
  split
  · rename_i x hx
    exact if_neg (h x hx)
  · rfl

/-! ### Requests from the host (R108, R109) -/

theorem Machine.execMigrationRequestHost_of {ctx va dest : Nat} {o : Option Nat}
    (h : s.requestMove (s.movePages ctx va dest) none 0x1FF = (t, o)) :
    exec (.migrationRequestHost ctx va dest) s = .next (o.elim t.settle fun st => t.say (.migStatus st)) := by
  rw [exec_migrationRequestHost]
  unfold execMigrationRequestHost
  rw [h]
  cases o with
  | none => rfl
  | some st => rfl

/-- A request that is taken is of a page with a leaf, and its move begins. -/
theorem Machine.State.requestMove_taken {ctx va dest : Nat} {r : Option (Nat × Nat)} {d : BitVec 10}
    (h : s.requestMove (s.movePages ctx va dest) r d = (t, none)) :
    ∃ l, t = s.startMove { ctx := ctx, va := va, leaf := l, dest := dest } none r d := by
  unfold State.requestMove State.movePages at h
  dsimp only at h
  split at h
  · cases h
  · cases hl : s.pageLeaf ctx va with
    | none => simp [hl] at h
    | some l =>
      rw [hl] at h
      exact ⟨l, (Prod.mk.inj h).1.symm⟩

/-- A request of a page without a leaf is invalid. -/
theorem Machine.State.requestMove_invalid {ctx va dest : Nat} (hl : s.pageLeaf ctx va = none)
    (hq : Config.migQueueFull s.eng.migs.length = false) (r : Option (Nat × Nat)) (d : BitVec 10) :
    s.requestMove (s.movePages ctx va dest) r d = (s, some 6) := by
  have hst : s.moveStatus (s.movePages ctx va dest) = 6 := by
    simp [State.moveStatus, State.movePages, hl, hq, migInvalid]
  unfold State.requestMove
  rw [hst]
  rfl

/-- The migration that a move begins; lines of its new frame that the host holds are left to a later pass (R450). -/
theorem Machine.State.startMove_migs (s : State) (p : Move1) (r : Option (Nat × Nat)) (d : BitVec 10) :
    ∃ m ∈ (s.startMove p none r d).eng.migs, m.id = s.eng.nextMig ∧ m.newFrame = p.dest ∧ m.cut = false ∧ m.swap = none ∧
      m.dirty = (s.hostLines p.dest m.size).map fun l => m.oldFrame / 128 + (l - p.dest / 128) := by
  have hm : s.SameMoves ((s.markMig p.leaf.pa).recallFrame p.frame p.size) := .recallFrame (.hubWrite .refl)
  refine ⟨_, List.mem_append_right _ (List.mem_singleton_self _), rfl, rfl, rfl, rfl, ?_⟩
  rw [← hm.hostLines]
  rfl

/-! ### Copy passes (R109) -/

theorem Machine.State.moveLines_keeps (s : State) (src dst n : Nat) :
    (s.moveLines src dst n).eng = s.eng ∧ (s.moveLines src dst n).warps = s.warps := by
  unfold State.moveLines
  split
  · unfold State.copyToPod
    split
    · exact List.foldlRecOn (motive := fun t : State => t.eng = s.eng ∧ t.warps = s.warps) _ _ ⟨rfl, rfl⟩ fun _ ht _ _ => ht
    · exact ⟨rfl, rfl⟩
  · exact ⟨rfl, rfl⟩

/-- The dirty lines of a migration copied to its new frame. -/
def Safety.copyDirty (s : State) (m : Migration) : State :=
  m.dirty.foldl (fun s l => s.moveLines (128 * l) (m.newFrame + (128 * l - m.oldFrame)) 128) s

/-- A copy pass of a migration's dirty lines; lines of a swap are exchanged at its cut (R115). -/
def Safety.copyPass (s : State) (m : Migration) : State := if m.swap.isSome then s else copyDirty s m

theorem Safety.copyPass_keeps (s : State) (m : Migration) : (copyPass s m).eng = s.eng ∧ (copyPass s m).warps = s.warps :=
  iteInduction (motive := fun t : State => t.eng = s.eng ∧ t.warps = s.warps) (fun _ => ⟨rfl, rfl⟩) fun _ =>
    List.foldlRecOn (motive := fun t : State => t.eng = s.eng ∧ t.warps = s.warps) _ _ ⟨rfl, rfl⟩ fun t ht _ _ =>
      ⟨(t.moveLines_keeps ..).1.trans ht.1, (t.moveLines_keeps ..).2.trans ht.2⟩

theorem Safety.copyPass_swap {m : Migration} (h : m.swap ≠ none) : copyPass s m = s := if_pos (Option.isSome_iff_ne_none.mpr h)

section
variable {id : Nat} {m : Migration} (hm : (s.eng.migs.find? fun m => m.id = id && !m.cut) = some m)
include hm

theorem Machine.execMigrationCopyPassDone_held (h : ∃ x ∈ s.moveSpans m, s.hostLines x.1 x.2 ≠ []) :
    exec (.migrationCopyPassDone id) s = .next ((s.moveSpans m).foldl (fun s x => s.askSpan x.1 x.2) s) := by
  rw [exec_migrationCopyPassDone]
  unfold execMigrationCopyPassDone
  rw [hm]
  refine if_pos ?_
  obtain ⟨x, hx, hl⟩ := h
  simp only [Bool.or_eq_true, List.any_eq_true]
  exact .inr ⟨x, hx, by simpa using hl⟩

theorem Machine.execMigrationCopyPassDone_free (hl : s.hub.late = []) (h : ∀ x ∈ s.moveSpans m, s.hostLines x.1 x.2 = []) :
    exec (.migrationCopyPassDone id) s = if !m.dirty.isEmpty && m.passes < 4 then
        .next ((copyPass s m).modEng fun e =>
          { e with migs := e.migs.map fun x => if x.id = id then { x with dirty := [], passes := x.passes + 1 } else x })
      else .next (s.cutOver m).settle := by
  rw [exec_migrationCopyPassDone]
  unfold execMigrationCopyPassDone
  rw [hm]
  refine if_neg ?_
  simp only [hl, Bool.or_eq_true, List.any_eq_true, not_or, not_exists, not_and]
  exact ⟨by simp, fun x hx => by simp [h x hx]⟩

end

/-! ### Cut-over (R109, R110) -/

/-- The state in which a cut-over begins to copy: its migration is marked as cut, under a new generation. -/
def Safety.cutting (s : State) (m : Migration) : State :=
  ((s.dropFrames m).modHub fun h => { h with gen := (s.hub.gen + 1) % 2 ^ 32 }).modEng fun e =>
    { e with
      nextTf := s.eng.nextTf + 1
      migs := e.migs.map fun x =>
        if x.id = m.id then { x with cut := true, dirty := [], gen := (s.hub.gen + 1) % 2 ^ 32, tf := s.eng.nextTf } else x }

/-- The new frame of a cut-over with the last dirty lines, and no remote copy of it. -/
def Safety.cutCopied (s : State) (m : Migration) : State :=
  (copyDirty (cutting s m) m).recallFrame m.newFrame m.size

/-- A cut-over with its stub in place. -/
def Safety.cutStubbed (s : State) (m : Migration) : State :=
  (cutCopied s m).addStub m.ctxP m.vaP m.oldFrame m.newFrame m.size ((s.hub.gen + 1) % 2 ^ 32) false

/-- A cut-over with its leaf entry at the new frame. -/
def Safety.cutPointed (s : State) (m : Migration) : State :=
  ((cutStubbed s m).moveWatches (movedLine m.oldFrame m.newFrame m.size false)).cutLeaf m.ptePa m.newFrame

theorem Machine.State.cutOver_eq {m : Migration} (h : m.swap = none) : s.cutOver m =
    ((cutPointed s m).cutFence m s.eng.nextTf m.ctxP m.vaP).traceCut m.ctxP ((s.hub.gen + 1) % 2 ^ 32) m.oldFrame m.newFrame := by
  unfold State.cutOver
  dsimp only
  rw [h]
  rfl

theorem Safety.sameMoves_cutCopied (s : State) (m : Migration) : (cutting s m).SameMoves (cutCopied s m) :=
  .recallFrame (.foldl .refl fun _ _ h => .moveLines h)

theorem Safety.sameMoves_cutPointed (s : State) (m : Migration) : (cutStubbed s m).SameMoves (cutPointed s m) :=
  .writeKey (.moveWatches .refl)

/-- Emission of a trace record changes only what its buffers hold and what is staged for them. -/
theorem Machine.State.emit_eq (s : State) (die unit sub ctx code payload : Nat) (body : Option (BitVec 128)) :
    ∃ cs st, s.emit die unit sub ctx code payload body = { s with contexts := cs, staged := st } := by
  unfold State.emit
  dsimp only
  split
  · split
    · exact ⟨_, _, rfl⟩
    · exact ⟨_, _, rfl⟩
  · split
    · split
      · exact ⟨_, _, rfl⟩
      · exact ⟨_, _, rfl⟩
    · split
      · exact ⟨_, _, rfl⟩
      · exact ⟨_, _, rfl⟩

theorem Machine.State.foldl_say (s : State) (l : List α) (f : α → Out) :
    ∃ o, l.foldl (fun s a => s.say (f a)) s = { s with out := o } :=
  List.foldlRecOn (motive := fun t : State => ∃ o, t = { s with out := o }) l _ ⟨_, rfl⟩ fun _ ⟨_, e⟩ a _ =>
    ⟨_, congrArg (fun t => t.say (f a)) e⟩

/-- A TFENCE that begins is under way, and its messages are sent. -/
theorem Machine.State.startFence_eq (s : State) (op : TFenceOp) : ∃ o, s.startFence op =
    { s with eng := { s.eng with tfences := s.eng.tfences ++ [{ op with ptes := s.caches.ptes }] }, out := o } :=
  State.foldl_say _ _ _

/-- After its leaf has been pointed at the new frame, a cut-over starts its TFENCE and emits its record. -/
theorem Machine.State.cutOver_eng {m : Migration} (h : m.swap = none) :
    ∃ f : TFenceOp, f.id = s.eng.nextTf ∧ f.ctx = m.ctxP ∧ f.lo = m.vaP ∧ f.hi = m.vaP + m.size ∧
      (s.cutOver m).hub = (cutPointed s m).hub ∧
      (s.cutOver m).eng = { (cutPointed s m).eng with tfences := (cutPointed s m).eng.tfences ++ [f] } := by
  obtain ⟨o, hf⟩ := State.startFence_eq (cutPointed s m) _
  obtain ⟨cs, st, ht⟩ := State.emit_eq ((cutPointed s m).cutFence m s.eng.nextTf m.ctxP m.vaP) hubDie 214 0 m.ctxP 0x10
    ((s.hub.gen + 1) % 2 ^ 32) (traceBody m.oldFrame m.newFrame)
  rw [State.cutOver_eq h, State.traceCut, ht, State.cutFence, hf]
  exact ⟨_, rfl, rfl, rfl, rfl, rfl, rfl⟩

/-- What a cut-over of a single page sets up: the generation, its migration's mark, the stub and the TFENCE (R109, R110). -/
theorem Machine.State.cutOver_spec {m : Migration} (hm : m ∈ s.eng.migs) (h : m.swap = none) :
    (s.cutOver m).hub.gen = (s.hub.gen + 1) % 2 ^ 32 ∧
    (∃ x ∈ (s.cutOver m).eng.migs, x.id = m.id ∧ x.cut = true ∧ x.dirty = [] ∧ x.gen = (s.hub.gen + 1) % 2 ^ 32 ∧
      x.tf = s.eng.nextTf) ∧
    (∃ x ∈ (s.cutOver m).eng.stubs, x.oldFrame = m.oldFrame ∧ x.newFrame = m.newFrame ∧ x.gen = (s.hub.gen + 1) % 2 ^ 32 ∧
      x.size = m.size ∧ x.ctx = m.ctxP) ∧
    ∃ x ∈ (s.cutOver m).eng.tfences, x.id = s.eng.nextTf ∧ x.ctx = m.ctxP ∧ x.lo = m.vaP ∧ x.hi = m.vaP + m.size := by
  have hc := sameMoves_cutCopied s m
  have hp := sameMoves_cutPointed s m
  obtain ⟨f, hid, hctx, hlo, hhi, hhub, heng⟩ := State.cutOver_eng (s := s) h
  rw [hhub, heng]
  refine ⟨hp.gen.trans hc.gen, ⟨_, hp.cut _ (hc.cut _ (List.mem_map.mpr ⟨m, hm, if_pos rfl⟩) rfl) rfl, rfl, rfl, rfl, rfl, rfl⟩, ?_,
    f, List.mem_append_right _ (List.mem_singleton_self f), hid, hctx, hlo, hhi⟩
  rw [hp.stubs]
  exact ⟨_, List.mem_append_right _ (List.mem_singleton_self _), rfl, rfl, rfl, rfl, rfl⟩

/-! ### The end of a move, and its stub (R109, R113) -/

theorem Machine.execMigrationStubbed_fenced {id : Nat} {m : Migration} (hm : (s.eng.migs.find? fun m => m.id = id && m.cut) = some m)
    (h : ∀ x ∈ s.eng.tfences, x.id ≠ m.tf) : exec (.migrationStubbed id) s = .next (((s.modEng fun e => { e with
      migs := e.migs.filter fun x => x.id ≠ id
      stubs := e.stubs.map fun t =>
        if t.due = 0 && ((t.oldFrame = m.oldFrame && t.ctx = m.ctxP && t.swap = m.swap.isSome) ||
          m.swap.any fun q => t.oldFrame = m.newFrame && t.ctx = q.1 && t.swap)
        then { t with due := (s.die t.die).tick + 4096 } else t }).answerMove m 0).sweep.settle) := by
  rw [exec_migrationStubbed]
  unfold execMigrationStubbed
  rw [hm]
  exact if_neg (by simpa using h)

section
variable {die old : Nat} {x : Stub} (hx : (s.eng.stubs.find? fun t => t.die = die && t.oldFrame = old) = some x) (h0 : x.due ≠ 0)
  (hd : x.due ≤ (s.die die).tick)
include hx h0 hd

/-- An attempt at a stub that is due. -/
theorem Machine.execStubReclaimAttempt_due : exec (.stubReclaimAttempt die old) s =
    if s.stubClean x = false then .next (s.reclaimLater x)
    else if x.asked.getD (s.reclaimPeers x) = [] then
      .next ((s.modEng fun e => { e with stubs := e.stubs.filter fun y => !(y.same x) }).emit hubDie 214 0 x.ctx 0x12 x.gen
        (traceBody x.oldFrame 0))
    else if x.asked.isSome then .next s
    else .next ((x.asked.getD (s.reclaimPeers x)).foldl (fun s p => s.say (.podReclaim p x.gen x.ctx x.oldFrame x.size))
      (s.modEng fun e => { e with
        stubs := e.stubs.map fun y => if y.same x then { y with asked := some (x.asked.getD (s.reclaimPeers x)) } else y })) := by
  have hfind : (s.eng.stubs.find? fun t => t.die = die && t.oldFrame = old && t.due ≠ 0 && t.due ≤ (s.die die).tick) = some x := by
    obtain ⟨hp, l, l', e, hl⟩ := List.find?_eq_some_iff_append.mp hx
    refine List.find?_eq_some_iff_append.mpr ⟨?_, l, l', e, fun y hy => ?_⟩
    · simpa [h0, hd] using hp
    · have := hl y hy
      simp only [Bool.not_eq_true', Bool.and_eq_false_iff] at this ⊢
      exact .inl (.inl this)
  rw [exec_stubReclaimAttempt]
  unfold execStubReclaimAttempt
  rw [hfind]
  simp

end

/-! ### TFENCE (R99) -/

theorem Machine.State.Recached.shootCluster {cl ctx lo hi} (h : b.Recached s) : b.Recached (s.shootCluster cl ctx lo hi) :=
  .modCaches (.l1Keep h)

/-- What a TFENCE's request leaves once a cluster has acknowledged it. -/
def Safety.acked (s : State) (id cluster : Nat) : State :=
  s.modEng fun e => { e with
    tfences := e.tfences.map fun t => if t.id = id then { t with clusters := t.clusters.filter (· ≠ cluster) } else t }

/-- The state in which a TFENCE is complete: it is under way no longer. -/
def Safety.lastAcked (s : State) (id cluster : Nat) : State :=
  (acked s id cluster).modEng fun e => { e with tfences := e.tfences.filter fun t => t.id ≠ id }

/-- An acknowledgement that is not the last is only noted. -/
theorem Machine.State.acknowledge_more {id cluster : Nat} {x : TFenceOp} (hx : x ∈ s.eng.tfences) (hi : x.id = id) {c : Nat}
    (hc : c ∈ x.clusters) (hn : c ≠ cluster) : s.acknowledge id cluster = acked s id cluster := by
  refine if_pos (Bool.or_eq_true_iff.mpr (.inr (List.any_eq_true.mpr ⟨_, List.mem_map_of_mem hx, ?_⟩)))
  simp only [hi, if_true, decide_true, Bool.true_and, Bool.not_eq_true', List.isEmpty_eq_false_iff]
  exact List.ne_nil_of_mem (List.mem_filter.mpr ⟨hc, by simpa using hn⟩)

theorem Safety.tfences_acked (s : State) (id cluster : Nat) {t : TFenceOp} (ht : t ∈ (acked s id cluster).eng.tfences) (hi : t.id = id) :
    ∃ x ∈ s.eng.tfences, x.id = id ∧ t.clusters = x.clusters.filter (· ≠ cluster) := by
  obtain ⟨x, hx, rfl⟩ := List.mem_map.mp ht
  by_cases h : x.id = id
  · exact ⟨x, hx, h, by rw [if_pos h]⟩
  · rw [if_neg h] at hi
    exact absurd hi h

/-- The last acknowledgement orders entries and retries what is parked on the range, answers a peer that has asked, and lets the hood go
on (R98, R102). -/
theorem Machine.State.acknowledge_last {id cluster : Nat} {mine : List TFenceOp} (hm : s.eng.tfences.filter (fun t => t.id = id) = mine)
    (hne : mine ≠ []) (h : ∀ t ∈ mine, ∀ c ∈ t.clusters, c = cluster) :
    s.acknowledge id cluster =
      mine.foldl (fun s t => match t.hood with | some h => s.endFence h id | none => s)
        (mine.foldl (fun s t => match t.peer with | some p => s.say (.podAck p.1 2 p.2 true) | none => s)
          (mine.foldl (fun s t => (s.orderPtes t).retryRange t.ctx t.lo t.hi t.scope) (lastAcked s id cluster))) := by
  subst hm
  refine if_neg ?_
  simp only [Bool.or_eq_true, List.isEmpty_iff, hne, List.any_eq_true, false_or, not_exists, not_and]
  intro t ht
  simp only [Bool.and_eq_true, decide_eq_true_eq, Bool.not_eq_true', not_and, Bool.not_eq_false, List.isEmpty_iff]
  intro hid
  obtain ⟨y, hy, hyi, hc⟩ := tfences_acked s id cluster ht hid
  rw [hc]
  simpa using h y (List.mem_filter.mpr ⟨hy, by simpa using hyi⟩)

section
variable {id cluster : Nat} {v : State} (hm : ∃ t ∈ s.eng.tfences.filter (fun t => t.id = id), cluster ∈ t.clusters)
  (hv : v = (s.eng.tfences.filter fun t => t.id = id).foldl (fun s t => s.shootCluster cluster t.ctx t.lo t.hi) s)
include hm hv

/-- A cluster that a TFENCE covers invalidates, and acknowledges unless it still has an access under way. -/
theorem Machine.execTfenceAcknowledge_member : exec (.tfenceAcknowledge id cluster) s =
    if (s.eng.tfences.filter fun t => t.id = id).any fun t => v.accessing cluster t.ctx t.lo t.hi then .next v
    else .next (v.acknowledge id cluster).sweep.settle := by
  obtain ⟨t, ht, hc⟩ := hm
  rw [exec_tfenceAcknowledge, hv]
  exact if_neg (by
    simp only [Bool.not_eq_true', Bool.not_eq_false, List.any_eq_true]
    exact ⟨t, ht, by simpa using hc⟩)

end

end

/-- Settles O48, clause by clause: MIGR and MIGR.swap, requests, copy passes, the cut-over, the stub and TFENCE's acknowledgements. -/
theorem migrationAndItsEvents : Obligations.MigrationAndItsEvents := by
  unfold Obligations.MigrationAndItsEvents
  refine ⟨⟨?idle, ?idleSwap, ?window, ?migr, ?swap⟩, ?refused, ?taken, ?invalid, ?pass, fun s m => State.cutOver_spec, ?stubbed,
    ?reclaim, ?fence⟩
  case idle => exact fun f => completes_of rfl (exec_migr f) (fun _ => rfl) fun c h => c.migr_idle h f false
  case idleSwap => exact fun f => completes_of rfl (exec_migrSwap f) (fun _ => rfl) fun c h => c.migr_idle h f true
  case window =>
    refine fun f sub => completes_of rfl (exec_migr f) (fun _ => rfl) fun c ⟨ha, hp, hw⟩ => ?_
    rw [Issue.migr_active ha hp, if_neg Bool.false_ne_true, List.findSome?_cons, windowFault_error hw]
  case migr =>
    refine fun f => completes_of rfl (exec_migr f) (fun _ => rfl) fun c ⟨ha, hp, hw⟩ => ?_
    rw [Issue.migr_active ha hp, if_neg Bool.false_ne_true, List.findSome?_cons, windowFault_page hw]
    rfl
  case swap =>
    refine fun f => completes_of rfl (exec_migrSwap f) (fun _ => rfl) fun c ⟨ha, hp, hw, hw'⟩ => ?_
    rw [Issue.migr_active ha hp, if_pos rfl, List.findSome?_cons, windowFault_page hw, List.findSome?_cons, windowFault_page hw']
    rfl
  case refused => exact fun ctx va dest st s t => execMigrationRequestHost_of
  case taken =>
    intro ctx va dest s t h
    refine ⟨execMigrationRequestHost_of h, ?_⟩
    obtain ⟨l, rfl⟩ := State.requestMove_taken h
    exact State.startMove_migs s _ none 0x1FF
  case invalid => exact fun s ctx va dest hl hq => State.requestMove_invalid hl hq none 0x1FF
  case pass =>
    refine fun id s m hm => ⟨execMigrationCopyPassDone_held hm, fun hl hf => ?_⟩
    rw [execMigrationCopyPassDone_free hm hl hf]
    constructor
    · intro hd hp
      obtain ⟨he, hw⟩ := copyPass_keeps s m
      refine ⟨_, if_pos (by simp [hd, hp]), ?_, hw, fun hs => ?_⟩
      · rw [← he]
        rfl
      · rw [copyPass_swap hs]
        rfl
    · exact fun h => if_neg (by rcases h with h | h <;> simp [h])
  case stubbed =>
    intro id s m hm hf
    refine ⟨_, execMigrationStubbed_fenced hm hf, fun x hx => by simpa using (List.mem_filter.mp hx).2, fun x hx h0 ho hc hs => ?_, rfl⟩
    exact List.mem_map.mpr ⟨x, hx, if_pos (by simp [h0, ho, hc, hs])⟩
  case reclaim =>
    intro die old s x hx h0 hd
    obtain ⟨hdie, -⟩ : x.die = die ∧ x.oldFrame = old := by simpa using List.find?_some hx
    rw [execStubReclaimAttempt_due hx h0 hd]
    refine ⟨fun hc ha hp => ?_, fun hc ha => ?_, fun hc => ?_⟩
    · rw [if_neg (by simp [hc]), ha, Option.getD_none, if_neg hp, if_neg (by simp)]
      rfl
    · obtain ⟨cs, st, e⟩ := State.emit_eq (s.modEng fun e => { e with stubs := e.stubs.filter fun y => !(y.same x) }) hubDie 214 0 x.ctx
        0x12 x.gen (traceBody x.oldFrame 0)
      rw [if_neg (by simp [hc]), if_pos ha, e]
      exact ⟨_, rfl, fun y hy => by simpa using (List.mem_filter.mp hy).2,
        fun y hy hn => List.mem_filter.mpr ⟨hy, by simp [hn]⟩, rfl, rfl⟩
    · refine ⟨_, if_pos hc, fun y hy hn => ?_, rfl⟩
      obtain ⟨z, -, rfl⟩ := List.mem_map.mp hy
      by_cases hz : z.same x = true
      · rw [if_pos hz, hdie]
        exact ⟨rfl, rfl⟩
      · rw [if_neg hz] at hn
        exact absurd hn hz
  case fence =>
    intro id cluster s v mine hmine hm hv
    subst hmine
    have hr : s.Recached v := hv ▸ .foldl .refl fun _ _ h => .shootCluster h
    have he : v.eng = s.eng := by rw [hr.eq]
    have hw : v.warps = s.warps := by rw [hr.eq]
    rw [execTfenceAcknowledge_member hm hv]
    refine ⟨fun ⟨t, ht, ha⟩ => ⟨if_pos (List.any_eq_true.mpr ⟨t, ht, ha⟩), he, hw⟩, fun ha ⟨t, ht, c, hc, hn⟩ => ?_, fun ha hc => ?_⟩
    · obtain ⟨ht, hi⟩ := List.mem_filter.mp ht
      refine ⟨acked v id cluster, ?_, fun y hy hyi => ?_, hw⟩
      · rw [if_neg (by simpa using ha), State.acknowledge_more (he ▸ ht) (by simpa using hi) hc hn]
      · obtain ⟨z, -, -, hz⟩ := tfences_acked v id cluster hy hyi
        simp [hz]
    · obtain ⟨t, ht, -⟩ := hm
      refine ⟨lastAcked v id cluster, ?_, fun y hy => by simpa using (List.mem_filter.mp hy).2, hw⟩
      exact (if_neg (by simpa using ha)).trans (congrArg (fun u : State => Host.Outcome.next u.sweep.settle)
        (State.acknowledge_last (congrArg _ (congrArg Engines.tfences he)) (List.ne_nil_of_mem ht) hc))

end Sys2Proof
end

section
/-! # Time, power and heat (O52) -/

namespace Sys2Proof

open Machine Safety

section
variable {s : State}

/-! ### Counters of the dies (R157, R438) -/

theorem Machine.DieRegs.clocked_of {d : DieRegs} (h : d.present = true ∨ d.tmHub ≠ 0) : d.clocked = true := by
  simpa [DieRegs.clocked] using h

theorem Machine.DieRegs.ticked_of_clocked {d : DieRegs} (h : d.clocked = true) (ns : Nat) :
    d.ticked ns = { d with tick := d.tick + 1, ns := d.ns + ns, clock := d.clock + d.freq / 100 } :=
  if_pos h

theorem Machine.DieRegs.stepped_of_clocked {d : DieRegs} (h : d.clocked = true) (n : Nat) : d.stepped n = { d with ns := d.ns + n } :=
  if_pos h

/-- A change of every die that leaves an absent one as it is. -/
theorem Machine.State.die_mapDies {f : DieRegs → DieRegs} (hf : f {} = {}) (d : Nat) : (s.dies.map f).getD d {} = f (s.die d) := by
  conv_lhs => rw [← hf]
  exact List.getD_map ..

/-- A new budget window touches the scheduler's state alone (R214). -/
theorem Machine.State.rollWindow_eq (s : State) : ∃ k, s.rollWindow = { s with sched := k } := by
  unfold State.rollWindow
  dsimp only
  split
  · exact ⟨_, rfl⟩
  · exact ⟨_, rfl⟩

/-! ### The reference tick (R157, R438) -/

/-- How long a tick lasts: less than 10 ns while the counter is held, 9 or 11 ns when an offset is slewed, else 10. -/
theorem Machine.State.tickNs_cases (s : State) :
    (0 < s.hub.held ∧ s.tickNs = (((10 - min 10 s.hub.held : Nat) : Int), { s.hub with held := s.hub.held - 10 })) ∨
    (s.hub.slew ≠ 0 ∧ ∃ d : Int, (d = 1 ∨ d = -1) ∧ s.tickNs = (10 + d, { s.hub with slew := s.hub.slew - d })) ∨
    s.tickNs = (10, s.hub) := by
  unfold State.tickNs
  dsimp only
  split
  case isTrue h => exact .inl ⟨h, rfl⟩
  case isFalse =>
    split
    case isTrue h =>
      have hs : s.hub.slew ≠ 0 := by
        simp only [Bool.and_eq_true, decide_eq_true_eq] at h
        exact h.1.1
      exact .inr (.inl ⟨hs, _, by split <;> simp, rfl⟩)
    case isFalse => exact .inr (.inr rfl)

/-- A tick's nanoseconds, and the counters that it has not advanced yet. -/
theorem Machine.State.tickNs_spec (s : State) :
    s.tickNs.2.tick = s.hub.tick ∧ s.tickNs.2.ns = s.hub.ns ∧ s.tickNs.1.toNat ≤ 11 ∧ (s.hub.held = 0 → 9 ≤ s.tickNs.1.toNat) ∧
      (s.hub.held = 0 → s.hub.slew = 0 → s.tickNs.1.toNat = 10) := by
  obtain ⟨hh, e⟩ | ⟨hs, d, hd, e⟩ | e := s.tickNs_cases
  · rw [e]
    refine ⟨rfl, rfl, ?_, ?_, ?_⟩ <;> dsimp only <;> omega
  · rw [e]
    refine ⟨rfl, rfl, ?_, ?_, fun _ h => absurd h hs⟩ <;> dsimp only <;> omega
  · rw [e]
    exact ⟨rfl, rfl, Nat.le_succ 10, fun _ => Nat.le_succ 9, fun _ _ => rfl⟩

/-- A tick while the clocks run, but for the window it may begin. -/
def Safety.tickedState (s : State) : State :=
  let h := { s.tickNs.2 with tick := s.tickNs.2.tick + 1, ns := s.tickNs.2.ns + s.tickNs.1.toNat }.oscillated
  { s with hub := h, free := s.free + 1, upsets := s.upsets ++ Config.struck h.tick
           dies := s.dies.map fun (d : DieRegs) => d.ticked s.tickNs.1.toNat }

theorem Machine.execReferenceTick_running (hs : s.halted = false) : exec .referenceTick s = .next (tickedState s).rollWindow := by
  rw [exec_referenceTick]
  exact if_neg (by simp [hs])

/-! ### The discipline of the hub's counter (R438) -/

theorem Machine.execTimebaseSourceUpdate_undisciplined (o : Int) (h : 2 ≤ s.hub.tbsource) : exec (.timebaseSourceUpdate o) s = .next s := by
  rw [exec_timebaseSourceUpdate]
  exact if_pos (by simp [Hub.disciplined, Nat.not_lt.mpr h])

theorem Machine.execTimebaseSourceUpdate_disciplined (o : Int) (hs : s.halted = false) (h : s.hub.tbsource < 2) :
    exec (.timebaseSourceUpdate o) s =
      if o.natAbs ≤ 1000000 then .next (s.modHub fun h => { h with slew := o })
      else if 0 < o then .next (({ s.modHub (fun h => { h with ns := h.ns + o.toNat, slew := 0, held := 0 }) with
        dies := s.dies.map fun (d : DieRegs) => d.stepped o.toNat } : State).rollWindow.traceStep false o.toNat)
      else .next ((s.modHub fun h => { h with held := o.natAbs, slew := 0 }).traceStep true o.natAbs) := by
  rw [exec_timebaseSourceUpdate]
  exact if_neg (by simp [hs, Hub.disciplined, h])

/-- The record of a step changes only what is staged for the trace buffers. -/
theorem Machine.State.traceStep_eq (s : State) (backward : Bool) (n : Nat) :
    ∃ cs st, s.traceStep backward n = { s with contexts := cs, staged := st } :=
  s.emit_eq _ _ _ _ _ _ _

/-! ### Power (R461) -/

/-- A core clock of `n` MHz one step down, or up. -/
def Safety.limitStep (lower : Bool) (n : Nat) : Nat := if lower then max 600 (n - 100) else min 1200 (n + 100)

theorem Safety.limitStep_spec {n : Nat} {lower : Bool} (hlo : 600 ≤ n) (hhi : n ≤ 1200) :
    600 ≤ limitStep lower n ∧ limitStep lower n ≤ 1200 ∧ (700 ≤ n → lower = true → limitStep lower n + 100 = n) ∧
      (n ≤ 1100 → lower = false → limitStep lower n = n + 100) := by
  cases lower with
  | true =>
    simp only [limitStep, if_true]
    exact ⟨by omega, by omega, fun _ _ => by omega, fun _ => nofun⟩
  | false =>
    simp only [limitStep, Bool.false_eq_true, if_false]
    exact ⟨by omega, by omega, fun _ => nofun, fun _ _ => by omega⟩

/-! ### TimeSync (R158) -/

theorem Machine.State.hub_foldl_say {α : Type} (s : State) (l : List α) (f : α → Out) :
    (l.foldl (fun s a => s.say (f a)) s).hub = s.hub := by
  obtain ⟨_, e⟩ := s.foldl_say l f
  rw [e]

/-- Messages to a list of dies are all among what has been said. -/
theorem Machine.State.mem_out_foldl_say {α : Type} (f : α → Out) {l : List α} {a : α} (ha : a ∈ l) (s : State) :
    f a ∈ (l.foldl (fun s a => s.say (f a)) s).out := by
  have hout : ∀ (l : List α) (s : State), (l.foldl (fun s a => s.say (f a)) s).out = (l.map f).reverse ++ s.out := by
    intro l
    induction l with
    | nil => exact fun _ => rfl
    | cons b l ih => exact fun s => by simp [ih]
  simpa [hout] using .inl ⟨a, ha, rfl⟩

end

/-- Settles O52, clause by clause: the tick, TimeSync, the time base's source and its loss, power and heat. -/
theorem timeAndPowerEvents : Obligations.TimeAndPowerEvents := by
  unfold Obligations.TimeAndPowerEvents
  refine ⟨?tick, ?send, ?sync, fun s o _ h => execTimebaseSourceUpdate_undisciplined o h, ?slew, ?forward, ?hold, ?watchdog, ?power,
    fun s => rfl⟩
  case tick =>
    intro s hs
    obtain ⟨htick, hns, hle, hge, hten⟩ := s.tickNs_spec
    obtain ⟨k, hk⟩ := (tickedState s).rollWindow_eq
    refine ⟨_, s.tickNs.1.toNat, (execReferenceTick_running hs).trans (congrArg _ hk), congrArg (· + 1) htick, congrArg (· + _) hns,
      hle, hge, hten, rfl, rfl, fun d hd => ?_⟩
    have hdie : ((tickedState s).dies).getD d {} = (s.die d).ticked s.tickNs.1.toNat := State.die_mapDies rfl d
    rw [DieRegs.ticked_of_clocked (DieRegs.clocked_of hd)] at hdie
    simp only [State.die] at hdie ⊢
    rw [hdie]
    exact ⟨rfl, rfl, rfl⟩
  case send =>
    intro s hs h0 hn
    rw [exec_timesyncSend]
    refine ⟨_, if_neg (by simp [hs, h0, hn]), congrArg Hub.syncAt (State.hub_foldl_say _ _ _), fun d hd hp => ?_⟩
    have hmem : d ∈ (List.range 4).filter s.present := List.mem_filter.mpr ⟨List.mem_range.mpr hd, hp⟩
    refine ⟨?_, State.mem_out_foldl_say (fun d => Out.timeSync d s.hub.tick s.hub.ns) hmem _⟩
    rw [State.hub_foldl_say]
    exact List.mem_append_right _ (List.mem_map.mpr ⟨d, hmem, rfl⟩)
  case sync =>
    intro s die tick ns hf hd ht hn hp
    rw [exec_timesync]
    refine ⟨_, if_neg ?_, ?_, ?_, rfl⟩
    · simpa [hf] using hp
    · rw [State.die_modDie (by exact hd)]
      exact Nat.add_sub_cancel' ht
    · rw [State.die_modDie (by exact hd)]
      exact congrArg (max (s.die die).ns) (Nat.add_sub_cancel' hn)
  case slew =>
    intro s o hs hb ho
    rw [execTimebaseSourceUpdate_disciplined o hs hb, if_pos ho]
    rfl
  case forward =>
    intro s o hs hb ho
    rw [execTimebaseSourceUpdate_disciplined o hs hb, if_neg (by omega), if_pos (by omega)]
    obtain ⟨k, hk⟩ := State.rollWindow_eq { s.modHub (fun h => { h with ns := h.ns + o.toNat, slew := 0, held := 0 }) with
        dies := s.dies.map fun (d : DieRegs) => d.stepped o.toNat }
    obtain ⟨cs, st, e⟩ := State.traceStep_eq { s.modHub (fun h => { h with ns := h.ns + o.toNat, slew := 0, held := 0 }) with
        dies := s.dies.map (fun (d : DieRegs) => d.stepped o.toNat), sched := k } false o.toNat
    refine ⟨_, congrArg _ ((congrArg (State.traceStep · _ _) hk).trans e), rfl, fun d hp => ?_⟩
    have hdie : (s.dies.map (fun (d : DieRegs) => d.stepped o.toNat)).getD d {} = (s.die d).stepped o.toNat := State.die_mapDies rfl d
    rw [DieRegs.stepped_of_clocked (DieRegs.clocked_of (.inl hp))] at hdie
    exact congrArg DieRegs.ns hdie
  case hold =>
    intro s o hs hb ho
    rw [execTimebaseSourceUpdate_disciplined o hs hb, if_neg (by omega), if_neg (by omega)]
    obtain ⟨cs, st, e⟩ := (s.modHub fun h => { h with held := o.natAbs, slew := 0 }).traceStep_eq true o.natAbs
    exact ⟨_, congrArg _ e, rfl, rfl⟩
  case watchdog =>
    intro s hs
    rw [exec_timebaseWatchdog]
    exact if_neg (by simp [hs])
  case power =>
    intro s die lower hd hlo hhi
    obtain ⟨hge, hle, hdown, hup⟩ := limitStep_spec (lower := lower) hlo hhi
    refine ⟨s.modDie die fun d => { d with freq := limitStep lower d.freq }, rfl, ?_⟩
    rw [State.die_modDie hd]
    exact ⟨hge, hle, hdown, hup, rfl, rfl⟩

end Sys2Proof
end

section
/-! # Coesk requests at their homes (O55) -/

namespace Sys2Proof

open Machine Safety

section
variable {s : State} {m : CoeskReq} {home : Nat} {op : CoeskOp} {o : CoeskOut}

/-! ### From a request to what its home does (R149, R150) -/

/-- A request that its home serves at once can be made, has nothing before it, and its frame has not moved. -/
theorem Machine.State.requestHome_some (h : s.requestHome m = some home) : s.madeHome m = some home ∧
    s.behind (s.outOf m home) = false ∧ s.stubFor (128 * m.line) m.ctx (m.vpn * 2 ^ 16) = none := by
  unfold State.requestHome at h
  split at h
  · cases h
  · split at h
    · cases h
    · rename_i hm hb
      cases h
      simpa [hm] using hb

theorem Machine.State.request_made (hm : s.madeHome m = some home) (hp : s.pathDown m.src home = false) :
    s.request m op = s.arrive (s.outOf m home) op := by
  unfold State.request
  rw [hm]
  exact if_neg (by simp [hp])

theorem Machine.State.arrive_served (hs : s.stubFor (128 * o.line) o.ctx (o.vpn * 2 ^ 16) = none) (hb : s.behind o = false)
    (hh : s.hostHolds o op = false) : s.arrive o op = s.serveOp o op := by
  unfold State.arrive
  rw [hs]
  simp [hb, hh]

theorem Machine.State.hostHolds_of_notMem (h : o.line ∉ s.hub.snoop) : s.hostHolds o op = false := by
  simp [State.hostHolds, h]

/-- A request that its home can serve now, over a route that is up, is served, as one that asked for `op`. -/
theorem Machine.State.request_served (hr : s.requestHome m = some home) (hp : s.pathDown m.src home = false)
    (hn : m.line ∉ s.hub.snoop) : s.request m op = s.serveOp (s.outOf m home) op := by
  obtain ⟨hm, hb, hs⟩ := State.requestHome_some hr
  rw [State.request_made hm hp, State.arrive_served hs hb (State.hostHolds_of_notMem hn)]

theorem Machine.execRds_served (hr : s.requestHome m = some home) (hp : s.pathDown m.src home = false) (hd : m.src ≠ hubDie)
    (hl : s.holds m.src m.line = false) (hn : m.line ∉ s.hub.snoop) :
    exec (.rds m) s = .next (s.serveRdS { s.outOf m home with asked := .rds }) := by
  rw [exec_rds]
  refine (if_neg (by simp [hd, hl])).trans ?_
  rw [State.request_served hr hp hn]
  rfl

theorem Machine.State.serveRdS_uncached (hd : s.dir? o.line = none) (hw : s.wtOnly o.line = false) :
    s.serveRdS o = s.serve { o with grant := .e } [] true [o.die] := by
  unfold State.serveRdS
  rw [hd]
  exact if_neg (by simp [hw])

/-! ### What a served read leaves under way -/

theorem Machine.State.sendMsg_outs (s : State) (x : CoeskMsg) : (s.sendMsg x).coh.outs = s.coh.outs := by
  unfold State.sendMsg
  dsimp only
  split
  · rfl
  · rfl

/-- An answer leaves its request among its home's; the final response ends it. -/
theorem Machine.State.answerOut_outs (hr : o.relayed = none) : (s.answerOut o).coh.outs = s.coh.outs := by
  unfold State.answerOut State.endRelay
  rw [hr]
  dsimp only
  split
  · rfl
  · exact State.sendMsg_outs _ _

theorem Machine.State.completeOut_read (hk : o.kind = .read) (ht : o.retake = false) : s.completeOut o = s.answerOut o := by
  unfold State.completeOut State.performAt
  rw [hk, ht]
  rfl

/-- A read without snoops, and not relayed, stays among its home's requests until its answer has arrived. -/
theorem Machine.State.serve_read_outs (hk : o.kind = .read) (ht : o.retake = false) (hr : o.relayed = none) (owned : Bool)
    (dies : List Nat) : (s.serve o [] owned dies).coh.outs = s.coh.outs ++ [{ o with pending := 0 }] := by
  refine (congrArg (fun t : State => t.coh.outs) (State.completeOut_read ?_ ?_)).trans (State.answerOut_outs ?_)
  · exact hk
  · exact ht
  · exact hr

end

/-! ### The counterexample -/

/-- Four dies without anything under way or cached. -/
def Safety.quietDies : State := { dies := List.replicate 4 { present := true } }

/-- Die 2 reads line 0, whose home is die 0. -/
def Safety.readOfDie2 : CoeskReq := { src := 2, txn := 0, line := 0 }

/-- Refutes O55: the home notes what a request asked of it, here RDS, and the statement's request still carries the default, RDNC. -/
theorem not_coeskRequests : ¬ Obligations.CoeskRequests := by
  unfold Obligations.CoeskRequests
  intro h
  have hhome : quietDies.requestHome readOfDie2 = some 0 := by decide
  have hpath : quietDies.pathDown readOfDie2.src 0 = false := by decide
  have hcopy : quietDies.holds readOfDie2.src readOfDie2.line = false := by decide
  have hdir : quietDies.dir? readOfDie2.line = none := by decide
  have hwt : quietDies.wtOnly readOfDie2.line = false := by decide
  have hsnoop : readOfDie2.line ∉ quietDies.hub.snoop := by decide
  obtain ⟨hreads, -⟩ := h
  obtain ⟨hrds, -⟩ := hreads readOfDie2 quietDies 0 hhome hpath (by decide) hcopy
  have hstated := hrds hdir hwt hsnoop
  rw [execRds_served hhome hpath (by decide) hcopy hsnoop, State.serveRdS_uncached hdir hwt] at hstated
  have hasked := congrArg (fun t : State => t.coh.outs.map CoeskOut.asked) (Host.Outcome.next.inj hstated)
  dsimp only at hasked
  rw [State.serve_read_outs rfl rfl rfl, State.serve_read_outs rfl rfl rfl] at hasked
  exact absurd hasked (by decide)

end Sys2Proof
end

section
/-! # Coesk messages, timers and links (O56) -/

namespace Sys2Proof

open Machine Safety

section
variable {s : State}

/-! ### Snoops at a caching die (R151) -/

/-- An owner that a FwdS reaches keeps the line S and clean. -/
def Safety.sharedCopy (s : State) (die l : Nat) : State :=
  s.modCoh fun c => { c with l2 := c.l2.map fun y => if y.die = die && y.line = l then { y with st := .s, dirty := false } else y }

/-- A change of some copies that leaves where they are. -/
theorem Safety.l2_find_map {f : L2Line → L2Line} (hf : ∀ y, (f y).die = y.die ∧ (f y).line = y.line) (die l : Nat) (ys : List L2Line) :
    ((ys.map f).find? fun x => x.die = die && x.line = l) = (ys.find? fun x => x.die = die && x.line = l).map f := by
  rw [List.find?_map]
  congr 2
  funext y
  obtain ⟨hd, hl⟩ := hf y
  simp [hd, hl]

theorem Machine.State.l2?_sharedCopy (s : State) (die l d k : Nat) : (sharedCopy s die l).l2? d k =
    (s.l2? d k).map fun y => if y.die = die && y.line = l then { y with st := .s, dirty := false } else y :=
  l2_find_map (fun y => by split <;> exact ⟨rfl, rfl⟩) d k s.coh.l2

/-- A line that a die's L2 holds is that die's copy of that line. -/
theorem Machine.State.l2?_some {die l : Nat} {x : L2Line} (h : s.l2? die l = some x) : x.die = die ∧ x.line = l := by
  simpa using List.find?_some h

theorem Machine.State.l2?_sharedCopy_same {die l : Nat} {x : L2Line} (h : s.l2? die l = some x) :
    (sharedCopy s die l).l2? die l = some { x with st := .s, dirty := false } := by
  rw [State.l2?_sharedCopy, h, Option.map_some, if_pos (by simpa using State.l2?_some h)]

theorem Machine.State.l2?_sharedCopy_other {die l d k : Nat} (h : d ≠ die ∨ k ≠ l) : (sharedCopy s die l).l2? d k = s.l2? d k := by
  rw [State.l2?_sharedCopy]
  cases e : s.l2? d k with
  | none => rfl
  | some y =>
    obtain ⟨rfl, rfl⟩ := State.l2?_some e
    rw [Option.map_some, if_neg (by simpa [imp_iff_not_or] using h)]

/-- A message that arrives is acted on. -/
theorem Machine.execFwds_arrived {m : CoeskSnoop} (ha : s.arrives (.fwds m) = true) : exec (.fwds m) s =
    match s.l2? m.die m.line with
    | some x =>
      if x.st = .s then .next (((s.takeMsg (.fwds m)).l2Drop m.die m.line).answerHome m false)
      else .next (((sharedCopy (s.takeMsg (.fwds m)) m.die m.line).sendOwned m).answerHome m
        (x.st = .m || ((sharedCopy (s.takeMsg (.fwds m)) m.die m.line).snooped m).any fun o => o.grant = .none))
    | none => .next ((s.takeMsg (.fwds m)).answerHome m false) := by
  rw [exec_fwds]
  refine (if_neg (by simp [ha])).trans ?_
  rfl

theorem Machine.execFwdx_arrived {m : CoeskSnoop} {x : L2Line} (ha : s.arrives (.fwdx m) = true) (hx : s.l2? m.die m.line = some x) :
    let t := (s.takeMsg (.fwdx m)).l2Drop m.die m.line
    exec (.fwdx m) s = if x.st = .s then .next (t.answerHome m false)
      else .next ((t.sendOwned m).answerHome m ((t.snooped m).any fun o => o.kind ≠ .read)) := by
  intro t
  rw [exec_fwdx]
  refine (if_neg (by simp [ha])).trans ?_
  rw [hx]

/-! ### Responses (R147) -/

theorem Machine.execAck_arrived {m : CoeskResp} (ha : s.arrives (.ack m) = true) : exec (.ack m) s =
    if m.keep then .next ((s.takeMsg (.ack m)).modCoh fun c => { c with outs := c.outs.map fun o =>
      if o.die = m.die && o.txn = m.txn then { o with since := s.tickOf m.die } else o })
    else .next (((s.takeMsg (.ack m)).respond m false).resume.settle) := by
  rw [exec_ack]
  exact if_neg (by simp [ha])

theorem Machine.State.endOut_outs_ne {o x : CoeskOut} (h : x ∈ (s.endOut o).coh.outs) : x.die ≠ o.die ∨ x.txn ≠ o.txn := by
  have hx : _ ∧ _ := List.mem_filter.mp h
  simpa [imp_iff_not_or] using hx.2

/-! ### Relays and redirects (R111, R112) -/

/-- A read meets a stub at its home, and nothing holds it there or at the new home: it is relayed. -/
theorem Machine.State.arrive_relayed {o : CoeskOut} {t : Stub} {home : Nat}
    (hs : s.stubFor (128 * o.line) o.ctx (o.vpn * 2 ^ 16) = some t) (hh : s.homeOf (t.moved o.line) = some home)
    (hb : s.behind o = false) (hm : s.behind (o.atNew t home) = false) (hr : s.relayHeld t.die home = false)
    (ht : s.traceHeld home o.ctx 0x11 true = false) :
    s.arrive o .rdnc = (s.startRelay o t home).serveOp (o.atNew t home) .rdnc := by
  have hn : s.hostHolds (o.atNew t home) .rdnc = false := by simp [State.hostHolds, CoeskOp.use]
  unfold State.arrive
  rw [hs]
  dsimp only
  rw [hh]
  simp [hb, hm, hn, hr, ht]

theorem Machine.execRelay_read {m : CoeskReq} {t : Stub} {old : Nat} (hs : s.stubFor (128 * m.line) m.ctx (m.vpn * 2 ^ 16) = some t)
    (ho : s.homeOf m.line = some old) (hd : m.src < hubDie) (hc : s.canSend m old = true) (hp : s.pathDown m.src old = false) :
    exec (.relay m .read) s = .next (s.arrive (s.outOf m old) .rdnc).settle := by
  rw [exec_relay]
  unfold execRelay
  rw [hs, ho]
  exact (if_neg (by simp [hc, hd])).trans (if_neg (by simp [hp]))

theorem Machine.State.answerOut_relayed {o : CoeskOut} {t : Stub} (hr : o.relayed = some t) (hd : o.die < hubDie)
    (hn : o.direct = false) :
    let u := s.sendMsg (.redirect ⟨Config.clustersPerDie * o.die + o.cluster, o.ctx, o.vpn, t.oldFrame, t.newFrame, t.gen⟩)
    s.answerOut o = (u.sendMsg (u.finalMsg o)).endRelay o := by
  unfold State.answerOut
  rw [hr]
  dsimp only
  rw [if_neg (Nat.not_le.mpr hd), if_neg (by simp [hn])]

/-- With no request waiting at its home there is none to serve. -/
theorem Machine.State.serveQueued_idle (h : ∀ o ∈ s.coh.outs, o.queued = none) : s.serveQueued = s := by
  unfold State.serveQueued
  refine List.foldlRecOn (motive := fun t : State => t = s) _ _ rfl fun t ht o ho => ?_
  dsimp only
  rw [h o ho]
  exact ht

/-- Drain records are all that a redirect changes beside the entry (R112). -/
theorem Machine.State.pruneDrains_addDrain (s : State) (d : DrainRec) :
    ∃ l, (s.addDrain d).pruneDrains = { s with caches := { s.caches with drains := l } } := by
  unfold State.addDrain
  split
  · exact ⟨_, rfl⟩
  · exact ⟨_, rfl⟩

theorem Machine.execRedirect_arrived {r : RedirectMsg} (ha : s.arrives (.redirect r) = true) :
    ∃ d, exec (.redirect r) s = .next (((s.takeMsg (.redirect r)).applyRedirect r).addDrain d).pruneDrains.serveQueued := by
  rw [exec_redirect]
  exact ⟨_, if_neg (by simp [ha])⟩

/-! ### Reserved codes and links (R143, R147) -/

theorem Machine.State.channel_modCoh (g : Coherence → Coherence) (m : CoeskMsg) : (s.modCoh g).channel m = s.channel m := by
  cases m <;> rfl

theorem Machine.State.pathDown_modCoh (g : Coherence → Coherence) (i j : Nat) : (s.modCoh g).pathDown i j = s.pathDown i j := rfl

theorem Safety.lookup_bumped {l k : Nat} (h : l ≠ k) (n : Nat) (c : List (Nat × Nat)) :
    (((k, n) :: c.filter fun p => p.1 ≠ k).lookup l) = c.lookup l := by
  rw [List.lookup_cons, beq_eq_false_iff_ne.mpr h]
  dsimp only
  induction c with
  | nil => rfl
  | cons p c ih =>
    by_cases hp : p.1 = k
    · rw [List.filter_cons_of_neg (by simpa using hp), ih, List.lookup_cons, beq_eq_false_iff_ne.mpr (hp ▸ h)]
    · rw [List.filter_cons_of_pos (by simpa using hp), List.lookup_cons, List.lookup_cons, ih]

/-- The counter of a link after one more protocol error. -/
def Safety.protoCounted (s : State) (link : Nat) : State :=
  s.modHub fun h => { h with protoErr := (link, (s.hub.protoErr.lookup link).getD 0 + 1) :: h.protoErr.filter fun p => p.1 ≠ link }

theorem Machine.execCoeskReservedOp_counted {link op txn : Nat} (hlo : 0x12 ≤ op) (hhi : op ≤ 0x1F) (ht : txn < 4096) :
    exec (.coeskReservedOp link op txn) s = match s.coh.outs.find? fun o => o.txn = txn with
      | none => .next (protoCounted s link)
      | some o => .next (((protoCounted s link).modCoh fun c => { c with msgs := c.msgs.filter fun m => !m.ofTxn o }).modOut o
          fun x => { x with lost := true, queued := none }) := by
  rw [exec_coeskReservedOp]
  exact if_neg (by simp; omega)

end

/-- Settles O56, clause by clause: snoops, responses, relays and redirects, timers, reserved codes and links. -/
theorem coeskMessagesAndTimers : Obligations.CoeskMessagesAndTimers := by
  unfold Obligations.CoeskMessagesAndTimers
  refine ⟨?inv, ?fwds, ?missed, ?fwdx, fun m s ha => ⟨fun hk => ?ack, fun hk => ?keep⟩, ?data, ?response, ?relay, ?answer,
    ?redirect, ?keepTimer, ?access, ?timeout, ?expiry, ?reserved, ?down⟩
  case inv =>
    intro m s ha
    rw [exec_inv]
    exact if_neg (by simp [ha])
  case fwds =>
    intro m s x ha hx
    rw [execFwds_arrived ha, hx]
    refine ⟨fun hs => if_pos hs, fun hs => ?_⟩
    exact ⟨sharedCopy (s.takeMsg (.fwds m)) m.die m.line, if_neg hs, rfl, State.l2?_sharedCopy_same hx,
      fun d k h => State.l2?_sharedCopy_other h⟩
  case missed =>
    intro m s ha hx
    rw [execFwds_arrived ha, hx]
  case fwdx =>
    intro m s x ha hx
    rw [execFwdx_arrived ha hx]
    exact ⟨fun hs => if_pos hs, fun hs => if_neg hs⟩
  case ack => rw [execAck_arrived ha, if_neg (by simp [hk])]
  case keep => rw [execAck_arrived ha, if_pos hk]
  case data =>
    intro m s ha
    rw [exec_data]
    exact if_neg (by simp [ha])
  case response =>
    intro m s o data ho
    refine ⟨?_, fun x hx => State.endOut_outs_ne hx⟩
    unfold State.respond
    rw [ho]
  case relay =>
    intro m s t home old hs ho hh o hb hm hr ht hd hc hp
    rw [execRelay_read hs ho hd hc hp, State.arrive_relayed hs hh hb hm hr ht]
    rfl
  case answer => exact fun _ _ _ hr hd hn => State.answerOut_relayed hr hd hn
  case redirect =>
    intro r s ha hq
    obtain ⟨d, e⟩ := execRedirect_arrived ha
    obtain ⟨l, hl⟩ := ((s.takeMsg (.redirect r)).applyRedirect r).pruneDrains_addDrain d
    rw [e, hl, State.serveQueued_idle (by exact hq)]
    exact ⟨_, rfl, rfl, rfl, rfl, rfl⟩
  case keepTimer =>
    intro die txn s o ho hl hq hk
    rw [exec_keepTimer]
    unfold execKeepTimer
    rw [ho]
    exact if_neg (by simp [hl, hq, hk])
  case access =>
    intro die txn s o ho
    rw [exec_crossDieTimeout]
    unfold execCrossDieTimeout
    dsimp only
    rw [ho]
  case timeout =>
    intro die txn s o hn ho
    rw [exec_crossDieTimeout]
    unfold execCrossDieTimeout
    dsimp only
    rw [hn, ho]
  case expiry =>
    intro line home s e he hh h0 hu
    rw [exec_homeExecuteExpiry]
    unfold execHomeExecuteExpiry
    rw [he, hh]
    exact if_neg (by simp [h0, hu])
  case reserved =>
    intro link op txn s hlo hhi ht
    have hsame : ((protoCounted s link).hub.protoErr.lookup link).getD 0 = (s.hub.protoErr.lookup link).getD 0 + 1 := by
      simp [protoCounted]
    have hother : ∀ l, l ≠ link → (protoCounted s link).hub.protoErr.lookup l = s.hub.protoErr.lookup l := fun l h => lookup_bumped h _ _
    rw [execCoeskReservedOp_counted hlo hhi ht]
    cases e : s.coh.outs.find? fun o => o.txn = txn with
    | none => exact ⟨_, rfl, hsame, hother, fun _ => rfl, fun o ho => nomatch ho⟩
    | some o =>
      obtain ⟨htxn, hmem⟩ : o.txn = txn ∧ o ∈ s.coh.outs := ⟨by simpa using List.find?_some e, List.mem_of_find?_eq_some e⟩
      refine ⟨_, rfl, hsame, hother, fun h => absurd htxn (h o hmem), fun x hx => ?_⟩
      cases hx
      refine ⟨List.mem_map.mpr ⟨o, hmem, if_pos (by simp)⟩, fun m hm => ?_, rfl, rfl⟩
      simpa using (List.mem_filter.mp hm).2
  case down =>
    intro a b s hab ha hb hl
    rw [exec_linkDeclaredDown]
    refine ⟨_, if_neg (by simp [hab, ha, hb, hl]), rfl, fun m hm => ?_, fun m hm => (List.mem_filter.mp hm).1, rfl, rfl, rfl⟩
    rw [State.channel_modCoh, State.pathDown_modCoh]
    simpa only [Bool.not_eq_true'] using (List.mem_filter.mp hm).2

end Sys2Proof
end

section
/-! # Branches, hoods and collective instructions (O20, O21, O23) -/

namespace Sys2Proof

open Machine Safety

/-! ### Branches (R178 to R180, R221 to R223) -/

/-- A legal target leaves the others to be checked in the state that its fetch leaves. -/
theorem Machine.Issue.barred_cons_legal {c : Issue} {x : List Nat × DWord} {go : List (List Nat × DWord)} {t : State}
    (h : c.s.targetFault c.w.core c.w.ctx x.2 = (t, none)) : c.barred (x :: go) = { c with s := t }.barred go := by
  simp [Issue.barred, h]

theorem Machine.Issue.barred_illegal {c : Issue} {x : List Nat × DWord} {e : Bar} {t : State}
    (h : c.s.targetFault c.w.core c.w.ctx x.2 = (t, some e)) : c.barred [x] = (t, some (e, x.2)) := by
  simp [Issue.barred, h]

/-- Where every target is legal nothing stands against the transfer. -/
theorem Machine.Issue.barred_of_legalTargets {c : Issue} {go : List (List Nat × DWord)} {t : State}
    (h : legalTargets c.w.core c.w.ctx go c.s = some t) : c.barred go = (t, none) := by
  induction go generalizing c with
  | nil => rw [legalTargets, Option.some.injEq] at h; subst h; rfl
  | cons x go ih =>
    rw [legalTargets] at h
    split at h
    · cases h
    · rename_i u hx
      rw [Issue.barred_cons_legal hx]
      exact ih h

theorem Machine.Issue.branch_legal {c : Issue} {go : List (List Nat × DWord)} {t : State}
    (hwaits : (go.any fun x => c.s.fetchWaits c.w.core c.w.ctx (x.2.toNat / 64)) = false) (hheld : c.targetHeld go = none)
    (hlegal : legalTargets c.w.core c.w.ctx go c.s = some t) (g : Warp → Warp) :
    c.branch go g = .jump (t.modWarp c.w.core c.w.slot fun w => (g w).transfer c.hood go (nextPc c.pc)) := by
  rw [Issue.branch, hwaits, if_neg Bool.false_ne_true, hheld, Issue.barred_of_legalTargets hlegal]

/-- One group whose target's line neither waits nor is held back: what bars the target decides. -/
theorem Machine.Issue.branch_barred {c : Issue} {l : List Nat} {target : DWord} {t : State} {e : Bar}
    (hwaits : c.s.fetchWaits c.w.core c.w.ctx (target.toNat / 64) = false)
    (hheld : c.s.fetchHeld c.w.core c.w.ctx (target.toNat / 64) = none)
    (hbar : c.s.targetFault c.w.core c.w.ctx target = (t, some e)) (g : Warp → Warp) :
    c.branch [(l, target)] g = match e with
      | .fault x => .fault t [c.record x c.lanes target]
      | .fetch x => .hold (t.stopFetch c.w (fun i => (c.w.slice i).live && (c.w.slice i).hood = c.hood) c.act (target.toNat / 64) x) := by
  have hh : c.targetHeld [(l, target)] = none := by simp [Issue.targetHeld, hheld]
  rw [Issue.branch, if_neg (by simp [hwaits]), hh, Issue.barred_illegal hbar]
  cases e <;> rfl

/-- BRA and CALL send the group that `takers` and `group` name. -/
theorem Machine.Issue.takers_eq (c : Issue) (f : FormB) : c.takers f = group (Safety.takers c f) (branchTarget c.pc f.off) := by
  have e : (c.w.hoodSlices c.hood).filter (c.takes f.bmode.toNat (c.qreg f.c)) = Safety.takers c f := by
    refine List.filter_congr fun i _ => ?_
    unfold Issue.takes
    obtain h | h | h | h : f.bmode = 0 ∨ f.bmode = 1 ∨ f.bmode = 2 ∨ f.bmode = 3 := by
      generalize f.bmode = m; revert m; decide
    all_goals simp [h]
  unfold Issue.takers group
  rw [e]

theorem Safety.group_isEmpty (l : List Nat) (target : DWord) : (group l target).isEmpty = l.isEmpty := by
  unfold group
  split
  · rename_i h; rw [h]; rfl
  · rename_i h; simpa using h

theorem Machine.Issue.jumpTo_eq (c : Issue) (target : DWord) : c.jumpTo target = c.branch (group (active c) target) id := rfl

/-- An instruction that branches transfers its groups wherever their targets are legal. -/
theorem Safety.transfers_of {i : Instr} {opc : Nat} {f : Form} {body : Issue → Res} {go : Issue → List (List Nat × DWord)}
    {g : Issue → Warp → Warp} {m : State → Host.Outcome State Fault Refusal} (hi : i.code? = some (opc, f)) (he : ∀ s, exec i s = m s)
    (hm : ∀ s, m s = issue opc f s body) (hb : ∀ c, body c = c.branch (go c) (g c)) : Transfers i go g :=
  fun s b c t h hwaits hheld hlegal => by
    rw [he, hm, issue_eq h hi, hb, Issue.branch_legal hwaits hheld hlegal]

/-- BRA that slices take sends them as one group. -/
theorem Safety.bra_taken {f : FormB} {s : State} {b : Warp} {c : Issue} (h : issueOf (.bra f) s = some (b, c))
    (ht : Safety.takers c f ≠ []) :
    exec (.bra f) s = .next (after b c (c.branch [(Safety.takers c f, branchTarget c.pc f.off)] id)) := by
  rw [exec_bra, execBra, issue_eq h rfl, Issue.takers_eq, group, if_neg (by simpa using ht)]

/-- Settles O20: each branch is `Issue.branch` of the groups that the rules name, and one barred target decides how it ends. -/
theorem branchesTransferSlices : Obligations.BranchesTransferSlices := by
  unfold Obligations.BranchesTransferSlices
  refine ⟨⟨fun f => ?bra, fun f => ?call, fun f n hn => ?vec, fun f hn => ?uniform, fun f => ?ret⟩, fun f s b c t x h ht hw hh hx => ?illegal,
    fun f s b c t x h ht hw hh hx => ?unfetched⟩
  case bra =>
    refine transfers_of rfl (exec_bra f) (fun _ => rfl) fun c => ?_
    show c.branch (c.takers f) id = _
    rw [Issue.takers_eq]
    rfl
  case call =>
    refine transfers_of rfl (exec_call f) (fun _ => rfl) fun c => ?_
    rw [Issue.takers_eq]
    dsimp only
    rw [group_isEmpty]
  case vec =>
    refine transfers_of rfl (exec_brx f) (fun _ => rfl) fun c => ?_
    rw [hn]
    rfl
  case uniform =>
    refine transfers_of rfl (exec_brx f) (fun _ => rfl) fun c => ?_
    split
    · rename_i n h; exact absurd h (hn n)
    · exact Issue.jumpTo_eq _ _
  case ret => exact transfers_of rfl (exec_ret f) (fun _ => rfl) fun c => Issue.jumpTo_eq _ _
  case illegal => rw [bra_taken h ht, Issue.branch_barred hw hh hx]
  case unfetched => rw [bra_taken h ht, Issue.branch_barred hw hh hx]

/-! ### Hoods (R179, R181) -/

@[simp] theorem Machine.Warp.slice_mapSlices {w : Warp} {g : Nat → Slice → Slice} {i : Nat} (hi : i < 24) :
    (w.mapSlices g).slice i = g i (w.slice i) := by
  simp [Warp.mapSlices, Warp.slice, List.getD, hi]

theorem Machine.Warp.slice_formHood {w : Warp} {l : List Nat} {pc : DWord} {i : Nat} (hi : i < 24) :
    (w.formHood l pc).slice i =
      if i ∈ l then { w.slice i with pc := pc, hood := keyOf l, wait := .run, held := false } else w.slice i := by
  simp [Warp.formHood, hi]

theorem Machine.Warp.mem_hoodSlices {w : Warp} {h i : Nat} :
    i ∈ w.hoodSlices h ↔ i < 24 ∧ (w.slice i).live = true ∧ (w.slice i).hood = h := by
  simp [Warp.hoodSlices]

theorem Machine.Warp.mem_liveSlices {w : Warp} {i : Nat} : i ∈ w.liveSlices ↔ i < 24 ∧ w.isLive i = true := by
  simp [Warp.liveSlices]

/-- A transfer of one group leaves the group at the target, the rest of the hood at the next instruction and every other slice where it
stood. -/
theorem Machine.Warp.slice_transfer_one {w : Warp} {h : Nat} {l : List Nat} {target next : DWord} {i : Nat} (hi : i < 24) :
    let rest := (w.hoodSlices h).filter fun j => !l.contains j
    (w.transfer h [(l, target)] next).slice i =
      if i ∈ l then { w.slice i with pc := target, hood := keyOf l, wait := .run, held := false }
      else if i ∈ rest then { w.slice i with pc := next, hood := keyOf rest, wait := .run, held := false } else w.slice i := by
  intro rest
  have hrest : ∀ v : Warp, (if rest.isEmpty then v else v.formHood rest next).slice i =
      if i ∈ rest then { v.slice i with pc := next, hood := keyOf rest, wait := .run, held := false } else v.slice i := by
    intro v
    cases hr : rest with
    | nil => simp
    | cons a r => rw [if_neg (by simp), Warp.slice_formHood hi]
  have ht : w.transfer h [(l, target)] next = (if rest.isEmpty then w else w.formHood rest next).formHood l target := by
    simp [Warp.transfer, rest]
  rw [ht, Warp.slice_formHood hi]
  by_cases hl : i ∈ l
  · rw [if_pos hl, if_pos hl, hrest]
    split <;> rfl
  · rw [if_neg hl, if_neg hl, hrest]

/-- FELT joins the live slices once all of them wait at it with one tag. -/
theorem Machine.Warp.feltJoin_of_all {w : Warp} {t : Word} (hl : w.liveSlices ≠ [])
    (h : ∀ i, i < 24 → w.isLive i = true → (w.slice i).wait = .felt t) :
    w.feltJoin = some ((w.formHood w.liveSlices (nextPc (w.slice (keyOf w.liveSlices)).pc)).closeWindows) := by
  have hall : ∀ i ∈ w.liveSlices, (w.slice i).wait.feltTag = some t := fun i hi => by
    obtain ⟨hi, hlive⟩ := Warp.mem_liveSlices.mp hi
    rw [h i hi hlive, Wait.feltTag]
  cases e : w.liveSlices with
  | nil => exact absurd e hl
  | cons i rest =>
    rw [e] at hall
    have hrest : (rest.all fun j => (w.slice j).wait.feltTag = some t) = true := by
      simpa using fun j hj => hall j (List.mem_cons_of_mem i hj)
    unfold Warp.feltJoin
    rw [e]
    dsimp only
    rw [hall i List.mem_cons_self]
    dsimp only
    rw [if_pos hrest]
    rfl

/-- Settles O21: a transfer slice by slice, and the join of FELT as one hood formed of the live slices. -/
theorem hoodsSplitAndRejoin : Obligations.HoodsSplitAndRejoin := by
  unfold Obligations.HoodsSplitAndRejoin
  refine ⟨fun w h l target next i hi hl _ => ?_, fun w t hlive hwait => ?_⟩
  · intro a rest
    have ha : a = _ := Warp.slice_transfer_one (w := w) (h := h) (l := l) (target := target) (next := next) hi
    rw [ha]
    refine ⟨fun hil => ?_, fun hir => ?_, fun hout => ?_⟩
    · have hlive := (Warp.mem_hoodSlices.mp (hl i hil)).2.1
      rw [if_pos hil]
      exact ⟨rfl, rfl, rfl, hlive⟩
    · obtain ⟨hin, hnl⟩ := List.mem_filter.mp hir
      have hlive := (Warp.mem_hoodSlices.mp hin).2.1
      rw [if_neg (by simpa using hnl), if_pos hir]
      exact ⟨rfl, rfl, rfl, hlive⟩
    · rw [if_neg fun hil => hout (hl i hil), if_neg fun hir => hout (List.mem_filter.mp hir).1]
  · refine ⟨_, Warp.feltJoin_of_all hlive hwait, rfl, fun i hi => ?_⟩
    have hslice : ∀ v : Warp, v.closeWindows.slice i = v.slice i := fun _ => rfl
    rw [hslice, Warp.slice_formHood hi]
    refine ⟨fun hon => ?_, fun hoff => ?_⟩
    · rw [if_pos (Warp.mem_liveSlices.mpr ⟨hi, hon⟩)]
    · rw [if_neg fun hm => by simp [Warp.mem_liveSlices, hoff] at hm]

/-! ### Collective instructions (R182, R183) -/

/-- A collective instruction that its hood reaches before the others makes it wait. -/
theorem Safety.waitsEarly_of {i : Instr} {opc : Nat} {f : Form} {k : Issue → Res} {m : State → Host.Outcome State Fault Refusal}
    (hi : i.code? = some (opc, f)) (he : ∀ s, exec i s = m s) (hm : ∀ s, m s = issue opc f s fun c => c.collective k) :
    Completes i (fun c => c.waiting.atCollective = false) fun c =>
      .hold ((putIn c c.s fun w => w.waitHood c.hood .collective).resolveFelt c.w.core c.w.slot) :=
  completes_of hi he hm fun _ h => Issue.collective_early h k

/-- The same for one that a sweep follows. -/
theorem Safety.waitsEarlySweeping_of {i : Instr} {opc : Nat} {f : Form} {k : Issue → Res} {m : State → Host.Outcome State Fault Refusal}
    (hi : i.code? = some (opc, f)) (he : ∀ s, exec i s = m s) (hm : ∀ s, m s = issueSweep opc f s fun c => c.collective k) :
    CompletesSweeping i (fun c => c.waiting.atCollective = false) fun c =>
      .hold ((putIn c c.s fun w => w.waitHood c.hood .collective).resolveFelt c.w.core c.w.slot) :=
  completesSweeping_of hi he hm fun _ h => Issue.collective_early h k

/-- Settles O23: each of these instructions is performed through `Issue.collective`. -/
theorem collectiveWaitsForEverySlice : Obligations.CollectiveWaitsForEverySlice := by
  unfold Obligations.CollectiveWaitsForEverySlice
  intro early wait
  refine ⟨fun f => ?vldl, fun f => ?vstl, fun f => ?mshape, fun f => ?mma, fun f => ?dmma, fun f => ?mmaw, fun f => ?vqntRow, fun f => ?bar,
    fun f => ?barh, fun f => ?phase⟩
  case bar | barh | phase => exact waitsEarlySweeping_of rfl (fun _ => rfl) fun _ => rfl
  all_goals exact waitsEarly_of rfl (fun _ => rfl) fun _ => rfl

end Sys2Proof
end

section
/-! # Two statements that completion refutes (O22, O28) -/

namespace Sys2Proof

open Machine Safety

/-- A warp of one live slice, with what its hood has written to MODE noted for its other hoods (R177). -/
def Safety.notingWarp : Warp :=
  { core := 0, slot := 0, gang := 0, pos := 0, idx := 0, ctx := 0, slices := [{ pc := 0 }]
    shared := [{ lanes := sliceLanes 0, loc := .mode, old := 1, val := 1 }] }

/-- A state with that warp alone. -/
def Safety.notingState : State := { warps := [notingWarp] }

/-- That state after a store in scratchpad, which closing the issue signs with the warp that made it (R384). -/
def Safety.storedState : State := { notingState with store := { past := [{ line := 0, mask := 1, data := 1 }] } }

/-- An instruction that passes its checks and that nothing holds back issues. -/
theorem Safety.issueOf_issueFor {i : Instr} {s : State} {w : Warp} {opc : Nat} {f : Form} (hi : i.code? = some (opc, f))
    (hw : s.issuer? = some w) (hc : (checkAll (s.envOf w) opc f).isSome = false)
    (hb : (s.issueFor w s.cur.hood opc f).2.blocked = false) : issueOf i s = some (s.issueFor w s.cur.hood opc f) := by
  unfold issueOf
  rw [hi, hw]
  dsimp only
  rw [hc, hb]
  rfl

/-- BAR as its last hood performs it: the warp waits, its windows closed and its writes ordered (R177, R184). -/
theorem Safety.exec_bar_last {f : FormI} {s : State} {b : Warp} {c : Issue} (h : issueOf (.bar f) s = some (b, c))
    (hlast : c.waiting.atCollective = true) :
    exec (.bar f) s = .next (after b c (.hold (c.put fun w => (w.waitAll (.barrier false f.imm.toNat)).closeWindows))).sweep.settle := by
  rw [exec_bar, execBar, issueSweep, issue_eq h rfl, Issue.collective_last hlast]
  rfl

/-- The issue that the one warp of `notingState` makes. -/
theorem Safety.issueOf_notingState {i : Instr} {opc : Nat} {f : Form} (hi : i.code? = some (opc, f))
    (hc : (checkAll (notingState.envOf notingWarp) opc f).isSome = false)
    (hb : (notingState.issueFor notingWarp 0 opc f).2.blocked = false) :
    issueOf i notingState = some (notingState.issueFor notingWarp 0 opc f) :=
  issueOf_issueFor hi (by decide) hc hb

/-- Refutes O22: BAR closes the windows of its warp and forgets the writes noted in it, and the statement's warp keeps them. -/
theorem not_barriersWaitsAndNop : ¬ Obligations.BarriersWaitsAndNop := by
  unfold Obligations.BarriersWaitsAndNop
  rintro ⟨⟨-, -, hbar, -⟩, -⟩
  have hissue : issueOf (.bar {}) notingState = some (notingState.issueFor notingWarp 0 0x00A (.i {})) :=
    issueOf_notingState rfl (by decide) (by decide)
  have hlast : (notingState.issueFor notingWarp 0 0x00A (.i {})).2.waiting.atCollective = true := by decide
  have hstated := hbar {} _ _ _ hissue hlast
  rw [exec_bar_last hissue hlast] at hstated
  have hnoted := congrArg (fun t : State => t.warps.map fun w => w.shared.length) (Host.Outcome.next.inj hstated)
  exact absurd hnoted (by decide)

/-- Refutes O28: closing an issue signs the scratchpad stores it has made, and the statement's state has them unsigned. -/
theorem not_completionMovesItsHood : ¬ Obligations.CompletionMovesItsHood := by
  unfold Obligations.CompletionMovesItsHood
  rintro ⟨hmoves, -⟩
  have hissue : issueOf (.nop {}) notingState = some (notingState.issueFor notingWarp 0 0x000 (.a {})) :=
    issueOf_notingState rfl (by decide) (by decide)
  obtain ⟨hsame, -⟩ := hmoves _ _ _ _ storedState hissue rfl
  have hsigned := congrArg (fun t : State => t.store.past.map fun x => x.by_.isSome) hsame
  exact absurd hsigned (by decide)

end Sys2Proof
end

section
/-! # The frame of the instructions that change registers alone (O29) -/

namespace Sys2Proof

open Machine Safety

/-! ### Writing records leaves the warps

A fault record is written to queues, watched lines and trace buffers; no warp changes. -/

section
variable {b s t : State} {α : Type}

/-- The warps are the same. -/
structure Machine.State.SameWarps (s t : State) : Prop where
  warps : t.warps = s.warps

theorem Machine.State.SameWarps.refl : b.SameWarps b := ⟨rfl⟩

theorem Machine.State.SameWarps.frame {store caches coh contexts slots sched eng dies stations hub staged recs out cur agenda upsets free
    cycles turn} (h : b.SameWarps s) : b.SameWarps ⟨store, caches, coh, s.warps, contexts, slots, sched, eng, dies, stations, hub, staged,
      recs, out, cur, agenda, upsets, free, cycles, turn⟩ := ⟨h.warps⟩

theorem Machine.State.SameWarps.ite {p : Prop} {_ : Decidable p} (hs : b.SameWarps s) (ht : b.SameWarps t) :
    b.SameWarps (if p then s else t) :=
  iteInduction (fun _ => hs) fun _ => ht

theorem Machine.State.SameWarps.foldl {f : State → α → State} {l : List α} (hs : b.SameWarps s)
    (hf : ∀ t a, b.SameWarps t → b.SameWarps (f t a)) : b.SameWarps (l.foldl f s) :=
  List.foldlRecOn l f hs fun t ht a _ => hf t a ht

theorem Machine.State.SameWarps.modCtx {id g} (h : b.SameWarps s) : b.SameWarps (s.modCtx id g) := .frame h

theorem Machine.State.SameWarps.modEng {g} (h : b.SameWarps s) : b.SameWarps (s.modEng g) := .frame h

theorem Machine.State.SameWarps.modStore {g} (h : b.SameWarps s) : b.SameWarps (s.modStore g) := .frame h

theorem Machine.State.SameWarps.modSched {g} (h : b.SameWarps s) : b.SameWarps (s.modSched g) := .frame h

theorem Machine.State.SameWarps.modHub {g} (h : b.SameWarps s) : b.SameWarps (s.modHub g) := .frame h

theorem Machine.State.SameWarps.say {o} (h : b.SameWarps s) : b.SameWarps (s.say o) := .frame h

theorem Machine.State.SameWarps.pendRec {ctx die slice r} (h : b.SameWarps s) : b.SameWarps (s.pendRec ctx die slice r) := .frame h

theorem Machine.State.SameWarps.emit {die unit sub ctx code payload body lossless warp gang} (h : b.SameWarps s) :
    b.SameWarps (s.emit die unit sub ctx code payload body lossless warp gang) :=
  .ite (.ite h (.frame h)) (.ite (.frame (.ite h (.frame h))) (.frame (.frame (.ite h (.frame h)))))

theorem Machine.State.SameWarps.watchCount {w addr val depth slice} (h : b.SameWarps s) :
    b.SameWarps (s.watchCount w addr val depth slice) := by
  unfold State.watchCount
  split
  · exact .modCtx h
  · split
    · exact h
    · exact .emit (.modSched h)
    · exact .ite (.pendRec (.modSched h)) (.ite (.pendRec (.modSched h)) (.emit (.modSched (.modSched h))))

theorem Machine.State.SameWarps.compareLine {l old new depth} (h : b.SameWarps s) : b.SameWarps (s.compareLine l old new depth) := by
  unfold State.compareLine
  split
  · exact h
  · refine .foldl h fun t w ht => ?_
    split
    · exact .watchCount ht
    · exact ht

theorem Machine.State.SameWarps.notePtes {l} (h : b.SameWarps t) : b.SameWarps (s.notePtes t l) := .ite h (.frame h)

theorem Machine.State.SameWarps.markDirty {l} (h : b.SameWarps s) : b.SameWarps (s.markDirty l) := .ite (.frame h) h

theorem Machine.State.SameWarps.settleFields {l mask} (h : b.SameWarps s) : b.SameWarps (s.settleFields l mask) :=
  .ite h (.modEng (.modStore h))

theorem Machine.State.SameWarps.writeIn {k n v depth} (h : b.SameWarps s) : b.SameWarps (s.writeIn k n v depth) :=
  .ite (.modStore (.settleFields (.modStore h))) (.compareLine (.markDirty (.notePtes (.settleFields (.modStore h)))))

theorem Machine.State.SameWarps.writeKey {k n v depth} (h : b.SameWarps s) : b.SameWarps (s.writeKey k n v depth) :=
  .foldl h fun _ _ ht => .ite (.writeIn ht) ht

theorem Machine.State.SameWarps.askSpan {k n} (h : b.SameWarps s) : b.SameWarps (s.askSpan k n) :=
  .foldl h fun _ _ ht => .ite ht (.say (.modHub ht))

theorem Machine.State.SameWarps.hubWrite {w} (h : b.SameWarps s) : b.SameWarps (s.hubWrite w) := .ite (.writeKey h) (.modHub (.askSpan h))

theorem Machine.State.SameWarps.setAD {pa d} (h : b.SameWarps s) : b.SameWarps (s.setAD pa d) :=
  .ite h (.ite (.hubWrite h) (.frame (.writeKey h)))

theorem Machine.State.SameWarps.markPages {ctx va n writes} (h : b.SameWarps s) : b.SameWarps (s.markPages ctx va n writes) := by
  unfold State.markPages
  refine .foldl h fun t i ht => .ite ?_ ht
  split
  · exact .setAD ht
  · exact ht

theorem Machine.State.SameWarps.putAway {ctx va pa n v} (h : b.SameWarps s) : b.SameWarps (s.putAway ctx va pa n v) := by
  unfold State.putAway
  split
  · exact .ite (.writeIn h) (.say h)
  · exact .say (.modEng h)
  · exact h

theorem Machine.State.SameWarps.deviceWrite {ctx va n v pin} (h : b.SameWarps s) (e : s.deviceWrite ctx va n v pin = some t) :
    b.SameWarps t := by
  obtain ⟨parts, -, rfl⟩ := Option.map_eq_some_iff.mp e
  exact .foldl (.markPages h) fun _ _ ht => .hubWrite ht

theorem Machine.State.SameWarps.deviceWrite_getD {ctx va n v pin} (h : b.SameWarps s) :
    b.SameWarps ((s.deviceWrite ctx va n v pin).getD s) := by
  cases e : s.deviceWrite ctx va n v pin with
  | none => exact h
  | some t => exact h.deviceWrite e

theorem Machine.State.SameWarps.ringWrite {ctx va n v pin} (h : b.SameWarps s) (e : s.ringWrite ctx va n v pin = some t) :
    b.SameWarps t := by
  obtain ⟨parts, -, e⟩ := Option.bind_eq_some_iff.mp e
  split at e
  · cases e
  · cases e
    refine .foldl (.markPages h) fun u p hu => ?_
    split
    · exact .foldl hu fun _ _ hu => .ite (.putAway hu) hu
    · exact .foldl hu fun _ _ hu => .ite (.putAway hu) hu
    · exact .hubWrite hu

theorem Machine.State.SameWarps.tailWrite {ctx va v} (h : b.SameWarps s) (e : s.tailWrite ctx va v = some t) : b.SameWarps t := by
  obtain ⟨parts, -, e⟩ := Option.bind_eq_some_iff.mp e
  split at e
  · cases e
  · cases e
    exact .foldl (.markPages h) fun _ _ hu => .hubWrite hu

/-- The records of a batch written one by one, while each can be. -/
theorem Machine.State.SameWarps.foldl_bind {f : State → α → Option State} {l : List α} {o : Option State}
    (ho : ∀ u, o = some u → b.SameWarps u) (hf : ∀ u v a, b.SameWarps u → f u a = some v → b.SameWarps v)
    (e : (l.foldl (fun o a => o.bind fun u => f u a) o) = some t) : b.SameWarps t := by
  induction l generalizing o with
  | nil => exact ho t e
  | cons a l ih =>
    refine ih (fun v hv => ?_) e
    obtain ⟨u, hu, hv⟩ := Option.bind_eq_some_iff.mp hv
    exact hf u v a (ho u hu) hv

theorem Machine.State.SameWarps.queueBatch {ctx recs} (h : b.SameWarps s) : b.SameWarps (s.queueBatch ctx recs) := by
  unfold State.queueBatch
  split
  · exact h
  · refine .ite h ?_
    split
    · exact h
    · have hm : ∀ va n, b.SameWarps (s.markPages ctx va n false) := fun _ _ => .markPages h
      dsimp only
      refine .ite (.deviceWrite_getD (hm _ _)) ?_
      split
      · rename_i t e
        obtain ⟨u, hu, ht⟩ := Option.bind_eq_some_iff.mp e
        have hsame : b.SameWarps t := .tailWrite (.foldl_bind (fun u e => by cases e; exact hm _ _) (fun _ _ _ hu e => .ringWrite hu e) hu) ht
        exact .ite (.say hsame) hsame
      · exact .deviceWrite_getD (hm _ _)

theorem Machine.State.SameWarps.writeBatch {ctx who recs systemOnly} (h : b.SameWarps s) :
    b.SameWarps (s.writeBatch ctx who recs systemOnly) := by
  unfold State.writeBatch
  split
  · exact h
  · exact h
  · refine .foldl ?_ fun _ _ ht => .emit ht
    have hq : ∀ l, b.SameWarps (if systemOnly then s.modCtx ctx fun c => { c with batch := nextBatch c.batch }
        else (s.modCtx ctx fun c => { c with batch := nextBatch c.batch }).queueBatch ctx l) := fun l =>
      .ite (.modCtx h) (.queueBatch (.modCtx h))
    split
    · exact .ite (.queueBatch (hq _)) (hq _)
    · exact hq _

theorem Machine.State.SameWarps.flushRecs {n : Nat} (h : b.SameWarps s) : b.SameWarps (s.flushRecs n) := by
  induction n generalizing s with
  | zero => exact h
  | succ n ih =>
    unfold State.flushRecs
    split
    · exact h
    · exact ih (.writeBatch (.frame h))

theorem Machine.State.SameWarps.settle (h : b.SameWarps s) : b.SameWarps s.settle := .flushRecs h

end

/-! ### A warp in its place -/

section
variable {s : State} {core slot : Nat} {g : Warp → Warp}

/-- `g` leaves the warp of a place in its place. -/
def Safety.keepsPlace (core slot : Nat) (g : Warp → Warp) : Prop :=
  ∀ w, w.core = core → w.slot = slot → (g w).core = core ∧ (g w).slot = slot

/-- Where `g` keeps its place, the warps stand in the places in which they stood. -/
theorem Machine.State.warp?_modWarp_any (core' slot' : Nat) (hg : keepsPlace core slot g) : (s.modWarp core slot g).warp? core' slot' =
    (s.warp? core' slot').map fun x => if x.core = core && x.slot = slot then g x else x := by
  unfold State.warp? State.modWarp
  rw [List.find?_map]
  congr 2
  funext x
  by_cases hx : x.core = core ∧ x.slot = slot
  · have hgx := hg x hx.1 hx.2
    simp [hx, hgx]
  · simp [hx]

theorem Machine.State.warp?_modWarp (hg : keepsPlace core slot g) : (s.modWarp core slot g).warp? core slot = (s.warp? core slot).map g := by
  rw [State.warp?_modWarp_any core slot hg]
  refine Option.map_congr fun w hw => if_pos ?_
  simpa using List.find?_some hw

theorem Machine.State.warp?_modWarp_of_ne {core' slot' : Nat} (hg : keepsPlace core slot g) (hne : core' ≠ core ∨ slot' ≠ slot) :
    (s.modWarp core slot g).warp? core' slot' = s.warp? core' slot' := by
  rw [State.warp?_modWarp_any core' slot' hg]
  refine (Option.map_congr fun w hw => if_neg ?_).trans Option.map_id'
  have hplace : w.core = core' ∧ w.slot = slot' := by simpa using List.find?_some hw
  rw [hplace.1, hplace.2]
  simp only [Bool.and_eq_true, decide_eq_true_eq]
  omega

/-- Whatever stands in the place afterwards is what `g` makes of a warp of the place. -/
theorem Machine.State.warp?_modWarp_some {a : Warp} (h : (s.modWarp core slot g).warp? core slot = some a) :
    ∃ w, w.core = core ∧ w.slot = slot ∧ a = g w := by
  have hplace : a.core = core ∧ a.slot = slot := by simpa using List.find?_some h
  obtain ⟨w, -, rfl⟩ := List.mem_map.mp (List.mem_of_find?_eq_some h)
  split at hplace
  · rename_i hw
    rw [if_pos hw]
    simp only [Bool.and_eq_true, decide_eq_true_eq] at hw
    exact ⟨w, hw.1, hw.2, rfl⟩
  · rename_i hw
    simp [hplace] at hw

end

/-! ### A warp that takes an exception

It has left the program (`entry`, `halted`), stands in its handler, or is gone with its context (R393, R396, R420). -/

/-- `a` is not the warp `b` going on with its program. -/
def Safety.Excepted (b a : Warp) : Prop := ¬ (a.ctx = b.ctx ∧ a.handler = b.handler ∧ a.entry = none ∧ a.halted = false)

/-- Any warp in the place `core`, `slot` is excepted. -/
def Safety.ExceptedAt (b : Warp) (core slot : Nat) (t : State) : Prop := ∀ a, t.warp? core slot = some a → Excepted b a

section
variable {b w : Warp} {s t : State} {core slot : Nat}

theorem Safety.ExceptedAt.same (h : ExceptedAt b core slot s) (e : s.SameWarps t) : ExceptedAt b core slot t := fun a ha =>
  h a (by unfold State.warp? at ha ⊢; rwa [e.warps] at ha)

theorem Safety.ExceptedAt.modWarp {g : Warp → Warp} (hg : ∀ w, Excepted b (g w)) : ExceptedAt b core slot (s.modWarp core slot g) := by
  intro a ha
  obtain ⟨w, -, -, rfl⟩ := State.warp?_modWarp_some ha
  exact hg w

theorem Safety.Excepted.of_halted (h : w.halted = true) : Excepted b w := fun ⟨_, _, _, hh⟩ => by simp [h] at hh

theorem Safety.Excepted.of_entry {e : Entry} (h : w.entry = some e) : Excepted b w := fun ⟨_, _, hn, _⟩ => by simp [h] at hn

theorem Safety.Excepted.of_handler (h : w.handler ≠ b.handler) : Excepted b w := fun ⟨_, hh, _, _⟩ => h hh

/-- A context that is lost leaves no warp. -/
theorem Safety.ExceptedAt.lose {ctx sub : Nat} (h : ctx = b.ctx) : ExceptedAt b core slot (s.lose ctx core slot sub) := by
  have hkill : ExceptedAt b core slot (s.kill ctx true) := fun a ha => by
    have hmem : a ∈ (s.settleStores ctx).warps.filter fun w => w.ctx ≠ ctx := List.mem_of_find?_eq_some ha
    have hctx : a.ctx ≠ ctx := by simpa using (List.mem_filter.mp hmem).2
    exact fun hx => hctx (hx.1.trans h.symm)
  exact hkill.same (.writeBatch .refl)

/-- A pending entry of a warp is taken, waits, or ends the warp. -/
theorem Safety.ExceptedAt.tryEntry {e : Entry} (hw : s.warp? core slot = some w) (he : w.entry = some e) (hnew : e.written = false)
    (hctx : w.ctx = b.ctx) (hhandler : w.handler = b.handler) : ExceptedAt b core slot (s.tryEntry core slot) := by
  have hplace : w.core = core ∧ w.slot = slot := by simpa using List.find?_some hw
  unfold State.tryEntry
  rw [hw]
  dsimp only
  rw [he]
  dsimp only
  rw [hnew, if_neg Bool.false_ne_true]
  split
  · intro a ha
    rw [hw] at ha
    cases ha
    exact .of_entry he
  · split
    · rw [← hplace.1, ← hplace.2]
      exact .modWarp (g := fun _ => { w with halted := true, entry := none }) fun _ => .of_halted rfl
    · rename_i hno
      have hoff : b.handler = false := by
        rw [← hhandler]
        simp only [Bool.or_eq_true, not_or, Bool.not_eq_true] at hno
        exact hno.1
      split
      · exact .lose hctx
      · refine .modWarp fun _ => .of_handler ?_
        rw [hoff]
        split <;> exact Bool.noConfusion

/-- A warp that raises records is excepted. -/
theorem Safety.ExceptedAt.raiseRecs {recs : List FaultRec} {pc : DWord} (hrecs : recs ≠ [])
    (hw : ∀ w, s.warp? core slot = some w → w.entry = none ∧ w.ctx = b.ctx ∧ w.handler = b.handler) :
    ExceptedAt b core slot (s.raiseRecs core slot recs pc) := by
  obtain ⟨r, l, rfl⟩ := List.exists_cons_of_ne_nil hrecs
  let g : Warp → Warp := fun w =>
    { w with entry := some (w.entry.elim { recs := r :: l, reason := reasonOf r, pc := pc } fun e => e.join (r :: l)) }
  have hplace : (s.modWarp core slot g).warp? core slot = (s.warp? core slot).map g := State.warp?_modWarp fun _ h h' => ⟨h, h'⟩
  show ExceptedAt b core slot ((s.modWarp core slot g).tryEntry core slot)
  cases hs : s.warp? core slot with
  | none =>
    rw [hs] at hplace
    intro a ha
    rw [State.tryEntry, hplace] at ha
    exact absurd (ha.symm.trans hplace) (by simp)
  | some w =>
    obtain ⟨hentry, hctx, hhandler⟩ := hw w hs
    rw [hs] at hplace
    exact .tryEntry hplace (by simp [g, hentry]; rfl) rfl hctx hhandler

end

end Sys2Proof
end

section
/-! # Steps on the registers of one warp (O29) -/

namespace Sys2Proof

open Machine Safety

/-! ### What a step on the registers leaves of its warp -/

/-- `a` is `b` with other values in the registers `dst`, with other slices and windows, and, where `raises` says so, with more flags. -/
structure Safety.RegisterStep (dst : List (Cls × Nat)) (raises : Bool) (b a : Warp) : Prop where
  core : a.core = b.core
  slot : a.slot = b.slot
  ctx : a.ctx = b.ctx
  regs : onlyRegs dst b a
  control : sameControl b a
  gains : a.flags &&& b.flags = b.flags
  keeps : raises = false → a.flags = b.flags

section
variable {dst : List (Cls × Nat)} {raises : Bool} {b w v : Warp} {n : Nat} {c : Issue}

theorem Safety.RegisterStep.refl : RegisterStep dst raises b b :=
  ⟨rfl, rfl, rfl, ⟨fun _ _ => rfl, fun _ _ => rfl, fun _ _ => rfl, fun _ _ => rfl⟩, ⟨rfl, rfl, rfl, rfl, rfl, rfl, rfl⟩, BitVec.and_self,
    fun _ => rfl⟩

/-- Slices, windows and what is noted of past and shared writes are no registers. -/
theorem Safety.RegisterStep.frame {slices windows shared flights past} (h : RegisterStep dst raises b w) : RegisterStep dst raises b
    { w with slices := slices, windows := windows, shared := shared, flights := flights, past := past } :=
  ⟨h.core, h.slot, h.ctx, h.regs, h.control, h.gains, h.keeps⟩

theorem Safety.RegisterStep.ite {p : Prop} {_ : Decidable p} (hw : RegisterStep dst raises b w) (hv : RegisterStep dst raises b v) :
    RegisterStep dst raises b (if p then w else v) :=
  iteInduction (fun _ => hw) fun _ => hv

theorem Safety.RegisterStep.foldl {α : Type} {f : Warp → α → Warp} {l : List α} (h : RegisterStep dst raises b w)
    (hf : ∀ v, ∀ a ∈ l, RegisterStep dst raises b v → RegisterStep dst raises b (f v a)) : RegisterStep dst raises b (l.foldl f w) :=
  List.foldlRecOn l f h fun v hv a ha => hf v a ha hv

theorem Safety.RegisterStep.putV {x : VReg} (h : RegisterStep dst raises b w) (hn : (Cls.v, n) ∈ dst) :
    RegisterStep dst raises b (w.putV n x) := by
  obtain ⟨hv, hk, hs, hq⟩ := h.regs
  refine ⟨h.core, h.slot, h.ctx, ⟨fun m hm => ?_, hk, hs, hq⟩, h.control, h.gains, h.keeps⟩
  have hne : n ≠ m := fun e => hm (e ▸ hn)
  rw [← hv m hm]
  simp [Warp.getV, Warp.putV, List.getD, hne]

theorem Safety.RegisterStep.putK {x : KReg} (h : RegisterStep dst raises b w) (hn : (Cls.k, n) ∈ dst) :
    RegisterStep dst raises b (w.putK n x) := by
  obtain ⟨hv, hk, hs, hq⟩ := h.regs
  refine ⟨h.core, h.slot, h.ctx, ⟨hv, fun m hm => ?_, hs, hq⟩, h.control, h.gains, h.keeps⟩
  have hne : n ≠ m := fun e => hm (e ▸ hn)
  rw [← hk m hm]
  simp [Warp.getK, Warp.putK, List.getD, hne]

theorem Safety.RegisterStep.setQ {m x : LaneMask} (h : RegisterStep dst raises b w) (hn : (Cls.q, n) ∈ dst) :
    RegisterStep dst raises b (w.setQ n m x) := by
  refine .ite h ?_
  obtain ⟨hv, hk, hs, hq⟩ := h.regs
  refine ⟨h.core, h.slot, h.ctx, ⟨hv, hk, hs, fun m hm => ?_⟩, h.control, h.gains, h.keeps⟩
  have hne : n ≠ m := fun e => hm (e ▸ hn)
  rw [← hq m hm]
  simp [Warp.getQ, List.getD, hne]

/-- A scalar register written whole. -/
theorem Safety.RegisterStep.writeS {x : Word} (h : RegisterStep dst raises b w) (hn : (Cls.s, n) ∈ dst) :
    RegisterStep dst raises b { w with s := w.s.set n x } := by
  obtain ⟨hv, hk, hs, hq⟩ := h.regs
  refine ⟨h.core, h.slot, h.ctx, ⟨hv, hk, fun m hm => ?_, hq⟩, h.control, h.gains, h.keeps⟩
  have hne : n ≠ m := fun e => hm (e ▸ hn)
  rw [← hs m hm]
  simp [Warp.getS, List.getD, hne]

theorem Safety.RegisterStep.setS {m : LaneMask} {x : Word} (h : RegisterStep dst raises b w) (hn : (Cls.s, n) ∈ dst) :
    RegisterStep dst raises b (w.setS m n x) :=
  .ite h (.ite (.writeS h hn) (.writeS h hn))

theorem Safety.RegisterStep.setV {m : LaneMask} {g : Nat → Word} (h : RegisterStep dst raises b w) (hn : (Cls.v, n) ∈ dst) :
    RegisterStep dst raises b (w.setV n m g) := .putV h hn

theorem Safety.RegisterStep.orFlags {fl : Nat} (h : RegisterStep dst true b w) : RegisterStep dst true b (w.orFlags fl) := by
  refine ⟨h.core, h.slot, h.ctx, h.regs, h.control, ?_, fun e => absurd e.symm Bool.false_ne_true⟩
  refine BitVec.eq_of_getLsbD_eq fun i _ => ?_
  have hbit := congrArg (BitVec.getLsbD · i) h.gains
  simp only [BitVec.getLsbD_and] at hbit
  simp only [Warp.orFlags, BitVec.getLsbD_and, BitVec.getLsbD_or, Bool.and_or_distrib_right, hbit]
  cases b.flags.getLsbD i <;> simp

/-- The first `k` elements of one list before the rest of another of its length. -/
theorem Safety.getD_take_append_drop {α : Type} {x y : List α} {k m : Nat} {d : α} (h : x.length = y.length) :
    (x.take k ++ y.drop k).getD m d = if m < k then x.getD m d else y.getD m d := by
  have hrest : ¬ m < k → m < x.length → k + (m - min k x.length) = m := by omega
  have hnone : ¬ m < x.length → y.length ≤ k + (m - min k x.length) := by omega
  simp only [List.getD, List.getElem?_append, List.length_take, List.getElem?_take, List.getElem?_drop]
  by_cases hm : m < k <;> by_cases hx : m < x.length
  · simp [hm, hx]
  · simp [hm, hx, hnone hx]
  · simp [hm, hrest hm hx]
  · simp [hm, hx, hnone hx, List.getElem?_eq_none (show y.length ≤ m by omega)]

/-- A hood of dormant slices gets its own activity mask back (R174). -/
theorem Safety.RegisterStep.asleep {lanes : LaneMask} (hw : RegisterStep dst raises b w) (hv : RegisterStep dst raises b v)
    (hlen : v.s.length = w.s.length) : RegisterStep dst raises b (w.asleep v lanes) := by
  refine .ite ?_ hv
  obtain ⟨hrv, hrk, hrs, hrq⟩ := hv.regs
  obtain ⟨-, -, hws, -⟩ := hw.regs
  refine ⟨hv.core, hv.slot, hv.ctx, ⟨hrv, hrk, fun m hm => ?_, hrq⟩, hv.control, hv.gains, hv.keeps⟩
  have hold := hws m hm
  have hnew := hrs m hm
  simp only [Warp.getS, getD_take_append_drop hlen] at hold hnew ⊢
  by_cases hm124 : m = 124
  · simp [hm124]
  · simp only [hm124, if_false] at hold hnew ⊢
    split
    · exact hnew
    · exact hold

theorem Machine.Warp.putScalar_s_length {m : LaneMask} {d : BitVec 10} {wide : Bool} {x : Nat} :
    (w.putScalar m d wide x).s.length = w.s.length := by
  have hset : ∀ (u : Warp) n y, (u.setS m n y).s.length = u.s.length := fun u n y => by
    unfold Warp.setS
    split
    · rfl
    · split <;> simp
  unfold Warp.putScalar
  split
  · split
    · rw [Warp.setS64, hset, hset]
    · rw [hset]
  · rfl

/-! ### The destinations that a form names -/

/-- The registers that the field `x` names at the position `p` are among `dst`. -/
def Safety.Names (dst : List (Cls × Nat)) (x : BitVec 10) (p : Pos) : Prop := ∀ r ∈ fieldRegs (x, .reg p), r ∈ dst

section
variable {x : BitVec 10} {p : Pos} {i : Nat}

theorem Safety.Names.mem_v (h : Names dst x p) (hx : operand x = .v n) (hi : i < max p.group (if p.wide then 2 else 1)) : (Cls.v, n + i) ∈ dst :=
  h _ (by unfold fieldRegs; rw [hx]; exact List.mem_map.mpr ⟨i, by simpa using hi, rfl⟩)

theorem Safety.Names.mem_s (h : Names dst x p) (hx : operand x = .s n) (hi : i < max p.group (if p.wide then 2 else 1)) : (Cls.s, n + i) ∈ dst :=
  h _ (by unfold fieldRegs; rw [hx]; exact List.mem_map.mpr ⟨i, by simpa using hi, rfl⟩)

theorem Safety.Names.mem_k (h : Names dst x p) (hx : operand x = .k n) (hi : i < max p.group 1) : (Cls.k, n + i) ∈ dst :=
  h _ (by unfold fieldRegs; rw [hx]; exact List.mem_map.mpr ⟨i, by simpa using hi, rfl⟩)

theorem Safety.Names.mem_q (h : Names dst x p) (hx : operand x = .q n) (hi : i < max p.group 1) : (Cls.q, n + i) ∈ dst :=
  h _ (by unfold fieldRegs; rw [hx]; exact List.mem_map.mpr ⟨i, by simpa using hi, rfl⟩)

theorem Safety.Names.first_v (h : Names dst x p) (hx : operand x = .v n) : (Cls.v, n) ∈ dst := h.mem_v hx (i := 0) (by split <;> omega)

theorem Safety.Names.first_s (h : Names dst x p) (hx : operand x = .s n) : (Cls.s, n) ∈ dst := h.mem_s hx (i := 0) (by split <;> omega)

theorem Safety.Names.first_q (h : Names dst x p) (hx : operand x = .q n) : (Cls.q, n) ∈ dst := h.mem_q hx (i := 0) (by omega)

theorem Safety.RegisterStep.putScalar {m : LaneMask} {wide : Bool} {y : Nat} (h : RegisterStep dst raises b w) (hd : Names dst x p)
    (hw : wide = true → p.wide = true) : RegisterStep dst raises b (w.putScalar m x wide y) := by
  unfold Warp.putScalar
  split
  · rename_i n hx
    split
    · rename_i hwide
      exact .setS (.setS h (hd.first_s hx)) (hd.mem_s hx (i := 1) (by rw [if_pos (hw hwide)]; omega))
    · exact .setS h (hd.first_s hx)
  · exact h

theorem Safety.RegisterStep.putVector {m : LaneMask} {wide : Bool} {g : Nat → Nat} (h : RegisterStep dst raises b w) (hd : Names dst x p)
    (hw : wide = true → p.wide = true) : RegisterStep dst raises b (w.putVector m x wide g) := by
  unfold Warp.putVector
  split
  · rename_i n hx
    split
    · rename_i hwide
      exact .setV (.setV h (hd.first_v hx)) (hd.mem_v hx (i := 1) (by rw [if_pos (hw hwide)]; omega))
    · exact .setV h (hd.first_v hx)
  · exact h

/-! ### What the checks say of a field -/

theorem Machine.firstCause_eq_none {l : List (Option Cause)} : firstCause l = none ↔ ∀ y ∈ l, y = none := by
  induction l with
  | nil => simp [firstCause]
  | cons y l ih =>
    rw [List.forall_mem_cons, ← ih]
    cases y <;> simp [firstCause]

theorem Machine.failIf_eq_none {t : Bool} {y : Cause} : failIf t y = none ↔ t = false := by
  cases t <;> simp [failIf]

theorem Machine.checkReg_class {e : DecodeEnv} {cl : Cls} (h : checkReg e p cl n = none) : cl ∈ p.cls := by
  have hfail := firstCause_eq_none.mp h _ List.mem_cons_self
  simpa using failIf_eq_none.mp hfail

/-- The register number of a register operand is the number in its field. -/
theorem Machine.regNum_of_operand (h : operand x = .v n ∨ operand x = .s n ∨ operand x = .k n ∨ operand x = .q n) : n = regNum x := by
  unfold operand at h
  dsimp only at h
  unfold regNum
  split at h
  · simpa [eq_comm] using h
  · split_ifs at h <;> simp_all
  · simpa [eq_comm] using h
  · split_ifs at h <;> simp_all

/-- A destination of one class that may not be absent: the registers from the number in its field on. -/
theorem Safety.Names.of_check {e : DecodeEnv} {cl : Cls} (h : Names dst x p) (hc : checkUse e x (.reg p) = none) (hcls : p.cls = [cl])
    (hdst : p.dst = true) (hopt : p.opt = false) (hi : i < max p.group 1) : (cl, regNum x + i) ∈ dst := by
  have hwide : i < max p.group (if p.wide then 2 else 1) := by split <;> omega
  have hclass : ∀ {d n}, checkReg e p d n = none → cl = d := fun hr => by
    have hmem := checkReg_class hr
    rw [hcls] at hmem
    exact (List.mem_singleton.mp hmem).symm
  unfold checkUse at hc
  dsimp only at hc
  split at hc
  · rename_i n hx
    rw [hclass hc, ← regNum_of_operand (.inl hx)]
    exact h.mem_v hx hwide
  · rename_i n hx
    rw [hclass hc, ← regNum_of_operand (.inr (.inl hx))]
    exact h.mem_s hx hwide
  · rename_i n hx
    rw [hclass hc, ← regNum_of_operand (.inr (.inr (.inl hx)))]
    exact h.mem_k hx hi
  · rename_i n hx
    rw [hclass hc, ← regNum_of_operand (.inr (.inr (.inr hx)))]
    exact h.mem_q hx hi
  all_goals simp [hdst, hopt] at hc

end

end

end Sys2Proof
end

section
/-! # How an instruction that changes registers alone ends (O29) -/

namespace Sys2Proof

open Machine Safety

/-! ### The functions on a warp -/

/-- `g` writes no more than the registers `dst`, wherever a step of them stands. -/
def Safety.WritesOnly (dst : List (Cls × Nat)) (raises : Bool) (g : Warp → Warp) : Prop :=
  ∀ b w, RegisterStep dst raises b w → RegisterStep dst raises b (g w)

section
variable {dst : List (Cls × Nat)} {raises : Bool} {b w : Warp} {s t : State} {c : Issue} {g : Warp → Warp} {core slot : Nat}

theorem Safety.WritesOnly.place (h : WritesOnly dst raises g) (w : Warp) : (g w).core = w.core ∧ (g w).slot = w.slot :=
  ⟨(h w w .refl).core, (h w w .refl).slot⟩

theorem Safety.keepsPlace.of_same (h : ∀ w, (g w).core = w.core ∧ (g w).slot = w.slot) : keepsPlace core slot g :=
  fun w hc hs => ⟨(h w).1.trans hc, (h w).2.trans hs⟩

theorem Safety.RegisterStep.mapSlices {k : Nat → Slice → Slice} (h : RegisterStep dst raises b w) : RegisterStep dst raises b (w.mapSlices k) :=
  h.frame

/-- Moving on notes what was written and opens windows, and writes no register, where no race stands open. -/
theorem Safety.RegisterStep.moved {v : Warp} (h : RegisterStep dst raises b w) (hv : v.shared = []) :
    RegisterStep dst raises b (moved v c w) := by
  have hwrote : c.wrote v (w.moveHood c.hood (nextPc c.pc)) = Warp.notePast v (Warp.noteShared v (w.moveHood c.hood (nextPc c.pc))
      (w.moveHood c.hood (nextPc c.pc)) c.lanes c.sharedWritten) c.s.free c.wroteLanes c.written := by simp [Issue.wrote, hv]
  unfold Safety.moved
  rw [hwrote]
  have hmoved : RegisterStep dst raises b (w.moveHood c.hood (nextPc c.pc)) := h.mapSlices
  have hnoted : RegisterStep dst raises b (Warp.noteShared v (w.moveHood c.hood (nextPc c.pc))
      (w.moveHood c.hood (nextPc c.pc)) c.lanes c.sharedWritten) := .ite hmoved hmoved.frame
  exact hnoted.frame.frame

theorem Safety.RegisterStep.waitHood {h : Nat} {x : Wait} (hw : RegisterStep dst raises b w) : RegisterStep dst raises b (w.waitHood h x) :=
  hw.mapSlices

theorem Safety.RegisterStep.feltJoin {j : Warp} (h : RegisterStep dst raises b w) (hj : w.feltJoin = some j) : RegisterStep dst raises b j := by
  unfold Warp.feltJoin at hj
  split at hj
  · cases hj
  · split at hj
    · cases hj
    · split at hj
      · cases hj
        exact h.mapSlices.frame
      · cases hj

/-! ### How the performance ends -/

/-- A performance that changes registers of its warp alone: it completes with such a change, and may then trap; it faults; it is held back;
or, of a hood that is to wait for the others, it waits. -/
inductive Safety.RegisterRes (dst : List (Cls × Nat)) (raises : Bool) (c : Issue) : Res → Prop
  | next {g : Warp → Warp} (hg : WritesOnly dst raises g) : RegisterRes dst raises c (.next (c.put g))
  | trap {g : Warp → Warp} {l : List FaultRec} (hg : WritesOnly dst raises g) (hl : l ≠ []) : RegisterRes dst raises c (.trap (c.put g) l)
  | fault {l : List FaultRec} (hl : l ≠ []) : RegisterRes dst raises c (.fault c.s l)
  | stall : RegisterRes dst raises c .stall
  | early : RegisterRes dst raises c (.hold ((c.put fun w => w.waitHood c.hood .collective).resolveFelt c.w.core c.w.slot))

/-! ### What it leaves of the machine -/

/-- From `s` to `t` nothing changes but the warp in the place of `b`, and of that no more than the registers `dst`. -/
structure Safety.Framed (dst : List (Cls × Nat)) (raises : Bool) (b : Warp) (s t : State) : Prop where
  rest : { t with warps := s.warps, free := s.free } = s
  others : ∀ core slot, core ≠ b.core ∨ slot ≠ b.slot → t.warp? core slot = s.warp? core slot
  own : ∀ a, t.warp? b.core b.slot = some a → RegisterStep dst raises b a

theorem Safety.Framed.refl (h : s.warp? b.core b.slot = some b) : Framed dst raises b s s :=
  ⟨rfl, fun _ _ _ => rfl, fun a ha => by rw [h] at ha; cases ha; exact .refl⟩

theorem Safety.Framed.recs (h : Framed dst raises b s t) : t.recs = s.recs := by
  rw [← h.rest]

theorem Safety.Framed.modWarp (h : Framed dst raises b s t) (hp : keepsPlace b.core b.slot g)
    (hg : ∀ w, RegisterStep dst raises b w → RegisterStep dst raises b (g w)) : Framed dst raises b s (t.modWarp b.core b.slot g) := by
  refine ⟨h.rest, fun core slot hne => ?_, fun a ha => ?_⟩
  · rw [State.warp?_modWarp_of_ne hp hne, h.others core slot hne]
  · rw [State.warp?_modWarp hp, Option.map_eq_some_iff] at ha
    obtain ⟨w, hw, rfl⟩ := ha
    exact hg w (h.own w hw)

theorem Safety.Framed.setWarp {w : Warp} (h : Framed dst raises b s t) (hw : RegisterStep dst raises b w) :
    Framed dst raises b s (t.setWarp w) := by
  have hset : t.setWarp w = t.modWarp b.core b.slot fun _ => w := by rw [← hw.core, ← hw.slot]; rfl
  rw [hset]
  exact h.modWarp (fun _ _ _ => ⟨hw.core, hw.slot⟩) fun _ _ => hw

theorem Safety.Framed.withFree {n : Nat} (h : Framed dst raises b s t) : Framed dst raises b s { t with free := n } :=
  ⟨h.rest, h.others, h.own⟩

/-- A step on the registers alone, or a warp that has taken an exception. -/
def Safety.FramedOr (dst : List (Cls × Nat)) (raises : Bool) (b : Warp) (s t : State) : Prop :=
  Framed dst raises b s t ∨ ExceptedAt b b.core b.slot t

theorem Safety.FramedOr.settle (h : FramedOr dst raises b s t) (hs : s.recs = []) : FramedOr dst raises b s t.settle := by
  refine h.imp (fun h => ?_) fun h => h.same (.settle .refl)
  rw [State.settle_of_recs (h.recs.trans hs)]
  exact h

/-- A warp that has moved no further than its registers, and raises records. -/
theorem Safety.Framed.raiseRecs {recs : List FaultRec} {pc : DWord} (h : Framed dst raises b s t) (hrecs : recs ≠ []) (he : b.entry = none) :
    ExceptedAt b b.core b.slot (t.raiseRecs b.core b.slot recs pc) := by
  refine .raiseRecs hrecs fun w hw => ?_
  have hstep := h.own w hw
  obtain ⟨-, -, -, hhandler, -, hentry, -⟩ := hstep.control
  exact ⟨hentry.trans he, hstep.ctx, hhandler⟩

theorem Safety.FramedOr.resolveFelt (h : Framed dst raises b s t) (he : b.entry = none) :
    FramedOr dst raises b s (t.resolveFelt b.core b.slot) := by
  unfold State.resolveFelt
  split
  · exact .inl h
  · rename_i w hw
    have hstep := h.own w hw
    split
    · rename_i j hj
      exact .inl (h.setWarp (hstep.feltJoin hj))
    · split
      · exact .inl (h.setWarp hstep.waitHood)
      · split
        · exact .inr (h.raiseRecs (List.cons_ne_nil _ _) he)
        · exact .inl h

theorem Safety.FramedOr.modWindows {k : Warp → List Window} (h : FramedOr dst raises b s t) :
    FramedOr dst raises b s (t.modWarp b.core b.slot fun w => { w with windows := k w }) := by
  have hplace : keepsPlace b.core b.slot fun w : Warp => { w with windows := k w } := fun _ hc hs => ⟨hc, hs⟩
  refine h.imp (fun h => h.modWarp hplace fun _ hw => hw.frame) fun h a ha => ?_
  rw [State.warp?_modWarp hplace, Option.map_eq_some_iff] at ha
  obtain ⟨w, hw, rfl⟩ := ha
  exact h w hw

end

end Sys2Proof
end

section
/-! # What an issue that changes registers alone leaves of the machine (O29) -/

namespace Sys2Proof

open Machine Safety

section
variable {dst : List (Cls × Nat)} {raises : Bool} {b w : Warp} {s t : State} {c : Issue} {i : Instr} {g : Warp → Warp}

theorem Machine.State.warp?_of_issuer (h : s.issuer? = some w) : s.warp? s.cur.core s.cur.slot = some w ∧ w.entry = none := by
  unfold State.issuer? at h
  split at h
  · cases h
  · rename_i v hv
    dsimp only at h
    split at h
    · cases h
    · rename_i hno
      split at h
      · cases h
        simp only [Bool.or_eq_true, not_or, Bool.not_eq_true] at hno
        obtain ⟨⟨⟨-, hentry⟩, -⟩, -⟩ := hno
        exact ⟨hv, by simpa using hentry⟩
      · cases h

/-- An instruction that is not collective issues from its warp as it stands. -/
theorem Safety.issueOf_warp (h : issueOf i s = some (b, c)) (hc : isCollective c.opc c.form = false) :
    s.warp? b.core b.slot = some b ∧ b.entry = none := by
  obtain ⟨hbc, hbs, -, -⟩ := issueOf_place h
  obtain ⟨opc, f, w, -, hw, -, rfl, rfl, -⟩ := issueOf_spec h
  have hcol : isCollective opc f = false := hc
  rw [hbc, hbs, if_neg (by simp [hcol])]
  exact State.warp?_of_issuer hw

/-- Closing an issue that leaves the storage alone writes no record. -/
theorem Machine.Issue.finish_recs (h : c.s.upsets = []) : (c.finish b (.next (c.put g))).recs = c.s.recs := by
  unfold Issue.finish closeIssue State.advance
  dsimp only
  rw [if_pos rfl, Issue.signed_of_store (by rfl), State.clearWords_of_upsets (by exact h)]
  rfl

/-- A completed change of registers is a step on them alone. -/
theorem Safety.Framed.retired (hs : c.s = s) (hcore : c.w.core = b.core) (hslot : c.w.slot = b.slot) (hb : s.warp? b.core b.slot = some b)
    (hshared : b.shared = []) (hg : WritesOnly dst raises g) : Framed dst raises b s (retired b c g) := by
  unfold Safety.retired
  rw [hcore, hslot, hs]
  have hplace : keepsPlace b.core b.slot fun w => moved b c (g w) := .of_same fun w =>
    have hstep : RegisterStep dst raises w (moved b c (g w)) := (hg w w .refl).moved hshared
    ⟨hstep.core, hstep.slot⟩
  exact .withFree (.modWarp (.refl hb) hplace fun w hw => (hg b w hw).moved hshared)

/-- Whatever the performance comes to, it leaves a step on the registers of its warp, or a warp that takes an exception. -/
theorem Safety.FramedOr.after {r : Res} (h : issueOf i s = some (b, c)) (q : quiet b c) (hc : isCollective c.opc c.form = false)
    (hr : RegisterRes dst raises c r) : FramedOr dst raises b s (after b c r) := by
  obtain ⟨hbc, hbs, hwc, hws⟩ := issueOf_place h
  have hs := issueOf_s h
  have hcore : c.w.core = b.core := hwc.trans hbc.symm
  have hslot : c.w.slot = b.slot := hws.trans hbs.symm
  obtain ⟨hb, hentry⟩ := issueOf_warp h hc
  obtain ⟨-, hshared, hnone, hupsets⟩ := id q
  have hrecs : s.recs = [] := hs ▸ hnone
  have hnext : ∀ {g}, WritesOnly dst raises g → Framed dst raises b s (Safety.after b c (.next (c.put g))) := fun hg => by
    rw [after_next h q hg.place]
    exact .retired hs hcore hslot hb hshared hg
  cases hr with
  | next hg => exact .inl (hnext hg)
  | @trap g l hg hl =>
    have hframe : Framed dst raises b s (c.finish b (.next (c.put g))) := by
      rw [← State.settle_of_recs ((Issue.finish_recs hupsets).trans hnone)]
      exact hnext hg
    have htrap : (c.finish b (.next (c.put g))).raiseRecs b.core b.slot l c.pc = c.finish b (.trap (c.put g) l) := by
      rw [← hcore, ← hslot]
      rfl
    rw [Safety.after, ← htrap]
    exact .settle (.inr (hframe.raiseRecs hl hentry)) hrecs
  | @fault l hl =>
    unfold Safety.after Issue.finish
    dsimp only
    rw [hs, hcore, hslot]
    exact .settle (.inr ((Framed.refl (dst := dst) (raises := raises) hb).raiseRecs hl hentry)) hrecs
  | stall =>
    unfold Safety.after Issue.finish
    dsimp only
    rw [hs, hcore, hslot]
    exact .settle (.inl (.modWarp (.refl hb) (fun _ _ _ => ⟨rfl, rfl⟩) fun _ _ => RegisterStep.refl.mapSlices)) hrecs
  | early =>
    unfold Safety.after Issue.finish
    dsimp only
    rw [Issue.put, hs, hcore, hslot]
    exact .settle (.modWindows (.resolveFelt (.modWarp (.refl hb) (fun _ h h' => ⟨h, h'⟩) fun _ hw => hw.waitHood) hentry)) hrecs

end

end Sys2Proof
end

section
/-! # Performances that change registers alone (O29) -/

namespace Sys2Proof

open Machine Safety

/-! ### What the checks of R238 leave -/

section
variable {e : DecodeEnv} {opc : Nat} {x : BitVec 10} {u : Use} {p : Pos} {l : List Nat}

theorem Machine.checkForm_of_checkAll {f : Form} (h : checkAll e opc f = none) : checkForm e opc f = none :=
  firstCause_eq_none.mp h _ List.mem_cons_self

theorem Machine.checkA_of_checkAll {f : FormA} (h : checkAll e opc (.a f) = none) (h0 : opc ≠ 0) : checkA e opc f = none := by
  have hform := checkForm_of_checkAll h
  rwa [checkForm, if_neg h0] at hform

theorem Machine.checkI_of_checkAll {f : FormI} (h : checkAll e opc (.i f) = none) (h0 : opc ≠ 0) : checkI e opc f = none := by
  have hform := checkForm_of_checkAll h
  rwa [checkForm, if_neg h0] at hform

theorem Machine.checkX_of_checkAll {f : FormX} (h : checkAll e opc (.x f) = none) (h0 : opc ≠ 0) : checkX e opc f = none := by
  have hform := checkForm_of_checkAll h
  rwa [checkForm, if_neg h0] at hform

theorem Machine.dest_of_checkA {f : FormA} (h : checkA e opc f = none) : checkUse e f.d (specA opc f).d = none :=
  firstCause_eq_none.mp h _ (by simp)

theorem Machine.dest_of_checkI {f : FormI} (h : checkI e opc f = none) : checkUse e f.d (specI opc f).d = none :=
  firstCause_eq_none.mp h _ (by simp)

theorem Machine.dest_of_checkX {f : FormX} (h : checkX e opc f = none) : checkUse e f.d (specX opc f).d = none :=
  firstCause_eq_none.mp h _ (by simp)

theorem Machine.mem_of_checkCode {t : Nat} (h : checkCode t (some l) = none) : t ∈ l := by
  simpa using failIf_eq_none.mp h

theorem Machine.sub_mem_of_checkA {f : FormA} (h : checkA e opc f = none) (hl : (specA opc f).subs = some l) : f.sub.toNat ∈ l :=
  mem_of_checkCode (hl ▸ firstCause_eq_none.mp h _ (by simp))

theorem Machine.sub_mem_of_checkI {f : FormI} (h : checkI e opc f = none) (hl : (specI opc f).subs = some l) : f.sub.toNat ∈ l :=
  mem_of_checkCode (hl ▸ firstCause_eq_none.mp h _ (by simp))

theorem Machine.mem_of_checkTy {t : Nat} {o : OpSpec} (h : checkTy t o = none) (hl : o.tys = some l) : t ∈ l := by
  unfold checkTy at h
  rw [hl] at h
  dsimp only at h
  split at h
  · cases h
  · simpa using failIf_eq_none.mp h

theorem Machine.ty_mem_of_checkA {f : FormA} (h : checkA e opc f = none) (hl : (specA opc f).tys = some l) : f.ty.toNat ∈ l :=
  mem_of_checkTy (firstCause_eq_none.mp h _ (by simp)) hl

theorem Machine.ty_mem_of_checkI {f : FormI} (h : checkI e opc f = none) (hl : (specI opc f).tys = some l) : f.ty.toNat ∈ l :=
  mem_of_checkTy (firstCause_eq_none.mp h _ (by simp)) hl

/-! ### Destinations -/

theorem Safety.destRegs_subset {f : Form} {r : Cls × Nat} (h : r ∈ destRegs opc f) : r ∈ Safety.writtenRegs opc f := by
  unfold Safety.writtenRegs
  dsimp only
  split
  · exact List.mem_append_left _ h
  · exact h

/-- A destination field names registers that the instruction may write. -/
theorem Safety.Names.dest {f : Form} (hx : (x, .reg p) ∈ fieldUses opc f) (hp : p.dst = true) :
    Names (Safety.writtenRegs opc f) x p := by
  intro r hr
  have hfield : r ∈ destFields opc f := List.mem_flatMap.mpr ⟨_, List.mem_filter.mpr ⟨hx, hp⟩, hr⟩
  refine destRegs_subset ?_
  unfold destRegs
  dsimp only
  split
  · exact List.mem_append_left _ hfield
  · exact hfield

theorem Safety.Names.dest_s2 {f : FormA} (h : (specA opc f).s2 = .reg p) (hp : p.dst = true) : Names (Safety.writtenRegs opc (.a f)) f.s2 p :=
  .dest (by simp [fieldUses, h]) hp

theorem Safety.Names.dest_s3 {f : FormA} (h : (specA opc f).s3 = .reg p) (hp : p.dst = true) : Names (Safety.writtenRegs opc (.a f)) f.s3 p :=
  .dest (by simp [fieldUses, h]) hp

/-- The registers of a format-A destination of one class, which the form may not leave out. -/
theorem Safety.written_of_checkA {f : FormA} {cl : Cls} {i : Nat} (h : checkA e opc f = none) (hd : (specA opc f).d = .reg p)
    (hp : p.dst = true ∧ p.opt = false) (hcls : p.cls = [cl]) (hi : i < max p.group 1) : (cl, regNum f.d + i) ∈ Safety.writtenRegs opc (.a f) :=
  (Names.dest (List.mem_cons.mpr (.inl (hd ▸ rfl))) hp.1).of_check (hd ▸ dest_of_checkA h) hcls hp.1 hp.2 hi

/-- The same for format I. -/
theorem Safety.written_of_checkI {f : FormI} {cl : Cls} {i : Nat} (h : checkI e opc f = none) (hd : (specI opc f).d = .reg p)
    (hp : p.dst = true ∧ p.opt = false) (hcls : p.cls = [cl]) (hi : i < max p.group 1) : (cl, regNum f.d + i) ∈ Safety.writtenRegs opc (.i f) :=
  (Names.dest (List.mem_cons.mpr (.inl (hd ▸ rfl))) hp.1).of_check (hd ▸ dest_of_checkI h) hcls hp.1 hp.2 hi

/-- VQNT writes the v register that its destination names, and the k register beside it (R311). -/
theorem Safety.written_of_quant {f : FormX} (h : checkX e 0x095 f = none) :
    (Cls.v, regNum f.d) ∈ Safety.writtenRegs 0x095 (.x f) ∧ (Cls.k, regNum f.d) ∈ Safety.writtenRegs 0x095 (.x f) := by
  have hd : (specX 0x095 f).d = dV false := rfl
  have hdest : Names (destFields 0x095 (.x f)) f.d { cls := [.v], dst := true } := fun r hr =>
    List.mem_flatMap.mpr ⟨_, List.mem_filter.mpr ⟨List.mem_cons_self, rfl⟩, hr⟩
  have hv : (Cls.v, regNum f.d + 0) ∈ destFields 0x095 (.x f) := hdest.of_check (hd ▸ dest_of_checkX h) rfl rfl rfl (by decide)
  have hreg : (Cls.v, regNum f.d) ∈ destRegs 0x095 (.x f) := List.mem_append_left _ hv
  exact ⟨destRegs_subset hreg, List.mem_append_right _ (List.mem_map.mpr ⟨_, hreg, rfl⟩)⟩

end

/-! ### Completions -/

section
variable {dst : List (Cls × Nat)} {raises : Bool} {c : Issue} {x : BitVec 10} {p : Pos} {wide : Bool} {g : Warp → Warp} {r t : Res}

theorem Safety.RegisterRes.ite {a : Prop} {_ : Decidable a} (hr : RegisterRes dst raises c r) (ht : RegisterRes dst raises c t) :
    RegisterRes dst raises c (if a then r else t) :=
  iteInduction (fun _ => hr) fun _ => ht

/-- With nothing to perform nothing changes. -/
theorem Safety.RegisterRes.idle : RegisterRes dst raises c (.next c.s) := by
  rw [← c.put_id]
  exact .next fun _ _ h => h

theorem Safety.RegisterRes.done (hg : WritesOnly dst raises g) : RegisterRes dst raises c (c.done g) := .next hg

theorem Safety.RegisterRes.badHood {y : Cause} {va : DWord} : RegisterRes dst raises c (c.badHood y va) := .fault (List.cons_ne_nil _ _)

theorem Safety.RegisterRes.scalarDone {y : Nat} (hd : Names dst x p) (hw : wide = true → p.wide = true) :
    RegisterRes dst raises c (c.scalarDone x wide y) :=
  .ite .idle (.done fun _ _ h => h.putScalar hd hw)

theorem Safety.RegisterRes.sBin {f : FormA} {k} (hd : Names dst f.d p) (hw : wideTy f.ty.toNat = true → p.wide = true) :
    RegisterRes dst raises c (c.sBin f k) := .scalarDone hd hw

theorem Safety.RegisterRes.sBinI {f : FormI} {k} (hd : Names dst f.d p) (hw : wideTy f.ty.toNat = true → p.wide = true) :
    RegisterRes dst raises c (c.sBinI f k) := .scalarDone hd hw

theorem Safety.RegisterRes.sShift {f : FormA} {k} (hd : Names dst f.d p) (hw : wideTy f.ty.toNat = true → p.wide = true) :
    RegisterRes dst raises c (c.sShift f k) := .scalarDone hd hw

theorem Safety.RegisterRes.sShiftI {f : FormI} {k} (hd : Names dst f.d p) (hw : wideTy f.ty.toNat = true → p.wide = true) :
    RegisterRes dst raises c (c.sShiftI f k) := .scalarDone hd hw

theorem Safety.RegisterRes.cmpDone {y : Bool} (hd : Names dst x p) (hw : wide = true → p.wide = true) :
    RegisterRes dst raises c (c.cmpDone x wide y) := by
  refine .ite .idle ?_
  split
  · rename_i n hx
    exact .done fun _ _ h => h.setQ (hd.first_q hx)
  · exact .scalarDone hd hw

theorem Safety.RegisterRes.vectorDone {k : Nat → Nat} (hd : Names dst x p) (hw : wide = true → p.wide = true) :
    RegisterRes dst raises c (c.vectorDone x wide k) := .done fun _ _ h => h.putVector hd hw

theorem Safety.RegisterRes.vBin {f : FormA} {k} (hd : Names dst f.d p) (hw : wideTy f.ty.toNat = true → p.wide = true) :
    RegisterRes dst raises c (c.vBin f k) := .vectorDone hd hw

theorem Safety.RegisterRes.vBinI {f : FormI} {k} (hd : Names dst f.d p) (hw : wideTy f.ty.toNat = true → p.wide = true) :
    RegisterRes dst raises c (c.vBinI f k) := .vectorDone hd hw

theorem Safety.RegisterRes.vShift {f : FormA} {k} (hd : Names dst f.d p) (hw : wideTy f.ty.toNat = true → p.wide = true) :
    RegisterRes dst raises c (c.vShift f k) := .vectorDone hd hw

theorem Safety.RegisterRes.vShiftI {f : FormI} {k} (hd : Names dst f.d p) (hw : wideTy f.ty.toNat = true → p.wide = true) :
    RegisterRes dst raises c (c.vShiftI f k) := .vectorDone hd hw

theorem Safety.RegisterRes.vCmpDone {k : Nat → Bool} (hd : (Cls.q, regNum x) ∈ dst) : RegisterRes dst raises c (c.vCmpDone x k) :=
  .done fun _ _ h => h.setQ hd

/-- Raised flags are ORed in, and the enabled ones trap. -/
theorem Safety.RegisterRes.doneFlags {l : List (Nat × Nat)} (hg : WritesOnly dst true g) : RegisterRes dst true c (c.doneFlags l g) := by
  have hflags : WritesOnly dst true fun w => (g w).orFlags (flagsUnion l) := fun b w h => (hg b w h).orFlags
  unfold Issue.doneFlags
  dsimp only
  split
  · exact .next hflags
  · rename_i hne
    exact .trap hflags hne

theorem Safety.RegisterRes.floatDone {k : Nat → FRes} (hd : Names dst x p) (hw : wide = true → p.wide = true) :
    RegisterRes dst true c (c.floatDone x wide k) := .doneFlags fun _ _ h => h.putVector hd hw

theorem Safety.RegisterRes.fRun {f : FormA} {rand : BitVec 10} {k} (hd : Names dst f.d p) (hw : wideTy f.ty.toNat = true → p.wide = true) :
    RegisterRes dst true c (c.fRun f rand k) := .floatDone hd hw

theorem Safety.RegisterRes.kDone {q : Nat → Bool} {k : Nat → Byte} (hd : (Cls.k, regNum x) ∈ dst) :
    RegisterRes dst raises c (c.kDone x q k) := .done fun _ _ h => h.putK hd

theorem Safety.RegisterRes.kget {sub idx : Nat} {y : BitVec 10} (hd : Names dst x p) (hw : sub ≠ 0 → p.wide = true) :
    RegisterRes dst raises c (c.kget sub x y idx) := by
  refine .ite .idle (iteInduction (fun _ => ?_) fun hsub => ?_)
  · exact .ite .badHood (.scalarDone hd fun h => absurd h Bool.false_ne_true)
  · exact .ite .badHood (.scalarDone hd fun _ => hw hsub)

theorem Safety.RegisterRes.kset {sub idx : Nat} {y : BitVec 10} (hd : (Cls.k, regNum x) ∈ dst) :
    RegisterRes dst raises c (c.kset sub x y idx) :=
  .ite .idle (.ite (.ite .badHood (.kDone hd)) (.ite .badHood (.kDone hd)))

theorem Safety.RegisterRes.kadd {ty : Nat} {y : BitVec 10} {delta : Int} (hd : (Cls.k, regNum x) ∈ dst) :
    RegisterRes dst true c (c.kadd ty x y delta) := .doneFlags fun _ _ h => h.putK hd

theorem Safety.RegisterRes.srget {f : FormI} (hd : Names dst f.d p) (hw : wideSpecial f.imm.toNat = true → p.wide = true) :
    RegisterRes dst raises c (c.srget f) := by
  have hnarrow : false = true → p.wide = true := fun h => absurd h Bool.false_ne_true
  refine .ite .stall (.ite (.done fun _ _ h => h.putVector hd hnarrow) (.ite (.done fun _ _ h => h.putVector hd hnarrow) (.ite .idle ?_)))
  exact .done fun _ _ h => (h.putScalar hd hw).putVector hd hw

/-- The other hoods go on with the one that performs a collective instruction (R182). -/
theorem Safety.RegisterRes.passed (hr : RegisterRes dst raises c r) : RegisterRes dst raises c (c.passed r) := by
  have hput : ∀ {g}, WritesOnly dst raises g → c.passOthers (c.put g) = c.put fun w => (g w).releaseCollective.closeWindows := fun hg =>
    State.modWarp_modWarp _ _ _ _ _ hg.place
  cases hr with
  | next hg =>
    rw [Issue.passed, hput hg]
    exact .next fun b w h => ((hg b w h).mapSlices).frame
  | trap hg hl =>
    rw [Issue.passed, hput hg]
    exact .trap (fun b w h => ((hg b w h).mapSlices).frame) hl
  | fault hl => exact .fault hl
  | stall => exact .stall
  | early => exact .early

/-- The whole warp's issue has the warp and the state of the hood's. -/
theorem Safety.RegisterRes.of_whole (hr : RegisterRes dst raises c.whole r) : RegisterRes dst raises c r := by
  cases hr with
  | next hg => exact .next hg
  | trap hg hl => exact .trap hg hl
  | fault hl => exact .fault hl
  | stall => exact .stall
  | early => exact .early

theorem Safety.RegisterRes.collective {k : Issue → Res} (hk : ∀ c, RegisterRes dst raises c (k c)) :
    RegisterRes dst raises c (c.collective k) := by
  refine iteInduction (fun _ => ?_) fun _ => .early
  exact (hk c.whole).of_whole.passed

/-- VQNT's results stand in one v register and in the k register beside it. -/
theorem Safety.RegisterStep.store {b w : Warp} {q : QuantOut} {ty n : Nat} {k : Nat → Bool} (h : RegisterStep dst raises b w)
    (hn : (Cls.v, n) ∈ dst ∧ (Cls.k, n) ∈ dst) : RegisterStep dst raises b (q.store ty n k w) := (h.setV hn.1).putK hn.2

end

end Sys2Proof
end

section
/-! # The instructions that change registers alone (O29) -/

namespace Sys2Proof

open Machine Safety

/-- Whether an instruction that changes registers alone may raise flags: SCVT, and from 0x060 on (R77). -/
def Safety.mayRaise (opc : Nat) : Bool := 0x060 ≤ opc || opc = 0x039

/-- Where `i` has an opcode from `lo` to `top` and changes registers alone, its performance writes no more than its destinations. -/
def Safety.Confined (lo top : Nat) (i : Instr) : Prop :=
  ∀ opc f, i.code? = some (opc, f) → lo ≤ opc → opc ≤ top → registerOnly opc f = true →
    ∃ body : Issue → Res, (∀ s, exec i s = issue opc f s body) ∧
      ∀ e c, checkAll e opc f = none → RegisterRes (Safety.writtenRegs opc f) (mayRaise opc) c (body c)

section
variable {lo top : Nat} {i : Instr} {opc : Nat} {body : Issue → Res}

theorem Safety.Confined.of {f : Form} (hi : i.code? = some (opc, f))
    (hb : ∀ e c, checkAll e opc f = none → RegisterRes (Safety.writtenRegs opc f) (mayRaise opc) c (body c))
    (he : ∀ s, exec i s = issue opc f s body := by intro s; dsimp only [exec]; rfl) : Confined lo top i := by
  intro opc' f' hi' _ _ _
  rw [hi, Option.some.injEq, Prod.mk.injEq] at hi'
  obtain ⟨rfl, rfl⟩ := hi'
  exact ⟨body, he, hb⟩

/-- The same for format A, with checks 4 to 9 alone. -/
theorem Safety.Confined.of_a {f : FormA} (hi : i.code? = some (opc, .a f))
    (hb : ∀ e c, checkA e opc f = none → RegisterRes (Safety.writtenRegs opc (.a f)) (mayRaise opc) c (body c))
    (he : ∀ s, exec i s = issue opc (.a f) s body := by intro s; dsimp only [exec]; rfl) (h0 : opc ≠ 0 := by decide) : Confined lo top i :=
  .of hi (fun e c h => hb e c (checkA_of_checkAll h h0)) he

/-- The same for format I. -/
theorem Safety.Confined.of_i {f : FormI} (hi : i.code? = some (opc, .i f))
    (hb : ∀ e c, checkI e opc f = none → RegisterRes (Safety.writtenRegs opc (.i f)) (mayRaise opc) c (body c))
    (he : ∀ s, exec i s = issue opc (.i f) s body := by intro s; dsimp only [exec]; rfl) (h0 : opc ≠ 0 := by decide) : Confined lo top i :=
  .of hi (fun e c h => hb e c (checkI_of_checkAll h h0)) he

/-- Nothing is claimed of an event, of an instruction of another range, or of one that changes more than registers. -/
theorem Safety.Confined.of_other (h : (i.code?.all fun x => !(lo.ble x.1 && x.1.ble top && registerOnly x.1 x.2)) = true) : Confined lo top i := by
  intro opc f hi' hlo hhi hreg
  rw [hi', Option.all_some, hreg, Nat.ble_eq_true_of_le hlo, Nat.ble_eq_true_of_le hhi] at h
  cases h

end

/-- A destination that is written as single asks for no pair. -/
theorem Safety.notWide {p : Pos} (h : false = true) : p.wide = true := nomatch h

/-! ### Scalar instructions -/

theorem Safety.confined_smovi (f : FormI) : Confined 0x000 0x03F (.smovi f) := by
  refine .of_i (he := exec_smovi f) rfl fun e c h => iteInduction (fun hsub => ?_) fun _ => .scalarDone (.dest List.mem_cons_self rfl) id
  have hty := ty_mem_of_checkI h rfl
  refine .scalarDone (.dest List.mem_cons_self rfl) fun _ => ?_
  have hwide : f.ty.toNat = 0x13 := by simpa [hsub] using hty
  show wideTy f.ty.toNat = true
  rw [hwide]
  rfl

/-- SMOVIH writes the high register of its pair. -/
theorem Safety.confined_smovih (f : FormI) : Confined 0x000 0x03F (.smovih f) := by
  refine .of_i (he := exec_smovih f) rfl fun e c _ => .ite .idle ?_
  split
  · rename_i n hx
    exact .done fun _ _ h => h.setS ((Names.dest List.mem_cons_self rfl).mem_s hx (i := 1) (by decide))
  · exact .idle

/-! ### Vector instructions -/

theorem Safety.confined_philox (f : FormA) : Confined 0x040 0x05F (.philox f) := by
  refine .of_a (he := exec_philox f) rfl fun e c hc => ?_
  have hd : ∀ i, i < 4 → (Cls.v, regNum f.d + i) ∈ Safety.writtenRegs 0x059 (.a f) := fun i hi =>
    written_of_checkA hc rfl ⟨rfl, rfl⟩ rfl hi
  exact .done fun _ _ h => (((h.setV (hd 0 (by decide))).setV (hd 1 (by decide))).setV (hd 2 (by decide))).setV (hd 3 (by decide))

/-- FEXP2, FLOG2, FSIN, FCOS and FTANH are of f32 alone (R287). -/
theorem Safety.narrow_of_checkA {e : DecodeEnv} {opc : Nat} {f : FormA} (h : checkA e opc f = none) (ht : (specA opc f).tys = some [8]) :
    wideTy f.ty.toNat = true → false = true := by
  have hty := ty_mem_of_checkA h ht
  rw [List.mem_singleton.mp hty]
  decide

/-! ### Lane instructions -/

/-- VSHFL writes its destination, and the q result if there is one (R292). -/
theorem Safety.confined_vshfl (f : FormA) : Confined 0x060 0x08F (.vshfl f) := by
  refine .of_a (he := exec_vshfl f) rfl fun e c _ => .done fun b w h => ?_
  have hd : Names (Safety.writtenRegs 0x080 (.a f)) f.d { cls := [.v], dst := true, wide := wideTy f.ty.toNat } := .dest List.mem_cons_self rfl
  split
  · rename_i n hx
    exact (h.putVector hd id).setQ ((Names.dest_s3 rfl rfl).first_q hx)
  · exact h.putVector hd id

/-- VRED writes a scalar or a vector destination, and the q result if there is one (R293). -/
theorem Safety.confined_vred (f : FormA) : Confined 0x060 0x08F (.vred f) := by
  refine .of_a (he := exec_vred f) rfl fun e c _ => .doneFlags fun b w h => ?_
  have hd : Names (Safety.writtenRegs 0x081 (.a f)) f.d { cls := [.v, .s], dst := true, wide := wideTy f.ty.toNat } :=
    .dest List.mem_cons_self rfl
  have hput : ∀ y g, RegisterStep (Safety.writtenRegs 0x081 (.a f)) true b ((w.asleep (w.putScalar c.lanes f.d (wideTy f.ty.toNat) y)
      c.lanes).putVector c.act f.d (wideTy f.ty.toNat) g) := fun y g =>
    (h.asleep (h.putScalar hd id) Warp.putScalar_s_length).putVector hd id
  split
  · rename_i n hx
    exact (hput _ _).setQ ((Names.dest_s2 rfl rfl).first_q hx)
  · exact hput _ _

/-- VVOTE's mask goes to three scalar registers, its count to one, and its vote to a scalar or a q destination (R295). -/
theorem Safety.confined_vvote (f : FormA) : Confined 0x060 0x08F (.vvote f) := by
  refine .of_a (he := exec_vvote f) rfl fun e c _ => ?_
  have hd : Names (Safety.writtenRegs 0x083 (.a f)) f.d
      { cls := if f.sub.toNat ≤ 2 then [.s, .q] else [.s], dst := true, group := if f.sub.toNat = 3 then 3 else 1 } :=
    .dest List.mem_cons_self rfl
  dsimp only
  split
  · rename_i hsub
    refine .done fun b w h => ?_
    split
    · rename_i n hx
      refine h.foldl fun v i hi hv => hv.setS (hd.mem_s hx ?_)
      rw [if_pos hsub]
      exact List.mem_range.mp hi
    · exact h
  · exact .done fun b w h => h.putScalar hd notWide
  · refine .done fun b w h => ?_
    split
    · rename_i n hx
      exact h.setQ (hd.first_q hx)
    · exact h.putScalar hd notWide

/-- VCMPR writes the elements that it keeps, and their number (R296). -/
theorem Safety.confined_vcmpr (f : FormA) : Confined 0x060 0x08F (.vcmpr f) :=
  .of_a (he := exec_vcmpr f) rfl fun _ _ _ => .done fun _ _ h =>
    (h.putVector (.dest List.mem_cons_self rfl) id).putScalar (.dest_s3 rfl rfl) notWide

/-! ### Scale instructions -/

/-- KGET writes a scalar register, a pair for a tag, or a vector (R303). -/
theorem Safety.confined_kget (f : FormA) : Confined 0x090 0x099 (.kget f) := by
  refine .of_a (he := exec_kget f) rfl fun e c h => ?_
  have hsub : f.sub.toNat ∈ [0, 1, 2] := sub_mem_of_checkA h rfl
  have hd : ∀ {p}, (if f.sub.toNat = 1 then dS1 true else if f.sub.toNat = 2 then dV false else dS1 false) = .reg p → p.dst = true →
      Names (Safety.writtenRegs 0x091 (.a f)) f.d p := fun hp hdst => .dest (List.mem_cons.mpr (.inl (congrArg (Prod.mk f.d) hp.symm))) hdst
  refine iteInduction (fun htwo => ?_) fun htwo => ?_
  · have hnum : f.sub.toNat = 2 := by rw [htwo]; rfl
    exact .done fun b w hw => hw.putVector (hd (by rw [hnum]; rfl) rfl) notWide
  · have hnum : f.sub.toNat ≠ 2 := fun hn => htwo (BitVec.eq_of_toNat_eq hn)
    by_cases hone : f.sub.toNat = 1
    · exact .kget (hd (if_pos hone) rfl) fun _ => rfl
    · have hzero : f.sub.toNat = 0 := by simpa [hone, hnum] using hsub
      exact .kget (hd ((if_neg hone).trans (if_neg hnum)) rfl) fun hne => absurd hzero hne

theorem Safety.confined_kgetImm (f : FormI) : Confined 0x090 0x099 (.kgetImm f) := by
  refine .of_i (he := exec_kgetImm f) rfl fun e c h => .kget (.dest List.mem_cons_self rfl) fun hne => ?_
  have hsub : f.sub.toNat ∈ [0, 1] := sub_mem_of_checkI h rfl
  have hone : f.sub.toNat = 1 := by simpa [hne] using hsub
  exact decide_eq_true hone

/-- VDQNT writes as many vector registers as its elements fill (R318). -/
theorem Safety.confined_vdqnt (f : FormA) : Confined 0x090 0x099 (.vdqnt f) := by
  refine .of_a (he := exec_vdqnt f) rfl fun e c h => .doneFlags fun b w hw => hw.foldl fun v i hi hv => hv.setV ?_
  have hspan : i < (if f.sub.toNat = 0 then 4 else 2) * (if f.ty.toNat = 0x10 then 2 else 1) := by
    have hi' := List.mem_range.mp hi
    unfold perLane at hi'
    split at hi' <;> split_ifs at hi' ⊢ <;> omega
  exact written_of_checkA h rfl ⟨rfl, rfl⟩ rfl (lt_max_of_lt_left hspan)

/-! ### The ranges of the obligation -/

/-- The scalar instructions, NOP and SRGET. -/
theorem Safety.confined_scalar (i : Instr) : Confined 0x000 0x03F i := by
  cases i with
  | nop f => exact .of rfl fun _ _ _ => .idle
  | srget f => exact .of rfl fun _ _ _ => .srget (.dest List.mem_cons_self rfl) id
  | smov f | sbfe f => exact .of_a rfl fun _ _ _ => .scalarDone (.dest List.mem_cons_self rfl) id
  | sbfeImm f => exact .of_i rfl fun _ _ _ => .scalarDone (.dest List.mem_cons_self rfl) id
  | sclz f | spopc f => exact .of_a rfl fun _ _ _ => .scalarDone (.dest List.mem_cons_self rfl) notWide
  | slea f => exact .of_a rfl fun _ _ _ => .scalarDone (.dest List.mem_cons_self rfl) fun _ => rfl
  | smovi f => exact confined_smovi f
  | smovih f => exact confined_smovih f
  | sadd f | ssub f | smul f | smulh f | smad f | sdiv f | srem f | sand f | sor f | sxor f | smin f | smax f | ssel f | sbfi f =>
    exact .of_a rfl fun _ _ _ => .sBin (.dest List.mem_cons_self rfl) id
  | saddImm f | ssubImm f | smulImm f | smulhImm f | sdivImm f | sremImm f | sandImm f | sorImm f | sxorImm f | sminImm f | smaxImm f =>
    exact .of_i rfl fun _ _ _ => .sBinI (.dest List.mem_cons_self rfl) id
  | sshl f | sshr f | ssra f => exact .of_a rfl fun _ _ _ => .sShift (.dest List.mem_cons_self rfl) id
  | sshlImm f | sshrImm f | ssraImm f => exact .of_i rfl fun _ _ _ => .sShiftI (.dest List.mem_cons_self rfl) id
  | scmp f => exact .of_a rfl fun _ _ _ => .cmpDone (.dest List.mem_cons_self rfl) id
  | scmpImm f => exact .of_i rfl fun _ _ _ => .cmpDone (.dest List.mem_cons_self rfl) id
  | scvt f => exact .of_a rfl fun _ _ _ => .ite .idle (.doneFlags fun _ _ h => h.putScalar (.dest List.mem_cons_self rfl) id)
  | _ => exact .of_other rfl

/-- The vector integer instructions. -/
theorem Safety.confined_vector (i : Instr) : Confined 0x040 0x05F i := by
  cases i with
  | vmov f | vbcst f | vidx f | vmad f | vabs f | vsel f | vbfe f | vbfi f =>
    exact .of_a rfl fun _ _ _ => .vectorDone (.dest List.mem_cons_self rfl) id
  | vmovi f | vbfeImm f => exact .of_i rfl fun _ _ _ => .vectorDone (.dest List.mem_cons_self rfl) id
  | vclz f | vpopc f | vdot4 f => exact .of_a rfl fun _ _ _ => .vectorDone (.dest List.mem_cons_self rfl) notWide
  | vadd f | vsub f | vmul f | vmulh f | vand f | vor f | vxor f | vmin f | vmax f =>
    exact .of_a rfl fun _ _ _ => .vBin (.dest List.mem_cons_self rfl) id
  | vaddImm f | vsubImm f | vmulImm f | vmulhImm f | vandImm f | vorImm f | vxorImm f | vminImm f | vmaxImm f =>
    exact .of_i rfl fun _ _ _ => .vBinI (.dest List.mem_cons_self rfl) id
  | vshl f | vshr f | vsra f => exact .of_a rfl fun _ _ _ => .vShift (.dest List.mem_cons_self rfl) id
  | vshlImm f | vshrImm f | vsraImm f => exact .of_i rfl fun _ _ _ => .vShiftI (.dest List.mem_cons_self rfl) id
  | vcmp f => exact .of_a rfl fun _ _ h => .vCmpDone (written_of_checkA h rfl ⟨rfl, rfl⟩ rfl Nat.one_pos)
  | vcmpImm f => exact .of_i rfl fun _ _ h => .vCmpDone (written_of_checkI h rfl ⟨rfl, rfl⟩ rfl Nat.one_pos)
  | philox f => exact confined_philox f
  | _ => exact .of_other rfl

/-- The vector float and lane instructions. -/
theorem Safety.confined_float (i : Instr) : Confined 0x060 0x08F i := by
  cases i with
  | fadd f | fsub f | fmul f | ffma f | fmin f | fmax f | frcp f | frsq f | fsqrt f | fdiv f | frint f =>
    exact .of_a rfl fun _ _ _ => .fRun (.dest List.mem_cons_self rfl) id
  | fexp2 f | flog2 f | fsin f | fcos f | ftanh f =>
    exact .of_a rfl fun _ _ h => .fRun (.dest List.mem_cons_self rfl) (narrow_of_checkA h rfl)
  | fcmp f => exact .of_a rfl fun _ _ h => .doneFlags fun _ _ hw => hw.setQ (written_of_checkA h rfl ⟨rfl, rfl⟩ rfl Nat.one_pos)
  | fclass f => exact .of_a rfl fun _ _ _ => .vectorDone (.dest List.mem_cons_self rfl) notWide
  | fcvt f | fscale f => exact .of_a rfl fun _ _ _ => .floatDone (.dest List.mem_cons_self rfl) id
  | fsmxu f => exact .of_a rfl fun _ _ _ => .floatDone (.dest List.mem_cons_self rfl) fun _ => rfl
  | fsmxf f => exact .of_a rfl fun _ _ _ => .floatDone (.dest List.mem_cons_self rfl) notWide
  | vscan f => exact .of_a rfl fun _ _ _ => .doneFlags fun _ _ h => h.putVector (.dest List.mem_cons_self rfl) id
  | vshfl f => exact confined_vshfl f
  | vred f => exact confined_vred f
  | vvote f => exact confined_vvote f
  | vcmpr f => exact confined_vcmpr f
  | _ => exact .of_other rfl

/-- The instructions on scale registers and microscaling, and AMXGET. -/
theorem Safety.confined_scale (i : Instr) : Confined 0x090 0x099 i := by
  cases i with
  | kmov f | kfill f => exact .of_a rfl fun _ _ h => .kDone (written_of_checkA h rfl ⟨rfl, rfl⟩ rfl Nat.one_pos)
  | kfillImm f => exact .of_i rfl fun _ _ h => .kDone (written_of_checkI h rfl ⟨rfl, rfl⟩ rfl Nat.one_pos)
  | kget f => exact confined_kget f
  | kgetImm f => exact confined_kgetImm f
  | kset f =>
    refine .of_a (he := exec_kset f) rfl fun _ _ h => ?_
    have hd := written_of_checkA h rfl ⟨rfl, rfl⟩ rfl Nat.one_pos
    exact .ite (.kDone hd) (.kset hd)
  | ksetImm f => exact .of_i rfl fun _ _ h => .kset (written_of_checkI h rfl ⟨rfl, rfl⟩ rfl Nat.one_pos)
  | kadd f => exact .of_a rfl fun _ _ h => .kadd (written_of_checkA h rfl ⟨rfl, rfl⟩ rfl Nat.one_pos)
  | kaddImm f => exact .of_i rfl fun _ _ h => .kadd (written_of_checkI h rfl ⟨rfl, rfl⟩ rfl Nat.one_pos)
  | vqntLane f =>
    exact .of (he := exec_vqntLane f) rfl fun _ _ h => .doneFlags fun _ _ hw =>
      hw.store (written_of_quant (checkX_of_checkAll h (by decide)))
  | vqntRow f =>
    exact .of (he := exec_vqntRow f) rfl fun _ _ h => .collective fun _ => .ite .badHood (.doneFlags fun _ _ hw =>
      hw.store (written_of_quant (checkX_of_checkAll h (by decide))))
  | vdqnt f => exact confined_vdqnt f
  | amxget f =>
    refine .of_a (he := exec_amxget f) rfl fun _ _ _ => .ite .idle (.ite .badHood ?_)
    have hd : Names (Safety.writtenRegs 0x099 (.a f)) f.d { cls := [.s], dst := true } := .dest List.mem_cons_self rfl
    split
    · exact .scalarDone hd notWide
    · exact .ite .badHood (.scalarDone hd notWide)
    · exact .scalarDone hd notWide
  | _ => exact .of_other rfl

/-! ### The frame -/

/-- Where the instructions of a range are confined to their destinations, the frame of the range holds. -/
theorem Safety.framesRegisters_of_confined {lo top : Nat} (h : ∀ i, Confined lo top i) : FramesRegisters lo top := by
  intro i s b c t a hissue hlo htop hreg q hexec ha hctx hhandler hentry hhalted
  obtain ⟨hbc, hbs, -, -⟩ := issueOf_place hissue
  obtain ⟨body, he, hb⟩ := h i c.opc c.form (issueOf_form hissue) hlo htop hreg
  obtain ⟨opc, f, w, -, -, hcheck, -, hc, -⟩ := issueOf_spec hissue
  have hcheck' : checkAll (s.envOf w) c.opc c.form = none := by rw [hc]; exact hcheck
  have hcol : isCollective c.opc c.form = false := by simpa using (Bool.and_eq_true_iff.mp hreg).2
  have ht : t = after b c (body c) :=
    Host.Outcome.next.inj (hexec.symm.trans ((he s).trans (issue_eq hissue (issueOf_form hissue) body)))
  have hraise : c.opc < 0x060 → c.opc ≠ 0x039 → mayRaise c.opc = false := fun hlow hscvt => by simp [mayRaise, hlow, hscvt]
  rw [← hbc, ← hbs] at ha ⊢
  subst ht
  obtain hframe | hexcept := FramedOr.after hissue q hcol (hb _ c hcheck')
  · have hown := hframe.own a ha
    exact ⟨hframe.rest, hframe.others, hown.regs, hown.control, hown.gains, fun hlow hscvt => hown.keeps (hraise hlow hscvt)⟩
  · exact absurd ⟨hctx, hhandler, hentry, hhalted⟩ (hexcept a ha)

/-- Settles O29: each instruction's performance writes only its destinations, and ends in a step on the registers of its warp or in an
exception, in which the warp does not go on. -/
theorem registerFrames : Obligations.RegisterFrames := by
  unfold Obligations.RegisterFrames
  exact ⟨framesRegisters_of_confined confined_scalar, framesRegisters_of_confined confined_vector, framesRegisters_of_confined confined_float,
    framesRegisters_of_confined confined_scale⟩

end Sys2Proof
end

section
/-! # A fired command processor marks the page of its header (O57) -/

namespace Sys2Proof

open Machine Safety

/-- The state in which a queue's fired processor reads the header: the round robin has come to its context, and it is fired no more (R197). -/
def Machine.State.served (s : State) (ctx queue : Nat) : State :=
  (({ s with hub := { s.hub with rrCtx := ctx } } : State).modQueue ctx queue fun q => { q with fired := false }).bump

/-- A firing that finds no entry past HEAD has read the header, which marks its pages (R97, R196). -/
theorem Machine.execCommandProcessorFire_empty {ctx queue h : Nat} {s : State} {q : CmdQueue} (hnext : s.nextQueue = some (ctx, queue))
    (hq : s.queue? ctx queue = some q) (hread : (s.served ctx queue).deviceRead ctx q.hdr 128 = some h)
    (hempty : ctrSub (natBits h 512 32) q.head = 0) :
    exec (.commandProcessorFire ctx queue) s = .next ((s.served ctx queue).markPages ctx q.hdr 128 false) := by
  rw [exec_commandProcessorFire]
  unfold execCommandProcessorFire
  rw [if_neg (by simp [hnext]), hq]
  dsimp only
  unfold State.served at hread
  rw [show s.modHub (fun h => { h with rrCtx := ctx }) = { s with hub := { s.hub with rrCtx := ctx } } from rfl, hread]
  exact if_pos hempty

/-- The queue of `firedState`: its header at VA 0x10000. -/
def Safety.firedQueue : CmdQueue := { idx := 0, hdr := 0x10000, tailPa := 0x200, fired := true }

/-- A context whose address space is one page of 1 GiB, its leaf entry at 0x3000 without A, and a fired queue whose ring of 16 entries is
empty. -/
def Safety.firedState : State :=
  { store := (((({} : Store).write 0x1000 8 0x2001).write 0x2000 8 0x3001).write 0x3000 8 0x0003).write 0x10008 4 16
    dies := [{ present := true }]
    contexts := [{ slot := 0, id := 0, system := true, ptroot := 0x1000, queues := [firedQueue] }] }

/-- Refutes O57: the processor that reads a queue's header sets A in its page's leaf entry (R97), here at 0x3000, and the statement's state
after a firing with no entry to take has that entry as it was. -/
theorem not_launchEvents : ¬ Obligations.LaunchEvents := by
  unfold Obligations.LaunchEvents
  rintro ⟨-, hfires, -⟩
  have hnext : firedState.nextQueue = some (0, 0) := by decide
  have hqueue : firedState.queue? 0 0 = some firedQueue := by decide
  have hread : (firedState.served 0 0).deviceRead 0 firedQueue.hdr 128 = some (16 * 2 ^ 64) := by decide +kernel
  have hempty : ctrSub (natBits (16 * 2 ^ 64) 512 32) firedQueue.head = 0 := by decide +kernel
  obtain ⟨hstated, -⟩ := hfires 0 0 _ firedState firedQueue hnext hqueue hread
  have hsame : (firedState.served 0 0).markPages 0 firedQueue.hdr 128 false = firedState.served 0 0 :=
    Host.Outcome.next.inj ((execCommandProcessorFire_empty hnext hqueue hread hempty).symm.trans (hstated hempty))
  have hentry := congrArg (fun t : State => t.store.byte 0x3001) hsame
  exact absurd hentry (by decide +kernel)

end Sys2Proof
end

section
/-! # Placement rounds, pre-emption, kill and save (O58) -/

namespace Sys2Proof

open Machine Safety

/-! ### Keys of one length are ordered as lists (R201, R217) -/

theorem Machine.keyLess_iff_lt : ∀ {a b : List Nat}, a.length = b.length → (keyLess a b = true ↔ a < b)
  | [], [], _ => by simp [keyLess]
  | x :: a, y :: b, h => by
    have ih := keyLess_iff_lt (Nat.succ.inj h)
    rw [keyLess, List.cons_lt_cons_iff, ← ih]
    split <;> simp [*]

theorem Machine.keyLe_iff_not_lt : ∀ {a b : List Nat}, a.length = b.length → (keyLe a b = true ↔ ¬ b < a)
  | [], [], _ => by simp [keyLe]
  | x :: a, y :: b, h => by
    have ih := keyLe_iff_not_lt (Nat.succ.inj h)
    rw [keyLe, List.cons_lt_cons_iff]
    split
    · simp [*]
    · rename_i hne
      simp only [decide_eq_true_eq]
      omega

section
variable {s t : State} {w : Writer} {ctx id die : Nat} {kind hold : Bool} {c : Context} {g : Gang}

/-! ### The reservation of a cluster (R201) -/

/-- A cluster with its key is kept beside the next one unless that one's key is smaller. -/
def Safety.roomier (key : Nat → List Nat) (b : Option (List Nat × Nat)) (cl : Nat) : Option (List Nat × Nat) :=
  match b with
  | some y => if keyLe y.1 (key cl) then b else some (key cl, cl)
  | none => some (key cl, cl)

/-- Keeping the roomier cluster goes through a list as `List.argmin` does. -/
theorem Safety.roomier_map {key : Nat → List Nat} (hlen : ∀ i j, (key i).length = (key j).length) (o : Option Nat) (cl : Nat) :
    roomier key (o.map fun c => (key c, c)) cl = (List.argAux (fun i j => key i < key j) o cl).map fun c => (key c, c) := by
  cases o with
  | none => rfl
  | some c =>
    have hkeep := keyLe_iff_not_lt (hlen c cl)
    by_cases hlt : key cl < key c
    · have hless : ¬ keyLe (key c) (key cl) = true := fun h => hkeep.mp h hlt
      simp [roomier, List.argAux, hlt, hless]
    · simp [roomier, List.argAux, hlt, hkeep.mpr hlt]

theorem Safety.foldl_roomier {key : Nat → List Nat} (hlen : ∀ i j, (key i).length = (key j).length) (l : List Nat) :
    l.foldl (roomier key) none = (l.argmin key).map fun c => (key c, c) :=
  List.foldl_hom (init := none) (Option.map fun c => (key c, c)) fun o cl => roomier_map hlen o cl

theorem Machine.State.length_roomKey (s : State) (a : Ask) (cl : Nat) : (s.roomKey a cl).length = 4 := by
  simp only [State.roomKey, List.length_cons, List.length_nil]

theorem Machine.State.length_roomKey_eq (s : State) (a : Ask) (i j : Nat) : (s.roomKey a i).length = (s.roomKey a j).length := by
  rw [State.length_roomKey, State.length_roomKey]

theorem Machine.State.reservation_none (h : ∀ r, (s.die die).reserved = some r → ∀ y ∈ s.placementOrder die, y.order ≠ r.2) :
    s.reservation die = none := by
  rw [State.reservation, Option.filter_eq_none_iff]
  intro r hr
  simpa using h r hr

/-- The cluster with the smallest key is reserved for the first that waits. -/
theorem Machine.execPlacementReserveTimeout_passed {x : Item} {at_ : Nat} (hx : s.firstWaiting die = some x) (hr : s.reservation die = none)
    (hat : x.passedAt = some at_) (hclock : at_ + 65536 ≤ (s.die die).clock) :
    exec (.placementReserveTimeout die) s = .next (s.modDie die fun d => { d with
      reserved := ((List.range Config.clustersPerDie).argmin (s.roomKey x.ask)).map fun cl => (cl, x.order) }) := by
  have hfold := foldl_roomier (s.length_roomKey_eq x.ask) (List.range Config.clustersPerDie)
  rw [exec_placementReserveTimeout]
  unfold execPlacementReserveTimeout
  rw [hx]
  dsimp only
  rw [if_neg (by simp [hr, hat, hclock])]
  change Host.Outcome.next (s.modDie die fun d => { d with
    reserved := ((List.range Config.clustersPerDie).foldl (roomier (s.roomKey x.ask)) none).map fun b => (b.2, x.order) }) = _
  rw [hfold, Option.map_map]
  rfl

theorem Machine.argmin_clusters (key : Nat → List Nat) :
    ∃ cl, (List.range Config.clustersPerDie).argmin key = some cl ∧ cl < Config.clustersPerDie ∧
      ∀ k, k < Config.clustersPerDie → ¬ key k < key cl := by
  obtain ⟨cl, hcl⟩ := Option.ne_none_iff_exists'.mp
    (mt (List.argmin_eq_none (f := key)).mp (by decide : List.range Config.clustersPerDie ≠ []))
  exact ⟨cl, hcl, List.mem_range.mp (List.argmin_mem hcl), fun k hk => List.not_lt_of_mem_argmin (List.mem_range.mpr hk) hcl⟩

/-! ### GO, HOLD and KIND (R415) -/

theorem Machine.State.goGangs_none (h : ∀ g ∈ s.sched.gangs, g.ctx = c.id → g.status ≠ .resident) : s.goGangs c kind = [] := by
  rw [State.goGangs, List.map_eq_nil_iff, List.filter_eq_nil_iff]
  intro g hg
  by_cases hctx : g.ctx = c.id
  · simp [h g hg hctx]
  · simp [hctx]

/-- A GO by a writer that may, on the gangs to which it applies. -/
theorem Machine.execPreemptGo_gangs (hw : s.mayWrite w = true) (hc : s.ctx? ctx = some c) :
    exec (.preemptGo w ctx kind hold) s = .next (((s.goGangs c kind).foldl (fun s id => s.stopGang id kind)
      (if (s.goGangs c kind).isEmpty then s.writeHold ctx hold kind
        else (s.writeHold ctx hold kind).modCtx ctx fun c => { c with busy := true })).clearBusy ctx).sweep.settle := by
  rw [exec_preemptGo]
  unfold execPreemptGo
  rw [if_neg (by simp [hw]), hc]

theorem Machine.execPreemptKill_may (hw : s.mayWrite w = true) : exec (.preemptKill w ctx) s = .next (s.kill ctx false).sweep.settle := by
  rw [exec_preemptKill]
  exact if_neg (by simp [hw])

theorem Machine.execPreemptHoldWrite_may (hw : s.mayWrite w = true) :
    exec (.preemptHoldWrite w ctx hold kind) s = .next (s.writeHold ctx hold kind).settle := by
  rw [exec_preemptHoldWrite]
  exact if_neg (by simp [hw])

/-- A write of PREEMPT that kills stores HOLD and KIND after it. -/
theorem Machine.State.writePreempt_kill {v : Nat} (hw : s.mayWrite w = true) (hv : v.testBit 4 = true) :
    s.writePreempt w ctx v = (s.kill ctx false).sweep.settle.writeHold ctx (v.testBit 3) (v.testBit 1) := by
  have hkill : execPreemptKill w ctx s = .next (s.kill ctx false).sweep.settle := execPreemptKill_may hw
  unfold State.writePreempt
  rw [if_pos hv, hkill]
  exact if_pos hw

/-! ### Gangs that stop (R216, R414) -/

theorem Machine.State.gang?_modGang (f : Gang → Gang) (hf : ∀ g, (f g).id = g.id) : (s.modGang id f).gang? id = (s.gang? id).map f := by
  have hsame : ((fun g : Gang => decide (g.id = id)) ∘ fun g => if g.id = id then f g else g) = fun g => decide (g.id = id) := by
    funext g
    dsimp only [Function.comp_apply]
    split <;> simp [hf]
  unfold State.gang? State.modGang
  rw [List.find?_map, hsame]
  refine Option.map_congr fun g hg => if_pos ?_
  simpa using List.find?_some hg

/-- At an instruction boundary every warp of a gang that is not at its PHASE stops. -/
theorem Machine.State.stopGang_instruction (hg : s.gang? id = some g) (hp : s.phaseArrived g = false) :
    ∀ w ∈ (s.stopGang id true).warps, w.gang = id → w.stopping = true := by
  unfold State.stopGang
  rw [hg]
  dsimp only
  rw [if_pos (by simp [hp])]
  intro w hw hid
  obtain ⟨v, -, rfl⟩ := List.mem_map.mp hw
  by_cases hv : v.gang = id
  · rw [if_pos hv]
  · exact absurd (by rwa [if_neg hv] at hid) hv

/-- At a phase boundary a gang is told to stop at its next PHASE, and goes on until then. -/
theorem Machine.State.stopGang_phase (hg : s.gang? id = some g) :
    s.stopGang id false = s.modGang id fun g => { g with phaseStop := true } := by
  unfold State.stopGang
  rw [hg]
  exact if_neg (by simp)

/-! ### The end of a context (R419) -/

theorem Machine.State.kill_warps (lost : Bool) : ∀ x ∈ (s.kill ctx lost).warps, x.ctx ≠ ctx := fun x hx => by
  have hkept : x ∈ (s.settleStores ctx).warps.filter fun w => w.ctx ≠ ctx := hx
  simpa using (List.mem_filter.mp hkept).2

theorem Machine.State.kill_gangs (lost : Bool) : ∀ g ∈ (s.kill ctx lost).sched.gangs, g.ctx ≠ ctx := fun g hg => by
  have hkept : g ∈ (s.settleStores ctx).sched.gangs.filter fun g => g.ctx ≠ ctx := hg
  simpa using (List.mem_filter.mp hkept).2

theorem Machine.State.kill_queued (lost : Bool) : ∀ r ∈ (s.kill ctx lost).sched.queued, r.ctx ≠ ctx := fun r hr => by
  have hkept : r ∈ (s.settleStores ctx).sched.queued.filter fun r => r.ctx ≠ ctx := hr
  simpa using (List.mem_filter.mp hkept).2

theorem Machine.State.kill_contexts (lost : Bool) : ∀ c ∈ (s.kill ctx lost).contexts, c.id = ctx → c.killed = true ∧ c.events = 0 := by
  intro c hc hid
  obtain ⟨d, -, rfl⟩ := List.mem_map.mp hc
  by_cases hd : d.id = ctx
  · rw [if_pos hd]
    exact ⟨rfl, rfl⟩
  · exact absurd (by rwa [if_neg hd] at hid) hd

/-- With no store of the context outstanding, a kill only forgets what it has written to lane slots (R23). -/
theorem Machine.State.kill_store (h : s.unperformed ctx = []) (lost : Bool) :
    (s.kill ctx lost).store = { s.store with lp := s.store.lp.filter fun x => x.ctx ≠ ctx } := by
  have hsettled : (s.settleStores ctx).store = s.store := by rw [State.settleStores, h]; rfl
  rw [← hsettled]
  rfl

/-! ### The saving of a gang (R414, R416, R420) -/

/-- A gang that has drained is saved, or its context lost. -/
theorem Machine.execPreemptSaveComplete_drained (hg : s.gang? id = some g) (hs : g.status = .stopping) (hrest : s.gangAtRest g = true)
    (hdrained : (s.drainProducts id).gangAtRest g = true) :
    (∀ t, (s.drainProducts id).writeFrames id = .ok t → exec (.preemptSaveComplete id) s =
      .next (((t.releaseGang id).clearBusy g.ctx).emitPreempt g 0x0E 1 g.core0).sweep.settle) ∧
    ∀ x, (s.drainProducts id).writeFrames id = .error x → exec (.preemptSaveComplete id) s =
      .next ((s.drainProducts id).lose g.ctx x.1 x.2.1 x.2.2).sweep.settle := by
  rw [exec_preemptSaveComplete]
  unfold execPreemptSaveComplete
  rw [hg]
  dsimp only
  rw [if_neg (by simp [hs, hrest]), if_neg (by simp [hdrained])]
  exact ⟨fun t hframes => by rw [hframes], fun x hframes => by rw [hframes]⟩

theorem Machine.State.releaseGang_warps : ∀ w ∈ (s.releaseGang id).warps, w.gang ≠ id := fun w hw => by
  have hkept : w ∈ s.warps.filter fun w => w.gang ≠ id := hw
  simpa using (List.mem_filter.mp hkept).2

theorem Machine.State.gang?_releaseGang :
    (s.releaseGang id).gang? id = (s.gang? id).map fun g => { g with status := .saved, phaseStop := false } :=
  State.gang?_modGang _ fun _ => rfl

/-- The errors that stand after a warp's words have been read are those that are in none of them. -/
theorem Machine.State.mem_upsets_of_checkWords {core slot : Nat} {p : WarpWord → Bool} {u : Upset} (h : s.checkWords core slot p = some t)
    (hu : u ∈ s.upsets) (hout : u.inWarp core slot p = false) : u ∈ t.upsets := by
  unfold State.checkWords at h
  split at h
  · exact Option.some.inj h ▸ hu
  · dsimp only at h
    split at h
    · exact absurd h (by simp)
    · rw [← Option.some.inj h]
      exact List.mem_filter.mpr ⟨hu, by simp [hout]⟩

theorem Machine.State.writeFrame_uncorrectable {w : Warp} (hc : ∃ c, s.ctx? w.ctx = some c)
    (hcheck : s.checkWords w.core w.slot (fun _ => true) = none) (reason : Nat) (pc : DWord) : s.writeFrame w reason pc = .error 0x02 := by
  obtain ⟨c, hc⟩ := hc
  unfold State.writeFrame
  rw [hc, hcheck]

/-- An error that has struck the frame as it is written keeps it from being written. -/
theorem Machine.State.writeFrame_struck {w : Warp} (hc : ∃ c, s.ctx? w.ctx = some c) (hu : .frame w.core w.slot ∈ s.upsets)
    (reason : Nat) (pc : DWord) :
    s.writeFrame w reason pc = .error 0x01 ∨ s.writeFrame w reason pc = .error 0x02 ∨ s.writeFrame w reason pc = .error 0x03 := by
  cases hcheck : s.checkWords w.core w.slot fun _ => true with
  | none => exact .inr (.inl (State.writeFrame_uncorrectable hc hcheck reason pc))
  | some t =>
    obtain ⟨c, hc⟩ := hc
    have hframe : t.upsets.contains (.frame w.core w.slot) = true :=
      List.contains_iff_mem.mpr (State.mem_upsets_of_checkWords hcheck hu rfl)
    unfold State.writeFrame
    rw [hc, hcheck]
    dsimp only
    split
    · exact .inr (.inr (if_pos hframe))
    · exact .inl rfl

end

/-- Settles O58, clause by clause: rounds, the reservation, GO, kill, HOLD, the save, PREEMPT and the pool. -/
theorem placementAndPreemption : Obligations.PlacementAndPreemption := by
  unfold Obligations.PlacementAndPreemption
  refine ⟨fun _ _ => rfl, ?idle, ?reserve, ?goNone, ?goGangs, ?stop, ?kill, fun _ _ _ _ _ => execPreemptHoldWrite_may, fun _ _ _ => ⟨rfl, rfl⟩, ?saved,
    ?unsaved, fun s w reason pc hc => ⟨fun h => State.writeFrame_uncorrectable hc h reason pc, fun h => State.writeFrame_struck hc h reason pc⟩,
    fun _ _ _ _ => State.writePreempt_kill, ?record⟩
  case idle =>
    intro die s h
    rw [exec_placementRound, execPlacementRound, State.placementRound, h]
    rfl
  case reserve =>
    intro die at_ s x hx hfree hat hclock hdie
    obtain ⟨cl, hcl, hlt, hmin⟩ := argmin_clusters (s.roomKey x.ask)
    refine ⟨_, cl, execPlacementReserveTimeout_passed hx (State.reservation_none hfree) hat hclock, ?_, hlt, fun k hk => ?_, rfl⟩
    · rw [State.die_modDie hdie, hcl]
      rfl
    · exact Bool.eq_false_iff.mpr (mt (keyLess_iff_lt (s.length_roomKey_eq x.ask k cl)).mp (hmin k hk))
  case goNone =>
    intro w ctx kind hold s c hw hc hnone
    rw [execPreemptGo_gangs hw hc, State.goGangs_none hnone]
    rfl
  case goGangs =>
    intro w ctx kind hold s c hw hc hsome
    rw [execPreemptGo_gangs hw hc, if_neg (by simpa using hsome)]
  case stop =>
    intro id s g hg
    refine ⟨fun w hw hid hp => State.stopGang_instruction hg hp w hw hid, { g with phaseStop := true }, ?_, rfl, rfl, ?_⟩
    · rw [State.stopGang_phase hg, State.gang?_modGang, hg]
      · rfl
      · exact fun _ => rfl
    · rw [State.stopGang_phase hg]
      rfl
  case kill =>
    exact fun w ctx s hw => ⟨execPreemptKill_may hw, State.kill_warps false, State.kill_gangs false, State.kill_queued false,
      State.kill_contexts false, fun h => State.kill_store h false⟩
  case saved =>
    intro id s t g hg hs hrest hdrained hframes
    refine ⟨(execPreemptSaveComplete_drained hg hs hrest hdrained).1 t hframes, State.releaseGang_warps, fun x hx =>
      ⟨{ x with status := .saved, phaseStop := false }, ?_, rfl, rfl⟩⟩
    rw [State.gang?_releaseGang, hx]
    rfl
  case unsaved => exact fun id s g x hg hs hrest hdrained => (execPreemptSaveComplete_drained hg hs hrest hdrained).2 x
  case record =>
    intro s r c hc
    unfold State.layRecord
    rw [hc]

end Sys2Proof
end

section
/-! # Words: the decoder and the encoder (O3, O4) -/

namespace Sys2Proof

/-! ### The fields of a word (R218, R224, R227) -/

/-- Bits of a form's word below bit 64 are bits of its operand area. -/
theorem bitsOf_area (opc : Nat) (f : Form) {lo len : Nat} (h : lo + len ≤ 64) :
    bitsOf (encodeForm opc f) lo len = (encodeArea f).extractLsb' lo len :=
  BitVec.extractLsb'_append_eq_of_add_le h

/-- Bits of a form's word from bit 64 on are bits of its header. -/
theorem bitsOf_header (opc : Nat) (f : Form) {lo len : Nat} (h : 64 ≤ lo) :
    bitsOf (encodeForm opc f) lo len = (encodeHdr opc f.fmt f.hdr).extractLsb' (lo - 64) len :=
  BitVec.extractLsb'_append_eq_of_le h

theorem decodeHdr_encodeForm (opc : Nat) (f : Form) : decodeHdr (encodeForm opc f) = f.hdr := by
  simp only [decodeHdr, Nat.reduceLeDiff, bitsOf_header, encodeHdr, Nat.reduceSub, BitVec.extractLsb'_append_eq_of_le,
    BitVec.extractLsb'_append_eq_of_add_le, BitVec.extractLsb'_eq_self]

theorem decodeOpc_encodeForm {opc : Nat} (h : opc < 1024) (f : Form) : decodeOpc (encodeForm opc f) = opc := by
  simp only [decodeOpc, Nat.reduceLeDiff, bitsOf_header, encodeHdr, Nat.reduceSub, BitVec.extractLsb'_append_eq_of_le,
    BitVec.extractLsb'_eq_self, BitVec.toNat_ofNat]
  exact Nat.mod_eq_of_lt h

theorem fmt_encodeForm (opc : Nat) (f : Form) : (bitsOf (encodeForm opc f) 64 3).toNat = f.fmt := by
  simp only [Nat.reduceLeDiff, bitsOf_header, encodeHdr, Nat.reduceSub, BitVec.extractLsb'_append_eq_right, BitVec.toNat_ofNat]
  cases f <;> rfl

/-- A form is read back from its word, whatever its opcode. -/
theorem decodeForm_encodeForm (opc : Nat) (f : Form) : decodeForm (encodeForm opc f) = some f := by
  rw [decodeForm, fmt_encodeForm]
  cases f <;>
    simp only [Form.fmt, Form.hdr, decodeA, decodeI, decodeM, decodeB, decodeX, decodeHdr_encodeForm, Nat.reduceLeDiff, bitsOf_area, encodeArea,
      Nat.reduceSub, BitVec.extractLsb'_append_eq_of_le, BitVec.extractLsb'_append_eq_of_add_le, BitVec.extractLsb'_eq_self]

/-- The format code of a word that has a form is that form's. -/
theorem fmt_of_decodeForm {w : BitVec 96} {f : Form} (h : decodeForm w = some f) : bitsOf w 64 3 = BitVec.ofNat 3 f.fmt := by
  refine BitVec.eq_of_toNat_eq ?_
  unfold decodeForm at h
  split at h <;> cases h <;> assumption

/-- Adjacent fields of a word, joined again, are the operand area they were read from. -/
theorem encodeArea_of_decodeForm {w : BitVec 96} {f : Form} (h : decodeForm w = some f) : encodeArea f = w.extractLsb' 0 64 := by
  unfold decodeForm at h
  split at h <;> cases h <;>
    simp only [encodeArea, decodeA, decodeI, decodeM, decodeB, decodeX, bitsOf, BitVec.extractLsb'_append_extractLsb'_eq_extractLsb']

theorem hdr_of_decodeForm {w : BitVec 96} {f : Form} (h : decodeForm w = some f) : f.hdr = decodeHdr w := by
  unfold decodeForm at h
  split at h <;> cases h <;> rfl

/-- A word is the word of the opcode and the form that are read from it. -/
theorem encodeForm_of_decodeForm {w : BitVec 96} {f : Form} (h : decodeForm w = some f) : encodeForm (decodeOpc w) f = w := by
  have hhdr : encodeHdr (decodeOpc w) f.fmt f.hdr = w.extractLsb' 64 32 := by
    rw [encodeHdr, ← fmt_of_decodeForm h, hdr_of_decodeForm h, decodeOpc, BitVec.ofNat_toNat, BitVec.setWidth_eq]
    simp only [decodeHdr, bitsOf, BitVec.extractLsb'_append_extractLsb'_eq_extractLsb']
  rw [encodeForm, hhdr, encodeArea_of_decodeForm h]
  exact (BitVec.extractLsb'_append_extractLsb'_eq_extractLsb' rfl).trans BitVec.extractLsb'_eq_self

/-! ### The opcode map (R239, R240) -/

/-- What a table answers for an opcode is one of its rows. -/
theorem mem_of_lookup {β : Type} {l : List (Nat × β)} {k : Nat} {b : β} (h : l.lookup k = some b) : (k, b) ∈ l := by
  obtain ⟨before, after, rfl, -⟩ := List.lookup_eq_some_iff.mp h
  simp

theorem code_of_mem_tableA : ∀ x ∈ tableA, ∀ f, (x.2 f).code? = some (x.1, .a f) := by
  repeat refine List.forall_mem_cons.mpr ⟨fun _ => rfl, ?_⟩
  exact List.forall_mem_nil _

theorem code_of_mem_tableI : ∀ x ∈ tableI, ∀ f, (x.2 f).code? = some (x.1, .i f) := by
  repeat refine List.forall_mem_cons.mpr ⟨fun _ => rfl, ?_⟩
  exact List.forall_mem_nil _

theorem code_of_mem_tableM : ∀ x ∈ tableM, ∀ f, (x.2 f).code? = some (x.1, .m f) := by
  repeat refine List.forall_mem_cons.mpr ⟨fun _ => rfl, ?_⟩
  exact List.forall_mem_nil _

theorem code_of_mem_tableB : ∀ x ∈ tableB, ∀ f, (x.2 f).code? = some (x.1, .b f) := by
  repeat refine List.forall_mem_cons.mpr ⟨fun _ => rfl, ?_⟩
  exact List.forall_mem_nil _

theorem code_of_mem_tableX : ∀ x ∈ tableX, ∀ f, (x.2 f).code? = some (x.1, .x f) := by
  repeat refine List.forall_mem_cons.mpr ⟨fun _ => rfl, ?_⟩
  exact List.forall_mem_nil _

theorem selectA_spec {opc : Nat} {f : FormA} {i : Instr} (h : selectA opc f = some i) :
    i.code? = some (opc, .a f) ∧ (opc, 0) ∈ selectorOpcodes := by
  unfold selectA at h
  split at h <;> cases h <;> exact ⟨rfl, by decide⟩

theorem selectM_spec {opc : Nat} {f : FormM} {i : Instr} (h : selectM opc f = some i) :
    i.code? = some (opc, .m f) ∧ (opc, 2) ∈ selectorOpcodes := by
  unfold selectM at h
  split at h
  case h_4 => cases h
  all_goals
    split at h
    · cases h; exact ⟨rfl, by decide⟩
    · split at h <;> cases h
      exact ⟨rfl, by decide⟩

theorem selectX_spec {opc : Nat} {f : FormX} {i : Instr} (h : selectX opc f = some i) :
    i.code? = some (opc, .x f) ∧ (opc, 4) ∈ selectorOpcodes := by
  unfold selectX at h
  split at h
  case isFalse => cases h
  case isTrue hopc =>
    subst hopc
    split at h <;> cases h <;> exact ⟨rfl, by decide⟩

theorem formatAllowed_of_selector {opc fmt : Nat} (h : (opc, fmt) ∈ selectorOpcodes) : formatAllowed opc fmt = true := by
  unfold formatAllowed
  rw [List.contains_iff_mem.mpr h, Bool.true_or]

/-- The row that an opcode and a form name has that opcode and form, and the form's format is allowed to the opcode. -/
theorem instrOf_spec {opc : Nat} {f : Form} {i : Instr} (h : instrOf opc f = some i) :
    i.code? = some (opc, f) ∧ formatAllowed opc f.fmt = true := by
  cases f with
  | a f =>
    simp only [instrOf] at h
    split at h
    next c hc => cases h; exact ⟨code_of_mem_tableA _ (mem_of_lookup hc) f, by simp [formatAllowed, Form.fmt, hc]⟩
    next => exact (selectA_spec h).imp_right formatAllowed_of_selector
  | i f =>
    obtain ⟨c, hc, rfl⟩ := Option.map_eq_some_iff.mp h
    exact ⟨code_of_mem_tableI _ (mem_of_lookup hc) f, by simp [formatAllowed, Form.fmt, hc]⟩
  | m f =>
    simp only [instrOf] at h
    split at h
    next c hc => cases h; exact ⟨code_of_mem_tableM _ (mem_of_lookup hc) f, by simp [formatAllowed, Form.fmt, hc]⟩
    next => exact (selectM_spec h).imp_right formatAllowed_of_selector
  | b f =>
    obtain ⟨c, hc, rfl⟩ := Option.map_eq_some_iff.mp h
    exact ⟨code_of_mem_tableB _ (mem_of_lookup hc) f, by simp [formatAllowed, Form.fmt, hc]⟩
  | x f =>
    simp only [instrOf] at h
    split at h
    next c hc => cases h; exact ⟨code_of_mem_tableX _ (mem_of_lookup hc) f, by simp [formatAllowed, Form.fmt, hc]⟩
    next => exact (selectX_spec h).imp_right formatAllowed_of_selector

theorem lt_of_lookup {β : Type} {l : List (Nat × β)} {k n : Nat} (hl : ∀ x ∈ l.map Prod.fst, x < n) (h : (l.lookup k).isSome = true) : k < n := by
  obtain ⟨b, hb⟩ := Option.isSome_iff_exists.mp h
  exact hl k (List.mem_map_of_mem (mem_of_lookup hb))

/-- An assigned opcode fits the OPC field. -/
theorem opc_lt_of_formatAllowed {opc fmt : Nat} (h : formatAllowed opc fmt = true) : opc < 1024 := by
  simp only [formatAllowed, Bool.or_eq_true] at h
  obtain hsel | htab := h
  · exact (by decide : ∀ x ∈ selectorOpcodes, x.1 < 1024) _ (List.contains_iff_mem.mp hsel)
  · split at htab
    case h_6 => cases htab
    all_goals exact lt_of_lookup (by decide) htab

theorem Form.fmt_lt (f : Form) : f.fmt < 5 := by cases f <;> simp [Form.fmt]

/-- The decoder answers a row of the table: its word has the row's opcode and form. -/
theorem decode_eq_ok_iff {w : BitVec 96} {i : Instr} :
    decode w = .ok i ↔ ∃ f, decodeForm w = some f ∧ instrOf (decodeOpc w) f = some i := by
  constructor
  · intro h
    unfold decode at h
    split at h
    case h_1 => cases h
    case h_2 f hf =>
      dsimp only at h
      split at h
      · cases h
      · split at h
        · cases h
        · split at h <;> cases h
          exact ⟨f, hf, ‹_›⟩
  · rintro ⟨f, hf, hi⟩
    obtain ⟨-, hallowed⟩ := instrOf_spec hi
    have hassigned : assigned (decodeOpc w) = true := List.any_eq_true.mpr ⟨f.fmt, List.mem_range.mpr f.fmt_lt, hallowed⟩
    simp [decode, hf, hi, hallowed, hassigned]

/-- A legal instruction is the row that its opcode and form name. -/
theorem Instr.instrOf_of_wellFormed {i : Instr} {opc : Nat} {f : Form} (h : i.wellFormed = true) (hi : i.code? = some (opc, f)) :
    instrOf opc f = some i := by
  by_contra hne
  simp [Instr.wellFormed, Instr.illFormed?, hi, hne] at h

/-- The word of a legal instruction decodes to it. -/
theorem decode_of_legal {i : Instr} {w : BitVec 96} (hwf : i.wellFormed = true) (hcode : i.code?.isSome = true) (hw : encode i = w) :
    decode w = .ok i := by
  obtain ⟨⟨opc, f⟩, hi⟩ := Option.isSome_iff_exists.mp hcode
  have hrow := Instr.instrOf_of_wellFormed hwf hi
  have hopc := opc_lt_of_formatAllowed (instrOf_spec hrow).2
  rw [← hw, encode, hi]
  exact decode_eq_ok_iff.mpr ⟨f, decodeForm_encodeForm opc f, by rw [decodeOpc_encodeForm hopc]; exact hrow⟩

/-- A word that decodes is the word of its instruction. -/
theorem encode_of_decode {i : Instr} {w : BitVec 96} (h : decode w = .ok i) : encode i = w := by
  obtain ⟨f, hf, hrow⟩ := decode_eq_ok_iff.mp h
  rw [encode, (instrOf_spec hrow).1]
  exact encodeForm_of_decodeForm hf

/-- Settles O4: the fields of a legal instruction are read back from its word, and the fields of a word make up the word again. -/
theorem decodeAndEncodeAgree : Obligations.DecodeAndEncodeAgree := by
  unfold Obligations.DecodeAndEncodeAgree
  exact ⟨fun _ hwf hcode => decode_of_legal hwf hcode rfl, fun _ _ => encode_of_decode⟩

/-- Settles O3: each word is the word of a legal instruction, to which it therefore decodes. -/
theorem wordsOfEachFamily : Obligations.WordsOfEachFamily := by
  unfold Obligations.WordsOfEachFamily
  and_intros <;> exact decode_of_legal rfl rfl rfl

end Sys2Proof
end

section
/-! # One step (O2) -/

namespace Sys2Proof

open Machine Safety

section
variable {s t u : State} {w : Warp} {word : BitVec 96} {pair : Option (BitVec 96)} {second : Bool}

/-! ### A hood's turn (R217 to R220, R238) -/

/-- A word that is fetched and decodes is performed, unless an error in what it reads loses the context (R58). -/
theorem Machine.stepHood_of_decode {i : Instr} (hw : s.issuer? = some w) (hf : s.fetchHood w = .word t word pair) (hd : decode word = .ok i) :
    stepHood s second = match t.readWords w s.cur.hood word with
      | none => .next (t.lose w.ctx w.core w.slot 0x02).sweep.settle
      | some u => match exec i u with
        | .next v => .next (v.issued u w s.cur word pair second)
        | o => o := by
  unfold stepHood
  rw [hw]
  dsimp only
  rw [hf]
  dsimp only
  rw [hd] <;> rfl

/-- A fetched word that does not decode takes its fault (R238). -/
theorem Machine.stepHood_of_reject {r : Reject} (hw : s.issuer? = some w) (hf : s.fetchHood w = .word t word pair) (hd : decode word = .error r) :
    stepHood s second = .next (t.decodeFault w r).settle := by
  unfold stepHood
  rw [hw]
  dsimp only
  rw [hf]
  dsimp only
  rw [hd]

/-! ### Fetch (R218 to R223) -/

/-- A line without a mismatch is kept as it was read (R219). -/
theorem Machine.fillLine_good {d : BitVec 512} (h : lineGood d = true) (core ctx va : Nat) (e : BitVec 512) :
    fillLine core ctx va d e = { core := core, ctx := ctx, va := va, data := d } := if_pos h

/-- A line that the instruction cache does not hold is read at the frame of its translation, and is kept without a mark when it is good
(R90, R111, R219). -/
theorem Machine.State.fetchLine_good {core ctx va pa : Nat} {x : Xlat} {d : BitVec 512}
    (hi : ∀ y ∈ s.caches.icache, ¬(y.core = core ∧ y.ctx = ctx ∧ y.va = va))
    (ht : s.translate (clusterOfCore core) ctx (64 * va) .exec = (t, .ok x))
    (hr : t.relay (clusterOfCore core) ctx (64 * va) x.pa = (u, pa))
    (hd : d = BitVec.ofNat 512 ((u.touch (dieOfCore core) (pa / 128) 0 .read).store.read pa 64)) (hgood : lineGood d = true) :
    ∃ v y, s.fetchLine core ctx va = (v, .ok y) ∧ y.data = d ∧ y.lineBad = false ∧ y.slotBad = 0 := by
  have hnone : (s.caches.icache.find? fun y => y.core = core && y.ctx = ctx && y.va = va) = none :=
    List.find?_eq_none.mpr fun y hy => by simpa [and_assoc] using hi y hy
  unfold State.fetchLine
  rw [hnone]
  dsimp only
  rw [ht]
  dsimp only
  rw [hr]
  dsimp only
  rw [← hd, State.icacheFill, fillLine_good hgood]
  exact ⟨_, _, rfl, rfl, rfl, rfl⟩

/-- A hood whose PC is good and whose line is read good fetches the slot that its PC names (R218 to R223). -/
theorem Machine.State.fetchHood_good {v : State} {x : ICacheLine} {sl : Slice} (hsl : w.slice (keyOf (w.hoodSlices s.cur.hood)) = sl)
    (hpc : pcFault sl.pc = none) (hwait : s.fetchWaits w.core w.ctx (sl.pc.toNat / 64) = false)
    (hheld : s.fetchHeld w.core w.ctx (sl.pc.toNat / 64) = none) (hline : s.fetchLine w.core w.ctx (sl.pc.toNat / 64) = (v, .ok x))
    (hbad : x.lineBad = false) (hslot : x.slotBad = 0) (hres : (lineWord x.data).extractLsb' 6 17 = 0)
    (htgt : sl.tgt = true → lineTgt x.data (sl.pc.toNat % 8) = true) :
    s.fetchHood w = .word (v.modWarp w.core w.slot fun a => a.clearTgt s.cur.hood) (lineSlotBits x.data (sl.pc.toNat % 8))
      (if linePair x.data (sl.pc.toNat % 8) then some (lineSlotBits x.data (sl.pc.toNat % 8 + 1)) else none) := by
  unfold State.fetchHood
  dsimp only
  rw [hsl, hpc]
  dsimp only
  rw [if_neg (by simp [hwait]), hheld]
  dsimp only
  rw [hline]
  dsimp only
  rw [if_neg (by simp [hbad]), if_neg (by simp [hslot]), if_neg (by simp [hres]), if_neg (by simpa using htgt)]

/-! ### What moves (R186, R412, R462) -/

theorem Machine.step_halted (h : s.before.halted = true) : step s = stepHalted s.before := if_pos h

/-- With no replay due a running package makes the move at the head of the agenda, or else the choice of a pipe. -/
theorem Machine.step_running (h : s.before.halted = false) (hdue : s.before.dueEntry? = none) :
    step s = match s.before.agenda with
      | .event i :: rest => exec i { s.before with agenda := rest }
      | .register w r v :: rest => .next (registerWrite w r v { s.before with agenda := rest })
      | .half w r hi v :: rest => .next (registerWrite w r (s.before.mmioHalf r hi v) { s.before with agenda := rest })
      | .issue h :: rest => stepHood { s.before.ready with agenda := rest, cur := h }
      | .second h :: rest => stepHood { s.before.ready with agenda := rest, cur := h } true
      | [] => match s.before.ready.nextTurn with
        | some p => tryHoods (s.before.ready.choices p) { s.before.ready with turn := (p + 1) % allPipes }
        | none => .next s.before.ready := by
  unfold step
  dsimp only
  rw [if_neg (by simp [h]), hdue] <;> rfl

end

/-- Settles O2, clause by clause: what a fetched word leads to, the fetch of a good line, and who moves. -/
theorem stepRunsTheDecodedInstruction : Obligations.StepRunsTheDecodedInstruction := by
  unfold Obligations.StepRunsTheDecodedInstruction
  refine ⟨?performed, ?lost, ?rejected, ?fetched, ?before, ?issue, ?second, ?choice, ?tried, ?event, ?register, ?replay, ?idle, ?asleep,
    ?noIssue, fun _ => rfl⟩
  case performed =>
    intro s t u w word pair i second hw hf hd hr
    rw [stepHood_of_decode hw hf hd, hr] <;> rfl
  case lost =>
    intro s t w word pair i second hw hf hd hr
    rw [stepHood_of_decode hw hf hd, hr]
  case rejected => exact fun s t w word pair r second => stepHood_of_reject
  case fetched =>
    intro s t u w x pa sl line d hpc hi hwait hheld ht hr hgood hres htgt
    obtain ⟨v, y, hline, hdata, hbad, hslot⟩ := State.fetchLine_good hi ht hr rfl hgood
    exact ⟨_, hdata ▸ State.fetchHood_good rfl hpc hwait hheld hline hbad hslot (hdata.symm ▸ hres) (hdata.symm ▸ htgt)⟩
  case before =>
    intro s hu hdir
    have hmeet : s.meetUpsets = s := by
      unfold State.meetUpsets
      rw [List.filter_eq_nil_iff.mpr fun e he => by simp [hdir e he]]
      simp [hu]
    refine ⟨hmeet, fun hc => ?_⟩
    unfold State.before
    rw [hmeet]
    exact if_pos (List.all_eq_true.mpr fun c hm => by simp [hc c hm])
  case issue =>
    rintro s m h rest rfl hrun hdue ha
    rw [step_running hrun hdue, ha]
  case second =>
    rintro s m h rest rfl hrun hdue ha
    rw [step_running hrun hdue, ha]
  case choice =>
    rintro s m p hrun hdue ha rfl hp
    rw [step_running hrun hdue, ha]
    dsimp only
    rw [hp]
  case tried =>
    intro h l s t ht
    rw [tryHoods, ht]
  case event =>
    rintro s m i rest rfl (⟨hrun, hdue⟩ | ⟨hhalt, hawake⟩) ha
    · rw [step_running hrun hdue, ha]
    · rw [step_halted hhalt, stepHalted, ha]
      exact if_pos hawake
  case register =>
    rintro s m w r v rest rfl hrun hdue ha
    rw [step_running hrun hdue, ha]
  case replay =>
    rintro s m h i rfl hrun hdue
    unfold step
    dsimp only
    rw [if_neg (by simp [hrun]), hdue]
  case idle =>
    rintro s m rfl hhalt ha
    rw [step_halted hhalt, stepHalted, ha]
  case asleep =>
    rintro s m i rest rfl hhalt hawake ha
    rw [step_halted hhalt, stepHalted, ha]
    exact if_neg (by simp [hawake])
  case noIssue =>
    rintro s m h rest rfl hhalt (ha | ha) <;> rw [step_halted hhalt, stepHalted, ha]

end Sys2Proof
end

section
/-! # A load that the host's line holds back does not park (O19) -/

namespace Sys2Proof

open Machine Safety

/-- A load whose addresses pass their checks is held back while the host holds the line of an entry in which a translation would set A,
whatever its other pages would give (R97, R450). -/
theorem Safety.exec_vld_entryHeld {f : FormM} {s : State} {b : Warp} {c : Issue} {ps : List Piece} {l : Nat}
    (h : issueOf (.vld f) s = some (b, c)) (hact : c.act ≠ 0#96)
    (hchecks : c.s.classifyAll c.w (plainArgs f .read (widthOf f.s f.ty.toNat) false) (c.addresses f false) = (ps, []))
    (hroom : c.s.missHeld c.w (plainArgs f .read (widthOf f.s f.ty.toNat) false) ps = false)
    (hheld : c.s.entryHeld c.w (plainArgs f .read (widthOf f.s f.ty.toNat) false) ps false = some l) :
    exec (.vld f) s = .next (after b c (.again (c.s.askBack l))) := by
  have hfresh : c.sent = [] ∧ c.retry = false := by
    obtain ⟨_, _, _, -, -, -, -, rfl, -⟩ := issueOf_spec h
    exact ⟨rfl, rfl⟩
  have hvld : c.vld f = .again (c.s.askBack l) := by
    unfold Issue.vld Issue.load Issue.resolve
    dsimp only
    rw [if_neg (by simp [Issue.idle, hact]), if_neg (by simp [hfresh.1]), State.prep, hchecks]
    dsimp only
    rw [if_neg (by simp [hroom]), hfresh.2, hheld]
  rw [exec_vld, execVld, issue_eq h rfl, hvld]

/-- A load of b32 by every lane from the addresses in v0 and v1. -/
def Safety.twoPageLoad : FormM := { d := 2, s := 0x1FF, ty := 0x12 }

/-- A warp of one live slice with two lanes, whose addresses are 0 and 1 GiB. -/
def Safety.twoPageWarp : Warp :=
  { core := 0, slot := 0, gang := 0, pos := 0, idx := 0, ctx := 0, vrc := 8, src := 8, slices := [{ pc := 0x10000 }]
    v := [BitVec.ofNat 3072 (2 ^ 30 * 2 ^ 32), 0, 0, 0], s := List.replicate 125 0 ++ [3, 0, 0], q := [BitVec.allOnes 96] }

/-- That warp in a context whose address space is one page of 1 GiB, at VA 0. Its leaf entry, at 0x3000, is without A, and the host holds
the entry's line. -/
def Safety.snoopedState : State :=
  { store := ((({} : Store).write 0x1000 8 0x2001).write 0x2000 8 0x3001).write 0x3000 8 0x0003
    dies := [{ present := true }]
    contexts := [{ slot := 0, id := 0, system := true, ptroot := 0x1000 }]
    warps := [twoPageWarp]
    hub := { snoop := [0x60] } }

/-- The issue that the load makes there. -/
def Safety.snoopedIssue : Warp × Issue := snoopedState.issueFor twoPageWarp 0 0x0C2 (.m twoPageLoad)

/-- The pieces of its two lanes. -/
def Safety.twoPagePieces : List Piece := [{ lane := 0, va := 0, n := 4, virt := true }, { lane := 1, va := 2 ^ 30, n := 4, virt := true }]

/-- What its translations come to: lane 0's page, and the fault of lane 1's. -/
def Safety.snoopedTranslation : State × List Piece × List LaneFault :=
  snoopedIssue.2.s.translateAll snoopedIssue.2.w (plainArgs twoPageLoad .read 4 false) twoPagePieces

/-- Refutes O19, by its clause on R100: where one lane's page faults and the host holds the line of another lane's entry, the load is held
back at its PC (R450), and the statement's hood has parked it and gone on. -/
theorem not_faultsBeforeAnyEffect : ¬ Obligations.FaultsBeforeAnyEffect := by
  unfold Obligations.FaultsBeforeAnyEffect
  rintro ⟨-, -, -, -, -, hparks⟩
  have hissue : issueOf (.vld twoPageLoad) snoopedState = some (snoopedIssue.1, snoopedIssue.2) :=
    issueOf_issueFor (s := snoopedState) (w := twoPageWarp) (opc := 0x0C2) (f := .m twoPageLoad) rfl (by decide +kernel) (by decide +kernel) (by decide +kernel)
  have hact : snoopedIssue.2.act ≠ 0#96 := by decide +kernel
  have hchecks : snoopedIssue.2.s.classifyAll snoopedIssue.2.w (plainArgs twoPageLoad .read 4 false)
      (snoopedIssue.2.addresses twoPageLoad false) = (twoPagePieces, []) := by decide +kernel
  have hroom : snoopedIssue.2.s.missHeld snoopedIssue.2.w (plainArgs twoPageLoad .read 4 false) twoPagePieces = false := by decide +kernel
  have hheld : snoopedIssue.2.s.entryHeld snoopedIssue.2.w (plainArgs twoPageLoad .read 4 false) twoPagePieces false = some 0x60 := by
    decide +kernel
  have hfaults : snoopedTranslation.2.2 ≠ [] := by decide +kernel
  have hparked := hparks twoPageLoad snoopedState _ _ twoPagePieces snoopedTranslation.1 snoopedTranslation.2.1 _ hissue hact hchecks hroom rfl
    hfaults
  have hagain := exec_vld_entryHeld hissue hact hchecks hroom hheld
  have hpc := congrArg (fun t : State => t.warps.map fun w => (w.slice 0).pc) (Host.Outcome.next.inj (hagain.symm.trans hparked))
  exact absurd hpc (by decide +kernel)

end Sys2Proof
end

section
/-! # Scalar instructions: moves, arithmetic, logic, compares and fields (O6, O7) -/

namespace Sys2Proof

open Machine Safety

/-! ### From a performance to the destination -/

/-- A completion that performs nothing with an empty active set (R176). -/
theorem Machine.Issue.doneUnlessIdle_eq (c : Issue) (g : Warp → Warp) :
    (if c.idle then Res.next c.s else c.done g) = .next (c.put fun w => if c.act = 0 then w else g w) := by
  unfold Issue.idle Issue.done
  by_cases h : c.act = 0#96
  · simp [h, Issue.put_id]
  · simp [h]

/-- A compare into a q register (R254). -/
theorem Machine.Issue.cmpDone_q {c : Issue} {d : BitVec 10} {n : Nat} (h : operand d = .q n) (wide r : Bool) :
    c.cmpDone d wide r =
      .next (c.put fun w => if c.act = 0 then w else w.setQ n c.act (if r then BitVec.allOnes 96 else 0)) := by
  unfold Issue.cmpDone
  rw [h]
  exact c.doneUnlessIdle_eq _

/-- A compare into any other destination (R254). -/
theorem Machine.Issue.cmpDone_scalar {c : Issue} {d : BitVec 10} (h : ∀ n, operand d ≠ .q n) (wide r : Bool) :
    c.cmpDone d wide r = c.scalarDone d wide (if r then 1 else 0) := by
  unfold Issue.cmpDone
  split
  next hidle => rw [Issue.scalarDone, if_pos hidle]
  next =>
    split
    next n hq => exact absurd hq (h n)
    next => rfl

/-- SMOVIH writes the high register of its pair (R250). -/
theorem Safety.changes_smovih {f : FormI} {n : Nat} (h : operand f.d = .s n) :
    Changes (.smovih f) fun c w => if c.act = 0 then w else w.setS c.lanes (n + 1) f.imm :=
  changes_of rfl (exec_smovih f) (fun _ => rfl) fun c => by
    rw [h]
    exact c.doneUnlessIdle_eq _

section
variable {i : Instr} {opc : Nat} {g : ElemTy → Nat → Nat → Nat} {m : State → Host.Outcome State Fault Refusal}

/-- An instruction of two scalar sources writes what its operation makes of them (R248). -/
theorem Safety.writesScalar_sBin {f : FormA} (hi : i.code? = some (opc, .a f)) (he : ∀ s, exec i s = m s)
    (hm : ∀ s, m s = issue opc (.a f) s fun c => c.sBin f g) : WritesScalar i f.d (wideTy f.ty.toNat) (sArith f g) :=
  writesScalar_of hi he hm fun _ => rfl

/-- The same with IMM32 as the second source (R230). -/
theorem Safety.writesScalar_sBinI {f : FormI} (hi : i.code? = some (opc, .i f)) (he : ∀ s, exec i s = m s)
    (hm : ∀ s, m s = issue opc (.i f) s fun c => c.sBinI f g) : WritesScalar i f.d (wideTy f.ty.toNat) (sArithImm f g) :=
  writesScalar_of hi he hm fun _ => rfl

/-- A shift by a scalar register (R253). -/
theorem Safety.writesScalar_sShift {f : FormA} (hi : i.code? = some (opc, .a f)) (he : ∀ s, exec i s = m s)
    (hm : ∀ s, m s = issue opc (.a f) s fun c => c.sShift f g) :
    WritesScalar i f.d (wideTy f.ty.toNat) (Safety.sShift f g) :=
  writesScalar_of hi he hm fun _ => rfl

/-- A shift by IMM32 (R253). -/
theorem Safety.writesScalar_sShiftI {f : FormI} (hi : i.code? = some (opc, .i f)) (he : ∀ s, exec i s = m s)
    (hm : ∀ s, m s = issue opc (.i f) s fun c => c.sShiftI f g) :
    WritesScalar i f.d (wideTy f.ty.toNat) (sShiftImm f g) :=
  writesScalar_of hi he hm fun _ => rfl

/-- An instruction that ends as a compare, into a q register (R254). -/
theorem Safety.changes_cmp {f : Form} {d : BitVec 10} {wide : Bool} {n : Nat} {r : Issue → Bool} (hq : operand d = .q n)
    (hi : i.code? = some (opc, f)) (he : ∀ s, exec i s = m s) (hm : ∀ s, m s = issue opc f s fun c => c.cmpDone d wide (r c)) :
    Changes i fun c w => if c.act = 0 then w else w.setQ n c.act (if r c then BitVec.allOnes 96 else 0) :=
  changes_of hi he hm fun c => Issue.cmpDone_q hq wide (r c)

/-- The same into a scalar (R254). -/
theorem Safety.writesScalar_cmp {f : Form} {d : BitVec 10} {wide : Bool} {r : Issue → Bool} (hs : ∀ n, operand d ≠ .q n)
    (hi : i.code? = some (opc, f)) (he : ∀ s, exec i s = m s) (hm : ∀ s, m s = issue opc f s fun c => c.cmpDone d wide (r c)) :
    WritesScalar i d wide fun c => if r c then 1 else 0 :=
  writesScalar_of hi he hm fun c => Issue.cmpDone_scalar hs wide (r c)

end

/-! ### The obligations -/

/-- The high half of the exact product is its floor over 2^n (R251). -/
theorem Machine.opMulH_eq (t : ElemTy) (x y : Nat) : opMulH t x y = ofInteger t.n (t.val x * t.val y / 2 ^ t.n) := by
  simp [opMulH]

/-- Settles O6: each instruction is its operation of R250 to R252 on the scalars it reads. -/
theorem scalarMovesAndArithmetic : Obligations.ScalarMovesAndArithmetic := by
  unfold Obligations.ScalarMovesAndArithmetic
  simp only [← opMulH_eq]
  refine ⟨⟨fun f => ?smov, fun f h => ?smovi, fun f h => ?smoviPc, fun f n h => changes_smovih h⟩,
    fun f => ?sadd, fun f => ?saddImm, fun f => ?ssub, fun f => ?ssubImm, fun f => ?smul, fun f => ?smulImm, fun f => ?smulh,
    fun f => ?smulhImm, fun f => ?smad, fun f => ?sdiv, fun f => ?sdivImm, fun f => ?srem, fun f => ?sremImm, fun f => ?smin,
    fun f => ?sminImm, fun f => ?smax, fun f => ?smaxImm⟩
  case smov => exact writesScalar_of rfl (exec_smov f) (fun _ => rfl) fun _ => rfl
  case smovi => exact writesScalar_of rfl (exec_smovi f) (fun _ => rfl) fun _ => if_neg h
  case smoviPc => exact writesScalar_of rfl (exec_smovi f) (fun _ => rfl) fun _ => if_pos h
  case smad => exact writesScalar_of rfl (exec_smad f) (fun _ => rfl) fun _ => rfl
  case sadd | ssub | smul | smulh | sdiv | srem | smin | smax => exact writesScalar_sBin rfl (fun _ => rfl) fun _ => rfl
  case saddImm | ssubImm | smulImm | smulhImm | sdivImm | sremImm | sminImm | smaxImm =>
    exact writesScalar_sBinI rfl (fun _ => rfl) fun _ => rfl

/-- SLEA's sum (R257), with the shift as a power of two among the integers. -/
theorem Machine.opLea_eq (signed : Bool) (base idx sh : Nat) :
    opLea signed base idx sh = ofInteger 64 ((base : Int) + toInteger signed 32 idx * 2 ^ sh) := by
  simp [opLea]

/-- Settles O7: each instruction is its operation of R253 to R257 on the scalars it reads, and a compare ends by its destination's class. -/
theorem scalarLogicComparesAndFields : Obligations.ScalarLogicComparesAndFields := by
  unfold Obligations.ScalarLogicComparesAndFields
  simp only [← opLea_eq]
  refine ⟨⟨fun f => ?sand, fun f => ?sandImm, fun f => ?sor, fun f => ?sorImm, fun f => ?sxor, fun f => ?sxorImm, fun f => ?sshl,
      fun f => ?sshlImm, fun f => ?sshr, fun f => ?sshrImm, fun f => ?ssra, fun f => ?ssraImm⟩,
    fun f n hq => ?scmpQ, fun f hs => ?scmp, fun f n hq => ?scmpImmQ, fun f hs => ?scmpImm, fun f => ?ssel, fun f => ?sclz,
    fun f => ?spopc, fun f => ?sbfe, fun f => ?sbfeImm, fun f => ?sbfi, fun f => ?slea⟩
  case sand | sor | sxor => exact writesScalar_sBin rfl (fun _ => rfl) fun _ => rfl
  case sandImm | sorImm | sxorImm => exact writesScalar_sBinI rfl (fun _ => rfl) fun _ => rfl
  case sshl | sshr | ssra => exact writesScalar_sShift rfl (fun _ => rfl) fun _ => rfl
  case sshlImm | sshrImm | ssraImm => exact writesScalar_sShiftI rfl (fun _ => rfl) fun _ => rfl
  case scmpQ => exact changes_cmp hq rfl (exec_scmp f) fun _ => rfl
  case scmpImmQ => exact changes_cmp hq rfl (exec_scmpImm f) fun _ => rfl
  case scmp => exact writesScalar_cmp hs rfl (exec_scmp f) fun _ => rfl
  case scmpImm => exact writesScalar_cmp hs rfl (exec_scmpImm f) fun _ => rfl
  case ssel | sclz | spopc | sbfe | sbfeImm | sbfi | slea => exact writesScalar_of rfl (fun _ => rfl) (fun _ => rfl) fun _ => rfl

end Sys2Proof
end

section
/-! # What the counts and the bit fields compute (O11) -/

namespace Sys2Proof

open Machine Safety

/-! ### Counts (R255) -/

/-- An element is all zeros where its leading zeros are as many as its bits. -/
theorem Machine.opClz_eq_width_iff {t : ElemTy} {x : Nat} (hx : x < 2 ^ t.n) : opClz t x = t.n ↔ x = 0 := by
  unfold opClz
  rw [Nat.mod_eq_of_lt hx]
  by_cases h0 : x = 0
  · simp [h0]
  · have hn : t.n ≠ 0 := fun hn => h0 (by simpa [hn] using hx)
    rw [if_neg h0]
    omega

/-- Above the highest bit set of an element stand its leading zeros. -/
theorem Machine.opClz_of_highest {t : ElemTy} {x k : Nat} (hx : x < 2 ^ t.n) (hk : x.testBit k = true)
    (habove : ∀ j, k < j → x.testBit j = false) : opClz t x = t.n - 1 - k := by
  have hlow : 2 ^ k ≤ x := Nat.ge_two_pow_of_testBit hk
  have hhigh : x < 2 ^ (k + 1) := Nat.lt_pow_two_of_testBit x fun j hj => habove j hj
  have h0 : x ≠ 0 := by
    rintro rfl
    simp at hk
  have hlog : x.log2 = k := (Nat.log2_eq_iff h0).mpr ⟨hlow, hhigh⟩
  rw [opClz, Nat.mod_eq_of_lt hx, if_neg h0, hlog]

/-! ### Integers and their bits -/

/-- The integer of w bits with a sign is that of a bit vector. -/
theorem Machine.toInteger_signed (w b : Nat) (hw : 0 < w) : toInteger true w b = (BitVec.ofNat w b).toInt := by
  have hpow : 2 ^ w = 2 * 2 ^ (w - 1) := by rw [← pow_succ', Nat.sub_add_cancel hw]
  simp only [toInteger, Bool.true_and, decide_eq_true_eq, BitVec.toInt, BitVec.toNat_ofNat]
  split_ifs
  · omega
  · rfl
  · rfl
  · omega

/-- The low n bits of an integer are those of its bit vector. -/
theorem Machine.ofInteger_eq (n : Nat) (x : Int) : ofInteger n x = (BitVec.ofInt n x).toNat := by
  rw [BitVec.toNat_ofInt, ofInteger]

/-! ### Bit fields (R256) -/

/-- The bits of the field of w bits at p. -/
theorem Machine.testBit_field {x n p w : Nat} (h : p + w ≤ n) (k : Nat) :
    (x % 2 ^ n / 2 ^ p % 2 ^ w).testBit k = (decide (k < w) && x.testBit (p + k)) := by
  have hin : k < w → p + k < n := by omega
  rw [Nat.testBit_mod_two_pow, Nat.testBit_div_two_pow, Nat.testBit_mod_two_pow]
  by_cases hk : k < w <;> simp [hk, hin, Nat.add_comm]

/-- A field that lies in its element, zero-extended. -/
theorem Machine.testBit_opBfe_unsigned {t : ElemTy} {x p w : Nat} (ht : t.signed = false) (h : p + w ≤ t.n) (hw : 0 < w) (k : Nat) :
    (opBfe t x p w).testBit k = (decide (k < w) && x.testBit (p + k)) := by
  have hp : Nat.min p t.n = p := Nat.min_eq_left (by omega)
  have hwn : Nat.min w t.n = w := Nat.min_eq_left (by omega)
  simp only [opBfe, hp, hwn, ht, hw.ne', if_false, Bool.false_eq_true, testBit_field h]

/-- A field that lies in its element, sign-extended. -/
theorem Machine.testBit_opBfe_signed {t : ElemTy} {x p w k : Nat} (ht : t.signed = true) (h : p + w ≤ t.n) (hw : 0 < w) (hk : k < t.n) :
    (opBfe t x p w).testBit k = x.testBit (p + min k (w - 1)) := by
  have hp : Nat.min p t.n = p := Nat.min_eq_left (by omega)
  have hwn : Nat.min w t.n = w := Nat.min_eq_left (by omega)
  simp only [opBfe, hp, hwn, ht, hw.ne', if_false, if_true, toInteger_signed _ _ hw, ofInteger_eq]
  have hext := BitVec.getLsbD_signExtend (BitVec.ofNat w (x % 2 ^ t.n / 2 ^ p % 2 ^ w)) (v := t.n) (i := k)
  rw [BitVec.signExtend, ← BitVec.testBit_toNat] at hext
  rw [hext, BitVec.msb_eq_getLsbD_last, BitVec.getLsbD_ofNat, BitVec.getLsbD_ofNat, testBit_field h, testBit_field h]
  by_cases hlow : k < w
  · simp [hk, hlow, Nat.min_eq_left (show k ≤ w - 1 by omega)]
  · simp [hk, hlow, hw, Nat.min_eq_right (show w - 1 ≤ k by omega)]

/-- An element with a field replaced: the field's bits from the insert, the others as they were. -/
theorem Machine.testBit_opBfi {t : ElemTy} {x y p w k : Nat} (h : p + w ≤ t.n) (hk : k < t.n) :
    (opBfi t x y p w).testBit k = if p ≤ k ∧ k < p + w then y.testBit (k - p) else x.testBit k := by
  have hp : Nat.min p t.n = p := Nat.min_eq_left (by omega)
  have hwn : Nat.min w t.n = w := Nat.min_eq_left (by omega)
  have hmask := Nat.mod_lt ((2 ^ w - 1) * 2 ^ p) (Nat.two_pow_pos t.n)
  simp only [opBfi, hp, hwn, Nat.sub_sub, Nat.add_comm 1, Nat.testBit_or, Nat.testBit_and, Nat.testBit_two_pow_sub_succ hmask,
    Nat.testBit_mod_two_pow, Nat.testBit_mul_two_pow, Nat.testBit_two_pow_sub_one]
  by_cases hpk : p ≤ k
  · by_cases hkw : k < p + w
    · simp [hk, hpk, hkw, show k - p < w by omega]
    · simp [hk, hkw, show ¬ k - p < w by omega]
  · simp [hk, hpk]

/-! ### The obligation -/

/-- Settles O11: the laws of the counts and the fields, at 32 bits. -/
theorem bitOperationsMeaning : Obligations.BitOperationsMeaning := by
  unfold Obligations.BitOperationsMeaning
  refine ⟨fun x => ⟨?clzZero, fun k hk hset habove => ?clz⟩, fun x => ?popc, fun x p w hpw hw k hk => ⟨?bfe, ?bfeSigned⟩,
    fun x y p w hpw k hk => ?bfi⟩
  case clzZero => exact (opClz_eq_width_iff (t := elemTy 0) x.isLt).trans (BitVec.toNat_eq (y := 0#32)).symm
  case clz =>
    refine opClz_of_highest (t := elemTy 0) x.isLt hset fun j hj => ?_
    by_cases hj32 : j < 32
    · exact habove j hj32 hj
    · exact BitVec.getLsbD_of_ge x j (by omega)
  case popc => exact List.countP_eq_length_filter
  case bfe =>
    rw [BitVec.getLsbD_ofNat, testBit_opBfe_unsigned rfl hpw hw]
    simp [hk, BitVec.testBit_toNat]
  case bfeSigned =>
    rw [BitVec.getLsbD_ofNat, testBit_opBfe_signed rfl hpw hw hk]
    simp [hk, BitVec.testBit_toNat]
  case bfi =>
    rw [BitVec.getLsbD_ofNat, testBit_opBfi hpw hk]
    simp [hk, BitVec.testBit_toNat]

end Sys2Proof
end

section
/-! # SCVT of a NaN to its own type is a move (O13) -/

namespace Sys2Proof

open Machine Safety

/-- SCVT that leaves the type of a float NaN as it is keeps its bits, and quiets one that signals with IV (R258). -/
theorem Safety.exec_scvt_sameTypeNan {f : FormA} {s : State} {b : Warp} {c : Issue} {r : FRes}
    (h : issueOf (.scvt f) s = some (b, c)) (hact : c.act ≠ 0)
    (hsame : f.sub.toNat = f.ty.toNat) (hfloat : isInt4 f.sub.toNat = false)
    (hnan : moveNan f.sub.toNat (c.scalar f.s1 (wideTy f.sub.toNat) f.sub.toNat) = some r)
    (hquiet : trapRecords c.w c.pc [(c.lane, r.2)] = []) :
    exec (.scvt f) s = .next (after b c (.next (c.put fun w => (w.putScalar c.lanes f.d (wideTy f.ty.toNat) r.1).orFlags r.2))) := by
  rw [exec_scvt, execScvt, issue_eq h rfl]
  dsimp only
  rw [if_neg (by simpa [Issue.idle] using hact), if_pos (by simpa [hfloat] using hsame), hnan, Option.getD_some, Issue.doneFlags, hquiet]
  simp [flagsUnion]

/-- SCVT from f32 to f32, from s0 to s1. -/
def Safety.sameTypeScvt : FormA := { d := 0x101, s1 := 0x100, ty := 8, sub := 8 }

/-- A warp of one live slice with one lane, and a negative quiet NaN in s0. -/
def Safety.nanWarp : Warp :=
  { core := 0, slot := 0, gang := 0, pos := 0, idx := 0, ctx := 0, vrc := 8, src := 8, slices := [{ pc := 0 }]
    s := 0xFFC00000 :: List.replicate 124 0 ++ [1, 0, 0] }

/-- A state with that warp alone. -/
def Safety.nanState : State := { warps := [nanWarp] }

/-- The issue that the conversion makes there. -/
def Safety.nanIssue : Warp × Issue := nanState.issueFor nanWarp 0 0x039 (.a sameTypeScvt)

/-- Refutes O13, by its clause on SCVT: a quiet NaN converted to its own type keeps its bits (R258), and the statement's register gets the
canonical NaN of a conversion. -/
theorem not_floatConversionsAndTests : ¬ Obligations.FloatConversionsAndTests := by
  unfold Obligations.FloatConversionsAndTests
  rintro ⟨-, -, hscvt, -⟩
  have hissue : issueOf (.scvt sameTypeScvt) nanState = some (nanIssue.1, nanIssue.2) :=
    issueOf_issueFor (s := nanState) (w := nanWarp) (opc := 0x039) (f := .a sameTypeScvt) rfl (by decide +kernel)
      (by decide +kernel) (by decide +kernel)
  have hact : nanIssue.2.act ≠ 0 := by decide +kernel
  have hnan : moveNan 8 (nanIssue.2.scalar 0x100 false 8) = some (0xFFC00000, 0) := by decide +kernel
  have hmoved := exec_scvt_sameTypeNan hissue hact rfl rfl hnan rfl
  have hstated := hscvt sameTypeScvt _ _ _ hissue hact rfl
  have hs1 := congrArg (fun t : State => t.warps.map fun w => w.getS 1) (Host.Outcome.next.inj (hmoved.symm.trans hstated))
  exact absurd hs1 (by decide +kernel)

end Sys2Proof
end

section
/-! # Vector instructions: moves, arithmetic, logic, compares and fields (O8, O9, O10) -/

namespace Sys2Proof

open Machine Safety

/-! ### From a performance to the lanes of the destination -/

/-- An instruction that completes with a value for each active lane writes it there (R172, R276). -/
theorem Safety.writesVector_of {i : Instr} {opc : Nat} {f : Form} {body : Issue → Res} {d : BitVec 10} {wide : Bool}
    {x : Issue → Nat → Nat} {m : State → Host.Outcome State Fault Refusal} (hi : i.code? = some (opc, f)) (he : ∀ s, exec i s = m s)
    (hm : ∀ s, m s = issue opc f s body) (hb : ∀ c : Issue, body c = c.vectorDone d wide (x c)) : WritesVector i d wide x :=
  changes_of hi he hm hb

section
variable {i : Instr} {opc : Nat} {g : ElemTy → Nat → Nat → Nat} {m : State → Host.Outcome State Fault Refusal}

/-- An instruction of two vector sources writes what its operation makes of their elements (R279). -/
theorem Safety.writesVector_vBin {f : FormA} (hi : i.code? = some (opc, .a f)) (he : ∀ s, exec i s = m s)
    (hm : ∀ s, m s = issue opc (.a f) s fun c => c.vBin f g) : WritesVector i f.d (wideTy f.ty.toNat) (vArith f g) :=
  writesVector_of hi he hm fun _ => rfl

/-- The same with IMM32 as the second source (R230). -/
theorem Safety.writesVector_vBinI {f : FormI} (hi : i.code? = some (opc, .i f)) (he : ∀ s, exec i s = m s)
    (hm : ∀ s, m s = issue opc (.i f) s fun c => c.vBinI f g) : WritesVector i f.d (wideTy f.ty.toNat) (vArithImm f g) :=
  writesVector_of hi he hm fun _ => rfl

/-- A shift by the elements of a vector register (R274, R279). -/
theorem Safety.writesVector_vShift {f : FormA} (hi : i.code? = some (opc, .a f)) (he : ∀ s, exec i s = m s)
    (hm : ∀ s, m s = issue opc (.a f) s fun c => c.vShift f g) :
    WritesVector i f.d (wideTy f.ty.toNat) (Safety.vShift f g) :=
  writesVector_of hi he hm fun _ => rfl

/-- A shift by IMM32 (R253). -/
theorem Safety.writesVector_vShiftI {f : FormI} (hi : i.code? = some (opc, .i f)) (he : ∀ s, exec i s = m s)
    (hm : ∀ s, m s = issue opc (.i f) s fun c => c.vShiftI f g) :
    WritesVector i f.d (wideTy f.ty.toNat) (vShiftImm f g) :=
  writesVector_of hi he hm fun _ => rfl

/-- A compare writes the bits of the active lanes of its q register (R281). -/
theorem Safety.changes_vcmp {f : Form} {d : BitVec 10} {p : Issue → Nat → Bool} (hi : i.code? = some (opc, f))
    (he : ∀ s, exec i s = m s) (hm : ∀ s, m s = issue opc f s fun c => c.vCmpDone d (p c)) :
    Changes i fun c w => w.setQ (regNum d) c.act (LaneMask.ofFn fun l => c.act.getLsbD l && p c l) :=
  changes_of hi he hm fun _ => rfl

end

/-! ### The obligations -/

/-- Settles O8: the moves write one value for each lane, and PHILOX its four registers. -/
theorem vectorMovesAndPhilox : Obligations.VectorMovesAndPhilox := by
  unfold Obligations.VectorMovesAndPhilox
  refine ⟨⟨fun f => ?vmov, fun f => ?vmovi, fun f => ?vbcst, fun f => ?vidx⟩, fun f => ?philox⟩
  case vmov | vmovi | vbcst | vidx => exact writesVector_of rfl (fun _ => rfl) (fun _ => rfl) fun _ => rfl
  case philox => exact changes_of rfl (exec_philox f) (fun _ => rfl) fun _ => rfl

/-- Settles O9: each instruction is its operation of R251 on the elements of the lanes it reads. -/
theorem vectorArithmeticIsElementwise : Obligations.VectorArithmeticIsElementwise := by
  unfold Obligations.VectorArithmeticIsElementwise
  simp only [← opMulH_eq]
  refine ⟨fun f => ?vadd, fun f => ?vaddImm, fun f => ?vsub, fun f => ?vsubImm, fun f => ?vmul, fun f => ?vmulImm, fun f => ?vmulh,
    fun f => ?vmulhImm, fun f => ?vmad, fun f => ?vmin, fun f => ?vminImm, fun f => ?vmax, fun f => ?vmaxImm, fun f => ?vabs⟩
  case vadd | vsub | vmul | vmulh | vmin | vmax => exact writesVector_vBin rfl (fun _ => rfl) fun _ => rfl
  case vaddImm | vsubImm | vmulImm | vmulhImm | vminImm | vmaxImm => exact writesVector_vBinI rfl (fun _ => rfl) fun _ => rfl
  case vmad | vabs => exact writesVector_of rfl (fun _ => rfl) (fun _ => rfl) fun _ => rfl

/-- Settles O10: each instruction is its operation of R253 to R256 on the elements of the lanes it reads, and a compare writes q bits. -/
theorem vectorLogicComparesAndFields : Obligations.VectorLogicComparesAndFields := by
  unfold Obligations.VectorLogicComparesAndFields
  refine ⟨⟨fun f => ?vand, fun f => ?vandImm, fun f => ?vor, fun f => ?vorImm, fun f => ?vxor, fun f => ?vxorImm, fun f => ?vshl,
      fun f => ?vshlImm, fun f => ?vshr, fun f => ?vshrImm, fun f => ?vsra, fun f => ?vsraImm⟩,
    fun f => ?vcmp, fun f => ?vcmpImm, fun f => ?vsel, fun f => ?vclz, fun f => ?vpopc, fun f => ?vbfe, fun f => ?vbfeImm,
    fun f => ?vbfi, fun f => ?vdot4⟩
  case vand | vor | vxor => exact writesVector_vBin rfl (fun _ => rfl) fun _ => rfl
  case vandImm | vorImm | vxorImm => exact writesVector_vBinI rfl (fun _ => rfl) fun _ => rfl
  case vshl | vshr | vsra => exact writesVector_vShift rfl (fun _ => rfl) fun _ => rfl
  case vshlImm | vshrImm | vsraImm => exact writesVector_vShiftI rfl (fun _ => rfl) fun _ => rfl
  case vcmp => exact changes_vcmp rfl (exec_vcmp f) fun _ => rfl
  case vcmpImm => exact changes_vcmp rfl (exec_vcmpImm f) fun _ => rfl
  case vsel | vclz | vpopc | vbfe | vbfeImm | vbfi | vdot4 =>
    exact writesVector_of rfl (fun _ => rfl) (fun _ => rfl) fun _ => rfl

end Sys2Proof
end

section
/-! # Float arithmetic, element by element (O12) -/

namespace Sys2Proof

open Machine Safety

/-- An instruction that runs a float operation on each element writes and raises what it gives (R277, R285). -/
theorem Safety.writesFloat_of {i : Instr} {opc : Nat} {f : FormA} {rand : BitVec 10} {op : Fmt → FEnv → (BitVec 10 → Nat) → FRes}
    {m : State → Host.Outcome State Fault Refusal} (hi : i.code? = some (opc, .a f)) (he : ∀ s, exec i s = m s)
    (hm : ∀ s, m s = issue opc (.a f) s fun c => c.fRun f rand op) : WritesFloat i f rand op :=
  writesFloatLanes_of hi he hm fun _ => rfl

/-- Settles O12: each instruction runs its operation of R285 to R289 on the elements, whatever the operand of random bits. -/
theorem floatArithmeticIsElementwise : Obligations.FloatArithmeticIsElementwise := by
  unfold Obligations.FloatArithmeticIsElementwise
  refine ⟨fun f => ?fadd, fun f => ?fsub, fun f => ?fmul, fun f => ?ffma, fun f => ?fdiv, fun f => ?fmin, fun f => ?fmax, fun f => ?frcp,
    fun f => ?frsq, fun f => ?fsqrt, fun f => ?fexp2, fun f => ?flog2, fun f => ?fsin, fun f => ?fcos, fun f => ?ftanh, fun f => ?frint⟩
  all_goals exact writesFloat_of rfl (fun _ => rfl) fun _ => rfl

end Sys2Proof
end

section
/-! # The special cases of the float formats, and exact values (O14) -/

namespace Sys2Proof

open Machine

/-! ### The fields of a pattern (R66) -/

/-- The bits with sign `s`, exponent field `ex` and fraction `fr` (R66). -/
def Machine.Fmt.pattern (F : Fmt) (s : Bool) (ex fr : Nat) : Nat := fsign F s + ex * 2 ^ F.fbits + fr

section
variable {F : Fmt} {s : Bool} {ex fr : Nat}

/-- A signed zero has zeros beside its sign. -/
theorem Machine.fsign_eq_pattern (F : Fmt) (s : Bool) : fsign F s = F.pattern s 0 0 := by
  simp [Fmt.pattern]

/-- An infinity has the top exponent and no fraction. -/
theorem Machine.finf_eq_pattern (F : Fmt) (s : Bool) : finf F s = F.pattern s (2 ^ F.ebits - 1) 0 := rfl

/-- The fraction of a pattern is read back. -/
theorem Machine.Fmt.pattern_fraction (hfr : fr < 2 ^ F.fbits) : F.pattern s ex fr % 2 ^ F.fbits = fr := by
  have hsign : 2 ^ F.fbits ∣ fsign F s := by
    unfold fsign Fmt.width
    split
    · exact pow_dvd_pow 2 (by omega)
    · exact dvd_zero _
  obtain ⟨k, hk⟩ := hsign
  rw [Fmt.pattern, hk, Nat.add_mod, Nat.mul_comm ex, ← Nat.mul_add, Nat.mul_mod_right, Nat.zero_add, Nat.mod_mod, Nat.mod_eq_of_lt hfr]

/-- A pattern without its fraction is its sign and exponent. -/
theorem Machine.Fmt.pattern_div (hfr : fr < 2 ^ F.fbits) : F.pattern s ex fr / 2 ^ F.fbits = s.toNat * 2 ^ F.ebits + ex := by
  have hsign : fsign F s = 2 ^ F.fbits * (s.toNat * 2 ^ F.ebits) := by
    cases s <;> simp [fsign, Fmt.width, Nat.add_assoc, pow_add, Nat.mul_comm]
  rw [Fmt.pattern, hsign, Nat.mul_comm ex, ← Nat.mul_add, Nat.mul_add_div (Nat.two_pow_pos _), Nat.div_eq_of_lt hfr, Nat.add_zero]

/-- The exponent field of a pattern is read back. -/
theorem Machine.Fmt.pattern_exponent (hex : ex < 2 ^ F.ebits) (hfr : fr < 2 ^ F.fbits) :
    F.pattern s ex fr / 2 ^ F.fbits % 2 ^ F.ebits = ex := by
  rw [pattern_div hfr, Nat.mul_add_mod_self_right, Nat.mod_eq_of_lt hex]

/-- The sign of a pattern is read back. -/
theorem Machine.Fmt.pattern_sign (hex : ex < 2 ^ F.ebits) (hfr : fr < 2 ^ F.fbits) :
    F.pattern s ex fr / 2 ^ (F.width - 1) % 2 = s.toNat := by
  have hwidth : F.width - 1 = F.fbits + F.ebits := by unfold Fmt.width; omega
  rw [hwidth, pow_add, ← Nat.div_div_eq_div_mul, pattern_div hfr, Nat.mul_comm, Nat.mul_add_div (Nat.two_pow_pos _),
    Nat.div_eq_of_lt hex, Nat.add_zero, Nat.mod_eq_of_lt (Bool.toNat_lt s)]

/-- Bits of the width of a format are the pattern of their fields. -/
theorem Machine.Fmt.exists_pattern {b : Nat} (hb : b < 2 ^ F.width) :
    ∃ s ex fr, ex < 2 ^ F.ebits ∧ fr < 2 ^ F.fbits ∧ b = F.pattern s ex fr := by
  have hwidth : F.width = F.fbits + F.ebits + 1 := by unfold Fmt.width; omega
  refine ⟨b / 2 ^ (F.fbits + F.ebits) = 1, b / 2 ^ F.fbits % 2 ^ F.ebits, b % 2 ^ F.fbits, Nat.mod_lt _ (Nat.two_pow_pos _),
    Nat.mod_lt _ (Nat.two_pow_pos _), ?_⟩
  have hsign : fsign F (b / 2 ^ (F.fbits + F.ebits) = 1) = 2 ^ (F.fbits + F.ebits) * (b / 2 ^ (F.fbits + F.ebits)) := by
    have htop : b / 2 ^ (F.fbits + F.ebits) < 2 := Nat.div_lt_of_lt_mul (by rwa [← pow_succ, ← hwidth])
    rw [fsign, hwidth, Nat.add_sub_cancel]
    interval_cases b / 2 ^ (F.fbits + F.ebits) <;> simp
  have hhigh := Nat.div_add_mod (b / 2 ^ F.fbits) (2 ^ F.ebits)
  have hlow := Nat.div_add_mod b (2 ^ F.fbits)
  rw [Nat.div_div_eq_div_mul, ← pow_add] at hhigh
  calc b = 2 ^ F.fbits * (2 ^ F.ebits * (b / 2 ^ (F.fbits + F.ebits)) + b / 2 ^ F.fbits % 2 ^ F.ebits) + b % 2 ^ F.fbits := by
        rw [hhigh, hlow]
    _ = F.pattern _ _ _ := by rw [Fmt.pattern, hsign, pow_add]; ring

end

/-! ### What a pattern of an IEEE format stands for (R66) -/

/-- The formats of R66 keep the top exponent for infinities and NaNs, and have exponents beside it. -/
def Machine.Fmt.IsIeee (F : Fmt) : Prop := F.kind = .ieee ∧ 2 ≤ F.ebits

/-- The four float formats are such formats. -/
theorem Machine.isIeee_of_mem {F : Fmt} (h : F ∈ [fF32, fF64, fF16, fBf16]) : F.IsIeee := by
  simp only [List.mem_cons, List.not_mem_nil, or_false] at h
  rcases h with rfl | rfl | rfl | rfl <;> exact ⟨rfl, by decide⟩

/-- The significand of a finite pattern: a leading one but for exponent field 0. -/
def Machine.Fmt.significand (F : Fmt) (ex fr : Nat) : Nat := if ex = 0 then fr else 2 ^ F.fbits + fr

/-- The exponent of its unit: that of field 1 for field 0 too. -/
def Machine.Fmt.unit (F : Fmt) (ex : Nat) : Int := (max ex 1 : Nat) - F.bias - F.fbits

section
variable {F : Fmt} {s : Bool} {ex fr : Nat}

/-- An infinity is read as itself. -/
theorem Machine.fdecode_finf (hF : F.IsIeee) (daz s : Bool) : fdecode F daz (finf F s) = .inf s := by
  have htop : 2 ^ F.ebits - 1 < 2 ^ F.ebits := Nat.sub_lt (Nat.two_pow_pos _) one_pos
  simp [fdecode, finf_eq_pattern, Fmt.pattern_fraction, Fmt.pattern_exponent, Fmt.pattern_sign, htop, hF.1]

/-- A finite pattern is read as its significand times its unit. -/
theorem Machine.fdecode_pattern (hF : F.IsIeee) (hex : ex < 2 ^ F.ebits - 1) (hfr : fr < 2 ^ F.fbits) :
    fdecode F false (F.pattern s ex fr) = .fin s (F.significand ex fr) (F.unit ex) := by
  have hlt : ex < 2 ^ F.ebits := by omega
  have hmax : ex ≠ 0 → max ex 1 = ex := by omega
  by_cases h0 : ex = 0
  · subst h0
    simp [fdecode, Fmt.pattern_fraction, Fmt.pattern_exponent, Fmt.pattern_sign, hlt, hfr, hF.1, hex.ne, Fmt.significand, Fmt.unit, Fmt.emin]
  · simp [fdecode, Fmt.pattern_fraction, Fmt.pattern_exponent, Fmt.pattern_sign, hlt, hfr, hF.1, hex.ne, Fmt.significand, Fmt.unit, h0, hmax]

/-- A signed zero is read as a zero of its sign, with or without DAZ. -/
theorem Machine.fdecode_fsign (hF : F.IsIeee) (daz s : Bool) : ∃ e, fdecode F daz (fsign F s) = .fin s 0 e := by
  have hpow : 2 ^ 2 ≤ 2 ^ F.ebits := Nat.pow_le_pow_right two_pos hF.2
  have hne : (0 : Nat) ≠ 2 ^ F.ebits - 1 := by omega
  refine ⟨if daz && F.sub then 0 else F.emin - F.fbits, ?_⟩
  cases hd : daz && F.sub <;>
    simp [fdecode, fsign_eq_pattern, Fmt.pattern_fraction, Fmt.pattern_exponent, Fmt.pattern_sign, hF.1, hne, hd]

end

/-! ### Special cases of the operations (R67, R285) -/

section
variable {F : Fmt} {v : FEnv} {a b : Nat}

/-- The flags of an operation on two quiet NaNs are none (R67). -/
theorem Machine.ivOf_quiet (s t : Bool) (x y : Nat) (m n : Nat) : ivOf [.nan s false x m, .nan t false y n] = 0 := rfl

/-- A quotient by zero of a finite nonzero value (R285). -/
theorem Machine.fDiv_by_zero (hF : F.IsIeee) {s : Bool} {m : Nat} {e : Int} (ha : fdecode F v.daz a = .fin s m e) (hm : m ≠ 0)
    (t : Bool) : fDiv F v a (fsign F t) = (finf F (s != t), flDZ) := by
  obtain ⟨e', hzero⟩ := fdecode_fsign hF v.daz t
  simp [fDiv, ha, hzero, hm]

/-- The quotient of two zeros is invalid (R285). -/
theorem Machine.fDiv_zeros (hF : F.IsIeee) (v : FEnv) (s t : Bool) : fDiv F v (fsign F s) (fsign F t) = (fnan F, flIV) := by
  obtain ⟨e, hs⟩ := fdecode_fsign hF v.daz s
  obtain ⟨e', ht⟩ := fdecode_fsign hF v.daz t
  simp [fDiv, hs, ht, invalid]

/-- The quotient of two infinities is invalid (R285). -/
theorem Machine.fDiv_infinities (hF : F.IsIeee) (v : FEnv) (s t : Bool) : fDiv F v (finf F s) (finf F t) = (fnan F, flIV) := by
  simp [fDiv, fdecode_finf hF, invalid]

/-- The product of an infinity and a zero is invalid (R285). -/
theorem Machine.fMul_infinity_zero (hF : F.IsIeee) (v : FEnv) (s t : Bool) :
    fMul F v (finf F s) (fsign F t) = (fnan F, flIV) := by
  obtain ⟨e, ht⟩ := fdecode_fsign hF v.daz t
  simp [fMul, fdecode_finf hF, ht, FV.isNan, mulExact, invalid]

/-- The difference of an infinity and itself is invalid (R285). -/
theorem Machine.fSub_infinities (hF : F.IsIeee) (v : FEnv) (s : Bool) : fSub F v (finf F s) (finf F s) = (fnan F, flIV) := by
  simp [fSub, fdecode_finf hF, FV.isNan, FV.neg, addFV, invalid]

/-- The value of the other sign. -/
theorem Machine.signedAt_not (s : Bool) (m : Nat) (e lo : Int) : signedAt (!s) m e lo = -signedAt s m e lo := by
  cases s <;> simp [signedAt]

/-- The difference of a nonzero value and itself is an exact zero, negative when rounding toward −∞ (R285). -/
theorem Machine.fSub_self {s : Bool} {m : Nat} {e : Int} (ha : fdecode F v.daz a = .fin s m e) (hm : m ≠ 0) :
    fSub F v a a = (fsign F (v.rm = 3), 0) := by
  simp [fSub, ha, FV.isNan, FV.neg, addFV, addFin, hm, signedAt_not]

end

/-! ### Rounding a value that the format holds (R66, R73) -/

section
variable {F : Fmt} {v : FEnv} {s : Bool} {m ex fr : Nat} {e : Int}

/-- An integer is its own rounding, under every rule. -/
theorem Machine.roundInt_exact (v : FEnv) (s : Bool) (m : Nat) : roundInt v s m 0 false = (m, false) := by
  simp [roundInt, Nat.mod_one]

/-- A value whose unit is that of its magnitude in the format is its own rounding. -/
theorem Machine.roundMag_exact (hunit : max ((Nat.log2 m : Int) + e) F.emin - F.fbits = e) :
    (roundMag F v s m e false).n = m ∧ (roundMag F v s m e false).q = e ∧ (roundMag F v s m e false).inexact = false := by
  simp [roundMag, hunit, roundInt_exact]

/-- A magnitude within a bound both in its significand and in its unit is not above it. -/
theorem Machine.magGt_of_le {n : Nat} {k : Int} (hm : m ≤ n) (he : e ≤ k) : magGt m e n k = false := by
  have hpow : 2 ^ (e - min e k).toNat ≤ 2 ^ (k - min e k).toNat := Nat.pow_le_pow_right two_pos (by omega)
  simpa [magGt] using Nat.mul_le_mul hm hpow

/-- A nonzero value of the format, its unit that of its magnitude, is packed as it stands and raises nothing. -/
theorem Machine.roundFin_exact (hm : m ≠ 0) (hunit : max ((Nat.log2 m : Int) + e) F.emin - F.fbits = e) (hM : m ≤ F.maxM)
    (hE : e ≤ F.maxE) (hftz : v.ftz = false) : roundFin F v s m e false = (fpack F s m e, 0) := by
  have hmag := magGt_of_le hM hE
  obtain ⟨hn, hq, hi⟩ := roundMag_exact (v := v) (s := s) hunit
  simp [roundFin, hm, hmag, hn, hq, hi, hftz]

/-- The significand of a finite pattern has the precision of its format. -/
theorem Machine.Fmt.significand_lt (hfr : fr < 2 ^ F.fbits) : F.significand ex fr < 2 ^ F.prec := by
  rw [Fmt.prec, pow_succ, Fmt.significand]
  split <;> omega

/-- The unit of a finite pattern is that of its magnitude: of the least normal one under exponent field 0. -/
theorem Machine.Fmt.unit_eq (hfr : fr < 2 ^ F.fbits) (hne : F.significand ex fr ≠ 0) :
    max ((Nat.log2 (F.significand ex fr) : Int) + F.unit ex) F.emin - F.fbits = F.unit ex := by
  unfold Fmt.unit Fmt.emin
  by_cases h0 : ex = 0
  · have hlog : Nat.log2 (F.significand ex fr) < F.fbits := (Nat.log2_lt hne).mpr (by simpa [Fmt.significand, h0] using hfr)
    subst h0
    omega
  · have hlog : Nat.log2 (F.significand ex fr) = F.fbits := by
      have hprec := significand_lt (ex := ex) hfr
      rw [Nat.log2_eq_iff hne]
      exact ⟨by simp [Fmt.significand, h0], hprec⟩
    omega

/-- The bits of a finite pattern's value are the pattern. -/
theorem Machine.fpack_significand (hfr : fr < 2 ^ F.fbits) : fpack F s (F.significand ex fr) (F.unit ex) = F.pattern s ex fr := by
  have hprec := (Fmt.significand_lt (ex := ex) hfr).ne
  by_cases h0 : ex = 0
  · simp [fpack, Fmt.significand, h0, hfr, Fmt.pattern]
  · have hfield : (F.unit ex + F.fbits + F.bias).toNat = ex := by
      unfold Fmt.unit
      omega
    rw [fpack, if_neg (by simp [Fmt.significand, h0]), if_neg hprec, hfield, Fmt.pattern, Fmt.significand, if_neg h0,
      Nat.add_sub_cancel_left]

/-- A finite pattern is its own rounding, under every rule, where nothing is flushed. -/
theorem Machine.roundFin_pattern (hF : F.IsIeee) (hex : ex < 2 ^ F.ebits - 1) (hfr : fr < 2 ^ F.fbits) (hftz : v.ftz = false) :
    roundFin F v s (F.significand ex fr) (F.unit ex) false = (F.pattern s ex fr, 0) := by
  by_cases hne : F.significand ex fr = 0
  · obtain ⟨rfl, rfl⟩ : ex = 0 ∧ fr = 0 := by
      have hpos := Nat.two_pow_pos F.fbits
      unfold Fmt.significand at hne
      split at hne <;> omega
    rw [roundFin, if_pos hne, fsign_eq_pattern]
  · have hM : F.significand ex fr ≤ F.maxM := by
      have hprec := Fmt.significand_lt (ex := ex) hfr
      simp only [Fmt.maxM, hF.1]
      omega
    have hE : F.unit ex ≤ F.maxE := by
      have hpow : 2 ^ 2 ≤ 2 ^ F.ebits := Nat.pow_le_pow_right two_pos hF.2
      simp only [Fmt.unit, Fmt.maxE, hF.1]
      omega
    rw [roundFin_exact hne (Fmt.unit_eq hfr hne) hM hE hftz, fpack_significand hfr]

/-- A pattern with the top exponent is an infinity or a NaN. -/
theorem Machine.isNan_of_top (hF : F.IsIeee) (hfr : fr < 2 ^ F.fbits) (hne : fr ≠ 0) :
    (fdecode F false (F.pattern s (2 ^ F.ebits - 1) fr)).isNan = true := by
  have htop : 2 ^ F.ebits - 1 < 2 ^ F.ebits := Nat.sub_lt (Nat.two_pow_pos _) one_pos
  simp [fdecode, Fmt.pattern_fraction, Fmt.pattern_exponent, htop, hfr, hF.1, hne, FV.isNan]

/-- Bits of the format that are no NaN are their own conversion, under every rule, where nothing is flushed. -/
theorem Machine.fToF_self (hF : F.IsIeee) {b : Nat} (hftz : v.ftz = false) (hdaz : v.daz = false) (hb : b < 2 ^ F.width)
    (hnan : (fdecode F false b).isNan = false) : fToF F F v b = (b, 0) := by
  obtain ⟨s, ex, fr, hex, hfr, rfl⟩ := Fmt.exists_pattern hb
  rw [fToF, hdaz]
  by_cases htop : ex = 2 ^ F.ebits - 1
  · subst htop
    have hinf : fr = 0 := by
      by_contra hne
      simp [isNan_of_top hF hfr hne] at hnan
    rw [hinf, ← finf_eq_pattern, fdecode_finf hF, roundFV]
  · have hfin : ex < 2 ^ F.ebits - 1 := by omega
    rw [fdecode_pattern hF hfin hfr, roundFV, roundFin_pattern hF hfin hfr hftz]

end

/-! ### The obligation -/

/-- Settles O14: the special cases follow from what infinities and zeros are read as, and a pattern is its own rounding field by field. -/
theorem floatSpecialCasesAndExactValues : Obligations.FloatSpecialCasesAndExactValues := by
  unfold Obligations.FloatSpecialCasesAndExactValues
  refine ⟨fun F hmem v s t => ?special, fun F hmem v b hftz hdaz => fToF_self (isIeee_of_mem hmem) hftz hdaz⟩
  have hF := isIeee_of_mem hmem
  refine ⟨fSub_infinities hF v s, fMul_infinity_zero hF v s t, fDiv_zeros hF v s t, fDiv_infinities hF v s t,
    fun a m e ha hm => fDiv_by_zero hF ha hm t, fun a b x y u z k ha hb => ?quiet, fun a m e ha hm => fSub_self ha hm⟩
  simp [fAdd, fSub, fMul, fDiv, ha, hb, FV.isNan, nanRes, ivOf_quiet]

end Sys2Proof
end

section
/-! # A dormant hood's VRED does not wake it (O15) -/

namespace Sys2Proof

open Machine Safety

/-- VRED by a hood without an active lane, into a scalar alone: the identity, but for the mask of a hood whose slices are all dormant
(R174, R293). -/
theorem Safety.exec_vred_idle {f : FormA} {s : State} {b : Warp} {c : Issue} {n : Nat} (h : issueOf (.vred f) s = some (b, c))
    (hact : c.act = 0) (hd : operand f.d = .s n) (hs2 : operand f.s2 = .none) :
    exec (.vred f) s = .next (after b c (.next (c.put fun w =>
      (w.asleep (w.putScalar c.lanes f.d (wideTy f.ty.toNat) (reduceIdentity f.sub.toNat f.ty.toNat)) c.lanes).orFlags 0))) := by
  have hlanes : LaneMask.lanes (0#96) = [] := by decide
  rw [exec_vred, execVred, issue_eq h rfl]
  simp [hact, hlanes, reduce, hs2, hd, Warp.putVector, Issue.doneFlags, trapRecords, flagsUnion]

/-- VRED.and of v0 into am0. -/
def Safety.wakingVred : FormA := { d := 0x17D, s2 := 0x1FF, sub := 3 }

/-- A warp of one live slice, its mask all zeros. -/
def Safety.dormantWarp : Warp := { nanWarp with s := List.replicate 128 0 }

/-- A state with that warp alone. -/
def Safety.dormantState : State := { warps := [dormantWarp] }

/-- The issue that the reduction makes there. -/
def Safety.dormantIssue : Warp × Issue := dormantState.issueFor dormantWarp 0 0x081 (.a wakingVred)

/-- Refutes O15, by its clause on VRED: a hood whose slices are all dormant writes no register and cannot wake itself (R174), and the
statement's am0 gets the bits of its lanes from the identity. -/
theorem not_laneInstructionsComplete : ¬ Obligations.LaneInstructionsComplete := by
  unfold Obligations.LaneInstructionsComplete
  rintro ⟨-, hvred, -⟩
  have hissue : issueOf (.vred wakingVred) dormantState = some (dormantIssue.1, dormantIssue.2) :=
    issueOf_issueFor (s := dormantState) (w := dormantWarp) (opc := 0x081) (f := .a wakingVred) rfl (by decide +kernel)
      (by decide +kernel) (by decide +kernel)
  have hslept := exec_vred_idle hissue (by decide +kernel) (n := 125) (by decide) (by decide)
  have hstated := hvred wakingVred _ _ _ hissue (by decide +kernel)
  have ham0 := congrArg (fun t : State => t.warps.map fun w => w.getS 125) (Host.Outcome.next.inj (hslept.symm.trans hstated))
  exact absurd ham0 (by decide +kernel)

end Sys2Proof
end

section
/-! # Scale registers (O16) -/

namespace Sys2Proof

open Machine Safety

/-! ### Indices within their limits (R299) -/

/-- An index that is within its limit passes the check of a byte's number and that of a tag's (R303, R304). -/
theorem Machine.scaleIndex_within {α : Type} {sub idx : Nat} {fault byte tag : α} (h : idx < if sub = 0 then 24 else 3) :
    (if sub = 0 then (if 24 ≤ idx then fault else byte) else if 3 ≤ idx then fault else tag) = if sub = 0 then byte else tag := by
  by_cases hsub : sub = 0
  · rw [if_pos hsub] at h
    rw [if_pos hsub, if_pos hsub, if_neg (by omega)]
  · rw [if_neg hsub] at h
    rw [if_neg hsub, if_neg hsub, if_neg (by omega)]

/-- A limit that SUB selects is the limit that its number selects. -/
theorem Safety.lt_scaleLimit {sub : BitVec 5} {idx : Nat} (h : idx < if sub = 0 then 24 else 3) :
    idx < if sub.toNat = 0 then 24 else 3 := by
  simpa [BitVec.toNat_eq] using h

/-- KGET of the byte or tag that its index names (R303). -/
theorem Machine.Issue.kget_within {c : Issue} {sub idx : Nat} {d s1 : BitVec 10} (h : idx < if sub = 0 then 24 else 3) :
    c.kget sub d s1 idx = .next (c.put fun w => if c.act = 0 then w else scalePart sub d s1 idx c w) := by
  rw [Issue.kget, scaleIndex_within h, ← c.doneUnlessIdle_eq]
  by_cases hidle : c.idle = true
  · rw [if_pos hidle, if_pos hidle]
  · rw [if_neg hidle, if_neg hidle, Issue.scalarDone, Issue.scalarDone, if_neg hidle, if_neg hidle]
    unfold scalePart
    split_ifs <;> rfl

/-- KSET of the byte or tag that its index names (R304). -/
theorem Machine.Issue.kset_within {c : Issue} {sub idx : Nat} {d s1 : BitVec 10} (h : idx < if sub = 0 then 24 else 3) :
    c.kset sub d s1 idx = .next (c.put fun w => if c.act = 0 then w else withScalePart sub d s1 idx c w) := by
  rw [Issue.kset, scaleIndex_within h, ← c.doneUnlessIdle_eq]
  unfold withScalePart
  split_ifs <;> rfl

/-! ### KADD's sum (R306) -/

/-- A sum that a scale code can hold is not clamped. -/
theorem Machine.addScale_of_mem_range {x : Byte} {d : Int} (hx : x ≠ 0xFF) (hlo : 0 ≤ x.toNat + d) (hhi : x.toNat + d ≤ 0xFE) :
    (addScale x d).1.toNat = x.toNat + d ∧ (addScale x d).2 = false := by
  have hkept : clampInt 0 0xFE (x.toNat + d) = x.toNat + d := by
    rw [clampInt, if_neg (by omega), if_neg (by omega)]
  rw [addScale, if_neg hx]
  constructor
  · simp only [hkept, BitVec.toNat_ofNat]
    omega
  · simp [hlo, hhi]

/-! ### The obligation -/

/-- An instruction that writes bytes of a k register writes those that it names (R300). -/
theorem Safety.writesScale_of {i : Instr} {opc : Nat} {f : Form} {body : Issue → Res} {d : BitVec 10} {p : Issue → Nat → Bool}
    {x : Issue → Nat → Byte} {m : State → Host.Outcome State Fault Refusal} (hi : i.code? = some (opc, f)) (he : ∀ s, exec i s = m s)
    (hm : ∀ s, m s = issue opc f s body) (hb : ∀ c : Issue, body c = c.kDone d (p c) (x c)) : WritesScale i d p x :=
  changes_of hi he hm hb

/-- An instruction that ends as KADD adds to the bytes of its k register (R306). -/
theorem Safety.shiftsScale_of {i : Instr} {opc ty : Nat} {f : Form} {body : Issue → Res} {d s1 : BitVec 10} {delta : Issue → Int}
    {m : State → Host.Outcome State Fault Refusal} (hi : i.code? = some (opc, f)) (he : ∀ s, exec i s = m s)
    (hm : ∀ s, m s = issue opc f s body) (hb : ∀ c : Issue, body c = c.kadd ty d s1 (delta c)) : ShiftsScale i ty d s1 delta :=
  changesRaising_of hi he hm hb

/-- KGET of one byte or tag whose register index is within its limit (R303). -/
theorem Safety.completes_kget {f : FormA} (hsub : f.sub ≠ 2) :
    Completes (.kget f) (fun c => c.scalar f.s2 false 0 < if f.sub = 0 then 24 else 3) fun c =>
      .next (c.put fun w => if c.act = 0 then w else scalePart f.sub.toNat f.d f.s1 (c.scalar f.s2 false 0) c w) :=
  completes_of rfl (exec_kget f) (fun _ => rfl) fun _ hidx => (if_neg hsub).trans (Issue.kget_within (lt_scaleLimit hidx))

/-- KSET of one byte or tag whose register index is within its limit (R304). -/
theorem Safety.completes_kset {f : FormA} (hsub : f.sub ≠ 2) :
    Completes (.kset f) (fun c => c.scalar f.s2 false 0 < if f.sub = 0 then 24 else 3) fun c =>
      .next (c.put fun w => if c.act = 0 then w else withScalePart f.sub.toNat f.d f.s1 (c.scalar f.s2 false 0) c w) :=
  completes_of rfl (exec_kset f) (fun _ => rfl) fun _ hidx => (if_neg hsub).trans (Issue.kset_within (lt_scaleLimit hidx))

/-- Settles O16: each instruction is its operation of R302 to R306 on the bytes it names, an index within its limit names one byte or tag,
and a sum from 0 to 0xFE is kept. -/
theorem scaleRegisterInstructions : Obligations.ScaleRegisterInstructions := by
  unfold Obligations.ScaleRegisterInstructions
  refine ⟨fun f => ?kmov, fun f hall => ?kgetAll, fun f s b c hsub => completes_kget hsub s b c, fun f s b c => ?kgetImm,
    fun f hall => ?ksetAll, fun f s b c hsub => completes_kset hsub s b c, fun f s b c => ?ksetImm, fun f => ?kfill, fun f => ?kfillImm,
    fun f => ?kadd, fun f => ?kaddImm, fun _ _ => addScale_of_mem_range⟩
  case kmov | kfill | kfillImm => exact writesScale_of rfl (fun _ => rfl) (fun _ => rfl) fun _ => rfl
  case kgetAll => exact writesVector_of rfl (exec_kget f) (fun _ => rfl) fun _ => if_pos hall
  case ksetAll => exact writesScale_of rfl (exec_kset f) (fun _ => rfl) fun _ => if_pos hall
  case kgetImm =>
    exact completes_of rfl (exec_kgetImm f) (fun _ => rfl) (fun _ hidx => Issue.kget_within (lt_scaleLimit hidx)) s b c
  case ksetImm =>
    exact completes_of rfl (exec_ksetImm f) (fun _ => rfl) (fun _ hidx => Issue.kset_within (lt_scaleLimit hidx)) s b c
  case kadd | kaddImm => exact shiftsScale_of rfl (fun _ => rfl) (fun _ => rfl) fun _ => rfl

end Sys2Proof
end

section
/-! # Amax rings (O17) -/

namespace Sys2Proof

open Machine Safety

/-! ### The largest of the first values of a function -/

/-- A running maximum is at least each value that it has met. -/
theorem Safety.le_foldl_range_max (g : Nat → Nat) {n i : Nat} (hi : i < n) : g i ≤ (List.range n).foldl (fun m j => Nat.max m (g j)) 0 := by
  induction n with
  | zero => omega
  | succ n ih =>
    rw [List.range_succ, List.foldl_append]
    rcases Nat.lt_succ_iff_lt_or_eq.mp hi with hlt | rfl
    · exact (ih hlt).trans (Nat.le_max_left _ _)
    · exact Nat.le_max_right _ _

/-- A running maximum of at least one value is one of them. -/
theorem Safety.exists_eq_foldl_range_max (g : Nat → Nat) {n : Nat} (hn : 0 < n) :
    ∃ i < n, g i = (List.range n).foldl (fun m j => Nat.max m (g j)) 0 := by
  induction n with
  | zero => omega
  | succ n ih =>
    rw [List.range_succ, List.foldl_append]
    rcases le_total ((List.range n).foldl (fun m j => Nat.max m (g j)) 0) (g n) with hnew | hold
    · exact ⟨n, n.lt_succ_self, (Nat.max_eq_right hnew).symm⟩
    · rcases Nat.eq_zero_or_pos n with rfl | hpos
      · exact ⟨0, Nat.one_pos, (Nat.zero_max _).symm⟩
      · obtain ⟨i, hi, heq⟩ := ih hpos
        exact ⟨i, by omega, heq.trans (Nat.max_eq_left hold).symm⟩

/-! ### A push (R307) -/

/-- The newest entry stands just before the place of the next. -/
theorem Machine.AmaxRing.newest_push_zero {r : AmaxRing} {x : Word} (he : r.e.length = 16) (hwp : r.wp < 16) :
    (r.push x).newest 0 = x := by
  have hplace : ((r.wp + 1) % 16 + 31 - 0) % 16 = r.wp := by omega
  unfold AmaxRing.newest AmaxRing.push
  rw [hplace]
  simp [he, hwp]

/-- The entries that a push keeps are one push older. -/
theorem Machine.AmaxRing.newest_push_succ {r : AmaxRing} {x : Word} {i : Nat} (hwp : r.wp < 16) (hi : i < 15) :
    (r.push x).newest (i + 1) = r.newest i := by
  have hplace : ((r.wp + 1) % 16 + 31 - (i + 1)) % 16 = (r.wp + 31 - i) % 16 := by omega
  have hother : r.wp ≠ (r.wp + 31 - i) % 16 := by omega
  unfold AmaxRing.newest AmaxRing.push
  rw [hplace, List.getD, List.getElem?_set_ne hother, List.getD]

/-- A ring that has been pushed to holds an entry. -/
theorem Machine.AmaxRing.cnt_push_pos (r : AmaxRing) (x : Word) : 0 < (r.push x).cnt :=
  Nat.lt_min.mpr ⟨r.cnt.succ_pos, by decide⟩

/-! ### The instructions within their limits (R299) -/

/-- A hood with an active lane is not idle (R176). -/
theorem Machine.Issue.not_idle {c : Issue} (hact : c.act ≠ 0) : ¬c.idle = true := by
  simpa [Issue.idle] using hact

/-- VAMAX of a group within the warp's registers, with an active lane, pushes the largest magnitude and writes it (R310). -/
theorem Safety.completes_vamax (f : FormA) :
    Completes (.vamax f) (fun c => 0 < c.scalar f.s2 false 0 ∧ c.scalar f.s2 false 0 ≤ 32 ∧
        regNum f.s1 + c.scalar f.s2 false 0 ≤ c.w.vrc ∧ c.scalar f.s3 false 0 < 32 ∧ c.act ≠ 0) fun c =>
      let a := amaxBits c.w.daz ((List.range (c.scalar f.s2 false 0)).flatMap fun k => (LaneMask.lanes c.act).map fun l =>
        (VReg.lane (c.w.getV (regNum f.s1 + k)) l).toNat)
      .next (State.modWarp (c.modRings fun i r => if i = c.scalar f.s3 false 0 then r.push (BitVec.ofNat 32 a) else r).s
        c.w.core c.w.slot fun w => w.putScalar c.lanes f.d false a) := by
  refine completes_of rfl (exec_vamax f) (fun _ => rfl) fun c ⟨hpos, hmax, hregs, hring, hact⟩ => ?_
  dsimp only
  rw [if_neg (by rw [Bool.or_eq_true, decide_eq_true_eq, decide_eq_true_eq]; omega), if_neg (by omega), if_neg (by omega),
    if_neg (Issue.not_idle hact)]
  rfl

/-- AMXPUSH of a number, with an active lane (R309). -/
theorem Safety.completes_amxpush (f : FormA) (x : Nat) :
    Completes (.amxpush f)
      (fun c => c.act ≠ 0 ∧ c.scalar f.s2 false 0 < 32 ∧ amaxEntry c.w.daz (c.scalar f.s1 false 8) = some x) fun c =>
      .next (c.modRings fun i r => if i = c.scalar f.s2 false 0 then r.push (BitVec.ofNat 32 x) else r).s := by
  refine completes_of rfl (exec_amxpush f) (fun _ => rfl) fun c ⟨hact, hring, hentry⟩ => ?_
  dsimp only
  rw [if_neg (Issue.not_idle hact), if_neg (by omega), hentry]

/-- What AMXGET reads of a ring: its high value, the entry that its index names, or its place and count (R309). -/
def Safety.ringPart (sub : BitVec 5) (i : Nat) (r : AmaxRing) : Nat :=
  if sub = 0 then r.high else if sub = 1 then (if i < r.cnt then (r.newest i).toNat else 0) else r.cnt + r.wp * 256

/-- AMXGET of a ring and an entry within their limits (R309). -/
theorem Safety.completes_amxget (f : FormA) :
    Completes (.amxget f) (fun c => c.scalar f.s1 false 0 < 32 ∧ (f.sub = 1 → c.scalar f.s2 false 0 < 16)) fun c =>
      .next (c.put fun w => if c.act = 0 then w else
        w.putScalar c.lanes f.d false (ringPart f.sub (c.scalar f.s2 false 0) (c.ring (c.scalar f.s1 false 0)))) := by
  refine completes_of rfl (exec_amxget f) (fun _ => rfl) fun c ⟨hring, hentry⟩ => ?_
  rw [← c.scalarDone_eq]
  dsimp only
  by_cases hidle : c.idle = true
  · rw [if_pos hidle, Issue.scalarDone, if_pos hidle]
  · rw [if_neg hidle, if_neg (by omega), ringPart]
    split
    next hhigh => rw [if_pos (BitVec.eq_of_toNat_eq hhigh)]
    next hone =>
      have hsub : f.sub = 1 := BitVec.eq_of_toNat_eq hone
      have hi := hentry hsub
      rw [if_neg (by omega : ¬ 16 ≤ c.scalar f.s2 false 0), hsub]
      rfl
    next hhigh hone =>
      rw [if_neg fun hsub => hhigh (congrArg BitVec.toNat hsub), if_neg fun hsub => hone (congrArg BitVec.toNat hsub)]

/-- AMXCLR with an active lane empties the rings of its mask (R309). -/
theorem Machine.Issue.clearRings_of_act {c : Issue} {mask : Nat} (hact : c.act ≠ 0) :
    c.clearRings mask = .next (c.modRings fun i r => if mask.testBit i then {} else r).s :=
  if_neg (Issue.not_idle hact)

/-! ### The obligation -/

/-- Settles O17: a push puts its value in the newest place, the running maximum of the entries is the largest of them, and the instructions
pass the checks of their numbers. -/
theorem amaxRings : Obligations.AmaxRings := by
  unfold Obligations.AmaxRings
  refine ⟨fun r x he hwp _ => ?push, fun f s b c h hpos hmax hregs hring hact => ?vamax, fun f s b c x h hact hring hentry => ?amxpush,
    fun f s b c h hring hentry => ?amxget, fun f s b c h hact => ?amxclr, fun f s b c h hact => ?amxclrImm⟩
  case push =>
    exact ⟨AmaxRing.newest_push_zero he hwp, rfl, fun i => AmaxRing.newest_push_succ hwp,
      fun i => le_foldl_range_max fun i => ((r.push x).newest i).toNat,
      exists_eq_foldl_range_max (fun i => ((r.push x).newest i).toNat) (r.cnt_push_pos x)⟩
  case vamax => exact completes_vamax f s b c h ⟨hpos, hmax, hregs, hring, hact⟩
  case amxpush => exact completes_amxpush f x s b c h ⟨hact, hring, hentry⟩
  case amxget => exact completes_amxget f s b c h ⟨hring, hentry⟩
  case amxclr => exact completes_of rfl (exec_amxclr f) (fun _ => rfl) (fun _ => Issue.clearRings_of_act) s b c h hact
  case amxclrImm => exact completes_of rfl (exec_amxclrImm f) (fun _ => rfl) (fun _ => Issue.clearRings_of_act) s b c h hact

end Sys2Proof
end

section
/-! # Quantisation and dequantisation (O18) -/

namespace Sys2Proof

open Machine Safety

/-- Flags of which no trap is enabled leave a completion (R77 to R79). -/
theorem Machine.Issue.doneFlags_of_no_trap {c : Issue} {raised : List (Nat × Nat)} {g : Warp → Warp}
    (h : trapRecords c.w c.pc raised = []) : c.doneFlags raised g = .next (c.put fun w => (g w).orFlags (flagsUnion raised)) := by
  rw [Issue.doneFlags, h]

/-! ### VQNT.row (R314) -/

/-- What VQNT.row makes of the rows from `r` on. -/
def Safety.rowBlocks (c : Issue) (f : FormX) (r : Nat) : QuantOut :=
  (List.range (blocksPerReg (f.xf.toNat / 512))).foldl (fun o p =>
    c.quantRowBlock f (f.xf.toNat / 512) r p (c.scaleMode f.xf) o) {}

/-- VQNT.row of rows within their limits, without an enabled trap: the last hood to arrive writes them for the warp (R182, R314). -/
theorem Safety.completesTogether_vqntRow (f : FormX) :
    CompletesTogether (.vqntRow f)
      (fun c => c.scalar f.s2 false 0 % blocksPerReg (f.xf.toNat / 512) = 0 ∧
        c.scalar f.s2 false 0 ≤ 96 - blocksPerReg (f.xf.toNat / 512) ∧
        trapRecords c.w c.pc (rowBlocks c f (c.scalar f.s2 false 0)).raised = [])
      fun c => .next (c.put fun w => ((rowBlocks c f (c.scalar f.s2 false 0)).store (f.xf.toNat / 512) (regNum f.d) (fun _ => true) w).orFlags
        (flagsUnion (rowBlocks c f (c.scalar f.s2 false 0)).raised)) := by
  refine completesTogether_of rfl (exec_vqntRow f) (fun _ => rfl) fun c ⟨hfirst, hlast, htrap⟩ => ?_
  dsimp only
  rw [if_neg (by simpa [hfirst] using hlast)]
  exact Issue.doneFlags_of_no_trap htrap

/-! ### VDQNT (R318) -/

/-- A table of the parts of the active lanes holds each of them in its place. -/
theorem Safety.getD_activeParts {m : LaneMask} {per l j : Nat} (res : Nat → Nat → FRes) (hl : l < 96) (hact : m.getLsbD l = true)
    (hj : j < per) :
    (((List.range 96).map fun l => if m.getLsbD l then (List.range per).map fun j => res l j else []).getD l []).getD j (0, 0) = res l j := by
  simp [List.getD, hl, hact, hj]

/-- The flags of a lane's parts. -/
def Safety.partFlags (per : Nat) (el : Nat → Nat → FRes) (l : Nat) : Nat := (List.range per).foldl (fun a j => a ||| (el l j).2) 0

/-- The registers that the parts of a lane expand to, from register `d`: one part to each for the type f32, two for the 16-bit types. -/
def Safety.expandParts (m : LaneMask) (d dst per : Nat) (el : Nat → Nat → FRes) (w : Warp) : Warp :=
  (List.range (if dst = 8 then per else per / 2)).foldl (fun w i => w.setV (d + i) m fun l =>
    BitVec.ofNat 32 (if dst = 8 then (el l i).1 else (el l (2 * i)).1 + (el l (2 * i + 1)).1 * 2 ^ 16)) w

section
variable {m : LaneMask} {per : Nat} {el el' : Nat → Nat → FRes}
  (hel : ∀ l j, l < 96 → m.getLsbD l = true → j < per → el l j = el' l j)
include hel

/-- The flags of an active lane are those of its parts. -/
theorem Safety.map_partFlags_congr :
    ((LaneMask.lanes m).map fun l => (l, partFlags per el l)) = (LaneMask.lanes m).map fun l => (l, partFlags per el' l) := by
  refine List.map_congr_left fun l hl => ?_
  obtain ⟨h96, hact⟩ := LaneMask.mem_lanes.mp hl
  refine congrArg (l, ·) (List.foldl_ext _ _ 0 fun a j hj => ?_)
  rw [hel l j h96 hact (List.mem_range.mp hj)]

/-- The expansion reads the parts of active lanes alone. -/
theorem Safety.expandParts_congr (d dst : Nat) : expandParts m d dst per el = expandParts m d dst per el' := by
  funext w
  refine List.foldl_ext _ _ w fun v i hi => Warp.setV_congr fun l h96 hact => congrArg (BitVec.ofNat 32) ?_
  have hi := List.mem_range.mp hi
  by_cases hdst : dst = 8
  · rw [if_pos hdst] at hi
    rw [if_pos hdst, if_pos hdst, hel l i h96 hact hi]
  · rw [if_neg hdst] at hi
    rw [if_neg hdst, if_neg hdst, hel l (2 * i) h96 hact (by omega), hel l (2 * i + 1) h96 hact (by omega)]

end

/-- The element that VDQNT makes of part `j` of lane `l`, for the destination type `dst`. -/
def Safety.dequantPart (f : FormA) (dst : Nat) (c : Issue) (l j : Nat) : FRes :=
  dequantElem f.ty.toNat dst (c.elemEnv f.hdr f.s2 (if dst = 8 then 1 else 2) l (if dst = 8 then 0 else j % 2))
    (KReg.byte (c.kreg f.s1) (scalePos f.ty.toNat (blockOfPos f.ty.toNat l))).toNat
    ((VReg.lane (c.w.getV (regNum f.s1)) l).toNat / 2 ^ (slotBits f.ty.toNat * j) % 2 ^ slotBits f.ty.toNat)

/-- The destination type that SUB selects (R318). -/
def Safety.dequantType (sub : BitVec 5) : Nat := if sub = 0 then 8 else if sub = 1 then 11 else 10

/-- The destination type, read off the number of SUB. -/
theorem Safety.dequantType_eq : ∀ sub, dequantType sub = match sub.toNat with | 0 => 8 | 1 => 11 | _ => 10 := by
  decide

/-- VDQNT expands the elements of the active lanes under the scales of their blocks, to the type of its SUB (R318). -/
theorem Safety.changesRaising_vdqnt (f : FormA) :
    ChangesRaising (.vdqnt f)
      (fun c => (LaneMask.lanes c.act).map fun l => (l, partFlags (perLane f.ty.toNat) (dequantPart f (dequantType f.sub) c) l))
      fun c => expandParts c.act (regNum f.d) (dequantType f.sub) (perLane f.ty.toNat) (dequantPart f (dequantType f.sub) c) := by
  rw [dequantType_eq]
  refine changesRaising_of rfl (exec_vdqnt f) (fun _ => rfl) fun c => ?_
  have htab := fun l j => getD_activeParts (m := c.act) (per := perLane f.ty.toNat) (l := l) (j := j)
    (dequantPart f (match f.sub.toNat with | 0 => 8 | 1 => 11 | _ => 10) c)
  exact congrArg₂ c.doneFlags (map_partFlags_congr htab) (expandParts_congr htab _ _)

/-! ### The obligation -/

/-- Settles O18: VQNT.lane and VDQNT end with what they raise and write, and VQNT.row does so for the whole warp. -/
theorem quantiseAndDequantise : Obligations.QuantiseAndDequantise := by
  unfold Obligations.QuantiseAndDequantise
  refine ⟨fun f => ?vqntLane, fun f s b c h hlast => ?vqntRow, fun f => ?vdqnt⟩
  case vqntLane => exact changesRaising_of rfl (exec_vqntLane f) (fun _ => rfl) fun _ => rfl
  case vqntRow =>
    intro r hfirst hwithin out htrap
    exact completesTogether_vqntRow f s b c h ⟨hlast, hfirst, hwithin, htrap⟩
  case vdqnt => exact changesRaising_vdqnt f

end Sys2Proof
end

section
/-! # Accesses whose relay waits at the old home of their page (O30, O31, O32, O36, O37, O38)

An access under a translation that a migration has overtaken goes to the page's old frame, whose home relays it to the new one (R111). The
old home holds it until a relay credit of its link is free (R145), and its instruction is tried again. The premises of these statements ask for
the pieces as their relays leave them, and not for the credits, so that each has the instruction complete while the machine still holds it. -/

namespace Sys2Proof

open Machine Safety

/-! ### An access that waits for its relay -/

/-- What the checks of an access leave, where it passes them. -/
def Machine.Prep.passed? : Prep → Option (State × List Piece)
  | .ok u qs => some (u, qs)
  | _ => none

theorem Machine.Prep.eq_ok {r : Prep} {u : State} {qs : List Piece} (h : r.passed? = some (u, qs)) : r = .ok u qs := by
  cases r with
  | ok => cases h; rfl
  | _ => cases h

/-- The state on which a gate opens, if it does. -/
def Machine.Gate.opened? : Gate → Option State
  | .ready u => some u
  | _ => none

theorem Machine.Gate.eq_ready {g : Gate} {u : State} (h : g.opened? = some u) : g = .ready u := by
  cases g with
  | ready => cases h; rfl
  | _ => cases h

/-- An access that passes its checks for every line passes them where lines with requests outstanding are exempt (R433). -/
theorem Machine.State.prep_ok_asked {s u : State} {w : Warp} {a : PrepArgs} {pc : DWord} {addrs : List (Nat × DWord)} {fresh : Bool}
    {qs : List Piece} (h : s.prep w a pc addrs fresh = .ok u qs) (asked : Nat → Bool) : s.prep w a pc addrs fresh asked = .ok u qs := by
  unfold State.prep at h ⊢
  split at h
  next => cases h
  next ps hchecks =>
    split at h
    next => cases h
    next hroom =>
      rw [if_neg hroom]
      split at h
      next => cases h
      next hheld =>
        split at h
        next => cases h
        next t done htrans =>
          dsimp only at h ⊢
          split at h
          next hbad =>
            have hexempt : (done.filter fun p => p.hit.isNone && !asked (p.at / 128)).filterMap (fun p =>
                (t.postFault (dieOfCore w.core) a.user a.acc.use p p.at).map fun c =>
                  ({ lane := p.lane, cause := c, va := p.va } : LaneFault)) = [] := by
              rw [List.filterMap_eq_nil_iff] at hbad ⊢
              intro p hp
              obtain ⟨hdone, hp⟩ := List.mem_filter.mp hp
              exact hbad p (List.mem_filter.mpr ⟨hdone, by simpa using (Bool.and_eq_true_iff.mp hp).1⟩)
            rw [hexempt]
            exact h
          next => cases h

/-! ### A page that has moved, and a link whose relay credits are taken -/

/-- The frame that the page at VA 0 had on die 1, the first of that die's HBM4E. -/
def Safety.oldFrame : Nat := 0x4000000000

/-- A warp of one live slice with one lane, all of whose registers but the activity mask are zero. -/
def Safety.strandedWarp : Warp :=
  { core := 0, slot := 0, gang := 0, pos := 0, idx := 0, ctx := 0, vrc := 16, src := 16, slices := [{ pc := 0 }]
    v := List.replicate 16 0, k := List.replicate 16 0, s := List.replicate 125 0 ++ [1, 0, 0], q := [BitVec.allOnes 96] }

/-- That warp on die 0, whose TLB holds the page at VA 0 in its old frame on die 1. The page has moved to die 0, and its stub has a relay in
flight, which takes the one relay credit of the link from die 1 to die 0. -/
def Safety.strandedState : State :=
  { warps := [strandedWarp]
    contexts := [{ slot := 0, id := 0, system := true }]
    dies := List.replicate 2 { present := true, tmLow := 12 }
    caches := { tlb := [{ cluster := 0, ctx := 0, vpn := 0, size := 2 ^ 16, frame := oldFrame, attr := attrNC, w := true, x := false,
                          sys := false, d := true }] }
    eng := { stubs := [{ die := 1, oldFrame := oldFrame, newFrame := 0x40000, gen := 1, size := 2 ^ 16, ctx := 0, vpn := 0, relays := 1 }] }
    hub := { credits := [(linkNumber 1 0, relayVc, 1)] } }

/-- The `n` bytes at VA 0, as they are translated for the warp's lane. -/
def Safety.strandedPieces (n : Nat) : List Piece := [{ lane := 0, va := 0, key := some oldFrame, n := n, virt := true }]

/-- The state and the pieces that their relay leaves, once there is a credit for it. -/
def Safety.relayedAccess (n : Nat) : State × List Piece := strandedState.relayAll strandedWarp (strandedPieces n)

/-- The state that its waiting leaves. -/
def Safety.heldAccess (n : Nat) : State :=
  (strandedPieces n).foldl (fun s p => if p.outside then s.noteRelayHold strandedWarp.ctx p.va p.at else s) strandedState

/-- The issue that the warp makes of an instruction. -/
def Safety.strandedIssue (opc : Nat) (f : FormM) : Issue := (strandedState.issueFor strandedWarp 0 opc (.m f)).2

/-- An issue of that warp there, for its hood or for the whole warp. -/
structure Safety.Stranded (c : Issue) : Prop where
  state : c.s = strandedState
  warp : c.w = strandedWarp
  fresh : c.sent = [] ∧ c.retry = false

/-- A collective has no window of the warp to close, so that every instruction sees the warp as it stands. -/
theorem Safety.issueFor_stranded (opc : Nat) (f : FormM) :
    strandedState.issueFor strandedWarp 0 opc (.m f) = (strandedWarp, strandedIssue opc f) ∧ (strandedIssue opc f).w = strandedWarp := by
  have hclosed : (if isCollective opc (.m f) then strandedWarp.closeHoodWindows 0 else strandedWarp) = strandedWarp := ite_self _
  unfold strandedIssue State.issueFor
  rw [hclosed]
  exact ⟨rfl, rfl⟩

theorem Safety.stranded_issue (opc : Nat) (f : FormM) : Stranded (strandedIssue opc f) := ⟨rfl, (issueFor_stranded opc f).2, rfl, rfl⟩

/-- Every instruction that passes its checks there issues: nothing holds it back. -/
theorem Safety.issueOf_stranded {i : Instr} {opc : Nat} {f : FormM} (hi : i.code? = some (opc, .m f))
    (hc : (checkAll (strandedState.envOf strandedWarp) opc (.m f)).isSome = false) :
    issueOf i strandedState = some (strandedWarp, strandedIssue opc f) := by
  obtain ⟨hfor, hwarp⟩ := issueFor_stranded opc f
  have hfree : (strandedIssue opc f).blocked = false := by
    unfold Issue.blocked
    rw [hwarp]
    rfl
  exact (issueOf_issueFor (w := strandedWarp) hi (by decide +kernel) hc hfree).trans (congrArg some hfor)

theorem Safety.Stranded.whole {c : Issue} (h : Stranded c) : Stranded c.whole := ⟨h.state, h.warp, h.fresh⟩

/-- An access of `n` bytes at VA 0 by that warp: it passes its checks, and where its page has moved to no copy's range holds it back. -/
structure Safety.StrandedAccess (c : Issue) (a : PrepArgs) (store : Bool) (addrs : List (Nat × DWord)) (n : Nat) : Prop where
  issue : Stranded c
  passes : (strandedState.prep strandedWarp a c.pc addrs).passed? = some (strandedState, strandedPieces n)
  moved : ∀ p ∈ (relayedAccess n).2, (relayedAccess n).1.region p.at = .hbm 0 ∧
    (p.hit.isNone && (relayedAccess n).1.scoreHolds store p.at p.n) = false

section
variable {c : Issue} {a : PrepArgs} {store : Bool} {addrs : List (Nat × DWord)} {n : Nat} (h : StrandedAccess c a store addrs n)
include h

/-- The access meets the premise of the statements. -/
theorem Safety.StrandedAccess.reaches : Reaches c a store addrs (relayedAccess n).1 (relayedAccess n).2 := by
  refine ⟨strandedState, strandedPieces n, ?_, ?_, fun x hx _ d o hpod => ?_, fun p hp => (h.moved p hp).2⟩
  · rw [h.issue.state, h.issue.warp]
    exact Prep.eq_ok h.passes
  · rw [h.issue.warp]
    rfl
  · cases (h.moved x.2 (List.of_mem_zip hx).2).1.symm.trans hpod

/-- Whatever the instruction would do with its pieces waits for their relay. -/
theorem Safety.StrandedAccess.resolve (k : State → List Piece → Res) : c.resolve a store addrs k = .again (heldAccess n) := by
  have hwaits : ((strandedPieces n).any fun p => p.outside && strandedState.relayWaits strandedWarp.ctx p.va p.at) = true := by
    have hrelay : strandedState.relayWaits strandedWarp.ctx 0 oldFrame = true := by decide +kernel
    simpa [strandedPieces, Piece.outside, Piece.at, oldFrame, scratchKeys] using hrelay
  unfold Issue.resolve
  dsimp only
  rw [if_neg (by simp [h.issue.fresh.1]), h.issue.fresh.2, h.issue.state, h.issue.warp, State.prep_ok_asked (Prep.eq_ok h.passes)]
  dsimp only
  rw [if_pos hwaits]
  rfl

end

/-- A load of the page that its gate lets pass and that reads no fault meets the premise of the statements, with what the new frame holds. -/
theorem Safety.StrandedAccess.loads {c : Issue} {a : PrepArgs} {addrs : List (Nat × DWord)} {n ch : Nat} {fill : Bool} {r : State}
    {vals : List (Nat × Nat)} (h : StrandedAccess c a false addrs n)
    (hwhole : (relayedAccess n).1.splitUc (relayedAccess n).2 = (relayedAccess n).2)
    (hopen : Opens c (c.readGate (relayedAccess n).1 (relayedAccess n).2) (relayedAccess n).2 (relayedAccess n).1)
    (hread : (relayedAccess n).1.fetchAll c.agent c.w (relayedAccess n).2 ch fill = (r, vals, [])) :
    Loads c a ch fill addrs (c.bypassed a (relayedAccess n).2 (r.dropAnswers c.agent)) vals := by
  refine ⟨_, _, (relayedAccess n).1, r, h.reaches, ?_⟩
  rw [hwhole]
  exact ⟨hopen, hread, rfl⟩

/-! ### Instructions whose access is tried again -/

/-- Where the hood of each warp stands. -/
def Safety.hoodPcs (s : State) : List DWord := s.warps.map fun w => (w.slice 0).pc

/-- Wherever an instruction is said to end whose performance is to be tried again, its hood stands there as holding it back leaves it. -/
theorem Safety.hoodPcs_of_again {i : Instr} {opc : Nat} {f : Form} {body : Issue → Res} {m : State → Host.Outcome State Fault Refusal}
    {s t u : State} {b : Warp} {c : Issue} (h : issueOf i s = some (b, c)) (hi : i.code? = some (opc, f)) (he : ∀ s, exec i s = m s)
    (hm : ∀ s, m s = issue opc f s body) (hb : body c = .again t) (hstated : exec i s = .next u) :
    hoodPcs (after b c (.again t)) = hoodPcs u := by
  rw [he, hm, issue_eq h hi, hb] at hstated
  exact congrArg hoodPcs (Host.Outcome.next.inj hstated)

section
variable {c : Issue} {f : FormM} {t : State}

theorem Machine.Issue.sld_of_again (hact : c.act ≠ 0#96)
    (h : ∀ k, c.resolve (plainArgs f .read (widthOf f.s f.ty.toNat) true) false (c.addresses f true) k = .again t) :
    c.sld f = .again t := by
  unfold Issue.sld Issue.load
  dsimp only
  rw [if_neg (Issue.not_idle hact), h]

theorem Machine.Issue.sst_of_again (hact : c.act ≠ 0#96) (hord : (ordReleases f.ord && c.podWritesOut f.scope.toNat) = false)
    (h : ∀ k, c.resolve (plainArgs f .write (widthOf f.d f.ty.toNat) true) true (c.addresses f true) k = .again t) :
    c.sst f = .again t := by
  unfold Issue.sst Issue.store
  rw [if_neg (Issue.not_idle hact), hord, if_neg Bool.false_ne_true, h]

theorem Machine.Issue.vldl_of_again (hact : c.act ≠ 0#96)
    (h : ∀ k, c.resolve (lineArgs f .read) false (c.lineAddresses f) k = .again t) : c.vldl f = .again t := by
  unfold Issue.vldl
  rw [if_neg (Issue.not_idle hact), h]

theorem Machine.Issue.cctl_of_again (hact : c.act ≠ 0#96)
    (h : ∀ k, c.resolve { accept := ⟨false, false, true⟩, space := f.space.toNat, n := 1, acc := .read, user := .control } false
      (c.addresses f false) k = .again t) : c.cctl f = .again t := by
  unfold Issue.cctl
  rw [if_neg (Issue.not_idle hact), h]

theorem Machine.Issue.waitv_of_again {n : Nat} (hact : c.act ≠ 0#96) (hn : (if wideTy f.ty.toNat then 8 else 4) = n)
    (h : ∀ k, c.resolve { space := f.space.toNat, n := n, acc := .read, align := n } false (c.addresses f true) k = .again t) :
    c.waitv f = .again t := by
  unfold Issue.waitv Issue.load
  dsimp only
  rw [if_neg (Issue.not_idle hact), hn, h]

theorem Machine.Issue.atomic_of_again {op : Nat} {scalar : Bool} (hact : c.act ≠ 0#96)
    (hord : (ordReleases f.ord && c.podWritesOut f.scope.toNat) = false)
    (h : ∀ k, c.resolve (atomicArgs f op) true (c.addresses f scalar) k = .again t) : c.atomic f op scalar = .again t := by
  unfold Issue.atomic
  rw [if_neg (Issue.not_idle hact), hord, if_neg Bool.false_ne_true, h]

end

/-! ### The obligations -/

/-- A load of b32, from VA 0 to s2. -/
def Safety.strandedLoad : FormM := { d := 0x102, a := 0x100, s := 0x1FF, ty := 0x12 }

/-- Refutes O30, by its clause on SLD: no relay credit is free, so that the load is held back at its PC, and the statement's hood has the value and
has gone on. -/
theorem not_loadsComplete : ¬ Obligations.LoadsComplete := by
  unfold Obligations.LoadsComplete
  rintro ⟨-, -, hsld, -⟩
  have hissue : issueOf (.sld strandedLoad) strandedState = some (strandedWarp, strandedIssue 0x0C0 strandedLoad) :=
    issueOf_stranded rfl (by decide +kernel)
  have hact : (strandedIssue 0x0C0 strandedLoad).act ≠ 0#96 := by decide +kernel
  have haccess : StrandedAccess (strandedIssue 0x0C0 strandedLoad) (plainArgs strandedLoad .read 4 true) false
      ((strandedIssue 0x0C0 strandedLoad).addresses strandedLoad true) 4 :=
    ⟨stranded_issue _ _, by decide +kernel, by decide +kernel⟩
  have hloads := haccess.loads (ch := 0) (fill := true) (by decide +kernel)
    ⟨Gate.eq_ready (by decide +kernel), by decide +kernel, by decide +kernel⟩ (Prod.ext rfl (Prod.ext rfl (by decide +kernel)))
  have hstated := hsld strandedLoad _ _ _ _ _ hissue hact hloads
  exact absurd (hoodPcs_of_again hissue rfl (exec_sld _) (fun _ => rfl) (Issue.sld_of_again hact haccess.resolve) hstated)
    (by decide +kernel)

/-- A store of b32, from s2 to VA 0. -/
def Safety.strandedStore : FormM := { d := 0x1FF, a := 0x100, s := 0x102, ty := 0x12 }

/-- Refutes O31, by its clause on SST: the store waits at its PC for a relay credit, and the statement's hood has stored and gone on. -/
theorem not_storesComplete : ¬ Obligations.StoresComplete := by
  unfold Obligations.StoresComplete
  rintro ⟨-, -, hsst, -⟩
  have hissue : issueOf (.sst strandedStore) strandedState = some (strandedWarp, strandedIssue 0x0C1 strandedStore) :=
    issueOf_stranded rfl (by decide +kernel)
  have hact : (strandedIssue 0x0C1 strandedStore).act ≠ 0#96 := by decide +kernel
  have haccess : StrandedAccess (strandedIssue 0x0C1 strandedStore) (plainArgs strandedStore .write 4 true) true
      ((strandedIssue 0x0C1 strandedStore).addresses strandedStore true) 4 :=
    ⟨stranded_issue _ _, by decide +kernel, by decide +kernel⟩
  have hstated := hsst strandedStore _ _ _ _ _ _ hissue hact rfl haccess.reaches (by decide +kernel)
    ⟨Gate.eq_ready (u := (relayedAccess 4).1) (by decide +kernel), by decide +kernel, by decide +kernel⟩
  exact absurd (hoodPcs_of_again hissue rfl (exec_sst _) (fun _ => rfl) (Issue.sst_of_again hact rfl haccess.resolve) hstated)
    (by decide +kernel)

/-- VLDL of the line at VA 0 to v4. -/
def Safety.strandedLine : FormM := { d := 4, a := 0x100, ty := 0x12 }

/-- Refutes O32, by its clause on VLDL: the line waits for a relay credit although every hood has arrived, and the statement's warp has it. -/
theorem not_lineInstructionsComplete : ¬ Obligations.LineInstructionsComplete := by
  unfold Obligations.LineInstructionsComplete
  rintro ⟨-, -, hvldl, -⟩
  have hissue : issueOf (.vldl strandedLine) strandedState = some (strandedWarp, strandedIssue 0x0C4 strandedLine) :=
    issueOf_stranded rfl (by decide +kernel)
  have hlast : (strandedIssue 0x0C4 strandedLine).waiting.atCollective = true := by decide +kernel
  have hact : (strandedIssue 0x0C4 strandedLine).whole.act ≠ 0#96 := by decide +kernel
  have haccess : StrandedAccess (strandedIssue 0x0C4 strandedLine).whole (lineArgs strandedLine .read) false
      ((strandedIssue 0x0C4 strandedLine).whole.lineAddresses strandedLine) 128 :=
    ⟨(stranded_issue _ _).whole, by decide +kernel, by decide +kernel⟩
  have hstated := hvldl strandedLine _ _ _ _ _ _ _ _ hissue hlast hact haccess.reaches
    ⟨Gate.eq_ready (u := (relayedAccess 128).1) (by decide +kernel), by decide +kernel, by decide +kernel⟩
    (Prod.ext rfl (Prod.ext rfl (by decide +kernel)))
  exact absurd (hoodPcs_of_again hissue rfl (exec_vldl _) (fun _ => rfl)
    ((Issue.collective_last hlast _).trans (congrArg (passed _) (Issue.vldl_of_again hact haccess.resolve))) hstated)
    (by decide +kernel)

/-- CCTL that demotes the line at VA 0. -/
def Safety.strandedControl : FormM := { a := 0x100, s := 0x180 }

/-- Refutes O36, by its clause on CCTL: the request to the line's old home waits for a relay credit, and the statement's hood has gone on. -/
theorem not_prefetchControlAndFences : ¬ Obligations.PrefetchControlAndFences := by
  unfold Obligations.PrefetchControlAndFences
  rintro ⟨-, -, hcctl, -⟩
  have hissue : issueOf (.cctl strandedControl) strandedState = some (strandedWarp, strandedIssue 0x0C7 strandedControl) :=
    issueOf_stranded rfl (by decide +kernel)
  have hact : (strandedIssue 0x0C7 strandedControl).act ≠ 0#96 := by decide +kernel
  have haccess : StrandedAccess (strandedIssue 0x0C7 strandedControl)
      { accept := ⟨false, false, true⟩, n := 1, acc := .read, user := .control } false
      ((strandedIssue 0x0C7 strandedControl).addresses strandedControl false) 1 :=
    ⟨stranded_issue _ _, by decide +kernel, by decide +kernel⟩
  have hstated := hcctl strandedControl _ _ _ _ _ hissue hact haccess.reaches
  exact absurd (hoodPcs_of_again hissue rfl (exec_cctl _) (fun _ => rfl) (Issue.cctl_of_again hact haccess.resolve) hstated)
    (by decide +kernel)

/-- WAITV on the b32 at VA 0, which is 0, with the comparand 1. -/
def Safety.strandedWait : FormM := { d := 0x104, a := 0x100, s := 0x181, ty := 0x12 }

/-- Refutes O37, by its clause on WAITV: the read waits for a relay credit, and the statement's hood has the value, which differs from the
comparand, and has gone on. -/
theorem not_waitsAndWatches : ¬ Obligations.WaitsAndWatches := by
  unfold Obligations.WaitsAndWatches
  rintro ⟨-, hwaitv, -⟩
  have hissue : issueOf (.waitv strandedWait) strandedState = some (strandedWarp, strandedIssue 0x0CA strandedWait) :=
    issueOf_stranded rfl (by decide +kernel)
  have hact : (strandedIssue 0x0CA strandedWait).act ≠ 0#96 := by decide +kernel
  have haccess : StrandedAccess (strandedIssue 0x0CA strandedWait) { n := 4, acc := .read, align := 4 } false
      ((strandedIssue 0x0CA strandedWait).addresses strandedWait true) 4 :=
    ⟨stranded_issue _ _, by decide +kernel, by decide +kernel⟩
  have hloads := haccess.loads (ch := 0) (fill := false) (by decide +kernel)
    ⟨Gate.eq_ready (by decide +kernel), by decide +kernel, by decide +kernel⟩ (Prod.ext rfl (Prod.ext rfl (by decide +kernel)))
  have hstated := hwaitv strandedWait _ _ _ _ _ hissue hact hloads
  exact absurd (hoodPcs_of_again hissue rfl (exec_waitv _) (fun _ => rfl) (Issue.waitv_of_again hact rfl haccess.resolve) hstated)
    (by decide +kernel)

/-- SATOM.add of s6 to the b32 at VA 0, with the old value to s4. -/
def Safety.strandedAtomic : FormM := { d := 0x104, a := 0x100, s := 0x106 }

/-- Refutes O38, by its clause on SATOM.add: the atomic waits for a relay credit, and the statement's hood has the old value and has gone on. -/
theorem not_atomicsComplete : ¬ Obligations.AtomicsComplete := by
  unfold Obligations.AtomicsComplete
  rintro ⟨-, hsatom⟩
  obtain ⟨⟨-, hadd⟩, -⟩ := hsatom strandedAtomic
  have hissue : issueOf (.satomAdd strandedAtomic) strandedState = some (strandedWarp, strandedIssue 0x0F0 strandedAtomic) :=
    issueOf_stranded rfl (by decide +kernel)
  have hact : (strandedIssue 0x0F0 strandedAtomic).act ≠ 0#96 := by decide +kernel
  have haccess : StrandedAccess (strandedIssue 0x0F0 strandedAtomic) (atomicArgs strandedAtomic 0) true
      ((strandedIssue 0x0F0 strandedAtomic).addresses strandedAtomic true) 4 :=
    ⟨stranded_issue _ _, by decide +kernel, by decide +kernel⟩
  have hstated := hadd _ _ _ _ _ _ _ _ hissue hact rfl haccess.reaches (by decide +kernel)
    ⟨Gate.eq_ready (u := (relayedAccess 4).1) (by decide +kernel), by decide +kernel, by decide +kernel⟩
    (Prod.ext rfl (Prod.ext rfl (by decide +kernel)))
  exact absurd (hoodPcs_of_again hissue rfl (exec_satomAdd _) (fun _ => rfl) (Issue.atomic_of_again hact rfl haccess.resolve) hstated)
    (by decide +kernel)

end Sys2Proof
end

section
/-! # Atomic operations (O39)

An operation computes its new value from words of the width of its type (R330). A lane of an atomic on the device's own storage reads that
word, and writes at its home nothing else (R153, R332). -/

namespace Sys2Proof

open Machine Safety

/-! ### The table (R330) -/

section
variable {n old v v2 : Nat} {signed : Bool}

/-- The lesser of two words, as the type orders them. -/
theorem Machine.toInteger_atomicNew_min :
    toInteger signed (8 * n) (atomicNew 4 n signed old v v2) = min (toInteger signed (8 * n) old) (toInteger signed (8 * n) v) :=
  (apply_ite (toInteger signed (8 * n)) _ _ _).trans (min_def_lt _ _).symm

/-- The greater of two words, as the type orders them. -/
theorem Machine.toInteger_atomicNew_max :
    toInteger signed (8 * n) (atomicNew 5 n signed old v v2) = max (toInteger signed (8 * n) old) (toInteger signed (8 * n) v) :=
  (apply_ite (toInteger signed (8 * n)) _ _ _).trans (max_def_lt _ _).symm

/-- An integer operation on words gives a word. -/
theorem Machine.atomicNew_lt {op : Nat} (hop : op < 10) (hold : old < 2 ^ (8 * n)) (hv : v < 2 ^ (8 * n)) (hv2 : v2 < 2 ^ (8 * n)) :
    atomicNew op n signed old v v2 < 2 ^ (8 * n) := by
  match op, hop with
  | 0, _ => exact Nat.mod_lt _ (Nat.two_pow_pos _)
  | 1, _ => exact Nat.and_lt_two_pow _ hv
  | 2, _ => exact Nat.or_lt_two_pow hold hv
  | 3, _ => exact Nat.xor_lt_two_pow hold hv
  | 4, _ => exact iteInduction (motive := (· < 2 ^ (8 * n))) (fun _ => hold) fun _ => hv
  | 5, _ => exact iteInduction (motive := (· < 2 ^ (8 * n))) (fun _ => hv) fun _ => hold
  | 6, _ => exact hv
  | 7, _ => exact iteInduction (motive := (· < 2 ^ (8 * n))) (fun _ => hv2) fun _ => hold
  | 8, _ =>
    show (if v ≤ old then 0 else old + 1) < 2 ^ (8 * n)
    split <;> omega
  | 9, _ =>
    show (if old = 0 || v < old then v else old - 1) < 2 ^ (8 * n)
    split <;> omega

end

/-! ### One lane (R332) -/

section
variable {c : Issue} {f : FormM} {s : State} {p : Piece}

/-- A lane that reaches the device's own storage in one piece reads the old value and writes the new one. -/
theorem Machine.Issue.atomicLane_single (hstore : s.storeTo p = .store) (hshift : p.shift = 0)
    (hpoison : s.store.poisonAt p.at p.n = none) (hown : s.ownSlot c.w p = false) (op : Nat) :
    let r := c.atomicReq f op p.lane p.at
    let old := s.store.read p.at p.n
    c.atomicLane f op s [p] =
      (c.atomicWrite f (laneSplit [p] p.lane) s p (atomicNew op p.n r.signed old r.v1.toNat r.v2.toNat), .ok old) := by
  have hread : c.atomicRead s p = .ok (s.store.read p.at p.n) := by
    unfold Issue.atomicRead State.lpView
    rw [hstore, if_neg (by decide), hpoison, hown]
    rfl
  unfold Issue.atomicLane
  simp [hread, hshift, Except.bind, Except.map]

/-- Its write changes the bytes of its piece, and no others. -/
theorem Machine.Issue.byte_atomicWrite (hs : sound s) (hf : s.eng.fields = []) (hstore : s.storeTo p = .store)
    (hline : p.at % 128 + p.n ≤ 128) (split : Bool) (v j : Nat) :
    (c.atomicWrite f split s p v).store.byte j =
      if p.at ≤ j ∧ j < p.at + p.n then BitVec.ofNat 8 (v / 256 ^ (j - p.at)) else s.store.byte j := by
  unfold Issue.atomicWrite
  dsimp only
  rw [State.lpWrote_byte, hstore, if_neg (by decide)]
  generalize hu : (if isScratch (p.at / 128) then s else
    (s.touch (dieOfCore c.w.core) (p.at / 128) f.hdr.ch.toNat .atomic).l1Inval c.w.core c.w.ctx (p.va / 128)) = u
  have hcached : s.Recached u := hu ▸ .ite .refl (.l1Inval (.touch .refl))
  have hthrough := (State.Recached.hostThrough (die := dieOfCore c.w.core) (l := p.at / 128)
    (.refl (b := u.writeIn p.at p.n v (u.depthOf c.w)))).sameStore.store
  rw [hthrough, State.byte_writeIn (hs.recached hcached) (hcached.sameStore.fields.trans hf) hline, hcached.sameStore.store]

end

/-- Settles O39: an operation is read off its row of the table, and a lane's write is read back. -/
theorem atomicOperations : Obligations.AtomicOperations := by
  unfold Obligations.AtomicOperations
  refine ⟨fun n old v v2 s _ hold hv hv2 => ?table, fun c f op s p hs hstore hshift hline hpoison hf hown => ?lane⟩
  case table =>
    have hpow : (256 : Nat) ^ n = 2 ^ (8 * n) := by rw [pow_mul]; norm_num
    rw [hpow] at hold hv hv2 ⊢
    exact ⟨rfl, fun i => Nat.testBit_and .., fun i => Nat.testBit_or .., fun i => Nat.testBit_xor .., toInteger_atomicNew_min,
      toInteger_atomicNew_max, rfl, rfl, rfl, by simp [atomicNew], fun op hop => atomicNew_lt hop hold hv hv2⟩
  case lane =>
    refine ⟨_, Issue.atomicLane_single hstore hshift hpoison hown op, Store.read_of_byte fun i hi => ?_, fun k hk => ?_⟩
    · rw [Issue.byte_atomicWrite hs hf hstore hline, if_pos (by omega), Nat.add_sub_cancel_left]
    · rw [Issue.byte_atomicWrite hs hf hstore hline, if_neg (by omega)]

end Sys2Proof
end

section
/-! # The band object (O41) -/

namespace Sys2Proof

open Machine Safety

section
variable {b : Band} {n : Nat}

/-! ### Its bytes (R354) -/

theorem Machine.Band.toNat_lt (hmagic : b.magic < 2 ^ 24) : b.toNat < 256 ^ 32 := by
  unfold Band.toNat
  omega

/-- The fields are read back from the bytes that hold them. -/
theorem Machine.Band.ofNat_toNat (hexpect : b.expect < 2 ^ 32) (harrived : b.arrived < 2 ^ 32) (hdone : b.done < 256)
    (hmagic : b.magic < 2 ^ 24) (herr : b.err < 2 ^ 32) (hchunks : b.chunks < 2 ^ 128) : Band.ofNat b.toNat = b := by
  obtain ⟨expect, arrived, done, magic, err, chunks⟩ := b
  dsimp only at hexpect harrived hdone hmagic herr hchunks
  simp only [Band.ofNat, Band.toNat, natBits, Band.mk.injEq]
  refine ⟨?_, ?_, ?_, ?_, ?_, ?_⟩ <;> omega

/-! ### Arrivals (R356) -/

theorem Machine.Band.add_within (h : b.arrived + n ≤ 0xFFFFFFFF) : b.add n = { b with arrived := b.arrived + n } :=
  if_neg (Nat.not_lt.mpr h)

theorem Machine.Band.add_saturated (h : 0xFFFFFFFF < b.arrived + n) : b.add n = { b.orErr 1 with arrived := 0xFFFFFFFF } :=
  if_pos h

/-- An armed band that lacks arrivals stays as it is. -/
theorem Machine.Band.settle_of_lt (h : b.arrived < b.expect) : b.settle = b := by
  unfold Band.settle
  rw [if_neg (by omega), if_neg (by omega)]

/-- An armed band that has what it expects completes its phase. -/
theorem Machine.Band.settle_of_eq (hpos : 0 < b.expect) (h : b.arrived = b.expect) :
    b.settle = { b with arrived := 0, done := (b.done + 1) % 256 } := by
  unfold Band.settle
  rw [if_neg (by omega), if_pos h.ge, if_neg (by omega), h, Nat.sub_self]

/-- An armed band that has more completes its phase, keeps the excess and sets ERR bit 0. -/
theorem Machine.Band.settle_of_gt (hpos : 0 < b.expect) (h : b.expect < b.arrived) :
    b.settle = { b with arrived := b.arrived - b.expect, done := (b.done + 1) % 256, err := b.err ||| 1 } := by
  unfold Band.settle
  rw [if_neg (by omega), if_pos h.le, if_pos h]
  rfl

/-! ### Completed phases (R357) -/

/-- A phase counts as completed where DONE is one of the 128 counts from its own on. -/
theorem Machine.Band.completed_iff {t : Nat} (hdone : b.done < 256) (ht : t < 256) :
    b.completed t = true ↔ ∃ k < 128, b.done = (t + k) % 256 := by
  unfold Band.completed
  rw [Nat.mod_eq_of_lt ht, decide_eq_true_iff]
  refine ⟨fun h => ⟨(b.done + 256 - t) % 256, h, ?_⟩, fun ⟨k, hk, h⟩ => ?_⟩ <;> omega

end

/-- Settles O41: by the fields of the band's bytes, the cases of an arrival, and the distance of DONE from a phase's number. -/
theorem bandArithmetic : Obligations.BandArithmetic := by
  unfold Obligations.BandArithmetic
  refine ⟨fun b hexpect harrived hdone hmagic herr hchunks =>
      ⟨Band.toNat_lt hmagic, Band.ofNat_toNat hexpect harrived hdone hmagic herr hchunks⟩,
    fun b n hpos hsum => ?_, fun b n hover => ?_, fun b t hdone ht => Band.completed_iff hdone ht⟩
  · rw [Band.add_within hsum]
    exact ⟨fun hlt => Band.settle_of_lt hlt, fun heq => Band.settle_of_eq hpos heq, fun hgt => Band.settle_of_gt hpos hgt⟩
  · rw [Band.add_saturated hover]
    exact ⟨rfl, rfl⟩

end Sys2Proof
end
section
/-! # Band instructions (O40) -/

namespace Sys2Proof

open Machine Safety

/-- An instruction ends as its performance in one issue does. -/
theorem Safety.exec_of_body {i : Instr} {opc : Nat} {f : Form} {body : Issue → Res} {m : State → Host.Outcome State Fault Refusal} {s : State}
    {b : Warp} {c : Issue} {r : Res} (h : issueOf i s = some (b, c)) (hi : i.code? = some (opc, f)) (he : ∀ s, exec i s = m s)
    (hm : ∀ s, m s = issue opc f s body) (hb : body c = r) : exec i s = .next (after b c r) := by
  rw [he, hm, issue_eq h hi, hb]

section
variable {c : Issue} {f : FormM} {store : Bool} {k : Nat}

theorem Machine.Issue.bandOp_of_no_act (hact : c.act = 0#96) (body : Nat → Res) : c.bandOp f store body = .next c.s :=
  if_pos (decide_eq_true hact)

/-- A band operation within reach is performed at its band's key. -/
theorem Machine.Issue.bandOp_within (hact : c.act ≠ 0#96) (hat : BandAt c f store k) (body : Nat → Res) : c.bandOp f store body = body k := by
  obtain ⟨hkey, hfree⟩ := hat
  unfold Issue.bandOp
  rw [if_neg (Issue.not_idle hact), hkey]
  dsimp only
  rw [hfree, if_neg Bool.false_ne_true]

theorem Machine.Issue.bandx_within (hact : c.act ≠ 0#96) (hat : BandAt c f true k)
    (haligned : (if f.d = 0x1FF then 0 else c.scalar f.d false 1) % 512 = 0)
    (hlow : (if f.d = 0x1FF then 0 else c.scalar f.d false 1) < 0x80000) (hmagic : (c.s.band k).magic = bandMagic) :
    c.bandx f = .next (c.s.putBand c.w.ctx k (c.s.band k)
      ((c.s.band k).arm (c.scalar f.s false 1) (if f.d = 0x1FF then 0 else c.scalar f.d false 1)) (c.s.depthOf c.w)) := by
  unfold Issue.bandx
  rw [bandOp_within hact hat]
  dsimp only
  rw [if_neg (by rw [Bool.or_eq_true, decide_eq_true_iff, decide_eq_true_iff]; omega), if_neg (not_not.mpr hmagic)]

theorem Machine.Issue.banda_within (hact : c.act ≠ 0#96) (hat : BandAt c f true k) (hn : c.scalar f.s false 1 ≠ 0)
    (hmagic : (c.s.band k).magic = bandMagic) :
    c.banda f = .next (c.s.putBand c.w.ctx k (c.s.band k) ((c.s.band k).add (c.scalar f.s false 1)).settle (c.s.depthOf c.w)) := by
  unfold Issue.banda
  rw [bandOp_within hact hat]
  dsimp only
  rw [if_neg hn, if_neg (not_not.mpr hmagic)]

/-- BANDW within reach goes on where its phase has completed, and else waits. -/
theorem Machine.Issue.bandw_within (hact : c.act ≠ 0#96) (hat : BandAt c f false k) (ht : c.scalar f.s false 1 ≤ 255)
    (hmagic : (c.s.band k).magic = bandMagic) :
    c.bandw f = if (c.s.band k).completed (c.scalar f.s false 1) then
      .next (c.acquired true (c.objectScope k) (putIn c (c.s.deliverFlags c.w k) fun w => w.putScalar c.lanes f.d false (c.s.band k).err))
      else Safety.waits c c.s (.band (c.inFlight [])) := by
  unfold Issue.bandw
  rw [bandOp_within hact hat]
  dsimp only
  rw [if_neg (Nat.not_lt.mpr ht), if_neg (not_not.mpr hmagic)]
  rfl

theorem Machine.Issue.bandt_within (hact : c.act ≠ 0#96) (hat : BandAt c f false k) (hmagic : (c.s.band k).magic = bandMagic) :
    c.bandt f = .next (putIn c c.s fun w => w.setQ (regNum f.d) c.act
      (LaneMask.ofFn fun l => decide (c.vector f.s false 1 l < 128) && (c.s.band k).chunks.testBit (c.vector f.s false 1 l))) := by
  unfold Issue.bandt
  rw [bandOp_within hact hat]
  dsimp only
  rw [if_neg (not_not.mpr hmagic)]
  rfl

end

/-- Settles O40: each instruction performs its band operation at the band's key, where its checks pass. -/
theorem bandInstructions : Obligations.BandInstructions := by
  unfold Obligations.BandInstructions
  refine ⟨fun f => completes_of rfl (exec_bandi f) (fun _ => rfl) fun _ hact => Issue.bandOp_of_no_act hact _,
    fun f => completes_of rfl (exec_bandx f) (fun _ => rfl) fun _ hact => Issue.bandOp_of_no_act hact _,
    fun f => completes_of rfl (exec_banda f) (fun _ => rfl) fun _ hact => Issue.bandOp_of_no_act hact _,
    fun f => completes_of rfl (exec_bandw f) (fun _ => rfl) fun _ hact => Issue.bandOp_of_no_act hact _,
    fun f => completes_of rfl (exec_bandt f) (fun _ => rfl) fun _ hact => Issue.bandOp_of_no_act hact _,
    fun f s b c k h hact hat => ?bandi, fun f s b c k h hact hat haligned hlow hmagic => ?bandx,
    fun f s b c k h hact hat hn hmagic => ?banda, fun f s b c k h hact hat ht hmagic => ?bandw,
    fun f s b c k h hact hat hmagic => ?bandt, fun h s hwaits => ?returns⟩
  case bandi => exact exec_of_body h rfl (exec_bandi f) (fun _ => rfl) (Issue.bandOp_within hact hat _)
  case bandx => exact exec_of_body h rfl (exec_bandx f) (fun _ => rfl) (Issue.bandx_within hact hat haligned hlow hmagic)
  case banda => exact exec_of_body h rfl (exec_banda f) (fun _ => rfl) (Issue.banda_within hact hat hn hmagic)
  case bandw => exact exec_of_body h rfl (exec_bandw f) (fun _ => rfl) (Issue.bandw_within hact hat ht hmagic)
  case bandt => exact exec_of_body h rfl (exec_bandt f) (fun _ => rfl) (Issue.bandt_within hact hat hmagic)
  case returns => exact congrArg Host.Outcome.next (if_pos hwaits)

end Sys2Proof
end
section
/-! # Stage rings (O42) -/

namespace Sys2Proof

open Machine Safety

/-! ### Operations on a ring within reach (R366) -/

section
variable {c : Issue} {f : FormM} {k : Nat} {r : Ring}

theorem Machine.Issue.ringOp_of_no_act (hact : c.act = 0#96) (body : Nat → Ring → Res) : c.ringOp f body = .next c.s :=
  if_pos (decide_eq_true hact)

/-- A ring operation within reach is performed at its header's key, with the header. -/
theorem Machine.Issue.ringOp_within (hact : c.act ≠ 0#96) (hat : RingAt c f k r) (body : Nat → Ring → Res) : c.ringOp f body = body k r := by
  obtain ⟨hkey, hfree, rfl⟩ := hat
  unfold Issue.ringOp
  rw [if_neg (Issue.not_idle hact), hkey]
  dsimp only
  rw [hfree, if_neg Bool.false_ne_true]

/-- A ring operation that asks for a live ring goes on with one. -/
theorem Machine.Issue.ringOp_live (hact : c.act ≠ 0#96) (hat : RingAt c f k r) (hlive : r.live = true) (fault : Nat → Ring → Res)
    (body : Nat → Ring → Res) : (c.ringOp f fun k r => if !r.live then fault k r else body k r) = body k r := by
  rw [ringOp_within hact hat, hlive]
  rfl

/-- The q result of an attempt that took none, for an instruction that names one. -/
theorem Machine.Issue.ringQ_missed (hs : f.s ≠ 0x1FF) :
    c.put (Issue.ringQ f c false) = putIn c c.s fun w => w.setQ (regNum f.s) c.act 0 :=
  congrArg c.put (funext fun _ => if_neg hs)

section
variable (hact : c.act ≠ 0#96) (hat : RingAt c f k r) (hlive : r.live = true)
include hact hat hlive

/-! ### QPUT (R368) -/

theorem Machine.Issue.qresv_of_room (hroom : ctrSub r.rsv r.head < r.depth) :
    c.qresv f = .next (c.acquired true 1 (ringStep c k 0x1C 4 ((r.rsv + 1) % 2 ^ 32) (takeSlot c f r r.rsv))) :=
  (ringOp_live hact hat hlive _ _).trans (if_pos hroom)

theorem Machine.Issue.qresv_full_waits (hfull : ¬ctrSub r.rsv r.head < r.depth) (hs : f.s = 0x1FF) :
    c.qresv f = Safety.waits c c.s (.ringResv (c.inFlight [])) :=
  (ringOp_live hact hat hlive _ _).trans ((if_neg hfull).trans (if_pos hs))

theorem Machine.Issue.qresv_full_answers (hfull : ¬ctrSub r.rsv r.head < r.depth) (hs : f.s ≠ 0x1FF) :
    c.qresv f = .next (putIn c c.s fun w => w.setQ (regNum f.s) c.act 0) :=
  (ringOp_live hact hat hlive _ _).trans ((if_neg hfull).trans ((if_neg hs).trans (congrArg Res.next (ringQ_missed hs))))

theorem Machine.Issue.qcommit_of_oldest (hslot : r.find r.tail (ctrSub r.rsv r.tail) (c.scalar f.s true 3) = some r.tail) :
    c.qcommit f = .next (ringMoved c k 0x14 r.tail) := by
  refine (ringOp_live hact hat hlive _ _).trans ?_
  rw [hslot]
  exact if_pos rfl

theorem Machine.Issue.qcommit_of_later {i : Nat} (hi : i ≠ r.tail)
    (hslot : r.find r.tail (ctrSub r.rsv r.tail) (c.scalar f.s true 3) = some i) :
    c.qcommit f = Safety.waits c c.s (.ringCommit (c.inFlight [])) := by
  refine (ringOp_live hact hat hlive _ _).trans ?_
  rw [hslot]
  exact if_neg hi

/-! ### QGET (R369) -/

theorem Machine.Issue.qacq_of_filled (hfilled : ¬ctrSub r.tail r.acq = 0) :
    c.qacq f = .next (c.acquired true 1 (ringStep c k 0x20 4 ((r.acq + 1) % 2 ^ 32) (takeSlot c f r r.acq))) :=
  (ringOp_live hact hat hlive _ _).trans (if_pos (Nat.pos_of_ne_zero hfilled))

theorem Machine.Issue.qacq_empty_waits (hempty : ctrSub r.tail r.acq = 0) (hs : f.s = 0x1FF) :
    c.qacq f = Safety.waits c c.s (.ringAcq (c.inFlight [])) :=
  (ringOp_live hact hat hlive _ _).trans ((if_neg (by omega)).trans (if_pos hs))

theorem Machine.Issue.qacq_empty_answers (hempty : ctrSub r.tail r.acq = 0) (hs : f.s ≠ 0x1FF) :
    c.qacq f = .next (putIn c c.s fun w => w.setQ (regNum f.s) c.act 0) :=
  (ringOp_live hact hat hlive _ _).trans ((if_neg (by omega)).trans ((if_neg hs).trans (congrArg Res.next (ringQ_missed hs))))

theorem Machine.Issue.qfree_of_oldest (hslot : r.find r.head (ctrSub r.acq r.head) (c.scalar f.s true 3) = some r.head) :
    c.qfree f = .next (ringMoved c k 0x10 r.head) := by
  refine (ringOp_live hact hat hlive _ _).trans ?_
  rw [hslot]
  exact if_pos rfl

theorem Machine.Issue.qfree_of_later {i : Nat} (hi : i ≠ r.head)
    (hslot : r.find r.head (ctrSub r.acq r.head) (c.scalar f.s true 3) = some i) :
    c.qfree f = Safety.waits c c.s (.ringFree (c.inFlight [])) := by
  refine (ringOp_live hact hat hlive _ _).trans ?_
  rw [hslot]
  exact if_neg hi

end
end

/-! ### Returns -/

/-- What a hood that waits at a ring instruction performs when it returns to it: the operation that its opcode and ORD name. -/
def Machine.Issue.ringAction (c : Issue) (f : FormM) : Res :=
  if c.opc = 0x10B then (if f.ord = 0 then c.qresv f else c.qcommit f) else if f.ord = 1 then c.qacq f else c.qfree f

theorem Machine.State.ringAgain_of_kept {s : State} {h : HoodRef} {c : Issue} {w : Warp} {f : FormM}
    (hkept : s.keptIssue h.core h.slot h.hood = some (c, w)) (hopc : c.opc = 0x10B ∨ c.opc = 0x10C) (hform : c.form = .m f) :
    s.ringAgain h = c.finish w (c.ringAction f) := by
  obtain ⟨s', v, hood, opc, form, lanes, act, pc, sent, retry, paired, aloft⟩ := c
  dsimp only at hopc hform
  subst hform
  unfold State.ringAgain
  obtain rfl | rfl := hopc <;> rw [hkept] <;> rfl

/-- An event that returns to a ring instruction performs its operation on the ring as it stands. -/
theorem Safety.returnsToRing_of {i : HoodRef → Instr} {opc ord : Nat} {at_ : Wait → Bool} {p : Issue → FormM → Ring → Prop}
    {r : Issue → FormM → Nat → Ring → Res} (hopc : opc = 0x10B ∨ opc = 0x10C)
    (he : ∀ h s, exec (i h) s = .next (s.ringRetry h at_))
    (hr : ∀ (c : Issue) (f : FormM) (k : Nat) (x : Ring), c.opc = opc → f.ord = BitVec.ofNat 2 ord → c.act ≠ 0#96 → RingAt c f k x →
      x.live = true → p c f x → c.ringAction f = r c f k x) : ReturnsToRing i opc ord at_ p r := by
  rintro h s c w f k x hwaits hkept rfl hform rfl hact hat hlive hp
  rw [he, State.ringRetry, if_pos hwaits, State.ringAgain_of_kept hkept hopc hform,
    hr c f k x rfl (BitVec.ofNat_toNat 2 f.ord).symm hact hat hlive hp]
  rfl

/-! ### Slots (R365) -/

section
variable {r : Ring} {i j : Nat}

theorem Machine.Ring.slotBytes_pos (r : Ring) : 0 < r.slotBytes := by
  unfold Ring.slotBytes
  split <;> omega

/-- The slot array of a ring that lies below 2^64 holds slot `i` whole. -/
theorem Machine.Ring.index_within (hdepth : 2 ≤ r.depth) : i % r.depth * r.slotBytes + r.slotBytes ≤ r.depth * r.slotBytes :=
  calc i % r.depth * r.slotBytes + r.slotBytes = (i % r.depth + 1) * r.slotBytes := (Nat.succ_mul _ _).symm
    _ ≤ r.depth * r.slotBytes := Nat.mul_le_mul_right _ (Nat.mod_lt i (by omega))

theorem Machine.Ring.slot_eq (hdepth : 2 ≤ r.depth) (hfits : r.base + r.depth * r.slotBytes ≤ 2 ^ 64) :
    r.slot i = r.base + i % r.depth * r.slotBytes := by
  have hwithin := index_within (i := i) hdepth
  have hpos := r.slotBytes_pos
  unfold Ring.slot
  rw [max_eq_right (by omega), Nat.mod_eq_of_lt (by omega)]

/-- Slots of different places in the array lie apart. -/
theorem Machine.Ring.apart_of_lt {x y n : Nat} (h : x < y) : x * n + n ≤ y * n :=
  (Nat.succ_mul x n).symm.le.trans (Nat.mul_le_mul_right n h)

theorem Machine.Ring.mod_ne_of_lt_depth (hij : i < j) (hlt : j - i < r.depth) : i % r.depth ≠ j % r.depth := fun h =>
  absurd (Nat.le_of_dvd (by omega) ((Nat.modEq_iff_dvd' hij.le).mp h)) (by omega)

end

/-- Settles O42: by the operations on a live ring, which the returns perform as well, and by where the array holds its slots. -/
theorem stageRings : Obligations.StageRings := by
  unfold Obligations.StageRings
  refine ⟨⟨fun f => completes_of rfl (exec_qinitInit f) (fun _ => rfl) fun _ hact => Issue.ringOp_of_no_act hact _,
    fun f => completes_of rfl (exec_qinitFini f) (fun _ => rfl) fun _ hact => Issue.ringOp_of_no_act hact _,
    fun f => completes_of rfl (exec_qputResv f) (fun _ => rfl) fun _ hact => Issue.ringOp_of_no_act hact _,
    fun f => completes_of rfl (exec_qputCommit f) (fun _ => rfl) fun _ hact => Issue.ringOp_of_no_act hact _,
    fun f => completes_of rfl (exec_qgetAcq f) (fun _ => rfl) fun _ hact => Issue.ringOp_of_no_act hact _,
    fun f => completes_of rfl (exec_qgetFree f) (fun _ => rfl) fun _ hact => Issue.ringOp_of_no_act hact _,
    fun f k r i => ?init, fun f k r => ?fini, fun f k r => ⟨?reserves, ?waitsForRoom, ?answersFull⟩,
    fun f k r => ⟨?publishes, fun i hi => ?waitsForTurn⟩, fun f k r => ⟨?acquires, ?waitsForFill, ?answersEmpty⟩,
    fun f k r => ⟨?frees, fun i hi => ?waitsForOlder⟩, ?resvAgain, ?commitAgain, ?acqAgain, ?freeAgain⟩, ?slots⟩
  case init =>
    refine completes_of rfl (exec_qinitInit f) (fun _ => rfl) fun c ⟨hact, hat, hlive, hbad, hindex⟩ => ?_
    refine (Issue.ringOp_within hact hat _).trans ?_
    dsimp only
    rw [hlive, hbad, hindex]
    rfl
  case fini =>
    exact completes_of rfl (exec_qinitFini f) (fun _ => rfl) fun c ⟨hact, hat, hlive⟩ => Issue.ringOp_live hact hat hlive _ _
  case reserves =>
    exact completes_of rfl (exec_qputResv f) (fun _ => rfl) fun c ⟨⟨hact, hat, hlive⟩, hroom⟩ =>
      Issue.qresv_of_room hact hat hlive (not_not.mp hroom)
  case waitsForRoom =>
    exact completes_of rfl (exec_qputResv f) (fun _ => rfl) fun c ⟨⟨hact, hat, hlive⟩, hfull, hs⟩ =>
      Issue.qresv_full_waits hact hat hlive hfull hs
  case answersFull =>
    exact completes_of rfl (exec_qputResv f) (fun _ => rfl) fun c ⟨⟨hact, hat, hlive⟩, hfull, hs⟩ =>
      Issue.qresv_full_answers hact hat hlive hfull hs
  case publishes =>
    exact completes_of rfl (exec_qputCommit f) (fun _ => rfl) fun c ⟨⟨hact, hat, hlive⟩, hslot⟩ =>
      Issue.qcommit_of_oldest hact hat hlive hslot
  case waitsForTurn =>
    exact completes_of rfl (exec_qputCommit f) (fun _ => rfl) fun c ⟨⟨hact, hat, hlive⟩, hslot⟩ =>
      Issue.qcommit_of_later hact hat hlive hi hslot
  case acquires =>
    exact completes_of rfl (exec_qgetAcq f) (fun _ => rfl) fun c ⟨⟨hact, hat, hlive⟩, hfilled⟩ =>
      Issue.qacq_of_filled hact hat hlive hfilled
  case waitsForFill =>
    exact completes_of rfl (exec_qgetAcq f) (fun _ => rfl) fun c ⟨⟨hact, hat, hlive⟩, hempty, hs⟩ =>
      Issue.qacq_empty_waits hact hat hlive hempty hs
  case answersEmpty =>
    exact completes_of rfl (exec_qgetAcq f) (fun _ => rfl) fun c ⟨⟨hact, hat, hlive⟩, hempty, hs⟩ =>
      Issue.qacq_empty_answers hact hat hlive hempty hs
  case frees =>
    exact completes_of rfl (exec_qgetFree f) (fun _ => rfl) fun c ⟨⟨hact, hat, hlive⟩, hslot⟩ =>
      Issue.qfree_of_oldest hact hat hlive hslot
  case waitsForOlder =>
    exact completes_of rfl (exec_qgetFree f) (fun _ => rfl) fun c ⟨⟨hact, hat, hlive⟩, hslot⟩ =>
      Issue.qfree_of_later hact hat hlive hi hslot
  case resvAgain =>
    refine returnsToRing_of (.inl rfl) (fun _ _ => rfl) fun c f k r hopc hord hact hat hlive hroom => ?_
    rw [Issue.ringAction, hopc, hord]
    exact Issue.qresv_of_room hact hat hlive (not_not.mp hroom)
  case commitAgain =>
    refine returnsToRing_of (.inl rfl) (fun _ _ => rfl) fun c f k r hopc hord hact hat hlive hslot => ?_
    rw [Issue.ringAction, hopc, hord]
    exact Issue.qcommit_of_oldest hact hat hlive hslot
  case acqAgain =>
    refine returnsToRing_of (.inr rfl) (fun _ _ => rfl) fun c f k r hopc hord hact hat hlive hfilled => ?_
    rw [Issue.ringAction, hopc, hord]
    exact Issue.qacq_of_filled hact hat hlive hfilled
  case freeAgain =>
    refine returnsToRing_of (.inr rfl) (fun _ _ => rfl) fun c f k r hopc hord hact hat hlive hslot => ?_
    rw [Issue.ringAction, hopc, hord]
    exact Issue.qfree_of_oldest hact hat hlive hslot
  case slots =>
    intro r i j hdepth hfits hij hlt
    rw [Ring.slot_eq hdepth hfits, Ring.slot_eq hdepth hfits]
    have hwithin := Ring.index_within (i := i) hdepth
    have hplaces := (Ring.mod_ne_of_lt_depth hij hlt).lt_or_gt.imp (Ring.apart_of_lt (n := r.slotBytes)) (Ring.apart_of_lt (n := r.slotBytes))
    omega

end Sys2Proof
end
section
/-! # SPAWN (O43) -/

namespace Sys2Proof

open Machine Safety

/-- SPAWN by a warp of a phased gang with a legal SQ and nothing parked answers −1 where the pool has no room, and else queues its record (R371). -/
theorem Machine.Issue.spawn_of_phased {c : Issue} {f : FormA} {g : Gang} (hact : c.act ≠ 0#96) (hgang : c.s.gang? c.w.gang = some g)
    (hphased : (g.phased || g.triggered) = true) (hsq : c.scalar f.s3 false 1 ≤ 63) (hparked : c.w.parked = []) :
    c.spawn f = if !c.s.poolRoom g.ctx g.die headerRecord then c.done fun w => w.putScalar c.lanes f.d false (2 ^ 32 - 1)
      else
        let r := { g.spawn (BitVec.ofNat 64 (c.scalar f.s1 true 3)) (if f.s2 = 0x1FF then 0 else BitVec.ofNat 64 (c.scalar f.s2 true 3))
                     (c.scalar f.s3 false 1) c.s.sched.nextOrder with poolAt := c.s.poolTake g.ctx g.die headerRecord }
        .next (putIn c ((c.s.layRecord r).modSched fun k => { k with queued := k.queued ++ [r], nextOrder := k.nextOrder + 1 })
          fun w => w.putScalar c.lanes f.d false 0) := by
  unfold Issue.spawn
  rw [if_neg (Issue.not_idle hact), hgang]
  dsimp only
  rw [hphased, if_neg (by decide), if_neg (Nat.not_lt.mpr hsq), hparked]
  rfl

/-- Settles O43: past SPAWN's checks, the pool's room decides between the record and −1. -/
theorem spawnQueuesARecord : Obligations.SpawnQueuesARecord := by
  unfold Obligations.SpawnQueuesARecord
  refine ⟨fun f => completes_of rfl (exec_spawn f) (fun _ => rfl) fun c hact => if_pos (decide_eq_true hact),
    fun f s b c g h hact hgang hphased hsq hparked hroom => ?queued, fun f s b c g h hact hgang hphased hsq hparked hroom => ?refused⟩
  case queued =>
    refine exec_of_body h rfl (exec_spawn f) (fun _ => rfl) ((Issue.spawn_of_phased hact hgang hphased hsq hparked).trans ?_)
    rw [hroom]
    rfl
  case refused =>
    refine exec_of_body h rfl (exec_spawn f) (fun _ => rfl) ((Issue.spawn_of_phased hact hgang hphased hsq hparked).trans ?_)
    rw [hroom]
    rfl

end Sys2Proof
end
section
/-! # A layout record whose read waits for its relay (O44) -/

namespace Sys2Proof

open Machine Safety

/-- A read of a layout record that is to be tried again installs nothing. -/
theorem Machine.Issue.xlayNew_of_again {c : Issue} {f : FormA} {t : State} (hact : c.act ≠ 0#96)
    (h : ∀ k, c.resolve { n := 128, acc := .read, align := 128, useL1 := true } false [(c.lane, BitVec.ofNat 64 (c.scalar f.s1 true 3))] k =
      .again t) : c.xlayNew f = .again t := by
  unfold Issue.xlayNew Issue.xlayInstall Issue.load
  rw [if_neg (Issue.not_idle hact), h]

/-- XLAY.new of the record at VA 0, with its status to s4. -/
def Safety.strandedLayout : FormA := { d := 0x104, s1 := 0x100 }

/-- The issue that the warp of `strandedState` makes of it. -/
def Safety.strandedLayoutIssue : Issue := (strandedState.issueFor strandedWarp 0 0x108 (.a strandedLayout)).2

/-- What its read finds in the new frame: the state, the lane's value, and no fault. -/
def Safety.strandedRecord : State × List (Nat × Nat) × List LaneFault :=
  (relayedAccess 128).1.fetchAll strandedLayoutIssue.agent strandedLayoutIssue.w (relayedAccess 128).2 0 true

theorem Safety.issueOf_strandedLayout : issueOf (.xlayNew strandedLayout) strandedState = some (strandedWarp, strandedLayoutIssue) :=
  (issueOf_issueFor (s := strandedState) (w := strandedWarp) (opc := 0x108) (f := .a strandedLayout) rfl (by decide +kernel)
    (by decide +kernel) (by decide +kernel)).trans rfl

/-- Refutes O44, by its clause on a record that fails its checks: the page of the record has moved, and no relay credit is free for the read, so that
XLAY.new is held back at its PC, while the statement's hood has the status of the zeros in the new frame and has gone on. -/
theorem not_layoutInstructions : ¬ Obligations.LayoutInstructions := by
  unfold Obligations.LayoutInstructions
  rintro ⟨-, -, -, ⟨-, -, hrefused⟩, -⟩
  have hact : strandedLayoutIssue.act ≠ 0#96 := by decide +kernel
  have haccess : StrandedAccess strandedLayoutIssue { n := 128, acc := .read, align := 128, useL1 := true } false
      [(strandedLayoutIssue.lane, BitVec.ofNat 64 (strandedLayoutIssue.scalar strandedLayout.s1 true 3))] 128 :=
    ⟨⟨rfl, by decide +kernel, rfl, rfl⟩, by decide +kernel, by decide +kernel⟩
  have hread : strandedRecord = (strandedRecord.1, strandedRecord.2.1, []) := Prod.ext rfl (Prod.ext rfl (by decide +kernel))
  have hopens : Opens strandedLayoutIssue (strandedLayoutIssue.readGate (relayedAccess 128).1 (relayedAccess 128).2) (relayedAccess 128).2
      (relayedAccess 128).1 := ⟨Gate.eq_ready (by decide +kernel), by decide +kernel, by decide +kernel⟩
  have hloads := haccess.loads (ch := 0) (fill := true) (by decide +kernel) hopens hread
  have hstatus : (Layout.ofRec (BitVec.ofNat 1024 (laneVal strandedRecord.2.1 strandedLayoutIssue.lane))).status ≠ 0 := by decide +kernel
  have hstated := hrefused strandedLayout _ _ _ _ _ issueOf_strandedLayout hact hloads hstatus
  exact absurd (hoodPcs_of_again issueOf_strandedLayout rfl (exec_xlayNew _) (fun _ => rfl)
    (Issue.xlayNew_of_again hact haccess.resolve) hstated) (by decide +kernel)

end Sys2Proof
end
section
/-! # The next chunk of a copy that has been retried (O45)

A copy whose source page faults stops at that chunk (R362), and its retry notes the chunk, so that a fault it meets there again writes no new
record (R102). The note goes as soon as the chunk has been read. The statement takes the chunk's writing to start from what its reading leaves,
with the note still there. -/

namespace Sys2Proof

open Machine Safety

/-- CHUNK_PROCESS with nothing spilled to replay and nothing in its way steps the next chunk. -/
theorem Machine.exec_chunkProcess_of_nextChunk {s : State} {id k : Nat} {c : Copy} (hcopy : s.copy? id = some c) (htaken : c.taken = true)
    (hsave : c.heldSave = false) (htrace : s.copyHeld c 0x09 = false) (hspilled : ∀ x ∈ c.spilled, x.ready = false) (hsrc : c.heldSrc = false)
    (hfull : c.heldFull = false) (hnext : c.nextChunk = some k) :
    exec (.chunkProcess id) s = .next ((s.traceCopy c).stepChunk c k).settle := by
  have hreplay : (c.spilled.find? fun x => x.ready) = none := List.find?_eq_none.mpr fun x hx => by simp [hspilled x hx]
  rw [exec_chunkProcess, execChunkProcess, hcopy]
  dsimp only
  rw [htaken, hsave, if_neg (by decide), htrace, if_neg Bool.false_ne_true, hreplay]
  dsimp only
  rw [hsrc, hfull, if_neg (by decide), hnext]

/-- What a chunk's reading leaves, with its data, where it ends with them. -/
def Machine.Moved.read? : Moved → Option (State × ChunkData)
  | .data u d => some (u, d)
  | _ => none

theorem Machine.Moved.eq_data {m : Moved} {x : State × ChunkData} (h : m.read? = some x) : m = .data x.1 x.2 := by
  cases m with
  | data => cases h; rfl
  | _ => cases h

/-- What a chunk's writing leaves, where it ends. -/
def Machine.Moved.written? : Moved → Option State
  | .done v => some v
  | _ => none

theorem Machine.Moved.eq_done {m : Moved} {v : State} (h : m.written? = some v) : m = .done v := by
  cases m with
  | done => cases h; rfl
  | _ => cases h

/-- The layout record of one b32 at an address (R340). -/
def Safety.wordLayout (base : Nat) : BitVec 1024 :=
  BitVec.ofNat 1024 (base + 0x32 * 2 ^ 64 + (1 + 2 ^ 32 + 2 ^ 64 + 2 ^ 96 + 2 ^ 128) * 2 ^ 128 + (1 + 2 ^ 16 + 2 ^ 32 + 2 ^ 48 + 2 ^ 64) * 2 ^ 288 +
    0x4688 * 2 ^ 368 + (16 + 16 * 2 ^ 64 + 16 * 2 ^ 128 + 16 * 2 ^ 192) * 2 ^ 384 + (base + 16) * 2 ^ 640)

/-- A copy of the b32 at VA 0 to VA 0x200, in chunk 1, which is stopped at its source page with the record of batch 1. -/
def Safety.stoppedCopy : Copy :=
  { id := 1, core := 0, slot := 0, widx := 0, gang := 0, pos := 0, ctx := 0, srec := wordLayout 0, drec := wordLayout 0x200
    sc := List.replicate 5 0, dc := List.replicate 5 0, xop := 0, mcast := 0, rnd := 0, ch := 0, band := 0, pc := 0, mode := 0, number := 0
    traced := true, receivers := [0], scratch := false, lo := 0x200, hi := 0x204, arr := [(1, 4)], batch := 1, heldSrc := true }

/-- That copy on die 0, whose TLB has by now the page at VA 0. -/
def Safety.stoppedState : State :=
  { contexts := [{ slot := 0, id := 0, system := true }]
    dies := [{ present := true, tmLow := 12 }]
    caches := { tlb := [{ cluster := 0, ctx := 0, vpn := 0, size := 2 ^ 16, frame := 0x40000, attr := attrNC, w := true, x := false,
                          sys := false, d := true }] }
    eng := { copies := [stoppedCopy] } }

/-- The state after the RETRY of batch 1. -/
def Safety.retriedState : State := stoppedState.retryBatch 0 1

/-- The copy there: it goes on, with its chunk noted. -/
def Safety.retriedCopy : Copy := { stoppedCopy with heldSrc := false, quiet := some 1 }

/-- What the reading of its chunk leaves. -/
def Safety.retriedRead : State × ChunkData := ((retriedState.traceCopy retriedCopy).readChunk retriedCopy 1).read?.getD (retriedState, {})

/-- What the writing of its chunk leaves, from there. -/
def Safety.retriedWrite : State := (retriedRead.1.writeChunk retriedCopy 1 retriedRead.2).written?.getD retriedState

/-- The chunks noted for the copies of a state. -/
def Safety.notedChunks (s : State) : List (Option Nat) := s.eng.copies.map Copy.quiet

/-- Refutes O45, by its clause on a chunk that is read and written: the copy has been retried at that chunk, and the machine has forgotten so, while
the statement's copy still has the chunk noted. -/
theorem not_copiesAndTheEngine : ¬ Obligations.CopiesAndTheEngine := by
  unfold Obligations.CopiesAndTheEngine
  rintro ⟨-, hchunk, -⟩
  have hcopy : retriedState.copy? 1 = some retriedCopy := by decide +kernel
  have htrace : retriedState.copyHeld retriedCopy 0x09 = false := by decide +kernel
  have hspilled : ∀ x ∈ retriedCopy.spilled, x.ready = false := fun _ hx => nomatch hx
  have hread : (retriedState.traceCopy retriedCopy).readChunk retriedCopy 1 = .data retriedRead.1 retriedRead.2 :=
    Moved.eq_data (by decide +kernel)
  have hwrite : retriedRead.1.writeChunk retriedCopy 1 retriedRead.2 = .done retriedWrite := Moved.eq_done (by decide +kernel)
  have hstated := hchunk retriedState 1 retriedCopy 1 _ _ _ hcopy rfl rfl htrace hspilled rfl rfl rfl hread hwrite
  rw [exec_chunkProcess_of_nextChunk hcopy rfl rfl htrace hspilled rfl rfl rfl] at hstated
  exact absurd (congrArg notedChunks (Host.Outcome.next.inj hstated)) (by decide +kernel)

end Sys2Proof
end
section
/-! # TRAP, BKPT, TRET and the special registers (O24, O26) -/

namespace Sys2Proof

open Machine Safety

/-! ### The special registers (R390 to R392) -/

section
variable {c : Issue} {f : FormI}

theorem Machine.Issue.idle_iff : c.idle = true ↔ c.act = 0#96 := by
  simp [Issue.idle]

/-- A completion that an empty active set leaves without effect (R176). -/
theorem Machine.Issue.ite_idle_done (c : Issue) (g : Warp → Warp) :
    (if c.idle then Res.next c.s else c.done g) = .next (c.put fun w => if c.act = 0#96 then w else g w) := by
  by_cases hact : c.act = 0#96
  · rw [if_pos (Issue.idle_iff.mpr hact)]
    simp [hact, Issue.put_id]
  · rw [if_neg (Issue.not_idle hact)]
    simp [hact, Issue.done]

/-- What SRGET of a scalar special register does to its warp (R391). -/
def Safety.readSpecial (f : FormI) (c : Issue) (w : Warp) : Warp :=
  if c.act = 0#96 then w
  else (w.putScalar c.lanes f.d (wideSpecial f.imm.toNat) (c.s.special c.w f.imm.toNat)).putVector c.act f.d (wideSpecial f.imm.toNat)
    fun _ => c.s.special c.w f.imm.toNat

/-- SRGET of a scalar special register that nothing holds back. -/
theorem Machine.Issue.srget_scalar (hn : 2 ≤ f.imm.toNat) (hfree : ¬(f.imm.toNat = 0x0F ∧ c.act ≠ 0#96 ∧ c.w.bandwOut = true)) :
    c.srget f = .next (c.put (readSpecial f c)) := by
  have hheld : (decide (f.imm.toNat = 0x0F) && !c.idle && c.w.bandwOut) = false := by
    simpa [Issue.idle, and_assoc] using hfree
  unfold Issue.srget
  dsimp only
  rw [hheld, if_neg Bool.false_ne_true, if_neg (by omega), if_neg (by omega)]
  exact Issue.ite_idle_done c _

/-- SRSET of a number of its own, where the active set has a lane. -/
theorem Machine.Issue.srset_other (hn : 0x11 ≤ f.imm.toNat) (hact : c.act ≠ 0#96) :
    c.srset f = .next (c.s.modHub fun h => { h with deadPeers := h.deadPeers &&&
      ~~~(((BitVec.ofNat 32 (c.scalar f.s1 (wideSpecial f.imm.toNat) 1)).setWidth 192 : BitVec 192) <<< (32 * (f.imm.toNat - 0x16))) }) := by
  unfold Issue.srset
  dsimp only
  rw [if_neg (Issue.not_idle hact), if_neg (by omega), if_neg (by omega), if_neg (by omega)]

/-- SRSET of MODE with a value that R75 accepts. -/
theorem Machine.Issue.srset_mode (hn : f.imm.toNat = 0x0E)
    (hok : c.act = 0#96 ∨ badMode (BitVec.ofNat 32 (c.scalar f.s1 false 1)) = false) :
    c.srset f = .next (c.put fun w => if c.act = 0#96 then w else { w with mode := BitVec.ofNat 32 (c.scalar f.s1 false 1) }) := by
  rw [← Issue.ite_idle_done]
  unfold Issue.srset
  dsimp only
  rw [hn, show wideSpecial 0x0E = false from rfl, if_pos rfl]
  by_cases hact : c.act = 0#96
  · rw [if_pos (Issue.idle_iff.mpr hact), if_pos (Issue.idle_iff.mpr hact)]
  · rw [if_neg (show ¬badMode _ = true by simp [hok.resolve_left hact])]

/-- A value of MODE that R75 accepts. -/
theorem Machine.badMode_eq_false {v : Word} (h : v &&& 0xFFFFE000 = 0 ∧ v &&& 7 ≠ 0 ∧ v &&& 7 ≠ 7) : badMode v = false := by
  obtain ⟨hreserved, hzero, hseven⟩ := h
  unfold badMode
  rw [decide_eq_false (not_not_intro hreserved), decide_eq_false hzero, decide_eq_false hseven]
  rfl

theorem Machine.Issue.srset_flags (hn : f.imm.toNat = 0x0F) :
    c.srset f = .next (c.put fun w => if c.act = 0#96 then w else { w with flags := BitVec.ofNat 32 (c.scalar f.s1 false 1) &&& 0xFF }) := by
  rw [← Issue.ite_idle_done]
  unfold Issue.srset
  dsimp only
  rw [hn, show wideSpecial 0x0F = false from rfl, if_neg (show ¬(0x0F = 0x0E) by decide), if_pos rfl]

theorem Machine.Issue.srset_tvec (hn : f.imm.toNat = 0x10) :
    c.srset f = .next (c.put fun w => if c.act = 0#96 then w else { w with tvec := BitVec.ofNat 64 (c.scalar f.s1 true 1) }) := by
  rw [← Issue.ite_idle_done]
  unfold Issue.srset
  dsimp only
  rw [hn, show wideSpecial 0x10 = true from rfl, if_neg (show ¬(0x10 = 0x0E) by decide), if_neg (show ¬(0x10 = 0x0F) by decide), if_pos rfl]

end

/-- Settles O26: each special register in turn, with R176 for an empty active set. -/
theorem specialRegisters : Obligations.SpecialRegisters := by
  unfold Obligations.SpecialRegisters
  refine ⟨fun f hn => ?lane, fun f hn => ?slice, ?read, fun f hn s b c h => ?mode, fun f hn => ?flags, fun f hn => ?tvec, fun f hn => ?other⟩
  case lane =>
    refine changes_of rfl (exec_srget f) (fun _ => rfl) fun c => ?_
    rw [Issue.srget, hn]
    rfl
  case slice =>
    refine changes_of rfl (exec_srget f) (fun _ => rfl) fun c => ?_
    rw [Issue.srget, hn]
    rfl
  case read =>
    refine ⟨fun f hn hflags => ?scalar, fun f hn => ?free, fun f hn => ?held⟩
    case scalar =>
      exact changes_of rfl (exec_srget f) (fun _ => rfl) fun c => Issue.srget_scalar hn fun h => hflags h.1
    case free =>
      refine completes_of rfl (exec_srget f) (fun _ => rfl) fun c hfree => Issue.srget_scalar (by omega) ?_
      rintro ⟨-, hact, hout⟩
      exact hfree.elim hact fun hno => by simp [hout] at hno
    case held =>
      refine completes_of rfl (exec_srget f) (fun _ => rfl) fun c hheld => ?_
      simp [Issue.srget, hn, Issue.idle, hheld.1, hheld.2]
  case mode =>
    intro x hok
    exact exec_of_body h rfl (exec_srset f) (fun _ => rfl) (Issue.srset_mode hn (hok.imp_right badMode_eq_false))
  case flags => exact changes_of rfl (exec_srset f) (fun _ => rfl) fun c => Issue.srset_flags hn
  case tvec => exact changes_of rfl (exec_srset f) (fun _ => rfl) fun c => Issue.srset_tvec hn
  case other => exact completes_of rfl (exec_srset f) (fun _ => rfl) fun c hact => Issue.srset_other hn hact

/-! ### Exceptions and TRET (R394 to R396) -/

/-- What an instruction does by whether its active set is empty. -/
theorem Machine.Issue.ite_idle (c : Issue) (r : Res) :
    (if c.idle then Res.next c.s else r) = if c.act = 0#96 then Res.next c.s else r :=
  if_congr Issue.idle_iff rfl rfl

theorem Machine.State.warp?_place {s : State} {core slot : Nat} {w : Warp} (h : s.warp? core slot = some w) : w.core = core ∧ w.slot = slot := by
  simpa using List.find?_some h

/-- TRET takes effect once what the handler issued has been performed (R395). -/
theorem Machine.Issue.tret_of_quiet {c : Issue} {w : Warp} (hw : c.s.warp? c.w.core c.w.slot = some w) (hdrained : w.drained = true)
    (hparked : w.parked = []) (haccess : c.s.hasAccess c.w.core c.w.slot = false) :
    c.tret = .jump (if w.stopping then c.s.returnStopped w else c.s.returnReload w) := by
  obtain ⟨hcore, hslot⟩ := State.warp?_place hw
  unfold Issue.tret
  rw [hw]
  dsimp only
  rw [if_neg (by simp [hdrained, hparked, hcore, hslot, haccess])]

/-- Settles O24: TRAP and BKPT raise their record, and TRET reloads the frame. -/
theorem trapsAndReturn : Obligations.TrapsAndReturn := by
  unfold Obligations.TrapsAndReturn
  refine ⟨fun f => ?trap, fun f => ?bkpt, fun f s b c w h hw hdrained hparked haccess => ?tret⟩
  case trap => exact completes_of rfl (exec_trap f) (fun _ => rfl) fun c _ => Issue.ite_idle c _
  case bkpt => exact completes_of rfl (exec_bkpt f) (fun _ => rfl) fun c _ => Issue.ite_idle c _
  case tret =>
    rw [exec_tret, execTret, issueSweep, issue_eq h rfl, Issue.tret_of_quiet hw hdrained hparked haccess]

end Sys2Proof
end
section
/-! # Events and trace instructions (O27) -/

namespace Sys2Proof

open Machine Safety

section
variable {c : Issue}

/-! ### Events (R397, R398) -/

/-- A bit of the context's event vector. -/
def Safety.eventBit (s : State) (ctx bit : Nat) : Bool := (s.ctx? ctx).any fun k => k.events.getLsbD bit

/-- EVSET's change of the vector, and the old bit to D. -/
def Safety.eventSet (d : BitVec 10) (bit : Nat) (val : Bool) (c : Issue) : Res :=
  if c.act = 0#96 then .next c.s
  else .next (putIn c
    (c.s.changeEvents c.w.ctx fun e => if val then e ||| (1 : BitVec 256) <<< bit else e &&& ~~~((1 : BitVec 256) <<< bit))
    fun w => w.putScalar c.lanes d false (if eventBit c.s c.w.ctx bit then 1 else 0))

/-- EVSET of a bit that exists, with nothing parked before a release. -/
theorem Machine.Issue.evset_eq {d : BitVec 10} {bit : Nat} {val : Bool} (h : c.act = 0#96 ∨ (bit ≤ 255 ∧ (val = true → c.w.parked = []))) :
    c.evset d bit val = eventSet d bit val c := by
  unfold Issue.evset eventSet
  by_cases hact : c.act = 0#96
  · rw [if_pos (Issue.idle_iff.mpr hact), if_pos hact]
  · obtain ⟨hbit, hparked⟩ := h.resolve_left hact
    rw [if_neg (Issue.not_idle hact), if_neg hact, if_neg (by omega),
      if_neg (show ¬(val && !c.w.parked.isEmpty) = true by cases val <;> simp_all)]
    rfl

/-- EVWAIT: an acquire where the bit has the value, and else a wait. -/
def Safety.eventWait (bit : Nat) (val : Bool) (c : Issue) : Res :=
  if c.act = 0#96 then .next c.s
  else if eventBit c.s c.w.ctx bit = val then .next (c.s.l1Flush c.w.core) else waits c c.s (.event bit val)

theorem Machine.Issue.evwait_eq {bit : Nat} {val : Bool} (h : c.act = 0#96 ∨ bit ≤ 255) : c.evwait bit val = eventWait bit val c := by
  unfold Issue.evwait eventWait
  by_cases hact : c.act = 0#96
  · rw [if_pos (Issue.idle_iff.mpr hact), if_pos hact]
  · have hbit := h.resolve_left hact
    rw [if_neg (Issue.not_idle hact), if_neg hact, if_neg (by omega)]
    rfl

/-- EVWAIT_RETURN of a hood whose awaited value stands (R398). -/
theorem Machine.exec_evwaitReturn_of_event {h : HoodRef} {s : State} {w : Warp} {bit : Nat} {val : Bool} (hw : s.warp? h.core h.slot = some w)
    (hhood : w.hoodSlices h.hood ≠ []) (hwait : (w.slice (keyOf (w.hoodSlices h.hood))).wait = .event bit val)
    (hbit : eventBit s w.ctx bit = val) :
    exec (.evwaitReturn h) s = .next ((s.l1Flush h.core).modWarp h.core h.slot fun x =>
      (x.moveHood h.hood (nextPc (w.slice (keyOf (w.hoodSlices h.hood))).pc)).countWindows h.hood) := by
  unfold eventBit at hbit
  rw [exec_evwaitReturn, execEvwaitReturn, hw]
  dsimp only
  rw [hwait]
  dsimp only
  rw [if_neg (by simp [hhood, hbit])]

/-! ### Trace (R399, R400) -/

/-- TRACE's condition for emitting nothing: no active lane, or a context that drops the type. -/
theorem Machine.Issue.traceOff_iff : (c.idle || !(c.s.ctx? c.w.ctx).any fun k => k.typeMask.getLsbD 0x14) = true ↔
    c.act = 0#96 ∨ ((c.s.ctx? c.w.ctx).any fun k => k.typeMask.getLsbD 0x14) = false := by
  rw [Bool.or_eq_true, Issue.idle_iff, Bool.not_eq_true']

/-- TRACE that lossless trace does not hold: its record, unless the type is off. -/
theorem Machine.Issue.trace_eq {v : Nat}
    (h : (c.act = 0#96 ∨ ((c.s.ctx? c.w.ctx).any fun k => k.typeMask.getLsbD 0x14) = false) ∨
      c.s.traceHeld (dieOfCore c.w.core) c.w.ctx 0x14 ((c.s.gang? c.w.gang).any Gang.lossless) = false) :
    c.trace v = if c.act = 0#96 ∨ ((c.s.ctx? c.w.ctx).any fun k => k.typeMask.getLsbD 0x14) = false then Res.next c.s else Res.next
      (c.s.emit (dieOfCore c.w.core) (c.w.core % Config.coresPerDie) (c.w.slot / 8) c.w.ctx 0x14 v none
        ((c.s.gang? c.w.gang).any Gang.lossless) (some c.w.identity)) := by
  unfold Issue.trace
  dsimp only
  by_cases hoff : c.act = 0#96 ∨ ((c.s.ctx? c.w.ctx).any fun k => k.typeMask.getLsbD 0x14) = false
  · rw [if_pos hoff, if_pos (Issue.traceOff_iff.mpr hoff)]
  · rw [if_neg hoff, if_neg fun e => hoff (Issue.traceOff_iff.mp e), if_neg (by simp [h.resolve_left hoff])]

/-- TRCTL.set of a mask without its reserved bits. -/
theorem Machine.Issue.trctl_eq {f : FormA} (h : c.act = 0#96 ∨ BitVec.ofNat 32 (c.scalar f.s1 false 1) &&& 0xFF000001 = 0) :
    c.trctl f = if c.act = 0#96 then .next c.s else .next (putIn c
       (c.s.modCtx c.w.ctx fun k => { k with typeMask := BitVec.ofNat 32 (c.scalar f.s1 false 1) })
       fun w => w.putScalar c.lanes f.d false (((c.s.ctx? c.w.ctx).map fun k => k.typeMask.toNat).getD 0)) := by
  unfold Issue.trctl
  dsimp only
  by_cases hact : c.act = 0#96
  · rw [if_pos (Issue.idle_iff.mpr hact), if_pos hact]
  · rw [if_neg (Issue.not_idle hact), if_neg hact, if_neg (not_not_intro (h.resolve_left hact))]
    rfl

/-- Whether TRCTL.flush has nothing to wait for. -/
theorem Machine.Issue.flushed_of (h : c.act = 0#96 ∨ ∀ r ∈ c.s.staged, r.warp = some c.w.identity → c.w.ctx ∉ r.takers) :
    (!c.idle && c.s.staged.any fun r => r.warp = some c.w.identity && r.takers.contains c.w.ctx) = false := by
  rcases h with hact | hgone
  · rw [Issue.idle_iff.mpr hact]
    rfl
  · refine Bool.and_eq_false_imp.mpr fun _ => List.any_eq_false.mpr fun r hr => ?_
    simpa using hgone r hr

end

/-- Settles O27: each performance by a case on the active set and on the state that the rule asks about. -/
theorem eventAndTraceInstructions : Obligations.EventAndTraceInstructions := by
  unfold Obligations.EventAndTraceInstructions
  refine ⟨⟨?set, ?wait, fun h s w bit val hw hhood hwait hbit => exec_evwaitReturn_of_event hw hhood hwait hbit⟩, ?trace, fun f => ?mask, fun f => ?flush⟩
  case set =>
    refine ⟨fun f => ?reg, fun f => ?imm⟩
    case reg => exact completes_of rfl (exec_evset f) (fun _ => rfl) fun c h => Issue.evset_eq (by simpa using h)
    case imm => exact completes_of rfl (exec_evsetImm f) (fun _ => rfl) fun c h => Issue.evset_eq (by simpa using h)
  case wait =>
    refine ⟨fun f => ?reg, fun f => ?imm⟩
    case reg => exact completes_of rfl (exec_evwait f) (fun _ => rfl) fun c h => Issue.evwait_eq h
    case imm => exact completes_of rfl (exec_evwaitImm f) (fun _ => rfl) fun c h => Issue.evwait_eq h
  case trace =>
    refine ⟨fun f => ?reg, fun f => ?imm⟩
    case reg => exact completes_of rfl (exec_trace f) (fun _ => rfl) fun c h => Issue.trace_eq h
    case imm => exact completes_of rfl (exec_traceImm f) (fun _ => rfl) fun c h => Issue.trace_eq h
  case mask => exact completes_of rfl (exec_trctlSet f) (fun _ => rfl) fun c h => Issue.trctl_eq h
  case flush =>
    exact completes_of rfl (exec_trctlFlush f) (fun _ => rfl) fun c h => if_neg (by rw [Issue.flushed_of h]; exact Bool.false_ne_true)

end Sys2Proof
end

section
/-! # Ownership of the device (O49) -/

namespace Sys2Proof

open Machine Safety

section
variable {s : State} {m n prio : Nat}

/-! ### Who holds the device (R455) -/

theorem Machine.State.reachable_bounds (h : s.reachable m = true) : 1 ≤ m ∧ m ≤ 3 := by
  simp only [State.reachable, Bool.and_eq_true, decide_eq_true_eq] at h
  exact h.1.1

/-- A master that reaches the device owns it when it is the holder. -/
theorem Machine.State.isOwner_of_reachable (h : s.reachable m = true) : s.isOwner (.master m) = decide (s.hub.holder = m) := by
  have hm : m ≠ 0 := by have := (State.reachable_bounds h).1; omega
  simp [State.isOwner, hm, eq_comm]

/-- What a master may not do sets its DENIED bit and nothing else. -/
theorem Machine.State.refuse_of_reachable (h : s.reachable m = true) :
    s.refuse (.master m) = { s with hub := { s.hub with denied := s.hub.denied ||| (1 : BitVec 4) <<< m } } := by
  have hm : m < 4 := by have := (State.reachable_bounds h).2; omega
  unfold State.refuse
  dsimp only
  rw [if_pos hm]
  rfl

/-! ### Claims, beats and releases -/

theorem Machine.execClaim_vacant (h : s.reachable m = true) (hheld : s.hub.holder = 0) (hprio : prio ≤ 15) :
    exec (.claim m prio) s = .next { s with hub := { s.hub with
      elect := true, electAt := if s.hub.elect then s.hub.electAt else s.hub.osc, claims := s.hub.claims ++ [(m, prio)] } } := by
  rw [exec_claim, execClaim, if_neg (by simp [h]), if_neg (by simp [hheld, hprio])]
  rfl

theorem Machine.execClaim_refused (h : s.reachable m = true) (hheld : s.hub.holder ≠ 0 ∨ 15 < prio) :
    exec (.claim m prio) s = .next (s.refuse (.master m)) := by
  rw [exec_claim, execClaim, if_neg (by simp [h]), if_pos (by simpa using hheld)]

theorem Machine.execClaimBeat_holder (h : s.reachable m = true) (hheld : s.hub.holder = m) :
    exec (.claimBeat m) s = .next { s with hub := { s.hub with lease := leaseStart } } := by
  rw [exec_claimBeat, execClaimBeat, if_neg (by simp [h]), if_neg (by simp [State.isOwner_of_reachable h, hheld])]
  rfl

theorem Machine.execClaimBeat_refused (h : s.reachable m = true) (hheld : s.hub.holder ≠ m) :
    exec (.claimBeat m) s = .next (s.refuse (.master m)) := by
  rw [exec_claimBeat, execClaimBeat, if_neg (by simp [h]), if_pos (by simp [State.isOwner_of_reachable h, hheld])]

/-- A release by the holder notes its successor, which takes the device, unless it is nobody or the holder itself. -/
theorem Machine.execClaimRelease_holder (h : s.reachable m = true) (hheld : s.hub.holder = m) (hn : n ≤ 3) :
    exec (.claimRelease m n) s = .next (if n = 0 ∨ n = m then (s.modHub fun h => { h with succ := n }).giveUp
      else (s.modHub fun h => { h with succ := n }).giveTo n 0) := by
  rw [exec_claimRelease, execClaimRelease, if_neg (by simp [h]), if_neg (by simp [State.isOwner_of_reachable h, hheld, hn])]
  simp only [Bool.or_eq_true, decide_eq_true_eq]

/-! ### Elections -/

/-- The winner is among the claims, and no claim has a higher priority, nor an equal one and a lower master code. -/
theorem Machine.winner_spec {l : List (Nat × Nat)} (h : l ≠ []) :
    ∃ c ∈ l, winner l = some c ∧ ∀ d ∈ l, d.2 < c.2 ∨ (d.2 = c.2 ∧ c.1 ≤ d.1) := by
  induction l with
  | nil => exact absurd rfl h
  | cons x l ih =>
    by_cases hl : l = []
    · subst hl
      exact ⟨x, List.mem_cons_self, rfl, fun d hd => .inr (by rw [List.mem_singleton.mp hd]; exact ⟨rfl, le_rfl⟩)⟩
    · obtain ⟨c, hc, hw, hbest⟩ := ih hl
      rw [winner, hw]
      dsimp only
      by_cases hx : c.2 < x.2 ∨ (c.2 = x.2 ∧ x.1 < c.1)
      · refine ⟨x, List.mem_cons_self, if_pos (by simpa using hx), fun d hd => ?_⟩
        rcases List.mem_cons.mp hd with rfl | hd
        · exact .inr ⟨rfl, le_rfl⟩
        · have := hbest d hd
          omega
      · refine ⟨c, List.mem_cons_of_mem x hc, if_neg (by simpa using hx), fun d hd => ?_⟩
        rcases List.mem_cons.mp hd with rfl | hd
        · omega
        · exact hbest d hd

theorem Machine.execElectionClose_due {c : Nat × Nat} (helect : s.hub.elect = true) (hdue : s.hub.electAt + electionTicks ≤ s.hub.osc)
    (hw : winner s.hub.claims = some c) : exec .electionClose s = .next (s.giveTo c.1 c.2) := by
  rw [exec_electionClose, execElectionClose, if_neg (by simp [helect, hdue]), hw]

/-! ### The hub's oscillator -/

/-- Holding and slewing the counter leave the oscillator and the lease. -/
theorem Machine.State.tickNs_osc (s : State) : s.tickNs.2.osc = s.hub.osc ∧ s.tickNs.2.lease = s.hub.lease := by
  obtain ⟨-, e⟩ | ⟨-, d, -, e⟩ | e := s.tickNs_cases <;> rw [e] <;> exact ⟨rfl, rfl⟩

/-- A reference tick is one count of the oscillator, whether the clocks run or have stopped. -/
theorem Machine.execReferenceTick_oscillates (s : State) : ∃ t, exec .referenceTick s = .next t ∧ t.hub.osc = s.hub.osc + 1 ∧
    t.hub.lease = if (s.hub.osc + 1) % 100 = 0 then s.hub.lease - 1 else s.hub.lease := by
  cases hs : s.halted with
  | true => exact ⟨_, (exec_referenceTick s).trans (if_pos hs), rfl, rfl⟩
  | false =>
    obtain ⟨hosc, hlease⟩ := s.tickNs_osc
    obtain ⟨k, hroll⟩ := (tickedState s).rollWindow_eq
    refine ⟨_, (execReferenceTick_running hs).trans (congrArg _ hroll), ?_⟩
    rw [← hosc, ← hlease]
    exact ⟨rfl, rfl⟩

end

/-- Settles O49, clause by clause. -/
theorem ownershipEvents : Obligations.OwnershipEvents := by
  unfold Obligations.OwnershipEvents
  refine ⟨fun m prio s => execClaim_vacant, fun m prio s h hheld => ?claim, fun m s => execClaimBeat_holder, fun m s h hheld => ?beat,
    fun m n s h hheld hn => ?nobody, fun m n s h hheld hpos hother hn => ?successor, fun s helect hclaims hdue => ?election,
    execReferenceTick_oscillates, fun s hheld hlease => ?lapse⟩
  case claim => rw [execClaim_refused h hheld, State.refuse_of_reachable h]
  case beat => rw [execClaimBeat_refused h hheld, State.refuse_of_reachable h]
  case nobody =>
    have := State.reachable_bounds h
    exact ⟨_, (execClaimRelease_holder h hheld (by omega)).trans (congrArg _ (if_pos hn)), rfl, rfl, rfl, rfl, rfl⟩
  case successor =>
    exact ⟨_, (execClaimRelease_holder h hheld hn).trans (congrArg _ (if_neg (by omega))), rfl, rfl, rfl, rfl, rfl, rfl, rfl⟩
  case election =>
    obtain ⟨c, hc, hw, hbest⟩ := winner_spec hclaims
    exact ⟨_, c, execElectionClose_due helect hdue hw, hc, hbest, rfl, rfl, rfl, rfl, rfl, rfl, rfl⟩
  case lapse =>
    rw [exec_leaseLapse, execLeaseLapse, if_neg (by simp [hheld, hlease])]
    rfl

end Sys2Proof
end

section
/-! # The host's accesses, snoops and answers (O53) -/

namespace Sys2Proof

open Machine Safety

section
variable {s : State} {pa a home : Nat}

/-! ### Accesses of CXL.mem (R449, R450) -/

theorem Machine.execCxlMemRead_within (ha : s.hdmPa? pa = some a) (hhome : s.hdmHome (a / 128) = some home)
    (hbusy : s.lineBusy (a / 128) = false) (hqueued : s.lineQueued (a / 128) = false) (hwait : a / 128 ∉ s.hub.hostWait)
    (hroom : a / 128 ∈ s.hub.snoop ∨ s.hub.snoop.length < snoopEntries) :
    exec (.cxlMemRead pa) s = .next (((s.homeRead (a / 128)).modHub fun h => { h with snoop := a / 128 :: h.snoop.filter (· ≠ a / 128) }).say
      (.cxlData pa (BitVec.ofNat 512 (s.store.read a 64)) (s.store.poisonAt a 64).isSome)) := by
  have hstore : (s.homeRead (a / 128)).store = s.store := (State.Recached.homeRead .refl).sameStore.store
  rw [exec_cxlMemRead, execCxlMemRead, ha, Option.filter_some, if_pos (by simp [hhome])]
  dsimp only
  rw [if_neg (by simp [hbusy, hqueued, hwait]), if_neg (by simpa [imp_iff_not_or] using hroom)]
  simp only [State.modHub_store, hstore]

theorem Machine.execCxlMemWrite_within {data : BitVec 512} {be : BitVec 64} (ha : s.hdmPa? pa = some a) (hhome : s.hdmHome (a / 128) = some home)
    (hbusy : s.lineBusy (a / 128) = false) (hqueued : s.lineQueued (a / 128) = false) :
    exec (.cxlMemWrite pa data be) s = .next (((s.homeWrite home (a / 128) none).writeLine (a / 128)
      (be.setWidth 128 <<< (a % 128)) (data.setWidth 1024 <<< (8 * (a % 128))) 1).settle) := by
  rw [exec_cxlMemWrite, execCxlMemWrite, ha, Option.bind_some, hhome]
  dsimp only [Option.map_some]
  rw [if_neg (by simp [hbusy, hqueued])]

/-- The host reaches the decoder's 1 TiB, once the link has trained and while no recovery is under way (R449, R460). -/
theorem Machine.State.hdmPa?_outside (h : s.hub.bootFail = true ∨ s.hub.boot < 8 ∨ pa < s.hub.decoder ∨ s.hub.decoder + 2 ^ 40 ≤ pa) :
    s.hdmPa? pa = none := by
  refine if_neg fun e => ?_
  simp only [Bool.and_eq_true, decide_eq_true_eq, Bool.not_eq_true'] at e
  obtain ⟨⟨⟨hboot, hfail⟩, hlow⟩, hhigh⟩ := e
  rw [hfail] at h
  have := h.resolve_left Bool.false_ne_true
  omega

theorem Machine.State.hdmPa?_inside (hfail : s.hub.bootFail = false) (hboot : 8 ≤ s.hub.boot) (hpa : pa < 2 ^ 40) :
    s.hdmPa? (s.hub.decoder + pa) = some (s.relayPa (pa / 64 * 64)) := by
  unfold State.hdmPa?
  rw [if_pos (by simpa [hfail, hboot] using hpa), Nat.add_sub_cancel_left]

theorem Machine.execCxlMemRead_unreached (h : s.hdmPa? pa = none) : exec (.cxlMemRead pa) s = .next s := by
  rw [exec_cxlMemRead, execCxlMemRead, h]
  rfl

theorem Machine.execCxlMemWrite_unreached (h : s.hdmPa? pa = none) (data : BitVec 512) (be : BitVec 64) :
    exec (.cxlMemWrite pa data be) s = .next s := by
  rw [exec_cxlMemWrite, execCxlMemWrite, h]
  rfl

/-! ### Snoops of HOST-COH lines (R152) -/

/-- Host memory is the 2^48 bytes from 2^48 on (R27). -/
theorem Machine.State.region_host (h : 0x1000000000000 ≤ pa) (hlt : pa < 0x2000000000000) : s.region pa = .host := by
  unfold State.region
  rw [if_neg (by omega), if_neg (by simp; omega), if_pos (by simp [h, hlt])]

theorem Machine.execH2dSnoop_host (h : pa < 0x1000000000000) (inv : Bool) :
    exec (.h2dSnoop pa inv) s =
      let l := (0x1000000000000 + pa) / 128
      let mine := s.coh.l2.filter fun x => x.line = l
      let dirty := mine.any fun x => x.st = .m
      let t := mine.foldl (fun s x => if inv then s.l2Drop x.die l else s.l2SetState x.die l .s) s
      .next (t.say (.snoopResp pa dirty (if dirty then t.store.line l else 0))) := by
  rw [exec_h2dSnoop, execH2dSnoop]
  dsimp only
  rw [State.region_host (by omega) (by omega)]

/-- A snoop of a line that no die holds. -/
theorem Machine.execH2dSnoop_absent (h : pa < 0x1000000000000) (inv : Bool) (hnone : ∀ x ∈ s.coh.l2, x.line ≠ (0x1000000000000 + pa) / 128) :
    exec (.h2dSnoop pa inv) s = .next (s.say (.snoopResp pa false 0)) := by
  rw [execH2dSnoop_host h]
  dsimp only
  rw [List.filter_eq_nil_iff.mpr fun x hx => by simpa using hnone x hx]
  rfl

/-- A snoop of a line that one die holds: its copy goes or is left shared, and storage keeps what the answer gives. -/
theorem Machine.execH2dSnoop_single {x : L2Line} (h : pa < 0x1000000000000) (inv : Bool)
    (hone : (s.coh.l2.filter fun x => x.line = (0x1000000000000 + pa) / 128) = [x]) :
    exec (.h2dSnoop pa inv) s =
      let l := (0x1000000000000 + pa) / 128
      .next ((if inv then s.l2Drop x.die l else s.l2SetState x.die l .s).say
        (.snoopResp pa (decide (x.st = .m)) (if decide (x.st = .m) then s.store.line l else 0))) := by
  rw [execH2dSnoop_host h]
  dsimp only
  rw [hone]
  cases inv <;> simp only [List.any_cons, List.any_nil, Bool.or_false] <;> rfl

/-! ### Answers of the host (R141, R152, R450) -/

theorem Machine.State.flushLate_nil (h : s.hub.late = []) : State.flushLate [] s = s := by
  have hhub : ({ s.hub with late := [] } : Hub) = s.hub := by rw [← h]
  rw [State.flushLate, State.modHub, hhub]

/-- The host has given a line up: the hub asks for it no longer, and the snoop filter has it no longer. -/
theorem Machine.execBackInvalidateResponse_asked {line : Nat} (hline : line ∈ s.hub.hostWait) :
    exec (.backInvalidateResponse (s.hub.decoder / 128 + line)) s = .next (State.flushLate s.hub.late { s with hub := { s.hub with
      hostWait := s.hub.hostWait.filter (· ≠ line), snoop := s.hub.snoop.filter (· ≠ line) } }).enterWritten.resume.sweep.settle := by
  rw [exec_backInvalidateResponse, execBackInvalidateResponse, Nat.add_sub_cancel_left]
  dsimp only
  rw [if_neg (by simpa using hline)]
  rfl

/-- The host's answer to the one request of a die for a line (R152). -/
theorem Machine.execH2dResponse_single {die hline line : Nat} {owned : Bool} {data : LineData} {o : Outstanding}
    (hl : line = 0x1000000000000 / 128 + hline)
    (hone : (s.eng.pend.filter fun o => o.kind = .hostCoh && o.die = die && o.line = line && !o.answered && (owned || o.mask = 0)) = [o]) :
    let kept := if (s.coh.l2.any fun x => x.line = line) then s else s.modStore fun m => m.putLine line (BitVec.allOnes 128) data
    let used := if o.ch = 3 then kept else kept.l2Use die line o.ch (if owned then .e else .s) false false
    exec (.h2dResponse die hline owned data) s = .next (((used.modEng fun e => { e with pend := e.pend.filterMap fun p =>
      if o.txn = p.txn then (if p.ch = 3 then some { p with answered := true } else none) else some p }).goOnFor o).sweep.settle) := by
  subst hl
  rw [exec_h2dResponse, execH2dResponse]
  dsimp only
  rw [hone, if_neg (by simp)]
  simp only [List.foldl_filter, List.foldl_cons, List.foldl_nil, List.any_cons, List.any_nil, Bool.or_false, decide_eq_true_eq, ne_eq, ite_not]

theorem Machine.execCxlIoCompletion_asked {txn : Nat} {data : DWord} {o : Outstanding}
    (ho : (s.eng.pend.find? fun o => o.txn = txn && o.kind = .hostUc && !o.answered) = some o) :
    exec (.cxlIoCompletion txn data) s = .next (s.answerAccess o fun o => { o with data64 := data }).sweep.settle := by
  rw [exec_cxlIoCompletion, execCxlIoCompletion, ho]

end

/-- Settles O53, clause by clause. -/
theorem hostEvents : Obligations.HostEvents := by
  unfold Obligations.HostEvents
  refine ⟨fun pa a home s => execCxlMemRead_within, fun pa a home data be s => execCxlMemWrite_within, fun pa s h => ?outside,
    fun pa s => State.hdmPa?_inside, fun pa inv s => ?absent, fun pa s x => ?single, fun hline line s hl hwait => ?givenUp,
    fun die hline line owned data s o => execH2dResponse_single, fun txn data s o => execCxlIoCompletion_asked⟩
  case outside =>
    have hnone := State.hdmPa?_outside h
    exact ⟨execCxlMemRead_unreached hnone, execCxlMemWrite_unreached hnone⟩
  case absent =>
    intro l hpa hnone
    exact execH2dSnoop_absent hpa inv hnone
  case single =>
    intro l hpa hone dirty
    exact ⟨execH2dSnoop_single hpa true hone, execH2dSnoop_single hpa false hone⟩
  case givenUp =>
    subst hl
    refine ⟨execBackInvalidateResponse_asked hwait, fun hlate => ?_, fun w rest hlate hready => ?_⟩
    · rw [hlate]
      exact State.flushLate_nil (by exact hlate)
    · rw [hlate]
      exact if_pos hready

end Sys2Proof
end

section
/-! # The trace fabric (O60) -/

namespace Sys2Proof

open Machine Safety

/-! ### Storage writes leave the contexts in their places

A write of a ring is seen by watches and counted by trace buffers, which change contexts and make or end none. -/

section
variable {b s t : State} {α : Type}

/-- The contexts are the same, by their ids. -/
structure Machine.State.SameIds (s t : State) : Prop where
  ids : t.contexts.map Context.id = s.contexts.map Context.id

theorem Machine.State.SameIds.refl : b.SameIds b := ⟨rfl⟩

theorem Machine.State.SameIds.trans (h : b.SameIds s) (h' : s.SameIds t) : b.SameIds t := ⟨h'.ids.trans h.ids⟩

theorem Machine.State.SameIds.frame {store caches coh warps slots sched eng dies stations hub staged recs out cur agenda upsets free
    cycles turn} (h : b.SameIds s) : b.SameIds ⟨store, caches, coh, warps, s.contexts, slots, sched, eng, dies, stations, hub, staged,
      recs, out, cur, agenda, upsets, free, cycles, turn⟩ := ⟨h.ids⟩

theorem Machine.State.SameIds.ite {p : Prop} {_ : Decidable p} (hs : b.SameIds s) (ht : b.SameIds t) : b.SameIds (if p then s else t) :=
  iteInduction (fun _ => hs) fun _ => ht

theorem Machine.State.SameIds.foldl {f : State → α → State} {l : List α} (hs : b.SameIds s)
    (hf : ∀ t a, b.SameIds t → b.SameIds (f t a)) : b.SameIds (l.foldl f s) :=
  List.foldlRecOn l f hs fun t ht a _ => hf t a ht

/-- A change of each context that keeps its id. -/
theorem Machine.State.SameIds.mapContexts {g : Context → Context} (h : b.SameIds s) (hg : ∀ c, (g c).id = c.id) :
    b.SameIds { s with contexts := s.contexts.map g } :=
  ⟨by rw [← h.ids, List.map_map]; exact List.map_congr_left fun c _ => hg c⟩

theorem Machine.State.SameIds.fireQueue {ctx idx} (h : b.SameIds s) : b.SameIds (s.fireQueue ctx idx) :=
  h.mapContexts fun c => by split <;> rfl

theorem Machine.State.SameIds.noteHold {die ctx code n} (h : b.SameIds s) : b.SameIds (s.noteHold die ctx code n) :=
  h.mapContexts fun c => by split <;> rfl

theorem Machine.State.SameIds.emit {die unit sub ctx code payload body lossless warp gang} (h : b.SameIds s) :
    b.SameIds (s.emit die unit sub ctx code payload body lossless warp gang) := by
  have hcount : ∀ l m : List Context, b.SameIds { s with contexts := s.contexts.map fun c =>
      if (l.contains c && !m.contains c) = true then c.countDrop else c } := fun l m => h.mapContexts fun c => by split <;> rfl
  exact .ite (.ite h (hcount _ _)) (.ite (.frame (.ite h (hcount _ _))) (.noteHold (.frame (.ite h (hcount _ _)))))

theorem Machine.State.SameIds.watchCount {w addr val depth slice} (h : b.SameIds s) : b.SameIds (s.watchCount w addr val depth slice) := by
  unfold State.watchCount
  split
  · exact .fireQueue h
  · split
    · exact h
    · exact .emit (.frame h)
    · exact .ite (.frame (.frame h)) (.ite (.frame (.frame h)) (.emit (.frame (.frame h))))

theorem Machine.State.SameIds.compareLine {l old new depth} (h : b.SameIds s) : b.SameIds (s.compareLine l old new depth) := by
  unfold State.compareLine
  split
  · exact h
  · refine .foldl h fun t w ht => ?_
    split
    · exact .watchCount ht
    · exact ht

theorem Machine.State.SameIds.writeIn {k n v depth} (h : b.SameIds s) : b.SameIds (s.writeIn k n v depth) := by
  have hsettled : ∀ l mask f, b.SameIds ((s.modStore f).settleFields l mask) := fun _ _ _ => .ite (.frame h) (.frame (.frame (.frame h)))
  exact .ite (.frame (hsettled _ _ _)) (.compareLine (.ite (.frame (.ite (hsettled _ _ _) (.frame (hsettled _ _ _))))
    (.ite (hsettled _ _ _) (.frame (hsettled _ _ _)))))

theorem Machine.State.SameIds.writeKey {k n v depth} (h : b.SameIds s) : b.SameIds (s.writeKey k n v depth) :=
  .foldl h fun _ _ ht => .ite (.writeIn ht) ht

theorem Machine.State.SameIds.hubWrite {w} (h : b.SameIds s) : b.SameIds (s.hubWrite w) :=
  .ite (.writeKey h) (.frame (.foldl h fun _ _ ht => .ite ht (.frame (.frame ht))))

theorem Machine.State.SameIds.markPages {ctx va n writes} (h : b.SameIds s) : b.SameIds (s.markPages ctx va n writes) := by
  have hset : ∀ {t : State} {pa : Nat} {d : Bool}, b.SameIds t → b.SameIds (t.setAD pa d) := fun ht =>
    .ite ht (.ite (.hubWrite ht) (.frame (.writeKey ht)))
  unfold State.markPages
  refine .foldl h fun t i ht => .ite ?_ ht
  split
  · exact hset ht
  · exact ht

theorem Machine.State.SameIds.putAway {ctx va pa n v} (h : b.SameIds s) : b.SameIds (s.putAway ctx va pa n v) := by
  unfold State.putAway
  split
  · exact .ite (.writeIn h) (.frame h)
  · exact .frame (.frame h)
  · exact h

theorem Machine.State.SameIds.ringWrite {ctx va n v pin} (h : b.SameIds s) (e : s.ringWrite ctx va n v pin = some t) : b.SameIds t := by
  obtain ⟨parts, -, e⟩ := Option.bind_eq_some_iff.mp e
  split at e
  · cases e
  · cases e
    refine .foldl (.markPages h) fun u p hu => ?_
    split
    · exact .foldl hu fun _ _ hu => .ite (.putAway hu) hu
    · exact .foldl hu fun _ _ hu => .ite (.putAway hu) hu
    · exact .hubWrite hu

theorem Machine.State.SameIds.tailWrite {ctx va v} (h : b.SameIds s) (e : s.tailWrite ctx va v = some t) : b.SameIds t := by
  obtain ⟨parts, -, e⟩ := Option.bind_eq_some_iff.mp e
  split at e
  · cases e
  · cases e
    exact .foldl (.markPages h) fun _ _ hu => .hubWrite hu

theorem Machine.State.SameIds.appendRec {c tail r} (h : b.SameIds s) (e : s.appendRec c tail r = some t) : b.SameIds t := by
  refine List.foldlRecOn (motive := fun o => ∀ u, o = some u → b.SameIds u) _ _ (fun u hu => by cases hu; exact h) ?_ t e
  intro o ho i _ v hv
  obtain ⟨u, hu, hv⟩ := Option.bind_eq_some_iff.mp hv
  exact .ringWrite (ho u hu) hv

/-- A context that is there stays there. -/
theorem Machine.State.SameIds.ctx? {id : Nat} {c : Context} (h : s.SameIds t) (hc : s.ctx? id = some c) : ∃ d, t.ctx? id = some d := by
  have hid : id ∈ t.contexts.map Context.id := by
    rw [h.ids]
    exact List.mem_map.mpr ⟨c, List.mem_of_find?_eq_some hc, by simpa using List.find?_some hc⟩
  obtain ⟨d, hd, he⟩ := List.mem_map.mp hid
  exact Option.isSome_iff_exists.mp (List.find?_isSome.mpr ⟨d, hd, by simpa using he⟩)

end

/-! ### Rings (R441, R445) -/

section
variable {s t : State} {c : Context} {r : TraceRec}

/-- A context after a change that keeps its id. -/
theorem Machine.State.ctx?_modCtx {id : Nat} {g : Context → Context} (hc : s.ctx? id = some c) (hg : ∀ c, (g c).id = c.id) :
    (s.modCtx id g).ctx? id = some (g c) := by
  have hid : c.id = id := by simpa using List.find?_some hc
  have hkeep : ∀ x : Context, (if x.id = id then g x else x).id = x.id := fun x => by
    split
    · exact hg x
    · rfl
  unfold State.ctx? at hc ⊢
  rw [State.modCtx_contexts, List.find?_map]
  simp only [Function.comp_def, hkeep]
  rw [hc, Option.map_some, if_pos hid]

/-- The buffer's TAIL after a record, where no OVERFLOW is owed. -/
theorem Machine.State.trcTail_writeTrace (hc : s.ctx? c.id = some c) (howes : c.owesOverflow = false) (h : s.writeTrace c r = some t) :
    ∃ d, t.ctx? c.id = some d ∧ d.trcTail = (c.trcTail + r.size) % 2 ^ 32 := by
  unfold State.writeTrace at h
  rw [howes] at h
  obtain ⟨u, hu, h⟩ := Option.bind_eq_some_iff.mp h
  obtain ⟨v, hv, rfl⟩ := Option.map_eq_some_iff.mp h
  obtain ⟨d, hd⟩ := (State.SameIds.tailWrite (.appendRec .refl hu) hv).ctx? hc
  exact ⟨_, State.ctx?_modCtx hd fun _ => rfl, rfl⟩

end

/-! ### The drain (R145, R440, R443) -/

section
variable {s : State} {die : Nat}

/-- One record of the drain's scan: with nothing found yet, a buffer that the record may go to now, or else its unit's place before later
records of those buffers. -/
def Safety.scanRec (s : State) (die : Nat) (a : Option (Nat × Nat) × List (Nat × Nat)) (x : TraceRec × Nat) : Option (Nat × Nat) × List (Nat × Nat) :=
  if a.1.isSome || x.1.die ≠ die then a
  else
    match x.1.takers.find? fun id => (die = hubDie || x.1.sent) && !a.2.contains (x.1.source / 16, id) && !s.recWaits x.1 id with
    | some id => (some (x.2, id), a.2)
    | none => (none, a.2 ++ x.1.takers.map fun id => (x.1.source / 16, id))

theorem Machine.State.nextRec_eq (s : State) (die : Nat) : s.nextRec die = (s.staged.zipIdx.foldl (scanRec s die) (none, [])).1 := rfl

theorem Safety.foldl_scanRec_found (l : List (TraceRec × Nat)) (y : Nat × Nat) (q : List (Nat × Nat)) :
    l.foldl (scanRec s die) (some y, q) = (some y, q) := by
  induction l with
  | nil => rfl
  | cons x l ih => exact ih

/-- What may go from the drain: a record of the die that has reached it, to a buffer at which it need not wait and for which no queued pair of its
unit stands before it. -/
structure Safety.MayGo (s : State) (die : Nat) (q : List (Nat × Nat)) (r : TraceRec) (id : Nat) : Prop where
  staged : r.die = die
  taker : id ∈ r.takers
  sent : die = hubDie ∨ r.sent = true
  waits : s.recWaits r id = false
  first : (r.source / 16, id) ∉ q

/-- What the scan of a list finds may go, and no record of its unit before it in the list goes to that buffer. -/
theorem Safety.foldl_scanRec_spec {l : List TraceRec} {k : Nat} {q : List (Nat × Nat)} {i id : Nat}
    (h : ((l.zipIdx k).foldl (scanRec s die) (none, q)).1 = some (i, id)) :
    ∃ j r, i = k + j ∧ l[j]? = some r ∧ MayGo s die q r id ∧
      ∀ m x, m < j → l[m]? = some x → x.die = die → x.source / 16 = r.source / 16 → id ∉ x.takers := by
  induction l generalizing k q with
  | nil => cases h
  | cons x l ih =>
    rw [List.zipIdx_cons, List.foldl_cons] at h
    by_cases hdie : x.die = die
    · cases hfind : x.takers.find? fun id => (die = hubDie || x.sent) && !q.contains (x.source / 16, id) && !s.recWaits x id with
      | some id' =>
        have hstep : scanRec s die (none, q) (x, k) = (some (k, id'), q) := by
          simp only [scanRec, hdie, hfind, Option.isSome_none, ne_eq, not_true_eq_false, decide_false, Bool.or_self, Bool.false_eq_true, if_false]
        rw [hstep, foldl_scanRec_found] at h
        obtain ⟨rfl, rfl⟩ := Prod.mk.inj (Option.some.inj h)
        have hok := List.find?_some hfind
        simp only [Bool.and_eq_true, Bool.or_eq_true, decide_eq_true_eq, Bool.not_eq_true', List.contains_eq_mem, decide_eq_false_iff_not] at hok
        obtain ⟨⟨hsent, hfirst⟩, hwaits⟩ := hok
        exact ⟨0, x, rfl, rfl, ⟨hdie, List.mem_of_find?_eq_some hfind, hsent, hwaits, hfirst⟩, fun m y hm => absurd hm (Nat.not_lt_zero m)⟩
      | none =>
        have hstep : scanRec s die (none, q) (x, k) = (none, q ++ x.takers.map fun id => (x.source / 16, id)) := by
          simp only [scanRec, hdie, hfind, Option.isSome_none, ne_eq, not_true_eq_false, decide_false, Bool.or_self, Bool.false_eq_true, if_false]
        rw [hstep] at h
        obtain ⟨j, r, rfl, hr, hgo, hbefore⟩ := ih h
        obtain ⟨hfirst, hown⟩ := not_or.mp fun h => hgo.first (List.mem_append.mpr h)
        refine ⟨j + 1, r, by omega, hr, { hgo with first := hfirst }, fun m y hm hy hydie hunit => ?_⟩
        cases m with
        | zero =>
          obtain rfl : x = y := Option.some.inj hy
          exact fun hid => hown (List.mem_map.mpr ⟨id, hid, by rw [hunit]⟩)
        | succ m => exact hbefore m y (by omega) hy hydie hunit
    · have hstep : scanRec s die (none, q) (x, k) = (none, q) := if_pos (by simp [hdie])
      rw [hstep] at h
      obtain ⟨j, r, rfl, hr, hgo, hbefore⟩ := ih h
      refine ⟨j + 1, r, by omega, hr, hgo, fun m y hm hy hydie hunit => ?_⟩
      cases m with
      | zero =>
        obtain rfl : x = y := Option.some.inj hy
        exact absurd hydie hdie
      | succ m => exact hbefore m y (by omega) hy hydie hunit

/-- What the drain does next (R440, R448). -/
theorem Machine.State.nextRec_spec {i id : Nat} {r : TraceRec} (h : s.nextRec die = some (i, id)) (hr : s.staged[i]? = some r) :
    MayGo s die [] r id ∧ ∀ j x, j < i → s.staged[j]? = some x → x.die = die → x.source / 16 = r.source / 16 → id ∉ x.takers := by
  obtain ⟨j, r', rfl, hr', hgo, hbefore⟩ := foldl_scanRec_spec h
  rw [Nat.zero_add] at hr ⊢
  obtain rfl : r = r' := Option.some.inj (hr.symm.trans hr')
  exact ⟨hgo, hbefore⟩

theorem Machine.execTraceDrainWrite_next {i id : Nat} {r : TraceRec} (h : s.nextRec die = some (i, id)) (hr : s.staged[i]? = some r) :
    exec (.traceDrainWrite die) s = .next (((s.takenBy i id).deliver r id).retryAgain.sweep.settle) := by
  rw [exec_traceDrainWrite, execTraceDrainWrite, h, Option.bind_some]
  dsimp only
  rw [hr]
  rfl

theorem Machine.execTraceDrainWrite_none (h : s.nextRec die = none) : exec (.traceDrainWrite die) s = .next s.sweep.settle := by
  rw [exec_traceDrainWrite, execTraceDrainWrite, h]
  rfl

/-- A die's oldest record that has not been sent goes over EVT, once it stands among the first 64 (R145, R445). -/
theorem Machine.execCoeskTrace_staged {i : Nat} (hdie : die ≠ hubDie) (hi : (s.staged.findIdx? fun r => r.die = die && !r.sent) = some i)
    (hroom : ((s.staged.take i).filter fun r => r.die = die).length < 64) :
    exec (.coeskTrace die) s = .next { s with staged := s.staged.modify i fun r => { r with sent := true } } := by
  have hunsent : s.unsent die = some i := by
    rw [State.unsent, hi, Option.filter_some, if_pos (by rw [List.countP_eq_length_filter]; exact decide_eq_true hroom)]
  rw [exec_coeskTrace, execCoeskTrace, hunsent]
  exact if_neg hdie

end

/-! ### Fall-back, TRCHDR and TRCCFG (R442, R447) -/

section
variable {s : State} {w : Writer} {ctx : Nat} {c : Context}

theorem Machine.execLosslessFallback_due (hc : s.ctx? ctx = some c) (hwait : c.llwait ≠ 0)
    (hheld : ∃ h ∈ c.holds, h.since + c.llwait * 1000000 ≤ s.hub.ns) :
    exec (.losslessFallback ctx) s = .next ((s.fallBack ctx).retryAgain.sweep.settle) := by
  rw [exec_losslessFallback, execLosslessFallback, hc]
  dsimp only
  rw [if_neg (by simpa [hwait] using hheld)]

theorem Machine.execTrchdrWrite_may {val : BitVec 64} (hw : s.mayWrite w = true) :
    exec (.trchdrWrite w ctx val) s = .next (s.modCtx ctx fun c =>
      if c.en = true ∨ val.toNat % 128 ≠ 0 then { c with cfgerr := true } else { c with trchdr := val.toNat }) := by
  rw [exec_trchdrWrite, execTrchdrWrite, if_neg (by simp [hw])]
  simp only [Bool.or_eq_true, decide_eq_true_eq]

/-- ALLCTX belongs to the system context. -/
theorem Machine.execTrccfgWrite_refused {val : BitVec 32} (hw : s.mayWrite w = true) (hc : s.ctx? ctx = some c) (hall : val.getLsbD 3 = true)
    (hsystem : c.system = false) : exec (.trccfgWrite w ctx val) s = .next (s.modCtx ctx fun c => { c with cfgerr := true }) := by
  rw [exec_trccfgWrite, execTrccfgWrite, hc]
  dsimp only
  rw [if_neg (by simp [hw]), if_pos (by simp [hall, hsystem])]

/-- EN does not rise on a header that cannot be used, and the header has been read. -/
theorem Machine.execTrccfgWrite_noHeader {val : BitVec 32} (hw : s.mayWrite w = true) (hc : s.ctx? ctx = some c)
    (hall : ¬(val.getLsbD 3 && !c.system) = true) (hrises : (val.getLsbD 0 && !c.en) = true) (hheader : s.traceHeader c = none) :
    exec (.trccfgWrite w ctx val) s = .next ((s.markPages ctx c.trchdr 128 false).modCtx ctx fun c => { c with cfgerr := true }) := by
  rw [exec_trccfgWrite, execTrccfgWrite, hc]
  dsimp only
  rw [if_neg (by simp [hw]), if_neg hall, if_pos hrises, if_pos hrises, hheader]

/-- A value within the limits sets every field, the buffer's place with them where EN rises. -/
theorem Machine.execTrccfgWrite_taken {val : BitVec 32} {base size tail : Nat} (hw : s.mayWrite w = true) (hc : s.ctx? ctx = some c)
    (hall : ¬(val.getLsbD 3 && !c.system) = true)
    (hheader : (if val.getLsbD 0 && !c.en then s.traceHeader c else some (c.trcBase, c.trcSize, c.trcTail)) = some (base, size, tail)) :
    exec (.trccfgWrite w ctx val) s = .next (((if val.getLsbD 0 && !c.en then s.markPages ctx c.trchdr 128 false else s).modCtx ctx fun c =>
      { c with en := val.getLsbD 0, ll := val.getLsbD 2, allctx := val.getLsbD 3, llwait := val.toNat / 2 ^ 24, trcBase := base
               trcSize := size, trcTail := tail, fallback := c.fallback && !val.getLsbD 7, cfgerr := c.cfgerr && !val.getLsbD 8
               holds := if val.getLsbD 0 then c.holds else [] }).retryAgain.sweep.settle) := by
  rw [exec_trccfgWrite, execTrccfgWrite, hc]
  dsimp only
  rw [if_neg (by simp [hw]), if_neg hall, hheader]

end

/-- Settles O60, clause by clause. -/
theorem traceEvents : Obligations.TraceEvents := by
  unfold Obligations.TraceEvents
  refine ⟨fun die i s => execCoeskTrace_staged, fun die i id s r h hr => ?drain, fun die s => execTraceDrainWrite_none,
    fun ctx s c => execLosslessFallback_due, fun w ctx val s => execTrchdrWrite_may, fun w ctx val s c hw hc hall hsystem => ?refused,
    fun w ctx val s c hw hc hall hen hoff hheader => ?noHeader, fun w ctx val s c base size tail hw hc hall hheader => ?taken,
    fun s c r t hc hover hfell => State.trcTail_writeTrace hc (by simp [Context.owesOverflow, hover, hfell])⟩
  case drain =>
    obtain ⟨hgo, hbefore⟩ := State.nextRec_spec h hr
    exact ⟨hgo.staged, hgo.taker, hgo.sent, hgo.waits, hbefore, execTraceDrainWrite_next h hr⟩
  case refused => exact execTrccfgWrite_refused hw hc hall hsystem
  case noHeader => exact execTrccfgWrite_noHeader hw hc (by simpa using hall) (by simp [hen, hoff]) hheader
  case taken => exact execTrccfgWrite_taken hw hc (by simpa using hall) hheader

end Sys2Proof
end

section
/-! # MMAW and MMA_COMPLETE where the statements differ from the model (O46, O47) -/

namespace Sys2Proof

open Machine Safety

/-! ### MMAW waits (R383) -/

/-- A product of core 0 that its first warp slot has open. -/
def Safety.openProduct : Product :=
  { core := 0, slot := 0, gang := 0, number := 0, double := false, acc := false, mshape := 0, d := 0, a := 0, b := 0, sa := 0, sb := 0, rows := 0 }

/-- The warp of `notingState` with that product open. -/
def Safety.openState : State := { notingState with eng := { products := [openProduct] } }

/-- MMAW that waits until none is open: S1 is the constant 0. -/
def Safety.drainingMmaw : FormA := { s1 := 0x180 }

/-- The issue that the warp of `openState` makes of it. -/
def Safety.drainingIssue : Issue := (openState.issueFor notingWarp 0 0x142 (.a drainingMmaw)).2

theorem Safety.issueOf_openState :
    issueOf (.mmaw drainingMmaw) openState = some ((openState.issueFor notingWarp 0 0x142 (.a drainingMmaw)).1, drainingIssue) := by
  have hissuer : openState.issuer? = some notingWarp := by decide +kernel
  have hchecks : (checkAll (openState.envOf notingWarp) 0x142 (.a drainingMmaw)).isSome = false := by decide +kernel
  have hfree : (openState.issueFor notingWarp openState.cur.hood 0x142 (.a drainingMmaw)).2.blocked = false := by decide +kernel
  exact issueOf_issueFor rfl hissuer hchecks hfree

/-- MMAW with more products open than it asks for, as its last hood performs it: the warp waits, its windows closed (R177). -/
theorem Safety.exec_mmaw_waits {f : FormA} {s : State} {b : Warp} {c : Issue} (h : issueOf (.mmaw f) s = some (b, c))
    (hlast : c.waiting.atCollective = true) (hn : c.whole.scalar f.s1 false 1 ≤ 7)
    (hopen : c.whole.scalar f.s1 false 1 < (c.whole.s.openProducts c.whole.w.core (some c.whole.w.slot)).length) :
    exec (.mmaw f) s = .next (after b c (passed c (.hold (c.whole.put fun w =>
      (w.mapSlices fun _ sl => if sl.live then { sl with wait := .products (c.whole.scalar f.s1 false 1) } else sl).closeWindows)))) := by
  rw [exec_mmaw, execMmaw, issue_eq h rfl, Issue.collective_last hlast, Issue.mmaw]
  dsimp only
  rw [if_neg (Nat.not_lt.mpr hn), if_pos hopen]

/-- Refutes O46: MMAW that waits closes the windows of its warp and forgets the writes noted in it, and the statement's warp keeps them. -/
theorem not_matrixInstructions : ¬ Obligations.MatrixInstructions := by
  unfold Obligations.MatrixInstructions
  rintro ⟨⟨-, -, -, hwaits, -⟩, -⟩
  have hlast : drainingIssue.waiting.atCollective = true := by decide +kernel
  have hn : drainingIssue.whole.scalar drainingMmaw.s1 false 1 ≤ 7 := by decide +kernel
  have hopen : drainingIssue.whole.scalar drainingMmaw.s1 false 1 <
      (drainingIssue.whole.s.openProducts drainingIssue.whole.w.core (some drainingIssue.whole.w.slot)).length := by decide +kernel
  have hstated := hwaits _ _ _ _ issueOf_openState ⟨hlast, hn, hopen⟩
  rw [exec_mmaw_waits issueOf_openState hlast hn hopen] at hstated
  have hnoted := congrArg (fun t : State => t.warps.map fun w => w.shared.length) (Host.Outcome.next.inj hstated)
  exact absurd hnoted (by decide +kernel)

end Sys2Proof
end

section
/-! # MMA_COMPLETE of a warp that waits to enter its handler (O47) -/

namespace Sys2Proof

open Machine Safety

/-! ### A sweep leaves the warps where none has ended and none waits at a barrier or PHASE -/

/-- No warp has ended, and none stands as a whole at a barrier or PHASE. -/
def Safety.NoneWaits (s : State) : Prop := ∀ w ∈ s.warps, w.liveSlices ≠ [] ∧ w.waitsAt = none

section
variable {b s t : State} {g : Gang} {id : Nat}

theorem Machine.State.SameWarps.trans (h : b.SameWarps s) (h' : s.SameWarps t) : b.SameWarps t := ⟨h'.warps.trans h.warps⟩

theorem Safety.NoneWaits.of_sameWarps (hs : NoneWaits s) (h : s.SameWarps t) : NoneWaits t := fun w hw => hs w (h.warps ▸ hw)

theorem Machine.State.SameWarps.noteHold {die ctx code n} (h : b.SameWarps s) : b.SameWarps (s.noteHold die ctx code n) := .frame h

theorem Machine.State.SameWarps.modGang {f} (h : b.SameWarps s) : b.SameWarps (s.modGang id f) := .frame h

theorem Machine.State.SameWarps.emitBlock {code lin core} (h : b.SameWarps s) : b.SameWarps (s.emitBlock g code lin core) := .emit h

theorem Machine.State.SameWarps.clearBusy {ctx} (h : b.SameWarps s) : b.SameWarps (s.clearBusy ctx) := .ite h (.modCtx h)

theorem Machine.State.SameWarps.endBlocks (h : b.SameWarps s) : b.SameWarps (s.endBlocks id) := by
  unfold State.endBlocks
  split
  · exact h
  · dsimp only
    have hended : ∀ (l : List Block) (g : Gang), b.SameWarps (l.foldl (fun s x =>
        (s.emitBlock g 0x04 x.lin x.core).modGang id fun g => { g with blocks := g.blocks.filter fun y => y.pos ≠ x.pos }) s) :=
      fun _ _ => .foldl h fun _ _ ht => .modGang (.emitBlock ht)
    exact .ite h (.ite h (.ite (.noteHold h) (.ite (hended _ _) (.clearBusy (.modEng (.modSched (hended _ _)))))))

theorem Safety.NoneWaits.endWarps (hs : NoneWaits s) : s.endWarps = s := by
  have hnone : s.warps.filter s.warpEnded = [] := List.filter_eq_nil_iff.mpr fun w hw => by
    simp [State.warpEnded, (hs w hw).1]
  rw [State.endWarps, hnone]
  rfl

theorem Safety.NoneWaits.gangWarps (hs : NoneWaits s) {pos : Option Nat} : ∀ w ∈ s.gangWarps id pos, w.waitsAt = none :=
  fun w hw => (hs w (List.mem_filter.mp hw).1).2

/-- Warps of which there are some and of which none waits do not all wait. -/
theorem Safety.not_all_of_waitsAt {l : List Warp} {p : Warp → Bool} (hl : ∀ w ∈ l, w.waitsAt = none) (hp : ∀ w, w.waitsAt = none → p w = false) :
    (!l.isEmpty && l.all p) = false := by
  cases l with
  | nil => rfl
  | cons w l => simp [hp w (hl w List.mem_cons_self)]

theorem Safety.NoneWaits.resolveBarriers (hs : NoneWaits s) : s.resolveBarriers g = s := by
  have htry : ∀ (pos : Option Nat) (n : Nat), (if !(s.gangWarps g.id pos).isEmpty &&
      (s.gangWarps g.id pos).all fun w => w.arrivedAt (.barrier pos.isNone n) then s.departAll (s.gangWarps g.id pos) pos.isNone else s) = s :=
    fun pos n => if_neg (by
      rw [not_all_of_waitsAt hs.gangWarps fun w hw => by simp [Warp.arrivedAt, hw]]
      simp)
  unfold State.resolveBarriers
  dsimp only
  refine List.foldlRecOn (motive := (· = s)) _ _ (List.foldlRecOn (motive := (· = s)) _ _ rfl fun t ht x _ => ?_) fun t ht n _ => ?_
  · exact List.foldlRecOn (motive := (· = s)) _ _ ht fun u hu n _ => hu ▸ htry (some x.pos) n
  · exact ht ▸ htry none n

theorem Safety.NoneWaits.gangDeadlock (hs : NoneWaits s) : s.gangDeadlock g = s := by
  refine if_pos ?_
  have := not_all_of_waitsAt (hs.gangWarps (id := g.id) (pos := none)) (p := fun w => w.waitsAt.isSome && w.parked.isEmpty) fun w hw => by simp [hw]
  simp only [Bool.or_eq_true, Bool.not_eq_true']
  cases hempty : (s.gangWarps g.id).isEmpty <;> simp_all

theorem Safety.NoneWaits.tryPhase (hs : NoneWaits s) : s.tryPhase id = s := by
  unfold State.tryPhase
  split
  · rfl
  · dsimp only
    rw [List.findSome?_eq_none_iff.mpr fun w hw => by rw [hs.gangWarps w hw, ite_self]]

theorem Safety.NoneWaits.sweepGang (hs : NoneWaits s) : s.SameWarps (s.sweepGang id) := by
  unfold State.sweepGang
  split
  · exact .refl
  · rw [hs.resolveBarriers, hs.gangDeadlock, hs.tryPhase]
    exact .ite .refl (.endBlocks .refl)

theorem Safety.NoneWaits.sweep (hs : NoneWaits s) : s.SameWarps s.sweep := by
  unfold State.sweep
  rw [hs.endWarps]
  exact List.foldlRecOn (motive := s.SameWarps) _ _ .refl fun t ht _ _ => ht.trans (hs.of_sameWarps ht).sweepGang

end

/-! ### The counterexample -/

/-- A warp of one live slice with no handler, which a fault before its product's completion keeps waiting for it (R393). -/
def Safety.enteringWarp : Warp :=
  { core := 0, slot := 0, gang := 0, pos := 0, idx := 0, ctx := 0, slices := [{ pc := 0 }], entry := some { recs := [], reason := 0, pc := 0 } }

/-- Its product, which has started. -/
def Safety.startedProduct : Product :=
  { core := 0, slot := 0, gang := 0, number := 0, double := false, acc := false, mshape := 0, d := 0, a := 0, b := 0, sa := 0, sb := 0, rows := 0
    started := true }

def Safety.enteringState : State := { warps := [enteringWarp], eng := { products := [startedProduct] } }

/-- The warps that MMA_COMPLETE leaves there: the warp has halted (R396). -/
theorem Safety.exec_mmaComplete_entering : ∃ t, exec (.mmaComplete 0) enteringState = .next t ∧ t.warps.map Warp.halted = [true] :=
  ⟨_, rfl, by decide +kernel⟩

/-- Refutes O47: the last product of a warp that waits to enter its handler lets it go on, and one with no handler halts, which the statement's
warp does not. -/
theorem not_completedProductIsWritten : ¬ Obligations.CompletedProductIsWritten := by
  unfold Obligations.CompletedProductIsWritten
  rintro ⟨hwritten, -⟩
  obtain ⟨u, hu, hwarps⟩ := hwritten enteringState 0 startedProduct enteringWarp (by decide +kernel) (by decide +kernel) rfl rfl (by decide +kernel)
  obtain ⟨t, ht, hhalted⟩ := exec_mmaComplete_entering
  have hquiet : NoneWaits u := by
    unfold NoneWaits
    rw [hwarps]
    decide +kernel
  obtain rfl : t = u.sweep.settle := Host.Outcome.next.inj (ht.symm.trans hu)
  rw [(State.SameWarps.settle hquiet.sweep).warps, hwarps] at hhalted
  exact absurd hhalted (by decide +kernel)

end Sys2Proof
end

section
/-! # Handler entry whose frame waits for the host (O25) -/

namespace Sys2Proof

open Machine Safety

/-- A drained warp of one live slice, with a handler at 0x10000. -/
def Safety.trappedWarp : Warp :=
  { core := 0, slot := 0, gang := 0, pos := 0, idx := 0, ctx := 0, tvec := 0x10000, slices := [{ pc := 0 }] }

/-- That warp in a context whose address space is one pinned page of 1 GiB, its save area at VA 0. The host holds a line of it, for which an
earlier write of a device agent waits. -/
def Safety.lateState : State :=
  { store := ((({} : Store).write 0x1000 8 0x2001).write 0x2000 8 0x3001).write 0x3000 8 0x0723
    dies := [{ present := true }]
    contexts := [{ slot := 0, id := 0, system := true, ptroot := 0x1000 }]
    warps := [trappedWarp]
    hub := { snoop := [0x400], late := [{ key := 0x20000, n := 8, val := 1, depth := 1 }] } }

/-- The entry that the warp takes, without records. -/
def Safety.trappedEntry : Entry := { recs := [], reason := 1, pc := 0 }

/-- What the write of its frame comes to. -/
def Safety.trappedFrame : Except Nat State :=
  ((lateState.modWarp 0 0 fun w => { w with entry := some trappedEntry }).writeBatch 0 (.warp 0 0) []).writeFrame
    { trappedWarp with entry := some trappedEntry } 1 0

/-- The frame's write is accepted, and waits behind the earlier one. -/
theorem Safety.trappedFrame_ok : ∃ t, trappedFrame = .ok t ∧ ∃ x, t.warp? 0 0 = some x := by
  have hwarp : (trappedFrame.toOption.bind fun t => t.warp? 0 0).isSome = true := by decide +kernel
  cases hframe : trappedFrame with
  | error e =>
    rw [hframe] at hwarp
    cases hwarp
  | ok t =>
    rw [hframe] at hwarp
    exact ⟨t, rfl, Option.isSome_iff_exists.mp hwarp⟩

/-- Refutes O25: while the host holds a line that an earlier write waits for, the frame does not stand in storage yet, and the entry stays
pending (R393, R450); in the statement it has ended. -/
theorem not_handlerEntryAndHalt : ¬ Obligations.HandlerEntryAndHalt := by
  unfold Obligations.HandlerEntryAndHalt
  rintro ⟨henters, -⟩
  obtain ⟨t, hframe, hthere⟩ := trappedFrame_ok
  obtain ⟨a, ha, -, hentry, -⟩ := henters lateState 0 0 [] 1 0 trappedWarp t (by decide +kernel) rfl (by decide +kernel) rfl rfl rfl
    (by decide +kernel) hframe hthere
  have hpending : ((lateState.raise 0 0 [] 1 0).warp? 0 0).map (fun w => w.entry.isSome) = some true := by decide +kernel
  rw [ha, Option.map_some, hentry] at hpending
  cases hpending

end Sys2Proof
end

section
/-! # The acknowledgement that a waiting write of the hub has waited for (O54) -/

namespace Sys2Proof

open Machine Safety

/-- A posted pod write that has not been acknowledged. -/
def Safety.postedWrite : Outstanding := { txn := 1, die := 0, core := 0, slot := 0, hood := 0, ctx := 0, pc := 0, line := 0, write := true }

/-- The machine with that write alone, and a write of the hub's that waits for it as a release (R126). -/
def Safety.releasingState : State :=
  { eng := { pend := [postedWrite] }, hub := { late := [{ key := 0x1000, n := 8, val := 1, depth := 1, after := [1] }] } }

/-- The acknowledgement of a posted write of the device's own frees it (R428). -/
theorem Machine.execPodWriteAck_own {s : State} {txn : Nat} {o : Outstanding} (h : s.podPend? txn = some o) (hreply : o.reply = none)
    (hw : o.write = true) : exec (.podWriteAck txn) s = .next (s.freeWrite txn).settle := by
  rw [exec_podWriteAck, execPodWriteAck, h]
  dsimp only
  rw [if_pos hw, hreply]
  rfl

/-- Refutes O54: the acknowledgement of a posted write lets the hub's write that waited for it go to storage (R126, R450), and in the
statement that write still waits. -/
theorem not_podEvents : ¬ Obligations.PodEvents := by
  unfold Obligations.PodEvents
  rintro ⟨-, -, -, -, -, -, -, -, -, -, -, -, -, -, hposted, -⟩
  have hpend : releasingState.podPend? 1 = some postedWrite := by decide +kernel
  obtain ⟨hack, -⟩ := hposted 1 releasingState postedWrite hpend rfl rfl
  have hlate := congrArg (fun t : State => t.hub.late.length) (Host.Outcome.next.inj ((execPodWriteAck_own hpend rfl rfl).symm.trans hack))
  exact absurd hlate (by decide +kernel)

end Sys2Proof
end
